-- ==== Sys2Proof/Word.lean ====
section
/-! DEFINITION. The machine words of the package: bytes, half words, words and double words as bit vectors. -/
namespace Sys2Proof

/-- One byte. -/
abbrev Byte := BitVec 8
/-- A 16-bit value. -/
abbrev Half := BitVec 16
/-- A 32-bit value. -/
abbrev Word32 := BitVec 32
/-- A 64-bit value: a scalar register, a register of BAR0, a counter. -/
abbrev Word64 := BitVec 64

end Sys2Proof
end

