-- ==== Sys2Proof/Status.lean ====
section
/-! DEFINITION. The status codes of the package (R585), one constructor each; their values, classes and record
rule stand in Machine/StatusTable.lean. -/
namespace Sys2Proof

/-- A status code of R585. -/
inductive Status where
  | success
  | cumFallback
  | shardNewer
  | cfgPending
  | formatBad
  | numCtrlBad
  | feBlockAxis
  | feNoTile
  | feTileMismatch
  | feExtentBad
  | feAlias
  | beNoTile
  | beTileMismatch
  | beExtentBad
  | beAlias
  | descBad
  | descSpaceBad
  | descPartBad
  | descShapeBad
  | descDestBroadcast
  | indexStrict
  | copyOverlapLarge
  | illegalInsn
  | tpPcRange
  | scalarAddrBad
  | progBad
  | tpTimeout
  | fabVcBad
  | atomicAddrBad
  | evtDenied
  | coreAbsent
  | coreHwFault
  | spadUncorrectable
  | cmemUncorrectable
  | aliasOpBad
  | cmemAbsent
  | memUncorrectable
  | memReserved
  | memAbsent
  | holdOverrun
  | updGroupBad
  | updSlowFail
  | updJournalBad
  | updJournalLost
  | cmdKindBad
  | cmdBad
  | cqTailBad
  | partDenied
  | depFailed
  | cancelled
  | evtTimeout
  | fabTimeout
  | fabAccessDenied
  | fabNoRoute
  | fabPeerWithdrawn
  | fabSizeMismatch
  | fabStall
  | tainted
  | collMemberLost
  | collTimeout
  | collBad
  | collRefUnknown
  | collCrcBad
  | cumUncorrectable
  | shardStale
  | dieLost
  | dieNotReady
  | dlkStreamStarved
  | thermalTrip
  | flowLow
  | flowLost
  | coolSensorFail
  | hostLinkDown
  | hostAccessFail
  | hostIdeFail
  | secImageBad
  | secRollback
  | debugGrantBad
  | cfgBusy
  | cfgTxnBad
  | cfgShadowFull
  | cfgCheckFail
  | cfgQuiesceTimeout
  | cfgAborted
  | cfgPersistFail
  | coreRetired
  | coreLost
  | cmemBankRetired
  | cmemHalf
  | memChannelSpared
  | memRetirePending
  | memChannelDead
  | fabLaneSpared
  | fabPortNarrowed
  | fabPortRetired
  | dlkWireSpared
  | dlkBundleHalf
  | dlkBundleDisabled
  | appCoreFault
  | timeRefLost
  | stackContentsLost
  | dieOut
  | errQueueOverflow
  | stewardPairLost
  | welkinFatal
  | vbusFault
  | welkinRepeat
deriving DecidableEq, Repr, Inhabited

end Sys2Proof
end

