-- ==== Sys2Proof/Types.lean ====
section
/-! DEFINITION. The names and plain records that commands and state share: number formats, rounding modes, values,
the numeric status block. -/
namespace Sys2Proof

/-- The number formats of R37. -/
inductive Fmt where
  | f64 | f32 | g16 | h16 | g8 | k8 | q4 | t2 | m8
deriving DecidableEq, Repr, Inhabited

/-- The rounding modes of R50. -/
inductive RoundMode where
  | nearest | zero | up | down | stochastic
deriving DecidableEq, Repr, Inhabited

/-- The exact value of a datum: NaN, a signed infinity, or (−1)^neg × man × 2^exp. Zeros keep their sign (R41). -/
inductive Val where
  | nan
  | inf (neg : Bool)
  | fin (neg : Bool) (man : Nat) (exp : Int)
deriving DecidableEq, Repr, Inhabited

/-- How a scalar encoding uses its all-ones exponent (R39, R44). -/
inductive TopExp where
  /-- Infinity and NaN, as IEEE 754. -/
  | ieee
  /-- Normal values, but for the all-ones fraction, which is NaN (G8, K8). -/
  | oneNan
  /-- Normal values only (a Q4 element). -/
  | plain
deriving DecidableEq, Repr

/-- The shape of a scalar encoding (R39). -/
structure ScalarFmt where
  ebits : Nat
  fbits : Nat
  bias  : Nat
  top   : TopExp
deriving DecidableEq, Repr

/-- How one value is rounded: the mode, the number of random bits and the random integer drawn for it (R50, R53). -/
structure RoundCtx where
  mode  : RoundMode
  nbits : Nat
  r     : Nat
deriving DecidableEq, Repr

/-- The fields of the numeric control word that act (R51). -/
structure NumCtrl where
  seed : Word32
  mode : RoundMode
  nbits : Nat
deriving DecidableEq, Repr

/-- The numeric status block of R69. -/
structure NumBlock where
  firstElement : Word64   := 0xFFFFFFFFFFFFFFFF
  firstRow     : BitVec 24 := 0xFFFFFF
  firstLane    : Byte     := 0xFF
  firstCore    : BitVec 12 := 0xFFF
  satCount     : Word32   := 0
  satSticky    : Bool := false
  nonfiniteIn  : Bool := false
  infOut       : Bool := false
  nanOut       : Bool := false
  nonfinite    : Bool := false
deriving DecidableEq, Repr, Inhabited

/-- A fabric packet (R363): header fields and payload bytes. LEN and PAD follow from the payload. -/
structure Packet where
  destNode : Half := 0
  srcNode  : Half := 0
  destUnit : BitVec 12 := 0
  srcUnit  : BitVec 12 := 0
  hops     : BitVec 4 := 15
  cls      : BitVec 1 := 0
  vc       : BitVec 3 := 0
  ptype    : Byte := 0
  last     : Bool := false
  cum      : Bool := false
  bcast    : Bool := false
  btree    : BitVec 2 := 0
  tag      : Half := 0
  rxn      : Half := 0
  addr     : Word64 := 0
  aux      : Word64 := 0
  payload  : List Byte := []
deriving DecidableEq, Repr, Inhabited

/-- The AMO functions of the RISC-V A extension that a bank performs (R231, R253). -/
inductive AmoFn where
  | swap | add | xor | and | or | min | max | minu | maxu
deriving DecidableEq, Repr

/-- A steward access to cluster memory (R253): a load or store of 2^n bytes, an AMO of 32 or 64 bits, LR or SC. -/
inductive StewardAcc where
  | load (n : BitVec 2)
  | store (n : BitVec 2) (data : Word64)
  | amo (fn : AmoFn) (wide : Bool) (data : Word64)
  | lr | sc
deriving DecidableEq, Repr

/-- The atomic operations (R210). -/
inductive AtomOp where
  | add | fadd | swap | cas | max | min
deriving DecidableEq, Repr

/-- A request to a stack controller for one 32-byte word (R271): a read, a write under byte enables, or an atomic at a byte
offset with WIDTH and its operands. -/
inductive StackReq where
  | read
  | write (mask : BitVec 32) (data : BitVec 256)
  | atomic (op : AtomOp) (width : BitVec 3) (off : BitVec 5) (b c : Word64)
deriving DecidableEq, Repr

/-- What the code of R262 finds in a word as it is read. -/
inductive Found where
  | good | corrected | uncorrectable
deriving DecidableEq, Repr

/-- One slot of a flit (R358): its map entry and its 16 bytes. -/
structure Slot where
  vc    : BitVec 3
  cls   : BitVec 1
  start : Bool
  data  : BitVec 128
deriving DecidableEq, Repr

/-- A flit (R357): sequence numbers, KIND (0 data, 1 idle), credits returned per VC with their class, up to 15 slots, and
LINK_AUX. -/
structure Flit where
  fseq   : BitVec 12 := 0
  ackSeq : BitVec 12 := 0
  nak    : Bool := false
  kind   : BitVec 3 := 1
  creds  : List (BitVec 7 × BitVec 1) := []
  slots  : List Slot := []
  aux    : Word64 := 0
deriving DecidableEq, Repr, Inhabited

/-- Which of the consumers of R496 a power measurement is about. -/
inductive ConsumerKind where
  | cluster (c : Fin 64)
  | stackGroup (n : Fin 4)
  | serdes | dieLinks | other
deriving DecidableEq, Repr

/-- What the governor measures about one consumer in a heart interval (R480, R496): regulator input in 1/1024 µJ, the
cycles that a cluster ran, each queue's use of the capacity, and the use that is no queue's: transit payload, CXL.mem bytes. -/
structure Consumer where
  kind     : ConsumerKind
  energy   : Nat
  cycles   : Nat
  uses     : List (Fin 4096 × Nat)
  own      : Nat := 0
deriving DecidableEq, Repr

/-- A write of a BAR0 register (R518): all 64 bits, or one 4-byte half. -/
inductive RegData where
  | whole (v : Word64)
  | low (v : Word32)
  | high (v : Word32)
deriving DecidableEq, Repr

/-- A BAR0 access (R518): a read or a write of 4 or 8 bytes, or one of another size or alignment. -/
inductive BarAccess where
  | read8 | read4
  | write8 (v : Word64)
  | write4 (v : Word32)
  | oddRead | oddWrite
deriving DecidableEq, Repr

/-- What the security engine's units find of a signed image (R536, DESIGN CHOICE, log entry 9): whether the two signatures verify over the
image header, the SHA-384 of the payload, of the signature block's RSA modulus and of its SLH-DSA key, and of the two keys in an enrolment's
payload (R539). -/
structure Verdict where
  rsa     : Bool
  slh     : Bool
  payload : BitVec 384 := 0
  signer  : BitVec 384 × BitVec 384 := (0, 0)
  owner   : BitVec 384 × BitVec 384 := (0, 0)
deriving DecidableEq, Repr

/-- The fields of an image header (R535): the SLOT and CLASS of the signer, the length and the digest of the payload, DEVICE_BIND, and whether
the security engine finds it to match the device. -/
structure ImgHdr where
  kind     : BitVec 8
  fmt      : BitVec 8 := 1
  svn      : BitVec 8
  svnFloor : BitVec 8
  slot     : BitVec 2
  cls      : BitVec 2
  len      : Word32 := 0
  digest   : BitVec 384 := 0
  bind     : BitVec 384 := 0
  bindOk   : Bool := false
  nonce    : BitVec 128 := 0
  scopes   : BitVec 4 := 0
  reservedZero : Bool := true
deriving DecidableEq, Repr, Inhabited

/-- An entry of a write list (R552): BAR0 offset, mask and value. -/
structure CfgEntry where
  off   : Nat
  mask  : Word64
  value : Word64
deriving DecidableEq, Repr, Inhabited

/-- A requester's step in DSP0274 that the responder answers (R546): the request's session, none outside of one. -/
abbrev Session := Option (BitVec 2)

/-- What a tile sequencer or an application core is halted, stepped or resumed for (R549, R601). -/
inductive DebugTarget where
  | sequencer (core : Fin 4096)
  | steward (cluster : Fin 64)
  | service (core : Fin 4)
deriving DecidableEq, Repr

/-- An action of R342 that a command of its own does not carry: a COMMIT's instant, a ramp window's START, the quarter hour of
the field record. -/
inductive TimedAct where
  | commit
  | window (w : BitVec 2)
  | fieldRecord
deriving DecidableEq, Repr

/-- One HDM decoder (R504, R506): host base and size, interleave ways and granularity as powers of two, and the device
address that the range starts at. -/
structure Decoder where
  base  : Nat
  size  : Nat
  ways  : BitVec 3
  gran  : BitVec 3
  dev   : Nat
deriving DecidableEq, Repr

/-- What the host programs as it enumerates the function (R503, R504, R520, R526): the HDM decoders, the base of BAR0, and the Enable and
Function Mask bits of the MSI-X capability. -/
structure HostSetup where
  decoders : List Decoder
  bar0     : Word64 := 0
  msixEn   : Bool := true
  msixMask : Bool := false
deriving DecidableEq, Repr

/-- An IDE stream of the host link (R504, R521): that of CXL.io, or that of CXL.cachemem in skid or containment mode. -/
inductive IdeStream where
  | io
  | cachemem (skid : Bool)
deriving DecidableEq, Repr

/-- A wire failure of a bundle that is handled (R456, R457): the next one that a diagnosis found, or the loss of a clock wire. -/
structure BundleEvent where
  bundle : BitVec 2
  clock  : Option (BitVec 1)
deriving DecidableEq, Repr

/-- What training finds bad (R444, R454): the link, its direction, the bundle, and the wire of R442, or none where a lane's beat round trip
exceeds 24 beats. -/
structure BadWire where
  link   : Fin 8
  dir    : Bool
  bundle : BitVec 2
  wire   : Option (Fin 282)
deriving DecidableEq, Repr

/-- What training finds of the receive lanes of a port (R354): those that fail, those of inverted polarity, and whether their order is
reversed. -/
structure RxFound where
  bad : BitVec 10
  inv : BitVec 10 := 0
  rev : Bool := false
deriving DecidableEq, Repr

/-- A join whose inputs are all added, by its place among them, and the words of its slot that were corrected on the way (R401, R405). -/
structure JoinDone where
  n         : Nat
  corrected : BitVec 12 := 0
deriving DecidableEq, Repr

/-- What a patrol finds in a line of an on-chip memory (R245): the words with bad bits, true where they are uncorrectable, and the words of
the memory that have gone bad since, for whoever reads them first. -/
structure PatrolFound where
  bad    : List (BitVec 3 × Bool)
  upsets : List (BitVec 20) := []
deriving DecidableEq, Repr

/-- Who asks for a bank (R232, R234). Of a scratchpad the first eight are the core class, in the order of their grants; of a cluster
memory the cores of the cluster and the steward are. The rest are the DMA class: a request by a number of its own, and the patrol. -/
inductive BankUnit where
  | sequencer | atomicPort | fe | be0 | be1 | vector | loadUnit | fabric
  | core (k : Fin 64) | steward
  | dma (id : Nat) | patrol
deriving DecidableEq, Repr

/-- A request to a bank of an on-chip memory: who asks, for which line of the memory, and whether the line is changed (R237). -/
structure BankReq where
  unit  : BankUnit
  line  : Nat
  write : Bool
deriving DecidableEq, Repr

/-- What makes a host access (R514): a core's load-unit instruction, a command, or the queue engine for a queue. -/
inductive HostUser where
  | load (core : Fin 4096)
  | command (q : Fin 4096) (seq : Word32)
  | engine (q : Fin 4096)
deriving DecidableEq, Repr

end Sys2Proof
end

