-- ==== Sys2Proof/Syntax.lean ====
section
/-! DEFINITION. The commands of the block: one constructor per row of spec/opcode_table.json, with the row's operands.
Tile-instruction rows name the logical core that issues the instruction (package core index of R55) and the fields of
its word (R186 to R214); fields that the spec marks reserved, or that an instruction does not use, are no operands. The other rows
name the unit they act on, and what the outside gives or a physical unit finds (DESIGN CHOICE, log entry 8). -/
namespace Sys2Proof

/-- A command of the block. -/
inductive Instr where
  -- scalar class (R196)
  | nop (core : Fin 4096)
  | add (core : Fin 4096) (sd sa sb : BitVec 5)
  | sub (core : Fin 4096) (sd sa sb : BitVec 5)
  | and (core : Fin 4096) (sd sa sb : BitVec 5)
  | or (core : Fin 4096) (sd sa sb : BitVec 5)
  | xor (core : Fin 4096) (sd sa sb : BitVec 5)
  | shl (core : Fin 4096) (sd sa sb : BitVec 5)
  | shr (core : Fin 4096) (sd sa sb : BitVec 5)
  | sra (core : Fin 4096) (sd sa sb : BitVec 5)
  | mul (core : Fin 4096) (sd sa sb : BitVec 5)
  | min (core : Fin 4096) (sd sa sb : BitVec 5)
  | max (core : Fin 4096) (sd sa sb : BitVec 5)
  | addi (core : Fin 4096) (sd sa : BitVec 5) (imm : BitVec 40)
  | andi (core : Fin 4096) (sd sa : BitVec 5) (imm : BitVec 40)
  | li (core : Fin 4096) (sd : BitVec 5) (imm : BitVec 40)
  | lui (core : Fin 4096) (sd sa : BitVec 5) (imm : BitVec 24)
  | lds (core : Fin 4096) (sd sa : BitVec 5) (imm : BitVec 40)
  | sts (core : Fin 4096) (sa sb : BitVec 5) (imm : BitVec 40)
  | beq (core : Fin 4096) (sa sb : BitVec 5) (imm : BitVec 40)
  | bne (core : Fin 4096) (sa sb : BitVec 5) (imm : BitVec 40)
  | blt (core : Fin 4096) (sa sb : BitVec 5) (imm : BitVec 40)
  | bge (core : Fin 4096) (sa sb : BitVec 5) (imm : BitVec 40)
  | jmp (core : Fin 4096) (imm : BitVec 40)
  | rdreg (core : Fin 4096) (sd : BitVec 5) (imm : BitVec 40)
  | clrnum (core : Fin 4096)
  | rdtime (core : Fin 4096) (sd : BitVec 5)
  -- descriptor load and store class (R200)
  | dset (core : Fin 4096) (slot sa : BitVec 5) (imm : BitVec 40)
  | dget (core : Fin 4096) (slot sa : BitVec 5) (imm : BitVec 40)
  | dbase (core : Fin 4096) (slot sa : BitVec 5) (plane : BitVec 2)
  | dpart (core : Fin 4096) (slot sa : BitVec 5)
  | dload (core : Fin 4096) (src dst num : BitVec 5)
  | dstore (core : Fin 4096) (src dst num : BitVec 5)
  | dgather (core : Fin 4096) (table dense index : BitVec 5) (indexDim : BitVec 3) (idxMode : BitVec 2) (num : BitVec 5)
  | dscatter (core : Fin 4096) (table dense index : BitVec 5) (indexDim : BitVec 3) (idxMode : BitVec 2) (accum : Bool)
      (num : BitVec 5)
  -- engine-issue class (R201)
  | feWload (core : Fin 4096) (wdesc : BitVec 5) (wFmt aFmt : BitVec 4) (kext : BitVec 9) (ncol : BitVec 6)
  | feStream (core : Fin 4096) (adesc odesc pdesc rowsreg : BitVec 5) (kext : BitVec 9) (ncol : BitVec 6)
      (oFmt : BitVec 4) (acc plane : Bool) (num : BitVec 5)
  | beWload (core : Fin 4096) (wdesc : BitVec 5) (wFmt : BitVec 4) (trn : Bool) (kext ncol : BitVec 6)
  | beDx (core : Fin 4096) (gdesc odesc pdesc rowsreg : BitVec 5) (kext : BitVec 9) (ncol : BitVec 6)
      (oFmt : BitVec 4) (acc plane : Bool) (num : BitVec 5)
  | beDw (core : Fin 4096) (xdesc : BitVec 5) (xFmt : BitVec 4) (gdesc odesc pdesc rowsreg : BitVec 5)
      (xext ncol : BitVec 6) (oFmt : BitVec 4) (acc : Bool) (num : BitVec 5) (dwc : BitVec 4)
  -- vector class (R203, R205)
  | vadd (core : Fin 4096) (d a b c num : BitVec 5) (cfmt : BitVec 4)
  | vsub (core : Fin 4096) (d a b c num : BitVec 5) (cfmt : BitVec 4)
  | vmul (core : Fin 4096) (d a b c num : BitVec 5) (cfmt : BitVec 4)
  | vfma (core : Fin 4096) (d a b c num : BitVec 5) (cfmt : BitVec 4)
  | vmax (core : Fin 4096) (d a b c num : BitVec 5) (cfmt : BitVec 4)
  | vmin (core : Fin 4096) (d a b c num : BitVec 5) (cfmt : BitVec 4)
  | vabs (core : Fin 4096) (d a b c num : BitVec 5) (cfmt : BitVec 4)
  | vneg (core : Fin 4096) (d a b c num : BitVec 5) (cfmt : BitVec 4)
  | vscl (core : Fin 4096) (d a b c num : BitVec 5) (cfmt : BitVec 4)
  | vsel (core : Fin 4096) (d a b c num : BitVec 5) (cfmt : BitVec 4)
  | vcopy (core : Fin 4096) (d a b c num : BitVec 5) (cfmt : BitVec 4)
  | vexp2 (core : Fin 4096) (d a b c num : BitVec 5) (cfmt : BitVec 4)
  | vlog2 (core : Fin 4096) (d a b c num : BitVec 5) (cfmt : BitVec 4)
  | vrcp (core : Fin 4096) (d a b c num : BitVec 5) (cfmt : BitVec 4)
  | vrsqrt (core : Fin 4096) (d a b c num : BitVec 5) (cfmt : BitVec 4)
  | vsqrt (core : Fin 4096) (d a b c num : BitVec 5) (cfmt : BitVec 4)
  | vrsum (core : Fin 4096) (d a b c num : BitVec 5) (cfmt : BitVec 4)
  | vrmax (core : Fin 4096) (d a b c num : BitVec 5) (cfmt : BitVec 4)
  -- fabric class (R208)
  | fsend (core : Fin 4096) (desc epreg auxreg : BitVec 5) (vc : BitVec 3) (tag : BitVec 16) (mode : BitVec 2) (num : BitVec 5)
  | frecv (core : Fin 4096) (desc epreg auxreg : BitVec 5) (vc : BitVec 3) (tag : BitVec 16) (mode : BitVec 2) (num : BitVec 5)
  | fcsend (core : Fin 4096) (desc epreg auxreg : BitVec 5) (vc : BitVec 3) (tag : BitVec 16) (mode : BitVec 2) (num : BitVec 5)
  | fcrecv (core : Fin 4096) (desc epreg auxreg : BitVec 5) (vc : BitVec 3) (tag : BitVec 16) (mode : BitVec 2) (num : BitVec 5)
  | fput (core : Fin 4096) (desc epreg auxreg : BitVec 5) (vc : BitVec 3) (tag : BitVec 16) (mode : BitVec 2) (num : BitVec 5)
  | fget (core : Fin 4096) (desc epreg auxreg : BitVec 5) (vc : BitVec 3) (tag : BitVec 16) (mode : BitVec 2) (num : BitVec 5)
  | facc (core : Fin 4096) (desc epreg auxreg : BitVec 5) (vc : BitVec 3) (tag : BitVec 16) (mode : BitVec 2) (num : BitVec 5)
  | fmsg (core : Fin 4096) (desc epreg auxreg : BitVec 5) (vc : BitVec 3) (tag : BitVec 16) (mode : BitVec 2) (num : BitVec 5)
  -- atomic class (R210)
  | aadd (core : Fin 4096) (sd sa sb sc : BitVec 5) (width : BitVec 3)
  | afadd (core : Fin 4096) (sd sa sb sc : BitVec 5) (width : BitVec 3)
  | aswap (core : Fin 4096) (sd sa sb sc : BitVec 5) (width : BitVec 3)
  | acas (core : Fin 4096) (sd sa sb sc : BitVec 5) (width : BitVec 3)
  | amax (core : Fin 4096) (sd sa sb sc : BitVec 5) (width : BitVec 3)
  | amin (core : Fin 4096) (sd sa sb sc : BitVec 5) (width : BitVec 3)
  -- event and drain classes (R212)
  | ewait (core : Fin 4096) (sa sb : BitVec 5)
  | esignal (core : Fin 4096) (sa sb : BitVec 5) (mask : BitVec 8)
  | lwait (core : Fin 4096) (ctr sb : BitVec 5) (imm : BitVec 32)
  | twait (core : Fin 4096) (sb : BitVec 5)
  | drain (core : Fin 4096) (mask : BitVec 8)
  | endp (core : Fin 4096)
  -- what happens in a core and its cluster by itself (spec/03 to spec/07): releases, retirements, planes, deferral, programs
  | waitRelease (core : Fin 4096)
  | esignalSend (core : Fin 4096)
  | insnRetire (core : Fin 4096) (unit : BitVec 3)
  | feTileReady (core : Fin 4096)
  | feSwap (core : Fin 4096)
  | gridClockStop (core : Fin 4096) (k : BitVec 2)
  | beTileReady (core : Fin 4096)
  | deferralDispatch (core : Fin 4096) (be1Last be0Last : Bool)
  | dwEntryDone (core : Fin 4096) (be1 : Bool)
  | programStart (core : Fin 4096)
  | tpTimeout (core : Fin 4096)
  | programFault (core : Fin 4096)
  | stagingGrant (cluster : BitVec 6)
  -- the work of queue commands (spec/05, 06, 09, 10, 12, 15, 17), by queue and sequence number
  | copy (q : Fin 4096) (seq : Word32)
  | gather (q : Fin 4096) (seq : Word32)
  | scatter (q : Fin 4096) (seq : Word32)
  | tileProgram (q : Fin 4096) (seq : Word32)
  | collective (q : Fin 4096) (seq : Word32)
  | update (q : Fin 4096) (seq : Word32)
  | fence (q : Fin 4096) (seq : Word32)
  | waitEvent (q : Fin 4096) (seq : Word32)
  | evtTimeout (q : Fin 4096) (seq : Word32)
  | signalEvent (q : Fin 4096) (seq : Word32)
  | timeWait (q : Fin 4096) (seq : Word32)
  | cfgTxnBegin (q : Fin 4096) (seq : Word32)
  | cfgTxnWrite (q : Fin 4096) (seq : Word32)
  | cfgTxnCommit (q : Fin 4096) (seq : Word32)
  | cfgTxnAbort (q : Fin 4096) (seq : Word32)
  | cfgCommitApply
  | cfgQuiesceTimeout
  | cfgIdleAbort
  | cfgPersist (ok : Bool)
  | energyMark (q : Fin 4096) (seq : Word32)
  -- queue engine and events (spec/10)
  | tailWake (q : Fin 4096)
  | tailPoll (q : Fin 4096)
  | commandFetch (q : Fin 4096)
  | commandCheck (q : Fin 4096)
  | commandStart (q : Fin 4096)
  | commandFinish (q : Fin 4096) (seq : Word32)
  | resume (q : Fin 4096)
  | cancel (q : Fin 4096)
  | queueEnable (q : Fin 4096)
  | queueDisable (q : Fin 4096)
  | eventAdvance (ctr : Half) (adds raises : List Word64)
  | evtFaultClear (ctr : Half)
  -- cluster time (spec/10)
  | timeppsEdge (refGood : Bool)
  | timeMessageSend
  | timeSet (v : Word64)
  | timeRefLost (pps : Bool)
  | timeRefReturn
  | holdoverExpiry
  | timedActionFire (act : TimedAct)
  -- fabric ports (spec/11)
  | portEnable (port : Fin 24) (on : Bool)
  | retrain (port : Fin 24)
  | trainingDone (port : Fin 24) (rx : RxFound) (txBad : BitVec 10) (peer : Half) (peerPort : BitVec 5) (alloc : List Half)
  | trainingRestart (port : Fin 24)
  | laneFail (port : Fin 24) (lane : BitVec 4) (lock : Bool)
  | laneSwap (port : Fin 24) (lane : BitVec 4)
  | flitReceive (port : Fin 24) (lanes : List (BitVec 4)) (data : List (List Byte)) (first again : List (BitVec 4 × BitVec 10))
  | flitReplay (port : Fin 24)
  | recoveryTimeout (port : Fin 24)
  -- packets at the switch and at their units (spec/11), by position
  | readReq (n : Nat)
  | readResp (n : Nat)
  | write (n : Nat)
  | accWrite (n : Nat)
  | resp (n : Nat)
  | cts (n : Nat)
  | sendData (n : Nat)
  | chunkData (n : Nat)
  | withdraw (n : Nat)
  | msg (n : Nat)
  | time (n : Nat)
  | taint (n : Nat)
  | mgmt (n : Nat)
  | packetForward (n : Nat)
  | broadcastForward (n : Nat)
  | fabStall (port : Fin 24)
  | fabTimeout (core : Fin 4096)
  -- collectives (spec/12)
  | joinEmit (done : JoinDone)
  | chunkCheck (join : Bool) (n : Nat)
  | confirmToken (n : Nat)
  | sealToken (n : Nat)
  | tokenResend (q : Fin 4096) (seq : Word32)
  | collTimeout (q : Fin 4096) (seq : Word32)
  | collRefUnknown (q : Fin 4096) (seq : Word32)
  | cumUncorrectable (q : Fin 4096) (seq : Word32) (chunk : Word32) (slot : BitVec 13)
  -- on-chip memory (spec/07)
  | bankGrant (spad : Bool) (unit : BitVec 13) (core dma : List BankReq)
  | eccWriteback (spad : Bool) (unit : BitVec 13) (word : BitVec 20)
  | sramPatrol (spad : Bool) (unit : BitVec 13) (line : BitVec 17) (found : PatrolFound)
  | cmemBankMigrate (cluster : BitVec 6)
  | cmemBankMigrated (cluster : BitVec 6)
  | spadRetireCopy (core : Fin 4224)
  | clusterClear (cluster : BitVec 6)
  | clusterClearDone (cluster : BitVec 6)
  | clear (cluster : BitVec 6)
  | stewardCmemAccess (cluster : BitVec 6) (off : BitVec 25) (a : StewardAcc)
  -- memory stacks (spec/08)
  | stackRequest (word : BitVec 36) (r : StackReq)
  | accumulatingWrite (word : BitVec 36) (f32 : Bool) (mask : BitVec 16) (data : BitVec 256) (mode : RoundMode)
  | mergeWriteback (stack : BitVec 5)
  | flush (stack : BitVec 5)
  | stackPatrol (stack : BitVec 5) (ch : BitVec 5) (upsets : List (BitVec 36 × BitVec 288))
  | channelSpareCopy (stack : BitVec 5)
  | channelSpared (stack : BitVec 5)
  | channelInterfaceFail (stack : BitVec 5) (chan : BitVec 6)
  | selfRefreshEntry (stack : BitVec 5)
  | parkSlotFill (word : BitVec 36) (mask : BitVec 32) (data : BitVec 256)
  | parkQueueGrant (stack : BitVec 5)
  | holdOverrun (stack : BitVec 5)
  -- update units (spec/09)
  | updBlockDispatch (stack : BitVec 5)
  | updJournalWrite (stack : BitVec 5)
  | updCommit (stack : BitVec 5)
  | updInPlace (stack : BitVec 5)
  | updRetire (stack : BitVec 5)
  | journalRecovery (stack : BitVec 5)
  | journalInit (stack : BitVec 5)
  | slowReplay (stack : BitVec 5)
  | slowFetch (stack : BitVec 5)
  | slowFetchDone (stack : BitVec 5)
  | slowFetchFail (stack : BitVec 5)
  | releaseFailed (stack : BitVec 5)
  -- die links (spec/14)
  | linkBeatReceive (link : Fin 8) (dir : Bool) (bundle : BitVec 2) (lane : BitVec 3) (word : Option (BitVec 4 × BitVec 512)) (flips : BitVec 528)
  | linkReplay (link : Fin 8) (dir : Bool) (bundle : BitVec 2) (lane : BitVec 3) (flips : List (BitVec 528))
  | laneDiagnosis (link : Fin 8) (dir : Bool) (bundle : BitVec 2) (lane : BitVec 3) (wires : List (Fin 282))
  | wireRemap (link : Fin 8) (dir : Bool) (bundle : BundleEvent)
  | spareWireFail (link : Fin 8) (dir : Bool) (bundle : BitVec 2) (spare : BitVec 4)
  -- dies (spec/14)
  | dieFence (die : Fin 4) (cause : BitVec 3) (kept : Bool)
  | dieReset (die : Fin 4)
  | dieReturn (die : Fin 4) (wires : List BadWire) (cores : List (Fin 4224))
  -- governor and facility loop (spec/15)
  | droopDetect (cluster : Fin 64) (mv : BitVec 16)
  | stretchRecover (cluster : Fin 64) (cycles : BitVec 32)
  | heartIntervalEnd (xs : List Consumer) (temps : List Half) (welkinTemp : Half)
  | guardRecover (cluster : Fin 64)
  | hardCapFastPath (a b c : BitVec 32)
  | govCapWrite (d : RegData)
  | graceExpiry (cluster : Fin 64)
  | thermalTrip (die : Fin 5) (temp : Half)
  | idleOff (cluster : Fin 64)
  | clusterWake (cluster : Fin 64)
  | stepHoldExpiry
  | rampWindowEnd (w : BitVec 2)
  | valveUpdate (tIn tOut : Option Half)
  | flowComputation (pulses : BitVec 32)
  | coolSensorFail (outlet : Bool)
  -- host link and BAR0 (spec/16)
  | cxlMemRead (hpa : Word64) (cacheable : Bool)
  | cxlMemWrite (hpa : Word64) (mask : BitVec 64) (data : BitVec 512)
  | bisnp (line : BitVec 35) (dirty : Option (BitVec 512))
  | sfEviction (k : Half) (dirty : Option (BitVec 512))
  | hostAccessTimeout (who : HostUser)
  | bar0Access (host : Bool) (off : BitVec 28) (a : BarAccess)
  | rcRead (off : BitVec 28)
  | ideFailure (mem : Bool)
  | hostLinkDown
  | flr
  | hostLinkUp (cxl : Bool) (speed : BitVec 3) (width : BitVec 2) (cacheEn : Bool) (setup : HostSetup)
  | msixUnmask (v : BitVec 11)
  -- boot, flash and security (spec/17)
  | boot (vs : List Verdict) (wires : List BadWire) (cores : List (Fin 4224)) (chans : List
      (Fin 1056))
  | flashPairWrite (ok : Bool)
  | go (v : Verdict) (bindOk : Bool)
  | getVersion
  | getCapabilities
  | negotiateAlgorithms
  | getDigests (x : Session)
  | getCertificate (x : Session) (slot : BitVec 4)
  | challenge (x : Session) (slot : BitVec 4)
  | getMeasurements (x : Session) (index : Byte) (sign : Bool)
  | keyExchange
  | finish (k : BitVec 2)
  | endSession (k : BitVec 2)
  | companionSignature (x : Session)
  | fieldRecordRead (x : Session) (source : Byte) (off len : Word32)
  | ideKeyProgram (x : Session) (stream : IdeStream)
  | present (v : Verdict) (bindOk : Bool) (jtag : Option ImgHdr)
  -- direct writes (spec/17)
  | directWrite (off : BitVec 28) (mask value : Word64)
  | pendingApply (off : BitVec 28)
  -- errors and failover (spec/18)
  | errRecordFree (queue : Fin 5)
  | welkinFatal (hw ok : Bool)
  | packageFatal
  | coreHwFault (core : Fin 4224)
  | coreRetired (core : Fin 4224)
  | appCoreFault (core : Fin 68) (watchdog : Bool)
  | appCoreResume (core : Fin 68)
  -- field record (spec/19)
  | fieldWriteStart
  | fieldWriteEnd (ok : Bool)
  | writeNow
  | histogramTick (temps : List Half) (snr : List Half)
  -- registers, steward accesses, pins (spec/20 to spec/22)
  | welkinReset (d : RegData)
  | cfgPeekData
  | stewardPartnerAccess (cluster : BitVec 6) (off : BitVec 25) (a : StewardAcc)
  | pkgResetN (us : BitVec 32) (rises : Bool)
  | perstN
  | vbusFault (mv : BitVec 16)
  | sysclkLoss (welkin : Bool)
  | debugHalt (target : DebugTarget) (step : Bool)
  | debugResume (target : DebugTarget)
  | epochStale
  | vbusRise
  | vbusRemoved
deriving DecidableEq, Repr

end Sys2Proof
end

