-- ==== Sys2Proof/Decode.lean ====
section
/-! DEFINITION. The command that a table word spells (no row of the table gives bits), and the 64-bit tile instruction
word of R186: its decoder, total, and the encoder beside it, both from the operand patterns of R196, R200, R201, R203,
R208, R210 and R212. Reserved operand bits are ignored by the decoder and written as zero by the encoder (R187). -/
namespace Sys2Proof

/-- The command a word of the opcode table spells: no row of the table gives bits, so none. -/
def decodeTableWord (_nbits _w : Nat) : Option Instr := none

/-- A field of the instruction word (R12). -/
def fld (w : Word64) (lo n : Nat) : BitVec n := w.extractLsb' lo n

/-- A one-bit field. -/
def bitAt (w : Word64) (i : Nat) : Bool := decide (fld w i 1 = 1)

/-- A bit as a number. -/
def n1 (b : Bool) : Nat := if b then 1 else 0

/-- Fields given as (width, value) from the highest bits down, as one number. -/
def pack : List (Nat × Nat) → Nat → Nat
  | [], acc => acc
  | (n, v) :: t, acc => pack t (acc * 2 ^ n + v % 2 ^ n)

/-- The word of its fields, highest first (R186). -/
def packWord (fs : List (Nat × Nat)) : Word64 := BitVec.ofNat 64 (pack fs 0)

/-- The instruction of a CLASS and an OP with the operands of a word (R186); none where the OP is unassigned in its
class. -/
def decodeOp (core : Fin 4096) (cls op : Nat) (w : Word64) : Option Instr :=
  match cls, op with
  | 0, 0 => some (.nop core)
  | 0, 1 => some (.add core (fld w 50 5) (fld w 45 5) (fld w 40 5))
  | 0, 2 => some (.sub core (fld w 50 5) (fld w 45 5) (fld w 40 5))
  | 0, 3 => some (.and core (fld w 50 5) (fld w 45 5) (fld w 40 5))
  | 0, 4 => some (.or core (fld w 50 5) (fld w 45 5) (fld w 40 5))
  | 0, 5 => some (.xor core (fld w 50 5) (fld w 45 5) (fld w 40 5))
  | 0, 6 => some (.shl core (fld w 50 5) (fld w 45 5) (fld w 40 5))
  | 0, 7 => some (.shr core (fld w 50 5) (fld w 45 5) (fld w 40 5))
  | 0, 8 => some (.sra core (fld w 50 5) (fld w 45 5) (fld w 40 5))
  | 0, 9 => some (.mul core (fld w 50 5) (fld w 45 5) (fld w 40 5))
  | 0, 10 => some (.min core (fld w 50 5) (fld w 45 5) (fld w 40 5))
  | 0, 11 => some (.max core (fld w 50 5) (fld w 45 5) (fld w 40 5))
  | 0, 12 => some (.addi core (fld w 50 5) (fld w 45 5) (fld w 0 40))
  | 0, 13 => some (.andi core (fld w 50 5) (fld w 45 5) (fld w 0 40))
  | 0, 14 => some (.li core (fld w 50 5) (fld w 0 40))
  | 0, 15 => some (.lui core (fld w 50 5) (fld w 45 5) (fld w 0 24))
  | 0, 16 => some (.lds core (fld w 50 5) (fld w 45 5) (fld w 0 40))
  | 0, 17 => some (.sts core (fld w 45 5) (fld w 40 5) (fld w 0 40))
  | 0, 18 => some (.beq core (fld w 45 5) (fld w 40 5) (fld w 0 40))
  | 0, 19 => some (.bne core (fld w 45 5) (fld w 40 5) (fld w 0 40))
  | 0, 20 => some (.blt core (fld w 45 5) (fld w 40 5) (fld w 0 40))
  | 0, 21 => some (.bge core (fld w 45 5) (fld w 40 5) (fld w 0 40))
  | 0, 22 => some (.jmp core (fld w 0 40))
  | 0, 23 => some (.rdreg core (fld w 50 5) (fld w 0 40))
  | 0, 24 => some (.clrnum core)
  | 0, 25 => some (.rdtime core (fld w 50 5))
  | 1, 0 => some (.dset core (fld w 50 5) (fld w 45 5) (fld w 0 40))
  | 1, 1 => some (.dget core (fld w 50 5) (fld w 45 5) (fld w 0 40))
  | 1, 2 => some (.dbase core (fld w 50 5) (fld w 45 5) (fld w 43 2))
  | 1, 3 => some (.dpart core (fld w 50 5) (fld w 45 5))
  | 1, 8 => some (.dload core (fld w 50 5) (fld w 45 5) (fld w 29 5))
  | 1, 9 => some (.dstore core (fld w 50 5) (fld w 45 5) (fld w 29 5))
  | 1, 10 => some (.dgather core (fld w 50 5) (fld w 45 5) (fld w 40 5) (fld w 37 3) (fld w 35 2) (fld w 29 5))
  | 1, 11 => some (.dscatter core (fld w 50 5) (fld w 45 5) (fld w 40 5) (fld w 37 3) (fld w 35 2) (bitAt w 34) (fld w 29 5))
  | 2, 0 => some (.feWload core (fld w 50 5) (fld w 46 4) (fld w 42 4) (fld w 33 9) (fld w 27 6))
  | 2, 1 => some (.feStream core (fld w 50 5) (fld w 45 5) (fld w 40 5) (fld w 35 5) (fld w 26 9) (fld w 20 6) (fld w 16 4) (bitAt w 15) (bitAt w 14) (fld w 9 5))
  | 2, 8 => some (.beWload core (fld w 50 5) (fld w 46 4) (bitAt w 45) (fld w 39 6) (fld w 33 6))
  | 2, 9 => some (.beDx core (fld w 50 5) (fld w 45 5) (fld w 40 5) (fld w 35 5) (fld w 26 9) (fld w 20 6) (fld w 16 4) (bitAt w 15) (bitAt w 14) (fld w 9 5))
  | 2, 10 => some (.beDw core (fld w 50 5) (fld w 46 4) (fld w 41 5) (fld w 36 5) (fld w 31 5) (fld w 26 5) (fld w 20 6) (fld w 14 6) (fld w 10 4) (bitAt w 9) (fld w 4 5) (fld w 0 4))
  | 3, 0 => some (.vadd core (fld w 50 5) (fld w 45 5) (fld w 40 5) (fld w 35 5) (fld w 30 5) (fld w 26 4))
  | 3, 1 => some (.vsub core (fld w 50 5) (fld w 45 5) (fld w 40 5) (fld w 35 5) (fld w 30 5) (fld w 26 4))
  | 3, 2 => some (.vmul core (fld w 50 5) (fld w 45 5) (fld w 40 5) (fld w 35 5) (fld w 30 5) (fld w 26 4))
  | 3, 3 => some (.vfma core (fld w 50 5) (fld w 45 5) (fld w 40 5) (fld w 35 5) (fld w 30 5) (fld w 26 4))
  | 3, 4 => some (.vmax core (fld w 50 5) (fld w 45 5) (fld w 40 5) (fld w 35 5) (fld w 30 5) (fld w 26 4))
  | 3, 5 => some (.vmin core (fld w 50 5) (fld w 45 5) (fld w 40 5) (fld w 35 5) (fld w 30 5) (fld w 26 4))
  | 3, 6 => some (.vabs core (fld w 50 5) (fld w 45 5) (fld w 40 5) (fld w 35 5) (fld w 30 5) (fld w 26 4))
  | 3, 7 => some (.vneg core (fld w 50 5) (fld w 45 5) (fld w 40 5) (fld w 35 5) (fld w 30 5) (fld w 26 4))
  | 3, 8 => some (.vscl core (fld w 50 5) (fld w 45 5) (fld w 40 5) (fld w 35 5) (fld w 30 5) (fld w 26 4))
  | 3, 9 => some (.vsel core (fld w 50 5) (fld w 45 5) (fld w 40 5) (fld w 35 5) (fld w 30 5) (fld w 26 4))
  | 3, 10 => some (.vcopy core (fld w 50 5) (fld w 45 5) (fld w 40 5) (fld w 35 5) (fld w 30 5) (fld w 26 4))
  | 3, 16 => some (.vexp2 core (fld w 50 5) (fld w 45 5) (fld w 40 5) (fld w 35 5) (fld w 30 5) (fld w 26 4))
  | 3, 17 => some (.vlog2 core (fld w 50 5) (fld w 45 5) (fld w 40 5) (fld w 35 5) (fld w 30 5) (fld w 26 4))
  | 3, 18 => some (.vrcp core (fld w 50 5) (fld w 45 5) (fld w 40 5) (fld w 35 5) (fld w 30 5) (fld w 26 4))
  | 3, 19 => some (.vrsqrt core (fld w 50 5) (fld w 45 5) (fld w 40 5) (fld w 35 5) (fld w 30 5) (fld w 26 4))
  | 3, 20 => some (.vsqrt core (fld w 50 5) (fld w 45 5) (fld w 40 5) (fld w 35 5) (fld w 30 5) (fld w 26 4))
  | 3, 24 => some (.vrsum core (fld w 50 5) (fld w 45 5) (fld w 40 5) (fld w 35 5) (fld w 30 5) (fld w 26 4))
  | 3, 25 => some (.vrmax core (fld w 50 5) (fld w 45 5) (fld w 40 5) (fld w 35 5) (fld w 30 5) (fld w 26 4))
  | 4, 0 => some (.fsend core (fld w 50 5) (fld w 45 5) (fld w 40 5) (fld w 37 3) (fld w 21 16) (fld w 19 2) (fld w 14 5))
  | 4, 1 => some (.frecv core (fld w 50 5) (fld w 45 5) (fld w 40 5) (fld w 37 3) (fld w 21 16) (fld w 19 2) (fld w 14 5))
  | 4, 2 => some (.fcsend core (fld w 50 5) (fld w 45 5) (fld w 40 5) (fld w 37 3) (fld w 21 16) (fld w 19 2) (fld w 14 5))
  | 4, 3 => some (.fcrecv core (fld w 50 5) (fld w 45 5) (fld w 40 5) (fld w 37 3) (fld w 21 16) (fld w 19 2) (fld w 14 5))
  | 4, 4 => some (.fput core (fld w 50 5) (fld w 45 5) (fld w 40 5) (fld w 37 3) (fld w 21 16) (fld w 19 2) (fld w 14 5))
  | 4, 5 => some (.fget core (fld w 50 5) (fld w 45 5) (fld w 40 5) (fld w 37 3) (fld w 21 16) (fld w 19 2) (fld w 14 5))
  | 4, 6 => some (.facc core (fld w 50 5) (fld w 45 5) (fld w 40 5) (fld w 37 3) (fld w 21 16) (fld w 19 2) (fld w 14 5))
  | 4, 7 => some (.fmsg core (fld w 50 5) (fld w 45 5) (fld w 40 5) (fld w 37 3) (fld w 21 16) (fld w 19 2) (fld w 14 5))
  | 5, 0 => some (.aadd core (fld w 50 5) (fld w 45 5) (fld w 40 5) (fld w 35 5) (fld w 32 3))
  | 5, 1 => some (.afadd core (fld w 50 5) (fld w 45 5) (fld w 40 5) (fld w 35 5) (fld w 32 3))
  | 5, 2 => some (.aswap core (fld w 50 5) (fld w 45 5) (fld w 40 5) (fld w 35 5) (fld w 32 3))
  | 5, 3 => some (.acas core (fld w 50 5) (fld w 45 5) (fld w 40 5) (fld w 35 5) (fld w 32 3))
  | 5, 4 => some (.amax core (fld w 50 5) (fld w 45 5) (fld w 40 5) (fld w 35 5) (fld w 32 3))
  | 5, 5 => some (.amin core (fld w 50 5) (fld w 45 5) (fld w 40 5) (fld w 35 5) (fld w 32 3))
  | 6, 0 => some (.ewait core (fld w 50 5) (fld w 45 5))
  | 6, 1 => some (.esignal core (fld w 50 5) (fld w 45 5) (fld w 37 8))
  | 6, 2 => some (.lwait core (fld w 50 5) (fld w 45 5) (fld w 0 32))
  | 6, 3 => some (.twait core (fld w 45 5))
  | 7, 0 => some (.drain core (fld w 37 8))
  | 7, 1 => some (.endp core)
  | _, _ => none

/-- The instruction that a code word holds for a core (R186); none fails with ILLEGAL_INSN (R187). -/
def decodeInsn (core : Fin 4096) (w : Word64) : Option Instr :=
  decodeOp core (fld w 61 3).toNat (fld w 55 6).toNat w

/-- The word of a tile instruction (R186), reserved bits zero; none for every other command. -/
def encodeInsn : Instr → Option Word64
  | .nop _ => some (packWord [(3, 0), (6, 0), (55, 0)])
  | .add _ sd sa sb => some (packWord [(3, 0), (6, 1), (5, sd.toNat), (5, sa.toNat), (5, sb.toNat), (40, 0)])
  | .sub _ sd sa sb => some (packWord [(3, 0), (6, 2), (5, sd.toNat), (5, sa.toNat), (5, sb.toNat), (40, 0)])
  | .and _ sd sa sb => some (packWord [(3, 0), (6, 3), (5, sd.toNat), (5, sa.toNat), (5, sb.toNat), (40, 0)])
  | .or _ sd sa sb => some (packWord [(3, 0), (6, 4), (5, sd.toNat), (5, sa.toNat), (5, sb.toNat), (40, 0)])
  | .xor _ sd sa sb => some (packWord [(3, 0), (6, 5), (5, sd.toNat), (5, sa.toNat), (5, sb.toNat), (40, 0)])
  | .shl _ sd sa sb => some (packWord [(3, 0), (6, 6), (5, sd.toNat), (5, sa.toNat), (5, sb.toNat), (40, 0)])
  | .shr _ sd sa sb => some (packWord [(3, 0), (6, 7), (5, sd.toNat), (5, sa.toNat), (5, sb.toNat), (40, 0)])
  | .sra _ sd sa sb => some (packWord [(3, 0), (6, 8), (5, sd.toNat), (5, sa.toNat), (5, sb.toNat), (40, 0)])
  | .mul _ sd sa sb => some (packWord [(3, 0), (6, 9), (5, sd.toNat), (5, sa.toNat), (5, sb.toNat), (40, 0)])
  | .min _ sd sa sb => some (packWord [(3, 0), (6, 10), (5, sd.toNat), (5, sa.toNat), (5, sb.toNat), (40, 0)])
  | .max _ sd sa sb => some (packWord [(3, 0), (6, 11), (5, sd.toNat), (5, sa.toNat), (5, sb.toNat), (40, 0)])
  | .addi _ sd sa imm => some (packWord [(3, 0), (6, 12), (5, sd.toNat), (5, sa.toNat), (5, 0), (40, imm.toNat)])
  | .andi _ sd sa imm => some (packWord [(3, 0), (6, 13), (5, sd.toNat), (5, sa.toNat), (5, 0), (40, imm.toNat)])
  | .li _ sd imm => some (packWord [(3, 0), (6, 14), (5, sd.toNat), (10, 0), (40, imm.toNat)])
  | .lui _ sd sa imm => some (packWord [(3, 0), (6, 15), (5, sd.toNat), (5, sa.toNat), (21, 0), (24, imm.toNat)])
  | .lds _ sd sa imm => some (packWord [(3, 0), (6, 16), (5, sd.toNat), (5, sa.toNat), (5, 0), (40, imm.toNat)])
  | .sts _ sa sb imm => some (packWord [(3, 0), (6, 17), (5, 0), (5, sa.toNat), (5, sb.toNat), (40, imm.toNat)])
  | .beq _ sa sb imm => some (packWord [(3, 0), (6, 18), (5, 0), (5, sa.toNat), (5, sb.toNat), (40, imm.toNat)])
  | .bne _ sa sb imm => some (packWord [(3, 0), (6, 19), (5, 0), (5, sa.toNat), (5, sb.toNat), (40, imm.toNat)])
  | .blt _ sa sb imm => some (packWord [(3, 0), (6, 20), (5, 0), (5, sa.toNat), (5, sb.toNat), (40, imm.toNat)])
  | .bge _ sa sb imm => some (packWord [(3, 0), (6, 21), (5, 0), (5, sa.toNat), (5, sb.toNat), (40, imm.toNat)])
  | .jmp _ imm => some (packWord [(3, 0), (6, 22), (15, 0), (40, imm.toNat)])
  | .rdreg _ sd imm => some (packWord [(3, 0), (6, 23), (5, sd.toNat), (10, 0), (40, imm.toNat)])
  | .clrnum _ => some (packWord [(3, 0), (6, 24), (55, 0)])
  | .rdtime _ sd => some (packWord [(3, 0), (6, 25), (5, sd.toNat), (50, 0)])
  | .dset _ slot sa imm => some (packWord [(3, 1), (6, 0), (5, slot.toNat), (5, sa.toNat), (5, 0), (40, imm.toNat)])
  | .dget _ slot sa imm => some (packWord [(3, 1), (6, 1), (5, slot.toNat), (5, sa.toNat), (5, 0), (40, imm.toNat)])
  | .dbase _ slot sa plane => some (packWord [(3, 1), (6, 2), (5, slot.toNat), (5, sa.toNat), (2, plane.toNat), (43, 0)])
  | .dpart _ slot sa => some (packWord [(3, 1), (6, 3), (5, slot.toNat), (5, sa.toNat), (45, 0)])
  | .dload _ src dst num => some (packWord [(3, 1), (6, 8), (5, src.toNat), (5, dst.toNat), (11, 0), (5, num.toNat), (29, 0)])
  | .dstore _ src dst num => some (packWord [(3, 1), (6, 9), (5, src.toNat), (5, dst.toNat), (11, 0), (5, num.toNat), (29, 0)])
  | .dgather _ table dense index indexDim idxMode num => some (packWord [(3, 1), (6, 10), (5, table.toNat), (5, dense.toNat), (5, index.toNat), (3, indexDim.toNat), (2, idxMode.toNat), (1, 0), (5, num.toNat), (29, 0)])
  | .dscatter _ table dense index indexDim idxMode accum num => some (packWord [(3, 1), (6, 11), (5, table.toNat), (5, dense.toNat), (5, index.toNat), (3, indexDim.toNat), (2, idxMode.toNat), (1, n1 accum), (5, num.toNat), (29, 0)])
  | .feWload _ wdesc wFmt aFmt kext ncol => some (packWord [(3, 2), (6, 0), (5, wdesc.toNat), (4, wFmt.toNat), (4, aFmt.toNat), (9, kext.toNat), (6, ncol.toNat), (27, 0)])
  | .feStream _ adesc odesc pdesc rowsreg kext ncol oFmt acc plane num => some (packWord [(3, 2), (6, 1), (5, adesc.toNat), (5, odesc.toNat), (5, pdesc.toNat), (5, rowsreg.toNat), (9, kext.toNat), (6, ncol.toNat), (4, oFmt.toNat), (1, n1 acc), (1, n1 plane), (5, num.toNat), (9, 0)])
  | .beWload _ wdesc wFmt trn kext ncol => some (packWord [(3, 2), (6, 8), (5, wdesc.toNat), (4, wFmt.toNat), (1, n1 trn), (6, kext.toNat), (6, ncol.toNat), (33, 0)])
  | .beDx _ gdesc odesc pdesc rowsreg kext ncol oFmt acc plane num => some (packWord [(3, 2), (6, 9), (5, gdesc.toNat), (5, odesc.toNat), (5, pdesc.toNat), (5, rowsreg.toNat), (9, kext.toNat), (6, ncol.toNat), (4, oFmt.toNat), (1, n1 acc), (1, n1 plane), (5, num.toNat), (9, 0)])
  | .beDw _ xdesc xFmt gdesc odesc pdesc rowsreg xext ncol oFmt acc num dwc => some (packWord [(3, 2), (6, 10), (5, xdesc.toNat), (4, xFmt.toNat), (5, gdesc.toNat), (5, odesc.toNat), (5, pdesc.toNat), (5, rowsreg.toNat), (6, xext.toNat), (6, ncol.toNat), (4, oFmt.toNat), (1, n1 acc), (5, num.toNat), (4, dwc.toNat)])
  | .vadd _ d a b c num cfmt => some (packWord [(3, 3), (6, 0), (5, d.toNat), (5, a.toNat), (5, b.toNat), (5, c.toNat), (5, num.toNat), (4, cfmt.toNat), (26, 0)])
  | .vsub _ d a b c num cfmt => some (packWord [(3, 3), (6, 1), (5, d.toNat), (5, a.toNat), (5, b.toNat), (5, c.toNat), (5, num.toNat), (4, cfmt.toNat), (26, 0)])
  | .vmul _ d a b c num cfmt => some (packWord [(3, 3), (6, 2), (5, d.toNat), (5, a.toNat), (5, b.toNat), (5, c.toNat), (5, num.toNat), (4, cfmt.toNat), (26, 0)])
  | .vfma _ d a b c num cfmt => some (packWord [(3, 3), (6, 3), (5, d.toNat), (5, a.toNat), (5, b.toNat), (5, c.toNat), (5, num.toNat), (4, cfmt.toNat), (26, 0)])
  | .vmax _ d a b c num cfmt => some (packWord [(3, 3), (6, 4), (5, d.toNat), (5, a.toNat), (5, b.toNat), (5, c.toNat), (5, num.toNat), (4, cfmt.toNat), (26, 0)])
  | .vmin _ d a b c num cfmt => some (packWord [(3, 3), (6, 5), (5, d.toNat), (5, a.toNat), (5, b.toNat), (5, c.toNat), (5, num.toNat), (4, cfmt.toNat), (26, 0)])
  | .vabs _ d a b c num cfmt => some (packWord [(3, 3), (6, 6), (5, d.toNat), (5, a.toNat), (5, b.toNat), (5, c.toNat), (5, num.toNat), (4, cfmt.toNat), (26, 0)])
  | .vneg _ d a b c num cfmt => some (packWord [(3, 3), (6, 7), (5, d.toNat), (5, a.toNat), (5, b.toNat), (5, c.toNat), (5, num.toNat), (4, cfmt.toNat), (26, 0)])
  | .vscl _ d a b c num cfmt => some (packWord [(3, 3), (6, 8), (5, d.toNat), (5, a.toNat), (5, b.toNat), (5, c.toNat), (5, num.toNat), (4, cfmt.toNat), (26, 0)])
  | .vsel _ d a b c num cfmt => some (packWord [(3, 3), (6, 9), (5, d.toNat), (5, a.toNat), (5, b.toNat), (5, c.toNat), (5, num.toNat), (4, cfmt.toNat), (26, 0)])
  | .vcopy _ d a b c num cfmt => some (packWord [(3, 3), (6, 10), (5, d.toNat), (5, a.toNat), (5, b.toNat), (5, c.toNat), (5, num.toNat), (4, cfmt.toNat), (26, 0)])
  | .vexp2 _ d a b c num cfmt => some (packWord [(3, 3), (6, 16), (5, d.toNat), (5, a.toNat), (5, b.toNat), (5, c.toNat), (5, num.toNat), (4, cfmt.toNat), (26, 0)])
  | .vlog2 _ d a b c num cfmt => some (packWord [(3, 3), (6, 17), (5, d.toNat), (5, a.toNat), (5, b.toNat), (5, c.toNat), (5, num.toNat), (4, cfmt.toNat), (26, 0)])
  | .vrcp _ d a b c num cfmt => some (packWord [(3, 3), (6, 18), (5, d.toNat), (5, a.toNat), (5, b.toNat), (5, c.toNat), (5, num.toNat), (4, cfmt.toNat), (26, 0)])
  | .vrsqrt _ d a b c num cfmt => some (packWord [(3, 3), (6, 19), (5, d.toNat), (5, a.toNat), (5, b.toNat), (5, c.toNat), (5, num.toNat), (4, cfmt.toNat), (26, 0)])
  | .vsqrt _ d a b c num cfmt => some (packWord [(3, 3), (6, 20), (5, d.toNat), (5, a.toNat), (5, b.toNat), (5, c.toNat), (5, num.toNat), (4, cfmt.toNat), (26, 0)])
  | .vrsum _ d a b c num cfmt => some (packWord [(3, 3), (6, 24), (5, d.toNat), (5, a.toNat), (5, b.toNat), (5, c.toNat), (5, num.toNat), (4, cfmt.toNat), (26, 0)])
  | .vrmax _ d a b c num cfmt => some (packWord [(3, 3), (6, 25), (5, d.toNat), (5, a.toNat), (5, b.toNat), (5, c.toNat), (5, num.toNat), (4, cfmt.toNat), (26, 0)])
  | .fsend _ desc epreg auxreg vc tag mode num => some (packWord [(3, 4), (6, 0), (5, desc.toNat), (5, epreg.toNat), (5, auxreg.toNat), (3, vc.toNat), (16, tag.toNat), (2, mode.toNat), (5, num.toNat), (14, 0)])
  | .frecv _ desc epreg auxreg vc tag mode num => some (packWord [(3, 4), (6, 1), (5, desc.toNat), (5, epreg.toNat), (5, auxreg.toNat), (3, vc.toNat), (16, tag.toNat), (2, mode.toNat), (5, num.toNat), (14, 0)])
  | .fcsend _ desc epreg auxreg vc tag mode num => some (packWord [(3, 4), (6, 2), (5, desc.toNat), (5, epreg.toNat), (5, auxreg.toNat), (3, vc.toNat), (16, tag.toNat), (2, mode.toNat), (5, num.toNat), (14, 0)])
  | .fcrecv _ desc epreg auxreg vc tag mode num => some (packWord [(3, 4), (6, 3), (5, desc.toNat), (5, epreg.toNat), (5, auxreg.toNat), (3, vc.toNat), (16, tag.toNat), (2, mode.toNat), (5, num.toNat), (14, 0)])
  | .fput _ desc epreg auxreg vc tag mode num => some (packWord [(3, 4), (6, 4), (5, desc.toNat), (5, epreg.toNat), (5, auxreg.toNat), (3, vc.toNat), (16, tag.toNat), (2, mode.toNat), (5, num.toNat), (14, 0)])
  | .fget _ desc epreg auxreg vc tag mode num => some (packWord [(3, 4), (6, 5), (5, desc.toNat), (5, epreg.toNat), (5, auxreg.toNat), (3, vc.toNat), (16, tag.toNat), (2, mode.toNat), (5, num.toNat), (14, 0)])
  | .facc _ desc epreg auxreg vc tag mode num => some (packWord [(3, 4), (6, 6), (5, desc.toNat), (5, epreg.toNat), (5, auxreg.toNat), (3, vc.toNat), (16, tag.toNat), (2, mode.toNat), (5, num.toNat), (14, 0)])
  | .fmsg _ desc epreg auxreg vc tag mode num => some (packWord [(3, 4), (6, 7), (5, desc.toNat), (5, epreg.toNat), (5, auxreg.toNat), (3, vc.toNat), (16, tag.toNat), (2, mode.toNat), (5, num.toNat), (14, 0)])
  | .aadd _ sd sa sb sc width => some (packWord [(3, 5), (6, 0), (5, sd.toNat), (5, sa.toNat), (5, sb.toNat), (5, sc.toNat), (3, width.toNat), (32, 0)])
  | .afadd _ sd sa sb sc width => some (packWord [(3, 5), (6, 1), (5, sd.toNat), (5, sa.toNat), (5, sb.toNat), (5, sc.toNat), (3, width.toNat), (32, 0)])
  | .aswap _ sd sa sb sc width => some (packWord [(3, 5), (6, 2), (5, sd.toNat), (5, sa.toNat), (5, sb.toNat), (5, sc.toNat), (3, width.toNat), (32, 0)])
  | .acas _ sd sa sb sc width => some (packWord [(3, 5), (6, 3), (5, sd.toNat), (5, sa.toNat), (5, sb.toNat), (5, sc.toNat), (3, width.toNat), (32, 0)])
  | .amax _ sd sa sb sc width => some (packWord [(3, 5), (6, 4), (5, sd.toNat), (5, sa.toNat), (5, sb.toNat), (5, sc.toNat), (3, width.toNat), (32, 0)])
  | .amin _ sd sa sb sc width => some (packWord [(3, 5), (6, 5), (5, sd.toNat), (5, sa.toNat), (5, sb.toNat), (5, sc.toNat), (3, width.toNat), (32, 0)])
  | .ewait _ sa sb => some (packWord [(3, 6), (6, 0), (5, sa.toNat), (5, sb.toNat), (45, 0)])
  | .esignal _ sa sb mask => some (packWord [(3, 6), (6, 1), (5, sa.toNat), (5, sb.toNat), (8, mask.toNat), (37, 0)])
  | .lwait _ ctr sb imm => some (packWord [(3, 6), (6, 2), (5, ctr.toNat), (5, sb.toNat), (13, 0), (32, imm.toNat)])
  | .twait _ sb => some (packWord [(3, 6), (6, 3), (5, 0), (5, sb.toNat), (45, 0)])
  | .drain _ mask => some (packWord [(3, 7), (6, 0), (10, 0), (8, mask.toNat), (37, 0)])
  | .endp _ => some (packWord [(3, 7), (6, 1), (55, 0)])
  | _ => none

/-- The core a tile instruction row names. -/
def insnCore : Instr → Option (Fin 4096)
  | .nop core => some core
  | .add core _ _ _ => some core
  | .sub core _ _ _ => some core
  | .and core _ _ _ => some core
  | .or core _ _ _ => some core
  | .xor core _ _ _ => some core
  | .shl core _ _ _ => some core
  | .shr core _ _ _ => some core
  | .sra core _ _ _ => some core
  | .mul core _ _ _ => some core
  | .min core _ _ _ => some core
  | .max core _ _ _ => some core
  | .addi core _ _ _ => some core
  | .andi core _ _ _ => some core
  | .li core _ _ => some core
  | .lui core _ _ _ => some core
  | .lds core _ _ _ => some core
  | .sts core _ _ _ => some core
  | .beq core _ _ _ => some core
  | .bne core _ _ _ => some core
  | .blt core _ _ _ => some core
  | .bge core _ _ _ => some core
  | .jmp core _ => some core
  | .rdreg core _ _ => some core
  | .clrnum core => some core
  | .rdtime core _ => some core
  | .dset core _ _ _ => some core
  | .dget core _ _ _ => some core
  | .dbase core _ _ _ => some core
  | .dpart core _ _ => some core
  | .dload core _ _ _ => some core
  | .dstore core _ _ _ => some core
  | .dgather core _ _ _ _ _ _ => some core
  | .dscatter core _ _ _ _ _ _ _ => some core
  | .feWload core _ _ _ _ _ => some core
  | .feStream core _ _ _ _ _ _ _ _ _ _ => some core
  | .beWload core _ _ _ _ _ => some core
  | .beDx core _ _ _ _ _ _ _ _ _ _ => some core
  | .beDw core _ _ _ _ _ _ _ _ _ _ _ _ => some core
  | .vadd core _ _ _ _ _ _ => some core
  | .vsub core _ _ _ _ _ _ => some core
  | .vmul core _ _ _ _ _ _ => some core
  | .vfma core _ _ _ _ _ _ => some core
  | .vmax core _ _ _ _ _ _ => some core
  | .vmin core _ _ _ _ _ _ => some core
  | .vabs core _ _ _ _ _ _ => some core
  | .vneg core _ _ _ _ _ _ => some core
  | .vscl core _ _ _ _ _ _ => some core
  | .vsel core _ _ _ _ _ _ => some core
  | .vcopy core _ _ _ _ _ _ => some core
  | .vexp2 core _ _ _ _ _ _ => some core
  | .vlog2 core _ _ _ _ _ _ => some core
  | .vrcp core _ _ _ _ _ _ => some core
  | .vrsqrt core _ _ _ _ _ _ => some core
  | .vsqrt core _ _ _ _ _ _ => some core
  | .vrsum core _ _ _ _ _ _ => some core
  | .vrmax core _ _ _ _ _ _ => some core
  | .fsend core _ _ _ _ _ _ _ => some core
  | .frecv core _ _ _ _ _ _ _ => some core
  | .fcsend core _ _ _ _ _ _ _ => some core
  | .fcrecv core _ _ _ _ _ _ _ => some core
  | .fput core _ _ _ _ _ _ _ => some core
  | .fget core _ _ _ _ _ _ _ => some core
  | .facc core _ _ _ _ _ _ _ => some core
  | .fmsg core _ _ _ _ _ _ _ => some core
  | .aadd core _ _ _ _ _ => some core
  | .afadd core _ _ _ _ _ => some core
  | .aswap core _ _ _ _ _ => some core
  | .acas core _ _ _ _ _ => some core
  | .amax core _ _ _ _ _ => some core
  | .amin core _ _ _ _ _ => some core
  | .ewait core _ _ => some core
  | .esignal core _ _ _ => some core
  | .lwait core _ _ _ => some core
  | .twait core _ => some core
  | .drain core _ => some core
  | .endp core => some core
  | _ => none

end Sys2Proof
end

