-- ==== Sys2Proof/Machine/Table.lean ====
section
/-! DEFINITION. Sparse tables: plain data for "a value at every index, most of them at rest". A table is a list of
(key, value) pairs with strictly rising keys and no entry equal to what an unlisted key reads as; what an unlisted
key reads as is the argument `d` of every operation. Equal tables are equal lists. -/
namespace Sys2Proof.Machine

/-- A sparse table: (key, value) pairs. -/
abbrev Table (α : Type) := List (Nat × α)

variable {α : Type}

/-- The value at a key; `d` gives what an unlisted key reads as. -/
def tget (d : Nat → α) : Table α → Nat → α
  | [], k => d k
  | (a, v) :: t, k => if k = a then v else tget d t k

/-- The table without the key. -/
def tdrop : Table α → Nat → Table α
  | [], _ => []
  | (a, w) :: t, k => if a = k then tdrop t k else (a, w) :: tdrop t k

/-- The table with (k, v) put before the first larger key. -/
def tinsert : Table α → Nat → α → Table α
  | [], k, v => [(k, v)]
  | (a, w) :: t, k, v => if k < a then (k, v) :: (a, w) :: t else (a, w) :: tinsert t k v

/-- Set the value at a key, keeping the canonical form. -/
def tset [DecidableEq α] (d : Nat → α) (t : Table α) (k : Nat) (v : α) : Table α :=
  if v = d k then tdrop t k else tinsert (tdrop t k) k v

/-- Change the value at a key. -/
def tmod [DecidableEq α] (d : Nat → α) (t : Table α) (k : Nat) (f : α → α) : Table α :=
  tset d t k (f (tget d t k))

/-- The canonical form above a bound: keys at least `lo`, strictly rising, no entry at its unlisted value. -/
def tcanonFrom [DecidableEq α] (d : Nat → α) : Nat → Table α → Bool
  | _, [] => true
  | lo, (a, v) :: t => decide (lo ≤ a) && decide (v ≠ d a) && tcanonFrom d (a + 1) t

/-- The canonical form of a table. -/
def tcanon [DecidableEq α] (d : Nat → α) (t : Table α) : Bool := tcanonFrom d 0 t

/-- Drop every key of the range [lo, lo + n): all of them read as unlisted again. -/
def tclear (t : Table α) (lo n : Nat) : Table α :=
  t.filter fun e => decide (e.1 < lo) || decide (lo + n ≤ e.1)

/-- The entries with keys in [lo, lo + n). -/
def trange (t : Table α) (lo n : Nat) : Table α :=
  t.filter fun e => decide (lo ≤ e.1) && decide (e.1 < lo + n)

end Sys2Proof.Machine
end

