-- ==== Sys2Proof/Machine/Bits.lean ====
section
/-! DEFINITION. Bit fields, byte order (R12: little-endian) and byte lists. -/
namespace Sys2Proof.Machine

/-- The number a list of bytes holds, lowest byte first (R12). -/
def leNat : List Byte → Nat
  | [] => 0
  | b :: t => b.toNat + 256 * leNat t

/-- The n lowest bytes of a number, lowest first (R12). -/
def leBytes : Nat → Nat → List Byte
  | 0, _ => []
  | n + 1, v => BitVec.ofNat 8 (v % 256) :: leBytes n (v / 256)

/-- A field of n bits from bit lo of a number. -/
def nfld (v lo n : Nat) : Nat := v / 2 ^ lo % 2 ^ n

/-- A bit of a number. -/
def nbit (v i : Nat) : Bool := decide (nfld v i 1 = 1)

/-- A bit as 0 or 1. -/
def b01 (b : Bool) : Nat := if b then 1 else 0

/-- The signed value of an n-bit field. -/
def signed (v n : Nat) : Int := if v < 2 ^ (n - 1) then v else (v : Int) - 2 ^ n

/-- A 64-bit word from fields given as (low bit, value). -/
def fields : List (Nat × Nat) → Nat
  | [] => 0
  | (lo, v) :: t => v * 2 ^ lo + fields t

/-- Memory reads 0 at an address that is not listed: scratchpads, cluster memories and code buffers by R250, device and
host memory by log entry 4 (DESIGN CHOICE). -/
def memZero (_ : Nat) : Byte := 0

/-- One byte of a memory. -/
def mget (m : List Host.Cell) (a : Nat) : Byte := tget memZero m a

/-- Write one byte, keeping the canonical form. -/
def mset (m : List Host.Cell) (a : Nat) (b : Byte) : List Host.Cell := tset memZero m a b

/-- The canonical form of a memory. -/
def memWf (m : List Host.Cell) : Bool := tcanon memZero m

/-- n bytes from an address. -/
def mread (m : List Host.Cell) : Nat → Nat → List Byte
  | _, 0 => []
  | a, n + 1 => mget m a :: mread m (a + 1) n

/-- Write bytes from an address up. -/
def mwrite (m : List Host.Cell) : Nat → List Byte → List Host.Cell
  | _, [] => m
  | a, b :: t => mwrite (mset m a b) (a + 1) t

/-- Add an element to a set kept as a rising list without repeats. -/
def setAdd (k : Nat) : List Nat → List Nat
  | [] => [k]
  | a :: t => if k < a then k :: a :: t else if k = a then a :: t else a :: setAdd k t

/-- Remove an element of a set. -/
def setDel (k : Nat) (l : List Nat) : List Nat := l.filter fun a => decide (a ≠ k)

def setHas (k : Nat) (l : List Nat) : Bool := l.contains k

/-- Numbers lo, lo + 1, … (n of them). -/
def upto (lo : Nat) : Nat → List Nat
  | 0 => []
  | n + 1 => lo :: upto (lo + 1) n

/-- A counter of 32 bits that stops at all ones. -/
def satAdd32 (a : Word32) (n : Nat) : Word32 :=
  if a.toNat + n ≥ 0xFFFFFFFF then 0xFFFFFFFF else a + BitVec.ofNat 32 n

/-- Keep the members of a list whose positions the free number picks: which writes of interrupted work were made is not
reported (R112, R221). -/
def pick {α : Type} (mask : Option Nat) (l : List α) : List α :=
  match mask with
  | none => l
  | some m => (l.mapIdx fun i x => (i, x)).filterMap fun (p : Nat × α) => if m.testBit p.1 then some p.2 else none

/-- f of n, where an evaluation of f meets n as a numeral. -/
def evalNat {α : Type} (n : Nat) (f : Nat → α) : α := match n with | 0 => f 0 | k + 1 => f (k + 1)
@[simp] theorem evalNat_eq {α : Type} (n : Nat) (f : Nat → α) : evalNat n f = f n := by cases n <;> rfl

/-- The low k bits of a reflected CRC with a polynomial go through it. -/
def crcBits (poly : Nat) : Nat → Nat → Nat
  | 0, c => c
  | k + 1, c => evalNat (if c % 2 = 1 then (c / 2) ^^^ poly else c / 2) fun c => crcBits poly k c

/-- A reflected CRC of bytes with a polynomial, from a value. -/
def crcBytes (poly : Nat) : List Byte → Nat → Nat
  | [], c => c
  | b :: t, c => evalNat (crcBits poly 8 (c ^^^ b.toNat)) fun c => crcBytes poly t c

/-- CRC-32C of bytes (R298): the Castagnoli polynomial, reflected; initial value and final xor all ones. -/
def crc32c (bs : List Byte) : Nat := crcBytes 0x82F63B78 bs 0xFFFFFFFF ^^^ 0xFFFFFFFF

/-- Cut a list into chunks of n. -/
def chunks {α : Type} (n : Nat) : Nat → List α → List (List α)
  | 0, _ => []
  | fuel + 1, l => if l.isEmpty then [] else l.take n :: chunks n fuel (l.drop n)

/-- Remove the first element that a test accepts. -/
def dropFirst {α : Type} (t : α → Bool) : List α → List α
  | [] => []
  | a :: l => if t a then l else a :: dropFirst t l

/-- Join (address, byte) pairs of rising addresses into writes of whole runs. -/
def joinRuns : List (Nat × Byte) → List (Nat × List Byte)
  | [] => []
  | (a, b) :: t =>
    match joinRuns t with
    | (a2, bs) :: rest => if a2 = a + 1 then (a, b :: bs) :: rest else (a, [b]) :: (a2, bs) :: rest
    | [] => [(a, [b])]

end Sys2Proof.Machine
end

