-- ==== Sys2Proof/Machine/Formats.lean ====
section
/-! DEFINITION. Number formats, rounding and conversion (spec/02_number_formats.md, R37 to R60). Values are exact;
every rounding forms the exact magnitude first and rounds it once (R50). -/
namespace Sys2Proof.Machine

/-! ## Format codes (R37) -/

/-- The format a 4-bit code names; 0x9 to 0xF are reserved (R37). -/
def fmtOfCode (c : BitVec 4) : Option Fmt :=
  match c.toNat with
  | 0 => some .f64 | 1 => some .f32 | 2 => some .g16 | 3 => some .h16 | 4 => some .g8
  | 5 => some .k8 | 6 => some .q4 | 7 => some .t2 | 8 => some .m8 | _ => none

/-- The code of a format (R37). -/
def fmtCode : Fmt → BitVec 4
  | .f64 => 0 | .f32 => 1 | .g16 => 2 | .h16 => 3 | .g8 => 4 | .k8 => 5 | .q4 => 6 | .t2 => 7 | .m8 => 8

/-- Bits of one element in its element plane (R37). -/
def fmtBits : Fmt → Nat
  | .f64 => 64 | .f32 => 32 | .g16 => 16 | .h16 => 16 | .g8 => 8 | .k8 => 8 | .q4 => 4 | .t2 => 2 | .m8 => 8

/-- Elements of one block of a block format (R37); 1 for a scalar format. -/
def fmtBlock : Fmt → Nat
  | .q4 => 32 | .t2 => 64 | .m8 => 256 | _ => 1

/-- Whether the format is a block format with planes of its own (R47). -/
def fmtIsBlock (f : Fmt) : Bool := decide (fmtBlock f ≠ 1)

/-- The scalar encoding of a format (R39); of a block format, the encoding of its element or side value. -/
def scalarFmt : Fmt → ScalarFmt
  | .f64 => ⟨11, 52, 1023, .ieee⟩
  | .f32 => ⟨8, 23, 127, .ieee⟩
  | .g16 => ⟨8, 7, 127, .ieee⟩
  | .h16 => ⟨5, 10, 15, .ieee⟩
  | .g8 => ⟨5, 2, 15, .oneNan⟩
  | .k8 => ⟨4, 3, 7, .oneNan⟩
  | .q4 => ⟨2, 1, 1, .plain⟩
  | .t2 => ⟨5, 2, 15, .oneNan⟩
  | .m8 => ⟨5, 2, 15, .oneNan⟩

/-! ## Exact values -/

/-- The zero of a sign. -/
def vzero (neg : Bool) : Val := .fin neg 0 0

def vIsNan : Val → Bool
  | .nan => true | _ => false

def vIsInf : Val → Bool
  | .inf _ => true | _ => false

def vIsFinite : Val → Bool
  | .fin _ _ _ => true | _ => false

def vIsZero : Val → Bool
  | .fin _ 0 _ => true | _ => false

def vSign : Val → Bool
  | .nan => false | .inf n => n | .fin n _ _ => n

def vnegate : Val → Val
  | .nan => .nan | .inf n => .inf (!n) | .fin n m e => .fin (!n) m e

def vabs : Val → Val
  | .nan => .nan | .inf _ => .inf false | .fin _ m e => .fin false m e

/-- Multiply by a power of two, exactly. -/
def vscale2 (s : Int) : Val → Val
  | .fin n m e => .fin n m (e + s)
  | v => v

/-- m × 2^(e − lo) for lo ≤ e. -/
def alignTo (lo : Int) (m : Nat) (e : Int) : Nat := m * 2 ^ (e - lo).toNat

/-- Compare two magnitudes: m1 × 2^e1 ≤ m2 × 2^e2. -/
def magLe (m1 : Nat) (e1 : Int) (m2 : Nat) (e2 : Int) : Bool :=
  let lo := min e1 e2
  decide (alignTo lo m1 e1 ≤ alignTo lo m2 e2)

/-- The signed sum of two finite values as a signed integer at the lower exponent. -/
def sumAligned (n1 : Bool) (m1 : Nat) (e1 : Int) (n2 : Bool) (m2 : Nat) (e2 : Int) : Int × Int :=
  let lo := min e1 e2
  let a : Int := alignTo lo m1 e1
  let b : Int := alignTo lo m2 e2
  ((if n1 then -a else a) + (if n2 then -b else b), lo)

/-- The exact sum; an exact zero sum of cancelling operands is +0, and −0 when rounding toward −∞ (R41). -/
def vadd (down : Bool) : Val → Val → Val
  | .nan, _ => .nan
  | _, .nan => .nan
  | .inf a, .inf b => if a = b then .inf a else .nan
  | .inf a, .fin _ _ _ => .inf a
  | .fin _ _ _, .inf b => .inf b
  | .fin n1 m1 e1, .fin n2 m2 e2 =>
    let (z, lo) := sumAligned n1 m1 e1 n2 m2 e2
    if z = 0 then
      (if m1 = 0 ∧ m2 = 0 ∧ n1 = n2 then .fin n1 0 0 else .fin down 0 0)
    else .fin (decide (z < 0)) z.natAbs lo

/-- The exact product (R61); 0 × ∞ is NaN, and a zero product has the exclusive-or of the signs (R41). -/
def vmul : Val → Val → Val
  | .nan, _ => .nan
  | _, .nan => .nan
  | .inf a, .inf b => .inf (a ^^ b)
  | .inf a, .fin n m _ => if m = 0 then .nan else .inf (a ^^ n)
  | .fin n m _, .inf b => if m = 0 then .nan else .inf (n ^^ b)
  | .fin n1 m1 e1, .fin n2 m2 e2 => .fin (n1 ^^ n2) (m1 * m2) (e1 + e2)

/-- Strict order of two values that are not NaN, as real numbers with infinities; −0 and +0 are equal. -/
def vlt : Val → Val → Bool
  | .nan, _ => false
  | _, .nan => false
  | .inf a, .inf b => a && !b
  | .inf a, .fin _ _ _ => a
  | .fin _ _ _, .inf b => !b
  | .fin n1 m1 e1, .fin n2 m2 e2 =>
    let lo := min e1 e2
    let a : Int := alignTo lo m1 e1
    let b : Int := alignTo lo m2 e2
    decide ((if n1 then -a else a) < (if n2 then -b else b))

/-- Binary exponent of a non-zero magnitude normalised to [1, 2). -/
def magExp (m : Nat) (e : Int) : Int := (Nat.log2 m : Int) + e

/-! ## Scalar encodings (R39 to R42) -/

/-- Decode a scalar encoding (R39). -/
def decodeScalar (p : ScalarFmt) (w : Nat) : Val :=
  let f := w % 2 ^ p.fbits
  let e := (w / 2 ^ p.fbits) % 2 ^ p.ebits
  let neg := w.testBit (p.fbits + p.ebits)
  let top := 2 ^ p.ebits - 1
  if e = top ∧ p.top = .ieee then (if f = 0 then .inf neg else .nan)
  else if e = top ∧ p.top = .oneNan ∧ f = 2 ^ p.fbits - 1 then .nan
  else if e = 0 then .fin neg f (1 - (p.bias : Int) - p.fbits)
  else .fin neg (2 ^ p.fbits + f) ((e : Int) - p.bias - p.fbits)

/-- The largest finite magnitude of an encoding (R39): significand and exponent. -/
def maxFinite (p : ScalarFmt) : Nat × Int :=
  let top : Int := 2 ^ p.ebits - 1
  match p.top with
  | .ieee => (2 ^ (p.fbits + 1) - 1, top - 1 - p.bias - p.fbits)
  | .oneNan => (2 ^ (p.fbits + 1) - 2, top - p.bias - p.fbits)
  | .plain => (2 ^ (p.fbits + 1) - 1, top - p.bias - p.fbits)

/-- The canonical NaN of an encoding (R42). -/
def canonicalNan (p : ScalarFmt) : Nat :=
  match p.top with
  | .ieee => (2 ^ p.ebits - 1) * 2 ^ p.fbits + 2 ^ (p.fbits - 1)
  | _ => 2 ^ (p.ebits + p.fbits) - 1

/-- Encode a value that the encoding represents exactly (after rounding); NaN gives the canonical NaN. -/
def encodeScalar (p : ScalarFmt) (v : Val) : Nat :=
  let sgn (n : Bool) : Nat := if n then 2 ^ (p.fbits + p.ebits) else 0
  match v with
  | .nan => canonicalNan p
  | .inf n => sgn n + (2 ^ p.ebits - 1) * 2 ^ p.fbits
  | .fin n m e =>
    if m = 0 then sgn n
    else
      let q0 : Int := 1 - p.bias - p.fbits
      let q := max q0 (magExp m e - p.fbits)
      let s := if e ≥ q then m * 2 ^ (e - q).toNat else m / 2 ^ (q - e).toNat
      let ef : Int := if s < 2 ^ p.fbits then 0 else q + p.bias + p.fbits
      sgn n + ef.toNat * 2 ^ p.fbits + s % 2 ^ p.fbits

/-! ## Rounding (R50 to R53) -/

/-- The rounding mode a ROUND field names; 0b101 to 0b111 are reserved (R50, R51). -/
def roundOfCode (c : BitVec 3) : Option RoundMode :=
  match c.toNat with
  | 0 => some .nearest | 1 => some .zero | 2 => some .up | 3 => some .down | 4 => some .stochastic | _ => none

/-- The numeric control word (R51); none when ROUND is reserved, which fails with NUM_CTRL_BAD. -/
def numCtrl (w : Word64) : Option NumCtrl :=
  match roundOfCode (w.extractLsb' 0 3) with
  | none => none
  | some m => some { seed := w.extractLsb' 32 32, mode := m, nbits := (w.extractLsb' 4 4).toNat + 1 }

/-- Whether a magnitude that lies `rem` of 2^d above its lower neighbour `lo` rounds up; `sticky` says that the exact
magnitude is a little above that. -/
def roundsUp (c : RoundCtx) (neg : Bool) (lo rem d : Nat) (sticky : Bool) : Bool :=
  match c.mode with
  | .nearest =>
    decide (2 * rem > 2 ^ d) || (decide (2 * rem = 2 ^ d) && (sticky || decide (lo % 2 = 1)))
  | .zero => false
  | .up => !neg && (decide (rem ≠ 0) || sticky)
  | .down => neg && (decide (rem ≠ 0) || sticky)
  | .stochastic => decide (c.r < rem * 2 ^ c.nbits / 2 ^ d)

/-- Round the magnitude m × 2^e (a little more when `sticky`) to quanta of 2^q. -/
def roundQuantum (c : RoundCtx) (neg : Bool) (m : Nat) (e q : Int) (sticky : Bool) : Nat :=
  -- with a sticky tail, or coarse exponents, first write the magnitude at a finer exponent
  let up := if sticky then (max 0 (e - q)).toNat + 64 else (max 0 (e - q)).toNat
  let m' := m * 2 ^ up
  let d := (q - (e - up)).toNat
  let lo := m' / 2 ^ d
  let rem := m' % 2 ^ d
  if roundsUp c neg lo rem d sticky then lo + 1 else lo

/-- Round a finite magnitude to an encoding with its exponent unbounded above (R58): significand and exponent. -/
def roundMag (p : ScalarFmt) (c : RoundCtx) (neg : Bool) (m : Nat) (e : Int) (sticky : Bool) : Nat × Int :=
  let q0 : Int := 1 - p.bias - p.fbits
  let q := max q0 (magExp m e - p.fbits)
  (roundQuantum c neg m e q sticky, q)

/-- Whether a mode rounds away from zero for the sign, among the directed modes (R58). -/
def awayFromZero (mode : RoundMode) (neg : Bool) : Bool :=
  match mode with
  | .up => !neg
  | .down => neg
  | _ => false

/-- The result of a finite value beyond range (R58). -/
def beyondRange (p : ScalarFmt) (mode : RoundMode) (neg : Bool) : Val :=
  let (m, e) := maxFinite p
  match p.top with
  | .ieee =>
    match mode with
    | .nearest => .inf neg
    | .stochastic => .inf neg
    | _ => if awayFromZero mode neg then .inf neg else .fin neg m e
  | _ => .fin neg m e

/-- Round a value once to a scalar encoding: the rounded value, and whether it was beyond range (R50, R58, R59). -/
def roundVal (p : ScalarFmt) (c : RoundCtx) (v : Val) (sticky : Bool) : Val × Bool :=
  match v with
  | .nan => (.nan, false)
  | .inf n => (if p.top = .ieee then .inf n else .nan, false)
  | .fin n m e =>
    if m = 0 ∧ !sticky then (.fin n 0 0, false)
    else
      let (rm, re) := roundMag p c n m e sticky
      let (mm, me) := maxFinite p
      if magLe rm re mm me then (.fin n rm re, false) else (beyondRange p c.mode n, true)

/-- Round a value and encode it: bits, whether beyond range, and the rounded value. -/
def roundEncode (p : ScalarFmt) (c : RoundCtx) (v : Val) (sticky : Bool) : Nat × Bool :=
  let (r, o) := roundVal p c v sticky
  (encodeScalar p r, o)

/-- The rounding of the engines' accumulators (R52): directed modes as they are, else to nearest. -/
def accMode : RoundMode → RoundMode
  | .nearest => .nearest | .stochastic => .nearest | m => m

def ctxOf (m : RoundMode) : RoundCtx := ⟨m, 1, 0⟩

/-! ## Stochastic generators (R54, R55) -/

/-- One step of the Galois generator (R54): the next state and the output bit. -/
def lfsrStep (s : Word32) : Word32 × Bool :=
  let out := s.getLsbD 0
  let s' := s >>> 1
  (if out then s' ^^^ 0x80200003#32 else s', out)

/-- n steps of the generator, collecting the outputs with the first one highest. -/
def lfsrRun : Nat → Word32 → Nat → Word32 × Nat
  | 0, s, u => (s, u)
  | n + 1, s, u =>
    let (s', o) := lfsrStep s
    lfsrRun n s' (2 * u + (if o then 1 else 0))

/-- One draw of 16 bits (R54): the next state and the draw. -/
def draw16 (s : Word32) : Word32 × Nat := lfsrRun 16 s 0

/-- The generator state a lane starts with (R55), from the seed and the two identifiers in the places of core and
lane. -/
def laneSeed (seed : Word32) (core lane : Nat) : Word32 :=
  let x := seed ^^^ (BitVec.ofNat 32 core <<< 8) ^^^ BitVec.ofNat 32 lane
  let x := x ^^^ (x >>> 16)
  let x := x * 0x7FEB352D#32
  let x := x ^^^ (x >>> 15)
  let x := x * 0x846CA68B#32
  let x := x ^^^ (x >>> 16)
  if x = 0 then 1 else x

/-- The state of a generator after k draws. -/
def drawsSkip : Nat → Word32 → Word32
  | 0, s => s
  | k + 1, s => drawsSkip k (draw16 s).1

/-- The rounding of the k-th value a lane produces (R53, R55, R57); only stochastic rounding uses the draw. -/
def laneCtx (nc : NumCtrl) (core lane k : Nat) : RoundCtx :=
  match nc.mode with
  | .stochastic =>
    ⟨.stochastic, nc.nbits, (draw16 (drawsSkip k (laneSeed nc.seed core lane))).2 / 2 ^ (16 - nc.nbits)⟩
  | m => ⟨m, nc.nbits, 0⟩

/-! ## Block formats (R43 to R49) -/

/-- The value of a scaled element under the scale byte E (R43). -/
def scaled (E : Nat) (v : Val) : Val := if E % 256 = 255 then .nan else vscale2 ((E % 256 : Nat) - 127 : Int) v

/-- A Q4 element code (R44), before its scale. -/
def q4Element (c : Nat) : Val := decodeScalar (scalarFmt .q4) (c % 16)

/-- A T2 element code with the block's side byte (R45), before the scale. -/
def t2Element (c side : Nat) : Val :=
  match c % 4 with
  | 0 => vzero false
  | 1 => .fin false 1 0
  | 3 => .fin true 1 0
  | _ => decodeScalar (scalarFmt .g8) (side % 256)

/-- Smallest s with m × 2^e ≤ V × 2^s (R48), for m ≠ 0. -/
def ceilLog2Ratio (m : Nat) (e : Int) (V : Nat) : Int :=
  let s0 := magExp m e - Nat.log2 V - 1
  if magLe m e V s0 then s0 else if magLe m e V (s0 + 1) then s0 + 1 else s0 + 2

def clampScale (s : Int) : Int := max (-127) (min 127 s)

/-- The larger of two magnitudes. -/
def magMax (a b : Nat × Int) : Nat × Int := if magLe a.1 a.2 b.1 b.2 then b else a

/-- The largest magnitude among the finite values of a list (R48). -/
def maxMagnitude : List Val → Nat × Int
  | [] => (0, 0)
  | .fin _ m e :: t => magMax (m, e) (maxMagnitude t)
  | _ :: t => maxMagnitude t

/-- The scale byte of a Q4 (V = 6) or M8 (V = 98,304) block (R48). -/
def blockScale (V : Nat) (vs : List Val) : Nat :=
  let (m, e) := maxMagnitude vs
  if m = 0 then 0 else (clampScale (ceilLog2Ratio m e V) + 127).toNat

/-- One block as written: scale byte, side byte (T2), element codes, the beyond-range count, and for M8 the decoded
values that BLOCK_MAX looks at. -/
structure BlockOut where
  scale : Nat
  side  : Nat
  codes : List Nat
  ovf  : Nat
deriving DecidableEq, Repr

/-- Elements of a Q4 or M8 block rounded under its scale, each with the rounding of its own draw. -/
def roundElements (p : ScalarFmt) (s : Int) (ctx : Nat → RoundCtx) : Nat → List Val → List Nat × Nat
  | _, [] => ([], 0)
  | k, v :: t =>
    let (code, o) := roundEncode p (ctx k) (vscale2 (-s) v) false
    let (cs, n) := roundElements p s ctx (k + 1) t
    (code :: cs, n + (if o then 1 else 0))

/-- Write a Q4 block (R48, R59): vs the values within the extent, completed with zeros to 32 by the caller. -/
def writeQ4 (ctx : Nat → RoundCtx) (vs : List Val) : BlockOut :=
  if vs.any (fun v => !vIsFinite v) then ⟨255, 0, vs.map (fun _ => 0), 0⟩
  else
    let E := blockScale 6 vs
    let (cs, n) := roundElements (scalarFmt .q4) ((E : Int) - 127) ctx 0 vs
    ⟨E, 0, cs, n⟩

/-- Write an M8 block (R48, R59). -/
def writeM8 (ctx : Nat → RoundCtx) (vs : List Val) : BlockOut :=
  let E := blockScale 98304 vs
  let (cs, n) := roundElements (scalarFmt .m8) ((E : Int) - 127) ctx 0 vs
  ⟨E, 0, cs, n⟩

/-- BLOCK_MAX of an M8 block header (R46): the largest decoded magnitude that is not NaN, to nearest F32. -/
def m8BlockMax (E : Nat) (codes : List Nat) : Nat :=
  let vs := codes.map fun c => scaled E (decodeScalar (scalarFmt .m8) c)
  if vs.all vIsNan then 0x7FC00000
  else
    let (m, e) := maxMagnitude vs
    (roundEncode (scalarFmt .f32) (ctxOf .nearest) (.fin false m e) false).1

/-- The 64-bit M8 block header (R46): BLOCK_MAX, TAG 0x08, SCALE. -/
def m8Header (E : Nat) (codes : List Nat) : Word64 :=
  BitVec.ofNat 64 (m8BlockMax E codes * 2 ^ 32 + 0x08 * 256 + E % 256)

/-- Ternary rounding of R49 and R50: the magnitude 0 or 1. -/
def ternaryMag (c : RoundCtx) (neg : Bool) (m : Nat) (e : Int) : Nat :=
  if magLe 1 0 m e then 1 else roundQuantum c neg m e 0 false

def ternaryCode (c : RoundCtx) : Val → Nat
  | .fin n m e => if ternaryMag c n m e = 0 then 0 else if n then 3 else 1
  | _ => 0

/-- Lowest index of the largest magnitude (R49): (index, magnitude). -/
def argMaxMag : Nat → List Val → Nat × (Nat × Int)
  | _, [] => (0, (0, 0))
  | i, [v] => (i, match v with | .fin _ m e => (m, e) | _ => (0, 0))
  | i, v :: t =>
    let me := match v with | .fin _ m e => (m, e) | _ => ((0 : Nat), (0 : Int))
    let (j, b) := argMaxMag (i + 1) t
    if magLe b.1 b.2 me.1 me.2 then (i, me) else (j, b)

/-- Sum of the magnitudes of a list, at a common exponent. -/
def sumMag : List Val → Nat × Int
  | [] => (0, 0)
  | v :: t =>
    let (m, e) := match v with | .fin _ m e => (m, e) | _ => ((0 : Nat), (0 : Int))
    let (ms, es) := sumMag t
    if ms = 0 then (m, e) else if m = 0 then (ms, es)
    else
      let lo := min e es
      (alignTo lo m e + alignTo lo ms es, lo)

/-- floor(log2(a × 2^e / b)) for a, b ≠ 0. -/
def floorLog2Ratio (a : Nat) (e : Int) (b : Nat) : Int :=
  let k : Int := (Nat.log2 a : Int) - Nat.log2 b
  -- the quotient lies in (2^(k−1), 2^(k+1))
  if magLe b (k + e) a e then k + e else k - 1 + e

/-- Integer nearest log2(a × 2^e / b), ties upward (R49). -/
def nearestLog2 (a : Nat) (e : Int) (b : Nat) : Int :=
  (floorLog2Ratio (a * a) (2 * e) (b * b) + 1) / 2

/-- The draw index of element i of a T2 block whose largest element is j, of n elements within the extent (R57). -/
def t2Draw (i j n : Nat) : Nat := if i = j then n - 1 else if i < j then i else i - 1

/-- Write a T2 block (R49, R57, R59): 64 values, of which the first n lie within the extent. -/
def writeT2 (mode : RoundMode) (ctx : Nat → RoundCtx) (n : Nat) (vs : List Val) : BlockOut :=
  let zeros := vs.map fun _ => 0
  if vs.any (fun v => !vIsFinite v) then ⟨255, 0, zeros, 0⟩
  else
    let (j, mj) := argMaxMag 0 vs
    let (sm, se) := sumMag (vs.eraseIdx j)
    let (m, e, b) := if sm = 0 then (mj.1, mj.2, 1) else (sm, se, 63)
    if m = 0 then ⟨0, 0, zeros, 0⟩
    else
      let s := clampScale (nearestLog2 m e b)
      let q := vs.map (vscale2 (-s))
      let ctxAt (i : Nat) : RoundCtx := if i < n then ctx (t2Draw i j n) else ⟨mode, 1, 0⟩
      let code (i : Nat) (v : Val) : Nat := ternaryCode (ctxAt i) v
      let qj := q.getD j (vzero false)
      let esc := match qj with | .fin _ qm qe => magLe 2 0 qm qe | _ => false
      let (side, o) := if esc then roundEncode (scalarFmt .g8) (ctxAt j) qj false else (0, false)
      let codes := q.mapIdx fun i v => if i = j ∧ esc then 2 else code i v
      ⟨(s + 127).toNat, side, codes, if o then 1 else 0⟩

/-! ## Products and accumulation (R61 to R66) -/

/-- One product of a group: its exact value and its exponent (R63). -/
structure Product where
  val : Val
  exp : Int
deriving DecidableEq, Repr

/-- The product of two operands with its exponent, the sum of the exponents of the operands normalised (R61, R63). -/
def mkProduct (a b : Val) : Product :=
  match a, b with
  | .fin _ m1 e1, .fin _ m2 e2 => ⟨vmul a b, if m1 = 0 ∨ m2 = 0 then 0 else magExp m1 e1 + magExp m2 e2⟩
  | _, _ => ⟨vmul a b, 0⟩

/-- Emax: the largest exponent of the products that are not zero (R63). -/
def groupEmax : List Product → Option Int
  | [] => none
  | p :: t =>
    match p.val with
    | .fin _ m _ =>
      if m = 0 then groupEmax t
      else match groupEmax t with
        | none => some p.exp
        | some x => some (max x p.exp)
    | _ => groupEmax t

/-- The signed count of 2^lsb a product adds, its magnitude truncated first (R64). -/
def adderTerm (lsb : Int) : Val → Int
  | .fin n m e =>
    let k : Nat := if e ≥ lsb then m * 2 ^ (e - lsb).toNat else m / 2 ^ (lsb - e).toNat
    if n then -(k : Int) else k
  | _ => 0

/-- The group sum of R63 to R65 with an adder of F fraction bits; `down` is rounding toward −∞ (R41). -/
def groupSum (F : Nat) (down : Bool) (ps : List Product) : Val :=
  let vals := ps.map Product.val
  let pinf := vals.any fun v => v = .inf false
  let ninf := vals.any fun v => v = .inf true
  if vals.any vIsNan || (pinf && ninf) then .nan
  else if pinf then .inf false
  else if ninf then .inf true
  else match groupEmax ps with
    | none => vzero (vals.all vSign)
    | some emax =>
      let lsb := emax - F
      let z := (vals.map (adderTerm lsb)).foldl (· + ·) 0
      if z = 0 then vzero down else .fin (decide (z < 0)) z.natAbs lsb

/-- Fraction bits F of the accumulation adder for a pair of operand formats (R63). -/
def adderF (a : Fmt) : Nat :=
  match a with
  | .f64 => 160 | .f32 => 72 | _ => 48

/-- The accumulator format for an operand format (R63). -/
def accFmt (a : Fmt) : Fmt := if a = .f64 then .f64 else .f32

/-- Add one group sum to an accumulator, rounding once into the accumulator format (R66): the accumulator and whether
it was beyond range. -/
def accumulate (acc : Fmt) (mode : RoundMode) (v g : Val) : Val × Bool :=
  roundVal (scalarFmt acc) (ctxOf (accMode mode)) (vadd (decide (accMode mode = .down)) v g) false

end Sys2Proof.Machine
end

