-- ==== Sys2Proof/Machine/Flags.lean ====
section
/-! DEFINITION. The numeric flags (R69 to R72): building a numeric status block from outputs, merging blocks, and its
24-byte layout. -/
namespace Sys2Proof.Machine

/-- One output value with its place: cycle of production, lane, global element index and row (R69, R70). -/
structure Output where
  val   : Val
  ovf  : Bool
  cycle : Nat
  lane  : Nat
  elem  : Nat
  row   : Nat
deriving DecidableEq, Repr

/-- Earlier cycle first, then lower lane (R70). -/
def outputBefore (a b : Output) : Bool :=
  decide (a.cycle < b.cycle) || (decide (a.cycle = b.cycle) && decide (a.lane < b.lane))

/-- The first non-finite output of a unit (R70). -/
def firstNonfinite : List Output → Option Output
  | [] => none
  | o :: t =>
    if vIsFinite o.val then firstNonfinite t
    else match firstNonfinite t with
      | none => some o
      | some p => if outputBefore p o then some p else some o

/-- A count added to SAT_COUNT with its sticky flag (R69, R71). -/
def addSat (b : NumBlock) (n : Nat) : NumBlock :=
  { b with satCount := satAdd32 b.satCount n
           satSticky := b.satSticky || decide (b.satCount.toNat + n ≥ 0xFFFFFFFF) }

/-- The status block of one unit's outputs for one instruction or command (R69): `core` is the core index, `satMore`
the beyond-range counts that are no outputs, `nonfiniteIn` whether a source held a non-finite value. -/
def numBlockOf (core : Nat) (outs : List Output) (satMore : Nat) (nonfiniteIn : Bool) : NumBlock :=
  let b : NumBlock :=
    match firstNonfinite outs with
    | none => {}
    | some o => { firstElement := BitVec.ofNat 64 o.elem, firstRow := BitVec.ofNat 24 o.row
                  firstLane := BitVec.ofNat 8 o.lane, firstCore := BitVec.ofNat 12 core, nonfinite := true
                  nanOut := outs.any (fun o => vIsNan o.val), infOut := outs.any (fun o => vIsInf o.val) }
  addSat { b with nonfiniteIn := nonfiniteIn } ((outs.filter Output.ovf).length + satMore)

/-- Merge flags and counts, keeping the position of `a` (R71). -/
def mergeFlags (a b : NumBlock) : NumBlock :=
  let c := addSat a b.satCount.toNat
  { c with satSticky := c.satSticky || b.satSticky, nonfiniteIn := a.nonfiniteIn || b.nonfiniteIn
           infOut := a.infOut || b.infOut, nanOut := a.nanOut || b.nanOut, nonfinite := a.nonfinite || b.nonfinite }

def takePos (a b : NumBlock) : NumBlock :=
  { a with firstElement := b.firstElement, firstRow := b.firstRow, firstLane := b.firstLane, firstCore := b.firstCore }

/-- A later report of the same unit: the earlier position stays (R70). -/
def mergeLater (a b : NumBlock) : NumBlock :=
  if a.nonfinite || !b.nonfinite then mergeFlags a b else takePos (mergeFlags a b) b

/-- Whether a report `b` of an engine gives the position where `a` stands: it holds one, and `a` none or one of a later cycle, or of a
higher lane in the same cycle (R70). -/
def takesPos (ca cb : Nat) (a b : NumBlock) : Bool :=
  b.nonfinite && (!a.nonfinite || decide (cb < ca) || (decide (ca = cb) && decide (b.firstLane.toNat < a.firstLane.toNat)))

/-- Reports of one engine: the earliest cycle gives the position (R70). -/
def mergeEngine (ca cb : Nat) (a b : NumBlock) : NumBlock :=
  if takesPos ca cb a b then takePos (mergeFlags a b) b else mergeFlags a b

/-- The place of a report in the order in which one is kept: FIRST_ELEMENT (R70); where several name one element, the lower core, lane
and row, so that the choice does not depend on the order of arrival (DEDUCED, log entry 35). -/
def posKey (b : NumBlock) : Nat :=
  ((b.firstElement.toNat * 2 ^ 12 + b.firstCore.toNat) * 2 ^ 8 + b.firstLane.toNat) * 2 ^ 24 + b.firstRow.toNat

/-- Reports of several units or cores: the lowest FIRST_ELEMENT gives the position (R70). -/
def mergeUnits (a b : NumBlock) : NumBlock :=
  if !b.nonfinite then mergeFlags a b
  else if a.nonfinite && decide (posKey a ≤ posKey b) then mergeFlags a b
  else takePos (mergeFlags a b) b

/-- The block of a core from those of its units (R70, R72). -/
def mergeTable (t : Table NumBlock) : NumBlock := (t.map (·.2)).foldl mergeUnits {}

/-- The three 64-bit words of the block (R69). -/
def numWords (b : NumBlock) : List Nat :=
  [b.firstElement.toNat,
   fields [(8, b.firstRow.toNat), (0, b.firstLane.toNat), (32, b.satCount.toNat)],
   fields [(16, b.firstCore.toNat), (4, b01 b.satSticky), (3, b01 b.nonfiniteIn), (2, b01 b.infOut),
           (1, b01 b.nanOut), (0, b01 b.nonfinite)]]

/-- The 24 bytes of the block, little-endian (R12, R69). -/
def numBytes (b : NumBlock) : List Byte := (numWords b).flatMap (leBytes 8)

end Sys2Proof.Machine
end

