-- ==== Sys2Proof/Machine/Operands.lean ====
section
/-! DEFINITION. The tensor descriptor and its addressing (spec/05, R153 to R166): fields, element offsets, partitions,
bounding ranges and the checks of a single descriptor in the order of R653. -/
namespace Sys2Proof.Machine

/-- The fields of a tensor descriptor (R153). -/
structure Desc where
  base      : Nat
  scaleBase : Nat
  sideBase  : Nat
  unit      : Nat
  partDim   : Nat
  partMode  : Nat
  levels    : Nat
  ndim      : Nat
  space     : Nat
  fmt       : Nat
  dims      : List Nat
  strides   : List Int
  blocks    : List (List Nat)
  partX     : Nat
  partY     : Nat
deriving DecidableEq, Repr

/-- Read the fields of 128 descriptor bytes, as a number (R153). Dimensions from NDIM to 5 and levels above LEVELS are
ignored. -/
def parseDesc (raw : BitVec 1024) : Desc :=
  let v := raw.toNat
  let ctl := nfld v (8 * 0x18) 64
  let ndim := nfld ctl 13 3
  let levels := nfld ctl 16 3
  { base := nfld v 0 64
    scaleBase := nfld v 64 64
    sideBase := nfld v 128 64
    unit := nfld ctl 52 12
    partDim := nfld ctl 21 3
    partMode := nfld ctl 19 2
    levels := levels
    ndim := ndim
    space := nfld ctl 8 3
    fmt := nfld ctl 0 4
    dims := (upto 0 (min ndim 6)).map fun d => nfld v (8 * (0x20 + 4 * d)) 32
    strides := (upto 0 (min ndim 6)).map fun d => signed (nfld v (8 * (0x38 + 8 * d)) 48) 48
    blocks := (upto 0 (min levels 4)).map fun l => (upto 0 (min ndim 6)).map fun d =>
      nfld v (8 * 0x68 + 4 * (6 * l + d)) 4
    partX := nfld v (8 * 0x74) 32
    partY := nfld v (8 * 0x78) 32 }

def dimOf (d : Desc) (k : Nat) : Nat := d.dims.getD k 0
def strideOf (d : Desc) (k : Nat) : Int := d.strides.getD k 0

/-- The blocking factors of a level that lie at or below a dimension: their product. -/
def multBelow (fs : List Nat) (k : Nat) : Nat := ((fs.take k).map (2 ^ ·)).foldl (· * ·) 1

/-- Elements of one block of a level. -/
def levelSize (fs : List Nat) : Nat := (fs.map (2 ^ ·)).foldl (· * ·) 1

/-- The part of the element offset that an index of dimension k gives below the top level (R156): the loop over the
levels, with the span and the block size reached so far. -/
def lowOffset (k i : Nat) : List (List Nat) → Nat → Nat → Nat
  | [], _, _ => 0
  | fs :: t, span, below =>
    let b := 2 ^ (fs.getD k 0)
    (i / span % b) * multBelow fs k * below + lowOffset k i t (span * b) (below * levelSize fs)

/-- The span of one top-level block in dimension k (R156). -/
def topSpan (d : Desc) (k : Nat) : Nat := (d.blocks.map fun fs => 2 ^ fs.getD k 0).foldl (· * ·) 1

/-- What the index i of dimension k adds to the element offset (R156). -/
def dimOffset (d : Desc) (k i : Nat) : Int :=
  (lowOffset k i d.blocks 1 1 : Int) + ((i / topSpan d k : Nat) : Int) * strideOf d k

/-- The element offset of an index vector (R156); indices count in the whole tensor. -/
def elemOffset (d : Desc) (idx : List Nat) : Int :=
  ((upto 0 d.ndim).map fun k => dimOffset d k (idx.getD k 0)).foldl (· + ·) 0

/-! ## Partitions (R163 to R166) -/

/-- Whether the partition fields are in range (R163, R164); PART_DIM beyond NDIM − 1 is out of range (R153). -/
def partOk (d : Desc) : Bool :=
  match d.partMode with
  | 0 => true
  | 1 => decide (d.partDim < d.ndim) && decide (d.partX ≠ 0) && decide (d.partY < d.partX)
  | 2 => decide (d.partDim < d.ndim) && decide (d.partX + d.partY ≤ dimOf d d.partDim)
  | _ => false

/-- First index and extent of the partition (R163, R164). -/
def partRange (d : Desc) : Nat × Nat :=
  let n := dimOf d d.partDim
  if d.partMode = 1 then
    let q := n / d.partX
    let r := n % d.partX
    (d.partY * q + min d.partY r, if d.partY < r then q + 1 else q)
  else (d.partX, d.partY)

/-- First index and extent of dimension k as the descriptor presents it (R165). -/
def dimRange (d : Desc) (k : Nat) : Nat × Nat :=
  if d.partMode ≠ 0 ∧ d.partDim = k then partRange d else (0, dimOf d k)

/-- The sizes that the descriptor presents (R165). -/
def shape (d : Desc) : List Nat := (upto 0 d.ndim).map fun k => (dimRange d k).2

/-- Size of dimension k of the presented tensor, 1 beyond NDIM. -/
def dimSize (d : Desc) (k : Nat) : Nat := (shape d).getD k 1

/-- The number of elements it presents. -/
def elemCount (d : Desc) : Nat := (shape d).foldl (· * ·) 1

/-- Indices in the whole tensor of an index vector of the partition. -/
def fullIdx (d : Desc) (idx : List Nat) : List Nat :=
  (upto 0 d.ndim).map fun k => idx.getD k 0 + (dimRange d k).1

/-- The element offset of an index vector of the partition (R156, R165). -/
def offsetOf (d : Desc) (idx : List Nat) : Int := elemOffset d (fullIdx d idx)

/-- The index vector of the n-th element in the order in which dimension 0 varies fastest. -/
def idxOfLinear : List Nat → Nat → List Nat
  | [], _ => []
  | s :: t, n => (if s = 0 then 0 else n % s) :: idxOfLinear t (if s = 0 then 0 else n / s)

/-- Index of an element within the whole tensor, dimension 0 fastest (R69). -/
def globalIndex (d : Desc) (idx : List Nat) : Nat :=
  let rec go : List Nat → List Nat → Nat
    | [], _ => 0
    | s :: t, i => i.headD 0 + s * go t i.tail
  go d.dims (fullIdx d idx)

/-! ## Planes and bounding ranges (R156, R158, R180) -/

/-- Least and largest value of a list of integers. -/
def intBounds : List Int → Int × Int
  | [] => (0, 0)
  | [x] => (x, x)
  | x :: t => let (a, b) := intBounds t; (min x a, max x b)

/-- Bounds of the offsets of dimension k over indices lo to lo + n − 1, n ≠ 0: within one top-level block the offset
rises with the index, and over the blocks it is linear, so the ends of the first two and last two blocks bound it. -/
def dimBounds (d : Desc) (k lo n : Nat) : Int × Int :=
  let T := topSpan d k
  let hi := lo + n - 1
  let t0 := lo / T
  let t1 := hi / T
  let ts := [t0, t0 + 1, t1 - 1, t1].filter fun t => decide (t0 ≤ t) && decide (t ≤ t1)
  intBounds (ts.flatMap fun t => [dimOffset d k (max lo (t * T)), dimOffset d k (min hi (t * T + T - 1))])

/-- Bounds of the element offsets of the presented tensor, none when it holds no element. -/
def offBounds (d : Desc) : Option (Int × Int) :=
  if (shape d).any (· = 0) then none
  else
    let bs := (upto 0 d.ndim).map fun k => dimBounds d k (dimRange d k).1 (dimRange d k).2
    some (bs.foldl (fun a b => (a.1 + b.1, a.2 + b.2)) (0, 0))

/-- An address range of one plane: first and last byte. -/
abbrev Span := Int × Int

/-- The bounding byte ranges of the planes a format uses (R158, R180). -/
def spans (d : Desc) (f : Fmt) : List Span :=
  match offBounds d with
  | none => []
  | some (lo, hi) =>
    let bits : Int := fmtBits f
    let B : Int := fmtBlock f
    if fmtIsBlock f then
      let k0 := lo / B
      let k1 := hi / B
      let rec_ := B * bits / 8
      [((d.base : Int) + k0 * rec_, d.base + (k1 + 1) * rec_ - 1)]
      ++ (if f = .m8 then [((d.scaleBase : Int) + 8 * k0, d.scaleBase + 8 * k1 + 7)]
          else [((d.scaleBase : Int) + k0, (d.scaleBase : Int) + k1)])
      ++ (if f = .t2 then [((d.sideBase : Int) + k0, (d.sideBase : Int) + k1)] else [])
    else [((d.base : Int) + lo * bits / 8, (d.base : Int) + (hi + 1) * bits / 8 - 1)]

/-- Size of one window of a windowed space (R238), 0 for others. -/
def windowSize (space : Nat) : Nat := if space = 0 then 0x80000 else if space = 1 then 0x800000 else 0

/-- First address beyond a space (R158, R238, R512). -/
def spaceEnd (space : Nat) : Nat :=
  match space with
  | 0 => 3 * 0x80000 | 1 => 3 * 0x800000 | 2 => 2 ^ 41 | _ => 2 ^ 57

/-- Whether two ranges overlap. -/
def spanMeets (a b : Span) : Bool := decide (a.1 ≤ b.2) && decide (b.1 ≤ a.2)

/-- A range with window offsets mapped to plain offsets (R241). -/
def plainSpan (space : Nat) (a : Span) : Span :=
  let w : Int := windowSize space
  if w = 0 then a else (a.1 % w, a.1 % w + (a.2 - a.1))

/-! ## Checks of one descriptor (R653) -/

/-- How an operand is used: what it may be (R155, R171, R177, R200). -/
structure Use where
  engine : Bool := false     -- engine or vector operand: own scratchpad, plain window (R155, R240)
  own    : Bool := false     -- must lie in the issuing core's own scratchpad (R200, R208)
  coll   : Bool := false     -- operand of a collective: cluster or device memory (R391)
  source : Bool := false     -- source of an engine instruction: R165 exempt
  plain  : Bool := false     -- a destination that R240 does not let lie in a bit-set or bit-clear window
  formats : List Fmt := [.f64, .f32, .g16, .h16, .g8, .k8, .q4, .t2, .m8]
deriving DecidableEq, Repr

/-- Whether the blocks of a block format run along dimension 0 (R159). -/
def blocksOk (d : Desc) (B : Nat) : Bool :=
  if d.levels = 0 then
    decide (strideOf d 0 = 1) && (d.strides.tail.all fun s => decide (s % (B : Int) = 0))
  else decide (B ≤ 2 ^ (d.blocks.headD []).headD 0)

/-- The structural checks of R158: true when the descriptor passes them. Two points that R158 leaves open are settled here
(DESIGN CHOICE, log entry 39): with partition fields out of range, whose check comes later (R653), the bounding range is that of the
whole tensor; with a reserved FMT the 2,048 bytes of a level-1 block count 8-bit elements. -/
def structOk (d : Desc) : Bool :=
  let f := fmtOfCode (BitVec.ofNat 4 d.fmt)
  let bits := match f with | some f => fmtBits f | none => 8
  let l1 := d.blocks.headD []
  decide (1 ≤ d.ndim) && decide (d.ndim ≤ 6) && decide (d.levels ≤ 4) && decide (d.partMode ≠ 3)
  && decide (d.space ≤ 3)
  && (l1.all fun n => decide (n ≤ 8)) && decide (levelSize l1 * bits ≤ 2048 * 8 ∨ d.levels = 0)
  && decide (d.base % max 1 (bits / 8) = 0)
  && (match f with
      | none => true
      | some f =>
        (decide (f ≠ .m8) || decide (d.scaleBase % 8 = 0))
        && (!fmtIsBlock f || blocksOk d (fmtBlock f))
        && ((spans (if partOk d then d else { d with partMode := 0 }) f).all fun r =>
              decide (0 ≤ r.1) && decide (r.2 < (spaceEnd d.space : Int))))

/-- Resolve SPACE and UNIT of a descriptor (R154, R155): the unit of SPACE 0 and 1, or DESC_SPACE_BAD. `core` is the
issuing core, none for a queue command. -/
def resolveUnit (core : Option Nat) (d : Desc) : Except Status Nat :=
  match d.space, core with
  | 0, some c => .ok (if d.unit = 0xFFF then c else d.unit)
  | 0, none => .ok (d.unit % 4096)
  | 1, some c => if d.unit = 0xFFF then .ok (c / 64) else if d.unit < 64 then .ok d.unit else .error .descSpaceBad
  | 1, none => if d.unit < 64 then .ok d.unit else .error .descSpaceBad
  | _, _ => .ok 0

/-- The window checks of R240. A destination that R240 does not list among those that may lie in a bit-set or bit-clear window fails
with ALIAS_OP_BAD; for DLOAD, DGATHER, GATHER and FGET its table names no status (DEDUCED, log entry 39). -/
def windowCheck (u : Use) (d : Desc) (f : Fmt) : Option Status :=
  let w : Int := windowSize d.space
  if w = 0 then none
  else
    let rs := spans (if partOk d then d else { d with partMode := 0 }) f
    if rs.any fun r => decide (r.1 / w ≠ r.2 / w) then some .aliasOpBad
    else if u.engine && rs.any fun r => decide (r.1 / w ≠ 0) then some .descSpaceBad
    else if u.plain && rs.any fun r => decide (r.1 / w ≠ 0) then some .aliasOpBad
    else none

/-- The start and extent conditions of R165 on a block format partitioned along dimension 0. -/
def partBlocksOk (d : Desc) (B : Nat) : Bool :=
  if d.partMode = 1 then
    let n := dimOf d 0
    let q := n / d.partX
    let r := n % d.partX
    let nonEmpty := if q = 0 then r else d.partX
    -- every partition but the last non-empty one: the first min r (nonEmpty − 1) have q + 1, the others q
    (decide (min r (nonEmpty - 1) = 0) || decide ((q + 1) % B = 0))
    && (decide (nonEmpty ≤ r + 1) || decide (q % B = 0))
    -- the empty ones start at the end of the dimension
    && (decide (nonEmpty = d.partX) || decide (n % B = 0))
  else
    decide (d.partX % B = 0) && (decide (d.partY % B = 0) || decide (d.partX + d.partY = dimOf d 0))

/-- All checks of one descriptor in the order of R653: the resolved unit, or the status of the first that fails. -/
def checkDesc (core : Option Nat) (u : Use) (d : Desc) : Except Status Nat :=
  if !structOk d then .error .descBad
  else match fmtOfCode (BitVec.ofNat 4 d.fmt) with
    | none => .error .formatBad
    | some f =>
      if !(u.formats.contains f) then .error .formatBad
      else
        let own := u.engine || u.own
        match (if (own ∧ d.space ≠ 0) ∨ (u.coll ∧ d.space ≠ 1 ∧ d.space ≠ 2) then .error .descSpaceBad else resolveUnit core d) with
        | .error e => .error e
        | .ok unit =>
          if own ∧ some unit ≠ core then .error .descSpaceBad
          else match windowCheck u d f with
            | some e => .error e
            | none =>
              if !partOk d then .error .descPartBad
              else if fmtIsBlock f && decide (d.partMode ≠ 0) && decide (d.partDim = 0) && !u.source
                  && !partBlocksOk d (fmtBlock f) then .error .descPartBad
              else .ok unit

/-- A destination with a zero stride over more than one top-level block (R160). One that presents no element is let through, since
no two of its indices address one block and R166 lets its command succeed (DEDUCED, log entry 39). -/
def destBroadcast (d : Desc) : Bool :=
  decide (elemCount d ≠ 0) &&
    ((upto 0 d.ndim).any fun k => decide (strideOf d k = 0) && decide (topSpan d k < dimOf d k))

/-- The format of a descriptor that passed its checks. -/
def descFmt (d : Desc) : Fmt := (fmtOfCode (BitVec.ofNat 4 d.fmt)).getD .f32

/-- Whether the bounding ranges of two tensors of one memory instance overlap (R92, R180, R241). -/
def descMeets (a b : Desc) : Bool :=
  (spans a (descFmt a)).any fun x => (spans b (descFmt b)).any fun y =>
    spanMeets (plainSpan a.space x) (plainSpan b.space y)

end Sys2Proof.Machine
end

