-- ==== Sys2Proof/Config.lean ====
section
/-! DEFINITION. What the spec leaves open, as constants without a body: nothing can evaluate them or prove a value of
them, so a claim holds whatever they are. The free values are applied to State.freeCtr (DESIGN CHOICE, log entry 5). -/
namespace Sys2Proof.Config

/-- A free value of 64 bits (DESIGN CHOICE, log entry 5): one that the spec leaves open and the machine goes on with. -/
opaque freeWord : Nat → Word64

/-- A free natural number (DESIGN CHOICE, log entry 5), where the open value is a count or an index. -/
opaque freeNat : Nat → Nat

/-- Which lane of a unit that takes `rate` elements in a cycle converts the element at a position (R57, R170): the spec does not say
how elements fall on lanes (DESIGN CHOICE, log entry 13). Rate 0 names the fabric interface, for which no lanes are stated. -/
opaque convLane (rate position : Nat) : Nat

/-- The voltage V(L) in mV that is fused for a cluster at each level (R475). -/
opaque clusterVolt (cluster level : Nat) : Nat

/-- The fused power of one keep-warm grid of a cluster at a level, in 1/100 W (R489). -/
opaque gridPower (cluster level : Nat) : Nat

/-- The receive signal-to-noise ratio of a lane of a fabric port, measured every millisecond of local time (R386). -/
opaque laneSnr (lane ms : Nat) : Half

/-- The certificate chain of slot 0, vendor root to device certificate, and its digest (R545): X.509 bytes that the spec does not list
(DESIGN CHOICE, log entry 9). -/
opaque certChain : List Byte
opaque chainDigest : Nat

/-- What the device's RSA-3072 and SLH-DSA identity keys sign over a transcript of SPDM responses, by request code and body (R545, R547; DESIGN
CHOICE, log entry 9): both take the same transcript. -/
opaque rsaSign (transcript : List (Nat × List Byte)) : Nat
opaque slhSign (transcript : List (Nat × List Byte)) : Nat

end Sys2Proof.Config
end

