-- ==== Sys2Proof/Machine/Codes.lean ====
section
/-! DEFINITION. The Reed–Solomon code of device memory (spec/08, R262). A code word is 36 symbols of 8 bits, symbol i the
coefficient of x^i: the three check bytes, the metadata byte, then the 32 data bytes; the spec does not say in which order the symbols
stand (DESIGN CHOICE, log entry 41). -/
namespace Sys2Proof.Machine

/-- Times α = 0x02 in GF(2^8) with field polynomial x^8 + x^4 + x^3 + x^2 + 1 (R262). -/
def gfDouble (a : Nat) : Nat := if 2 * a ≥ 256 then (2 * a) ^^^ 0x11D else 2 * a

/-- The product of GF(2^8): the bits of b, lowest first, k of them. -/
def gfMulBits : Nat → Nat → Nat → Nat
  | 0, _, _ => 0
  | k + 1, a, b => (if b % 2 = 1 then a else 0) ^^^ gfMulBits k (gfDouble a) (b / 2)
def gfMul (a b : Nat) : Nat := gfMulBits 8 a b

/-- α^k. -/
def gfPow : Nat → Nat
  | 0 => 1
  | k + 1 => gfDouble (gfPow k)

/-- Syndrome j of 36 symbols given from symbol i on: the sum of symbol × α^(i × j). -/
def syndromeFrom (j : Nat) : Nat → List Nat → Nat
  | _, [] => 0
  | i, c :: t => gfMul c (gfPow (i * j % 255)) ^^^ syndromeFrom j (i + 1) t
def syndrome (j : Nat) (cs : List Nat) : Nat := syndromeFrom j 0 cs

/-- Coefficients of the generator (x − 1)(x − α)(x − α²) below x³, lowest first (R262). -/
def rsGen : List Nat :=
  let a := gfPow 1
  let b := gfPow 2
  [gfMul a b, a ^^^ b ^^^ gfMul a b, 1 ^^^ a ^^^ b]

/-- The remainder modulo the generator of a message given highest symbol first, lowest coefficient first. -/
def rsRem : List Nat → List Nat → List Nat
  | [], r => r
  | c :: t, r =>
    let q := c ^^^ r.getD 2 0
    rsRem t [gfMul q (rsGen.getD 0 0), r.getD 0 0 ^^^ gfMul q (rsGen.getD 1 0), r.getD 1 0 ^^^ gfMul q (rsGen.getD 2 0)]

/-- The 36 symbols stored for 32 data bytes and a metadata byte whose bit 0 is POISON and whose other bits are zero (R262). -/
def rsEncode (data : List Nat) (poison : Bool) : List Nat :=
  let msg := b01 poison :: data
  rsRem msg.reverse [0, 0, 0] ++ msg

/-- The 36 symbols of a pattern. -/
def symbols (p : BitVec 288) : List Nat := (upto 0 36).map fun i => nfld p.toNat (8 * i) 8

/-- What a read finds in a word whose stored symbols differ from its code word by a pattern (R262): one bad symbol is corrected, two are
detected. The syndromes of the stored word are those of the pattern, since a code word has none. -/
def rsFound (p : BitVec 288) : Found :=
  let e := symbols p
  let s0 := syndrome 0 e
  let s1 := syndrome 1 e
  let s2 := syndrome 2 e
  if s0 = 0 ∧ s1 = 0 ∧ s2 = 0 then .good
  else if s0 ≠ 0 ∧ gfMul s1 s1 = gfMul s0 s2 ∧ (upto 0 36).any (fun i => decide (gfMul s0 (gfPow i) = s1)) then .corrected
  else .uncorrectable

/-- What is left of a pattern once a read has corrected what it finds: zero after any pattern of at most one bad symbol. -/
def rsLeft (p : BitVec 288) : BitVec 288 :=
  let e := symbols p
  let s0 := syndrome 0 e
  match rsFound p, (upto 0 36).find? fun i => decide (gfMul s0 (gfPow i) = syndrome 1 e) with
  | .corrected, some i => p ^^^ BitVec.ofNat 288 (s0 * 2 ^ (8 * i))
  | _, _ => p

/-- The data bytes of a pattern, and its POISON bit. -/
def leftData (p : BitVec 288) : List Byte := (upto 4 32).map fun i => p.extractLsb' (8 * i) 8
def leftPoison (p : BitVec 288) : Bool := p.getLsbD 24

end Sys2Proof.Machine
end

