-- ==== Sys2Proof/Reg.lean ====
section
/-! DEFINITION. The registers of BAR0 (R516, R517, R611 and the register tables of the chapters), one constructor per
register with the indices that its page or array gives it. -/
namespace Sys2Proof

/-- A register of BAR0. -/
inductive Reg where
  | glbBootState
  | glbId
  | glbSerial
  | glbCapacity
  | glbResetCtrl
  | glbRegRejects
  | glbHostState
  | glbHostCtrl
  | glbHostRefused
  | glbHostCtr (i : Nat)
  | cfgState
  | cfgCtrl
  | cfgPeekAddr
  | cfgPeekData
  | cfgCtr (i : Nat)
  | timeNow
  | timeState
  | timeCtrl
  | timeSet
  | timeCtr (i : Nat)
  | cumState
  | cumCtrl
  | cumTaint0
  | cumTaint1
  | cumSvtBase
  | cumCtr (i : Nat)
  | cumPartWait (p : Nat)
  | dlkBundle (l : Nat) (d : Nat) (b : Nat)
  | dlkLink (l : Nat) (d : Nat)
  | dlkStream (l : Nat) (d : Nat) (s : Nat)
  | dlkCtr (l : Nat) (d : Nat) (i : Nat)
  | dlkDieState (n : Nat)
  | dlkDieCtrl (n : Nat)
  | secState
  | secUpdateAddr
  | secUpdateCtrl
  | secUpdateState
  | secNonce (i : Nat)
  | secDebugAddr
  | secDebugCtrl
  | errQState (n : Nat)
  | errOverflow (n : Nat)
  | errRecords (n : Nat)
  | errRaised (n : Nat)
  | errCtrl
  | errLogBase
  | errLogWritten
  | errStewardOut
  | errServiceOut
  | fldState
  | fldCtrl
  | fldCtr (i : Nat)
  | cqPollCtrl
  | cqSpurious
  | cqPart (p : Nat)
  | cqCfg (q : Nat)
  | cqRing (q : Nat)
  | cqCompl (q : Nat)
  | cqTail (q : Nat)
  | cqCtrl (q : Nat)
  | cqState (q : Nat)
  | cqFetch (q : Nat)
  | cqCompleted (q : Nat)
  | govCap
  | govHeart
  | govBase
  | govState
  | govWinStart (w : Nat)
  | govWinCtrl (w : Nat)
  | govWinRate (w : Nat)
  | govCoolCtrl
  | govCoolLaw
  | govCoolBus
  | govCoolState
  | govCluState (c : Nat)
  | govCluCtrl (c : Nat)
  | govPartCap (p : Nat)
  | govEQueue (q : Nat)
  | govEPart (p : Nat)
  | govE (i : Nat)
  | govEv (i : Nat)
  | govDroop (n : Nat) (b : Nat)
  | memState (n : Nat)
  | memCtrl (n : Nat)
  | memPatrol (n : Nat)
  | memPark (n : Nat)
  | memHold (n : Nat)
  | memChFailed (n : Nat)
  | memParkBase (n : Nat) (i : Nat)
  | memParkLimit (n : Nat) (i : Nat)
  | memEcc (n : Nat)
  | memUe (n : Nat)
  | memAccWords (n : Nat)
  | memMergeHits (n : Nat)
  | memParkWait (n : Nat)
  | memParkPeak (n : Nat)
  | memPatrolPasses (n : Nat)
  | memChCorr (n : Nat) (c : Nat)
  | updState (n : Nat)
  | updCtrl (n : Nat)
  | updFetch (n : Nat)
  | updCtr (n : Nat) (i : Nat)
  | evtValue (c : Nat)
  | evtFault (c : Nat)
  | evtOwner (g : Nat)
  | fabNodeId
  | fabReqCtrl
  | fabRevt (i : Nat)
  | fabBcast (t : Nat)
  | fabWinBase (n : Nat)
  | fabWinLimit (n : Nat)
  | fabWinCtrl (n : Nat)
  | fabDrop (i : Nat)
  | fabPortCtrl (p : Nat)
  | fabPortState (p : Nat)
  | fabPortLane (p : Nat)
  | fabPortWeight (p : Nat)
  | fabPortAlloc0 (p : Nat)
  | fabPortAlloc1 (p : Nat)
  | fabPortCtr (p : Nat) (i : Nat)
  | fabLaneSymerr (p : Nat) (l : Nat)
  | fabLaneSnr (p : Nat) (l : Nat)
  | fabRoute (d : Nat)
  | coreFeState (c : Nat)
  | coreFeCtr (c : Nat) (i : Nat)
  | coreBeState (c : Nat)
  | coreBeCtr (c : Nat) (i : Nat)
  | coreDwc (c : Nat) (i : Nat)
  | coreTpState (c : Nat)
  | coreRet (c : Nat) (i : Nat)
  | coreNum (c : Nat) (i : Nat)
  | coreTpWait (c : Nat)
  | coreSpadState (c : Nat)
  | coreSpadDmaWait (c : Nat)
  | coreSpadDmaMax (c : Nat)
  | coreSpadConflict (c : Nat)
  | coreSpadEcc (c : Nat)
  | coreSpadUe (c : Nat)
  | cluState (c : Nat)
  | cluCopyCtr (c : Nat) (i : Nat)
  | cluCmemState (c : Nat)
  | cluCmemCtrl (c : Nat)
  | cluCmemDmaWait (c : Nat)
  | cluCmemDmaMax (c : Nat)
  | cluCmemEcc (c : Nat)
  | cluCmemUe (c : Nat)
  | cluCoreMap (c : Nat)
  | cluCoreSpares (c : Nat)
deriving DecidableEq, Repr

/-- Access masks and reset value of a register (R14, R15): fields RW, RW-S, W1C and W1S; `rc` clears on an 8-byte
read. -/
structure RegInfo where
  rw    : Nat := 0
  rws   : Nat := 0
  w1c   : Nat := 0
  w1s   : Nat := 0
  rc    : Bool := false
  reset : Nat := 0
deriving DecidableEq, Repr

end Sys2Proof
end

