-- ==== Sys2Proof/Machine/Regs.lean ====
section
/-! DEFINITION. The BAR0 map: the offset of each register, the register at an offset, and the access masks and reset
values of the register tables. -/
namespace Sys2Proof.Machine

/-- The BAR0 offset of a register (R516, R517, R611). -/
def regOffset : Reg → Nat
  | .glbBootState => 0x0
  | .glbId => 0x8
  | .glbSerial => 0x10
  | .glbCapacity => 0x18
  | .glbResetCtrl => 0x20
  | .glbRegRejects => 0x28
  | .glbHostState => 0x100
  | .glbHostCtrl => 0x108
  | .glbHostRefused => 0x110
  | .glbHostCtr i => 0x120 + 0x8 * i
  | .cfgState => 0x10000
  | .cfgCtrl => 0x10008
  | .cfgPeekAddr => 0x10010
  | .cfgPeekData => 0x10018
  | .cfgCtr i => 0x10100 + 0x8 * i
  | .timeNow => 0x20000
  | .timeState => 0x20008
  | .timeCtrl => 0x20010
  | .timeSet => 0x20018
  | .timeCtr i => 0x20020 + 0x8 * i
  | .cumState => 0x30000
  | .cumCtrl => 0x30008
  | .cumTaint0 => 0x30010
  | .cumTaint1 => 0x30018
  | .cumSvtBase => 0x30020
  | .cumCtr i => 0x30100 + 0x8 * i
  | .cumPartWait p => 0x30800 + 0x8 * p
  | .dlkBundle l d b => 0x40000 + 0x1000 * l + 0x800 * d + 0x8 * b
  | .dlkLink l d => 0x40080 + 0x1000 * l + 0x800 * d
  | .dlkStream l d s => 0x40100 + 0x1000 * l + 0x800 * d + 0x8 * s
  | .dlkCtr l d i => 0x40200 + 0x1000 * l + 0x800 * d + 0x8 * i
  | .dlkDieState n => 0x48000 + 0x100 * n
  | .dlkDieCtrl n => 0x48008 + 0x100 * n
  | .secState => 0x50000
  | .secUpdateAddr => 0x50010
  | .secUpdateCtrl => 0x50018
  | .secUpdateState => 0x50020
  | .secNonce i => 0x50040 + 0x8 * i
  | .secDebugAddr => 0x50050
  | .secDebugCtrl => 0x50058
  | .errQState n => 0x60000 + 0x1000 * n
  | .errOverflow n => 0x60008 + 0x1000 * n
  | .errRecords n => 0x60010 + 0x1000 * n
  | .errRaised n => 0x60018 + 0x1000 * n
  | .errCtrl => 0x68000
  | .errLogBase => 0x68008
  | .errLogWritten => 0x68010
  | .errStewardOut => 0x68020
  | .errServiceOut => 0x68028
  | .fldState => 0x70000
  | .fldCtrl => 0x70008
  | .fldCtr i => 0x70100 + 0x8 * i
  | .cqPollCtrl => 0x80000
  | .cqSpurious => 0x80008
  | .cqPart p => 0x80800 + 0x8 * p
  | .cqCfg q => 0x90000 + 0x40 * q
  | .cqRing q => 0x90008 + 0x40 * q
  | .cqCompl q => 0x90010 + 0x40 * q
  | .cqTail q => 0x90018 + 0x40 * q
  | .cqCtrl q => 0x90020 + 0x40 * q
  | .cqState q => 0x90028 + 0x40 * q
  | .cqFetch q => 0x90030 + 0x40 * q
  | .cqCompleted q => 0x90038 + 0x40 * q
  | .govCap => 0x100000
  | .govHeart => 0x100008
  | .govBase => 0x100010
  | .govState => 0x100018
  | .govWinStart w => 0x100040 + 0x20 * w
  | .govWinCtrl w => 0x100048 + 0x20 * w
  | .govWinRate w => 0x100050 + 0x20 * w
  | .govCoolCtrl => 0x100100
  | .govCoolLaw => 0x100108
  | .govCoolBus => 0x100110
  | .govCoolState => 0x100118
  | .govCluState c => 0x100400 + 0x10 * c
  | .govCluCtrl c => 0x100408 + 0x10 * c
  | .govPartCap p => 0x100800 + 0x8 * p
  | .govEQueue q => 0x110000 + 0x8 * q
  | .govEPart p => 0x118000 + 0x8 * p
  | .govE i => 0x118800 + 0x8 * i
  | .govEv i => 0x119000 + 0x8 * i
  | .govDroop n b => 0x119100 + 0x40 * n + 0x8 * b
  | .memState n => 0x120000 + 0x1000 * n
  | .memCtrl n => 0x120008 + 0x1000 * n
  | .memPatrol n => 0x120010 + 0x1000 * n
  | .memPark n => 0x120018 + 0x1000 * n
  | .memHold n => 0x120020 + 0x1000 * n
  | .memChFailed n => 0x120028 + 0x1000 * n
  | .memParkBase n i => 0x120100 + 0x1000 * n + 0x10 * i
  | .memParkLimit n i => 0x120108 + 0x1000 * n + 0x10 * i
  | .memEcc n => 0x120200 + 0x1000 * n
  | .memUe n => 0x120208 + 0x1000 * n
  | .memAccWords n => 0x120210 + 0x1000 * n
  | .memMergeHits n => 0x120218 + 0x1000 * n
  | .memParkWait n => 0x120220 + 0x1000 * n
  | .memParkPeak n => 0x120228 + 0x1000 * n
  | .memPatrolPasses n => 0x120230 + 0x1000 * n
  | .memChCorr n c => 0x120300 + 0x1000 * n + 0x8 * c
  | .updState n => 0x140000 + 0x1000 * n
  | .updCtrl n => 0x140008 + 0x1000 * n
  | .updFetch n => 0x140010 + 0x1000 * n
  | .updCtr n i => 0x140100 + 0x1000 * n + 0x8 * i
  | .evtValue c => 0x200000 + 0x8 * c
  | .evtFault c => 0x280000 + 0x8 * c
  | .evtOwner g => 0x300000 + 0x8 * g
  | .fabNodeId => 0x400000
  | .fabReqCtrl => 0x400008
  | .fabRevt i => 0x400010 + 0x8 * i
  | .fabBcast t => 0x400040 + 0x8 * t
  | .fabWinBase n => 0x400100 + 0x20 * n
  | .fabWinLimit n => 0x400108 + 0x20 * n
  | .fabWinCtrl n => 0x400110 + 0x20 * n
  | .fabDrop i => 0x400400 + 0x8 * i
  | .fabPortCtrl p => 0x410000 + 0x400 * p
  | .fabPortState p => 0x410008 + 0x400 * p
  | .fabPortLane p => 0x410010 + 0x400 * p
  | .fabPortWeight p => 0x410018 + 0x400 * p
  | .fabPortAlloc0 p => 0x410020 + 0x400 * p
  | .fabPortAlloc1 p => 0x410028 + 0x400 * p
  | .fabPortCtr p i => 0x410100 + 0x400 * p + 0x8 * i
  | .fabLaneSymerr p l => 0x410200 + 0x400 * p + 0x8 * l
  | .fabLaneSnr p l => 0x410280 + 0x400 * p + 0x8 * l
  | .fabRoute d => 0x500000 + 0x8 * d
  | .coreFeState c => 0x1000000 + 0x1000000 * (c / 1024) + 0x400 * (c % 1024)
  | .coreFeCtr c i => 0x1000008 + 0x1000000 * (c / 1024) + 0x400 * (c % 1024) + 0x8 * i
  | .coreBeState c => 0x1000040 + 0x1000000 * (c / 1024) + 0x400 * (c % 1024)
  | .coreBeCtr c i => 0x1000048 + 0x1000000 * (c / 1024) + 0x400 * (c % 1024) + 0x8 * i
  | .coreDwc c i => 0x1000100 + 0x1000000 * (c / 1024) + 0x400 * (c % 1024) + 0x8 * i
  | .coreTpState c => 0x1000180 + 0x1000000 * (c / 1024) + 0x400 * (c % 1024)
  | .coreRet c i => 0x1000188 + 0x1000000 * (c / 1024) + 0x400 * (c % 1024) + 0x8 * i
  | .coreNum c i => 0x10001C0 + 0x1000000 * (c / 1024) + 0x400 * (c % 1024) + 0x8 * i
  | .coreTpWait c => 0x10001D8 + 0x1000000 * (c / 1024) + 0x400 * (c % 1024)
  | .coreSpadState c => 0x1000200 + 0x1000000 * (c / 1024) + 0x400 * (c % 1024)
  | .coreSpadDmaWait c => 0x1000208 + 0x1000000 * (c / 1024) + 0x400 * (c % 1024)
  | .coreSpadDmaMax c => 0x1000210 + 0x1000000 * (c / 1024) + 0x400 * (c % 1024)
  | .coreSpadConflict c => 0x1000218 + 0x1000000 * (c / 1024) + 0x400 * (c % 1024)
  | .coreSpadEcc c => 0x1000220 + 0x1000000 * (c / 1024) + 0x400 * (c % 1024)
  | .coreSpadUe c => 0x1000228 + 0x1000000 * (c / 1024) + 0x400 * (c % 1024)
  | .cluState c => 0x1100000 + 0x1000000 * (c / 16) + 0x1000 * (c % 16)
  | .cluCopyCtr c i => 0x1100300 + 0x1000000 * (c / 16) + 0x1000 * (c % 16) + 0x8 * i
  | .cluCmemState c => 0x1100340 + 0x1000000 * (c / 16) + 0x1000 * (c % 16)
  | .cluCmemCtrl c => 0x1100348 + 0x1000000 * (c / 16) + 0x1000 * (c % 16)
  | .cluCmemDmaWait c => 0x1100350 + 0x1000000 * (c / 16) + 0x1000 * (c % 16)
  | .cluCmemDmaMax c => 0x1100358 + 0x1000000 * (c / 16) + 0x1000 * (c % 16)
  | .cluCmemEcc c => 0x1100360 + 0x1000000 * (c / 16) + 0x1000 * (c % 16)
  | .cluCmemUe c => 0x1100368 + 0x1000000 * (c / 16) + 0x1000 * (c % 16)
  | .cluCoreMap c => 0x1100380 + 0x1000000 * (c / 16) + 0x1000 * (c % 16)
  | .cluCoreSpares c => 0x1100388 + 0x1000000 * (c / 16) + 0x1000 * (c % 16)

/-- Whether the indices of a register lie in its page or array. -/
def regValid : Reg → Bool
  | .glbHostCtr i => decide (i < 7)
  | .cfgCtr i => decide (i < 5)
  | .timeCtr i => decide (i < 4)
  | .cumCtr i => decide (i < 12)
  | .cumPartWait p => decide (p < 256)
  | .dlkBundle l d b => decide (l < 8) && decide (d < 2) && decide (b < 4)
  | .dlkLink l d => decide (l < 8) && decide (d < 2)
  | .dlkStream l d s => decide (l < 8) && decide (d < 2) && decide (s < 16)
  | .dlkCtr l d i => decide (l < 8) && decide (d < 2) && decide (i < 4)
  | .dlkDieState n => decide (n < 4)
  | .dlkDieCtrl n => decide (n < 4)
  | .secNonce i => decide (i < 2)
  | .errQState n => decide (n < 5)
  | .errOverflow n => decide (n < 5)
  | .errRecords n => decide (n < 5)
  | .errRaised n => decide (n < 5)
  | .fldCtr i => decide (i < 3)
  | .cqPart p => decide (p < 256)
  | .cqCfg q => decide (q < 4096)
  | .cqRing q => decide (q < 4096)
  | .cqCompl q => decide (q < 4096)
  | .cqTail q => decide (q < 4096)
  | .cqCtrl q => decide (q < 4096)
  | .cqState q => decide (q < 4096)
  | .cqFetch q => decide (q < 4096)
  | .cqCompleted q => decide (q < 4096)
  | .govWinStart w => decide (w < 4)
  | .govWinCtrl w => decide (w < 4)
  | .govWinRate w => decide (w < 4)
  | .govCluState c => decide (c < 64)
  | .govCluCtrl c => decide (c < 64)
  | .govPartCap p => decide (p < 256)
  | .govEQueue q => decide (q < 4096)
  | .govEPart p => decide (p < 256)
  | .govE i => decide (i < 6)
  | .govEv i => decide (i < 7)
  | .govDroop n b => decide (n < 4) && decide (b < 8)
  | .memState n => decide (n < 32)
  | .memCtrl n => decide (n < 32)
  | .memPatrol n => decide (n < 32)
  | .memPark n => decide (n < 32)
  | .memHold n => decide (n < 32)
  | .memChFailed n => decide (n < 32)
  | .memParkBase n i => decide (n < 32) && decide (i < 16)
  | .memParkLimit n i => decide (n < 32) && decide (i < 16)
  | .memEcc n => decide (n < 32)
  | .memUe n => decide (n < 32)
  | .memAccWords n => decide (n < 32)
  | .memMergeHits n => decide (n < 32)
  | .memParkWait n => decide (n < 32)
  | .memParkPeak n => decide (n < 32)
  | .memPatrolPasses n => decide (n < 32)
  | .memChCorr n c => decide (n < 32) && decide (c < 33)
  | .updState n => decide (n < 32)
  | .updCtrl n => decide (n < 32)
  | .updFetch n => decide (n < 32)
  | .updCtr n i => decide (n < 32) && decide (i < 8)
  | .evtValue c => decide (c < 65536)
  | .evtFault c => decide (c < 65536)
  | .evtOwner g => decide (g < 256)
  | .fabRevt i => decide (i < 4)
  | .fabBcast t => decide (t < 4)
  | .fabWinBase n => decide (n < 16)
  | .fabWinLimit n => decide (n < 16)
  | .fabWinCtrl n => decide (n < 16)
  | .fabDrop i => decide (i < 9)
  | .fabPortCtrl p => decide (p < 24)
  | .fabPortState p => decide (p < 24)
  | .fabPortLane p => decide (p < 24)
  | .fabPortWeight p => decide (p < 24)
  | .fabPortAlloc0 p => decide (p < 24)
  | .fabPortAlloc1 p => decide (p < 24)
  | .fabPortCtr p i => decide (p < 24) && decide (i < 8)
  | .fabLaneSymerr p l => decide (p < 24) && decide (l < 10)
  | .fabLaneSnr p l => decide (p < 24) && decide (l < 10)
  | .fabRoute d => decide (d < 65536)
  | .coreFeState c => decide (c < 4096)
  | .coreFeCtr c i => decide (c < 4096) && decide (i < 5)
  | .coreBeState c => decide (c < 4096)
  | .coreBeCtr c i => decide (c < 4096) && decide (i < 9)
  | .coreDwc c i => decide (c < 4096) && decide (i < 16)
  | .coreTpState c => decide (c < 4096)
  | .coreRet c i => decide (c < 4096) && decide (i < 7)
  | .coreNum c i => decide (c < 4096) && decide (i < 3)
  | .coreTpWait c => decide (c < 4096)
  | .coreSpadState c => decide (c < 4096)
  | .coreSpadDmaWait c => decide (c < 4096)
  | .coreSpadDmaMax c => decide (c < 4096)
  | .coreSpadConflict c => decide (c < 4096)
  | .coreSpadEcc c => decide (c < 4096)
  | .coreSpadUe c => decide (c < 4096)
  | .cluState c => decide (c < 64)
  | .cluCopyCtr c i => decide (c < 64) && decide (i < 7)
  | .cluCmemState c => decide (c < 64)
  | .cluCmemCtrl c => decide (c < 64)
  | .cluCmemDmaWait c => decide (c < 64)
  | .cluCmemDmaMax c => decide (c < 64)
  | .cluCmemEcc c => decide (c < 64)
  | .cluCmemUe c => decide (c < 64)
  | .cluCoreMap c => decide (c < 64)
  | .cluCoreSpares c => decide (c < 64)
  | _ => true

/-- The two dies of a link, the sender of direction 0 first (R441, R470); 4 is the welkin die. -/
def linkEnds (l : Nat) : Nat × Nat :=
  match l with | 0 => (0, 1) | 1 => (0, 2) | 2 => (1, 3) | 3 => (2, 3) | l => (l - 4, 4)

/-- A stream register from its fields (R470): PROTECT, LANES, RELAY_TO, port kind, sender and receiver; DETOUR is 6. -/
def streamWord (protect lanes relay kind a b : Nat) : Nat :=
  fields [(63, 1), (62, protect), (56, lanes), (46, relay), (40, 6), (24, kind), (16, a), (8, kind), (0, b)]

/-- The stream register's reset value under R448, by link, direction and stream. -/
def streamReset (l d s : Nat) : Nat :=
  let a := if d = 0 then (linkEnds l).1 else (linkEnds l).2
  let b := if d = 0 then (linkEnds l).2 else (linkEnds l).1
  let n := l - 4
  let low := if n = 0 ∨ n = 3 then 1 else 0
  if l < 4 then
    match s with
    | 0 => streamWord 1 1 0 3 a b
    | 1 => streamWord 0 16 0 1 a b
    | 2 => streamWord 0 12 0 2 a b
    | 3 => streamWord 0 3 0 5 a b
    | _ => 6 * 2 ^ 40
  else
    match s with
    | 0 => streamWord 1 2 0 3 a b
    | 1 => streamWord 1 16 0 4 a b
    | 2 => streamWord 0 4 0 1 a b
    | 3 => streamWord 0 2 0 2 a b
    | 4 => streamWord 0 4 (3 - n) 6 a b
    | 5 => streamWord 0 2 low 6 a b
    | 6 => streamWord 0 2 (3 - low) 6 a b
    | _ => 6 * 2 ^ 40

/-- Access masks and reset value of a register (R14, R15). -/
def regInfo : Reg → RegInfo
  | .glbId => { reset := 0x4096A1000000 }
  | .glbResetCtrl => { rw := 0xFFFF0000, w1s := 0x1 }
  | .glbHostCtrl => { rws := 0x1 }
  | .glbHostRefused => { w1c := 0x8000000000000000 }
  | .cfgCtrl => { rw := 0xFFFF00FFFFFFFF, rws := 0xFF00000000000000, reset := 0x3C0000002710 }
  | .cfgPeekAddr => { rw := 0x80000000FFFFFFF8 }
  | .timeCtrl => { rws := 0xFFFF000000000001, reset := 0xFFFF000000000000 }
  | .timeSet => { rw := 0xFFFFFFFFFFFFFFFF }
  | .cumCtrl => { rw := 0xFFFFFFFF00000000, rws := 0x1, reset := 0xF424000000000 }
  | .cumTaint1 => { w1c := 0x8000000000000000 }
  | .cumSvtBase => { rws := 0x800001FFFFF80000 }
  | .dlkStream l d s => { rws := 0xFF01FF00FFFFFFFF, reset := streamReset l d s }
  | .dlkDieCtrl _ => { rws := 0x1, w1s := 0x2, reset := 0x1 }
  | .secUpdateAddr => { rw := 0xFFFFFFFFFFFFFFFF }
  | .secUpdateCtrl => { rw := 0xFFFFFFFF0000000E, w1s := 0x1 }
  | .secUpdateState => { w1c := 0x2 }
  | .secDebugAddr => { rw := 0xFFFFFFFFFFFFFFFF }
  | .secDebugCtrl => { w1s := 0x1 }
  | .errOverflow _ => { rc := true }
  | .errCtrl => { rw := 0x7FF000F, reset := 0x2 }
  | .errLogBase => { rw := 0xFFFFFFFFFFFFF01F, reset := 0xA }
  | .fldCtrl => { rw := 0xFFFFFFFF00000000, w1s := 0x1, reset := 0x186A000000000 }
  | .cqPollCtrl => { rw := 0xFFFF, reset := 0x3E8 }
  | .cqPart _ => { rws := 0xFFFFFFFFFFFFFFFF }
  | .cqCfg _ => { rw := 0xFFFF807C00, rws := 0x7F8000, reset := 0x1000 }
  | .cqRing _ => { rw := 0xFFFFFFFFFFFFFFC0 }
  | .cqCompl _ => { rw := 0xFFFFFFFFFFFFFFC0 }
  | .cqTail _ => { rw := 0xFFFFFFFFFFFFFFC0 }
  | .cqCtrl _ => { rw := 0x3, w1s := 0xC }
  | .cqFetch _ => { rw := 0xFFFFFFFF }
  | .govCap => { rw := 0xFFFF0000FFFF, reset := 0x1C2000001964 }
  | .govHeart => { rw := 0xFFFFFFFFFF, reset := 0x1E145F00C8 }
  | .govBase => { rw := 0xFFFFFFFFFFFF0001, reset := 0x3E807D007D00001 }
  | .govWinStart _ => { rw := 0xFFFFFFFFFFFFFFFF }
  | .govWinCtrl _ => { rw := 0x8000000007FFFFFF }
  | .govWinRate _ => { rw := 0xFFFFFFFFFFFF, reset := 0x7D007D0 }
  | .govCoolCtrl => { rw := 0xFFFFFFFF3FFFFC00, reset := 0xFA000000CDFFC00 }
  | .govCoolLaw => { rw := 0xFFFFFFFFFFFFFFFF, reset := 0x320000CD0029019A }
  | .govCoolBus => { rw := 0xFFFFFF, reset := 0x4948 }
  | .govCluCtrl _ => { rws := 0xFFFFFFFF }
  | .govPartCap _ => { rw := 0xFFFF }
  | .memCtrl _ => { w1s := 0x1 }
  | .memPatrol _ => { rw := 0xFFFFF, reset := 0x280 }
  | .memPark _ => { rw := 0xFFFFFFFF, reset := 0x186A0 }
  | .memParkBase _ _ => { rws := 0x800001FFFFFFF000 }
  | .memParkLimit _ _ => { rws := 0x1FFFFFFF000 }
  | .memUe _ => { w1c := 0x8000000000000000 }
  | .memParkPeak _ => { rc := true }
  | .updCtrl _ => { w1s := 0x1 }
  | .updFetch _ => { rw := 0xFFFFFFFF, reset := 0xC350 }
  | .evtFault _ => { w1c := 0x8000000000000000 }
  | .evtOwner _ => { rws := 0x1FF, reset := 0x1FF }
  | .fabNodeId => { rws := 0xFFFF, reset := 0xFFFF }
  | .fabReqCtrl => { rw := 0xFFFFFFFFFFFFFFFF, reset := 0x2710000003E8 }
  | .fabRevt _ => { rws := 0xFFFFFFFFFFFFFFFF }
  | .fabBcast _ => { rws := 0x1FFFFFF00FFFFFF }
  | .fabWinBase _ => { rws := 0x1FFFFFFF000 }
  | .fabWinLimit _ => { rws := 0x1FFFFFFF000 }
  | .fabWinCtrl _ => { rws := 0xE0000000FFFFFFFF }
  | .fabPortCtrl _ => { rw := 0xFF01, w1s := 0x2, reset := 0x800 }
  | .fabPortLane _ => { rw := 0xFFFFFFFF, reset := 0x206CC8 }
  | .fabPortWeight _ => { rw := 0xFFFFFFFFFFFFFFFF, reset := 0x10101040802010 }
  | .fabPortAlloc0 _ => { rws := 0xFFFFFFFFFFFFFFFF, reset := 0x6000C0002000100 }
  | .fabPortAlloc1 _ => { rws := 0xFFFFFFFFFFFFFFFF, reset := 0x200030003000300 }
  | .fabRoute _ => { rws := 0x3FFFFFFFFFFFF }
  | .coreSpadDmaMax _ => { rc := true }
  | .coreSpadUe _ => { w1c := 0x8000000000000000 }
  | .cluCmemCtrl _ => { w1s := 0x1 }
  | .cluCmemDmaMax _ => { rc := true }
  | .cluCmemUe _ => { w1c := 0x8000000000000000 }
  | _ => {}

/-- An index i with lo + stride × i = x and i < n. -/
def idxAt (lo stride n x : Nat) : Option Nat :=
  if lo ≤ x ∧ (x - lo) % stride = 0 ∧ (x - lo) / stride < n then some ((x - lo) / stride) else none

/-- The first register of a list of candidates. -/
def firstReg : List (Option Reg) → Option Reg
  | [] => none
  | some r :: _ => some r
  | none :: t => firstReg t

/-- The register at an offset of the GLB block. -/
def regGlb (x : Nat) : Option Reg :=
  firstReg [
    if x = 0x0 then some .glbBootState else none,
    if x = 0x8 then some .glbId else none,
    if x = 0x10 then some .glbSerial else none,
    if x = 0x18 then some .glbCapacity else none,
    if x = 0x20 then some .glbResetCtrl else none,
    if x = 0x28 then some .glbRegRejects else none,
    if x = 0x100 then some .glbHostState else none,
    if x = 0x108 then some .glbHostCtrl else none,
    if x = 0x110 then some .glbHostRefused else none,
    (idxAt 0x120 0x8 7 x).map Reg.glbHostCtr]

/-- The register at an offset of the CFG block. -/
def regCfg (x : Nat) : Option Reg :=
  firstReg [
    if x = 0x0 then some .cfgState else none,
    if x = 0x8 then some .cfgCtrl else none,
    if x = 0x10 then some .cfgPeekAddr else none,
    if x = 0x18 then some .cfgPeekData else none,
    (idxAt 0x100 0x8 5 x).map Reg.cfgCtr]

/-- The register at an offset of the TIME block. -/
def regTime (x : Nat) : Option Reg :=
  firstReg [
    if x = 0x0 then some .timeNow else none,
    if x = 0x8 then some .timeState else none,
    if x = 0x10 then some .timeCtrl else none,
    if x = 0x18 then some .timeSet else none,
    (idxAt 0x20 0x8 4 x).map Reg.timeCtr]

/-- The register at an offset of the CUM block. -/
def regCum (x : Nat) : Option Reg :=
  firstReg [
    if x = 0x0 then some .cumState else none,
    if x = 0x8 then some .cumCtrl else none,
    if x = 0x10 then some .cumTaint0 else none,
    if x = 0x18 then some .cumTaint1 else none,
    if x = 0x20 then some .cumSvtBase else none,
    (idxAt 0x100 0x8 12 x).map Reg.cumCtr,
    (idxAt 0x800 0x8 256 x).map Reg.cumPartWait]

/-- The register at an offset of the DLK block. -/
def regDlk (x : Nat) : Option Reg :=
  firstReg [
    if x / 0x1000 < 8 then (idxAt 0x0 0x8 4 (x % 0x800)).map (Reg.dlkBundle (x / 0x1000) (x % 0x1000 / 0x800)) else none,
    if x < 0x0 then none else if (x - 0x0) / 0x1000 < 8 then (idxAt 0x80 0x800 2 ((x - 0x0) % 0x1000)).map (Reg.dlkLink ((x - 0x0) / 0x1000)) else none,
    if x / 0x1000 < 8 then (idxAt 0x100 0x8 16 (x % 0x800)).map (Reg.dlkStream (x / 0x1000) (x % 0x1000 / 0x800)) else none,
    if x / 0x1000 < 8 then (idxAt 0x200 0x8 4 (x % 0x800)).map (Reg.dlkCtr (x / 0x1000) (x % 0x1000 / 0x800)) else none,
    (idxAt 0x8000 0x100 4 x).map Reg.dlkDieState,
    (idxAt 0x8008 0x100 4 x).map Reg.dlkDieCtrl]

/-- The register at an offset of the SEC block. -/
def regSec (x : Nat) : Option Reg :=
  firstReg [
    if x = 0x0 then some .secState else none,
    if x = 0x10 then some .secUpdateAddr else none,
    if x = 0x18 then some .secUpdateCtrl else none,
    if x = 0x20 then some .secUpdateState else none,
    (idxAt 0x40 0x8 2 x).map Reg.secNonce,
    if x = 0x50 then some .secDebugAddr else none,
    if x = 0x58 then some .secDebugCtrl else none]

/-- The register at an offset of the ERR block. -/
def regErr (x : Nat) : Option Reg :=
  firstReg [
    (idxAt 0x0 0x1000 5 x).map Reg.errQState,
    (idxAt 0x8 0x1000 5 x).map Reg.errOverflow,
    (idxAt 0x10 0x1000 5 x).map Reg.errRecords,
    (idxAt 0x18 0x1000 5 x).map Reg.errRaised,
    if x = 0x8000 then some .errCtrl else none,
    if x = 0x8008 then some .errLogBase else none,
    if x = 0x8010 then some .errLogWritten else none,
    if x = 0x8020 then some .errStewardOut else none,
    if x = 0x8028 then some .errServiceOut else none]

/-- The register at an offset of the FLD block. -/
def regFld (x : Nat) : Option Reg :=
  firstReg [
    if x = 0x0 then some .fldState else none,
    if x = 0x8 then some .fldCtrl else none,
    (idxAt 0x100 0x8 3 x).map Reg.fldCtr]

/-- The register at an offset of the CQ block. -/
def regCq (x : Nat) : Option Reg :=
  firstReg [
    if x = 0x0 then some .cqPollCtrl else none,
    if x = 0x8 then some .cqSpurious else none,
    (idxAt 0x800 0x8 256 x).map Reg.cqPart,
    (idxAt 0x10000 0x40 4096 x).map Reg.cqCfg,
    (idxAt 0x10008 0x40 4096 x).map Reg.cqRing,
    (idxAt 0x10010 0x40 4096 x).map Reg.cqCompl,
    (idxAt 0x10018 0x40 4096 x).map Reg.cqTail,
    (idxAt 0x10020 0x40 4096 x).map Reg.cqCtrl,
    (idxAt 0x10028 0x40 4096 x).map Reg.cqState,
    (idxAt 0x10030 0x40 4096 x).map Reg.cqFetch,
    (idxAt 0x10038 0x40 4096 x).map Reg.cqCompleted]

/-- The register at an offset of the GOV block. -/
def regGov (x : Nat) : Option Reg :=
  firstReg [
    if x = 0x0 then some .govCap else none,
    if x = 0x8 then some .govHeart else none,
    if x = 0x10 then some .govBase else none,
    if x = 0x18 then some .govState else none,
    (idxAt 0x40 0x20 4 x).map Reg.govWinStart,
    (idxAt 0x48 0x20 4 x).map Reg.govWinCtrl,
    (idxAt 0x50 0x20 4 x).map Reg.govWinRate,
    if x = 0x100 then some .govCoolCtrl else none,
    if x = 0x108 then some .govCoolLaw else none,
    if x = 0x110 then some .govCoolBus else none,
    if x = 0x118 then some .govCoolState else none,
    (idxAt 0x400 0x10 64 x).map Reg.govCluState,
    (idxAt 0x408 0x10 64 x).map Reg.govCluCtrl,
    (idxAt 0x800 0x8 256 x).map Reg.govPartCap,
    (idxAt 0x10000 0x8 4096 x).map Reg.govEQueue,
    (idxAt 0x18000 0x8 256 x).map Reg.govEPart,
    (idxAt 0x18800 0x8 6 x).map Reg.govE,
    (idxAt 0x19000 0x8 7 x).map Reg.govEv,
    if x < 0x19100 then none else if (x - 0x19100) / 0x40 < 4 then (idxAt 0x0 0x8 8 ((x - 0x19100) % 0x40)).map (Reg.govDroop ((x - 0x19100) / 0x40)) else none]

/-- The register at an offset of the MEM block. -/
def regMem (x : Nat) : Option Reg :=
  firstReg [
    (idxAt 0x0 0x1000 32 x).map Reg.memState,
    (idxAt 0x8 0x1000 32 x).map Reg.memCtrl,
    (idxAt 0x10 0x1000 32 x).map Reg.memPatrol,
    (idxAt 0x18 0x1000 32 x).map Reg.memPark,
    (idxAt 0x20 0x1000 32 x).map Reg.memHold,
    (idxAt 0x28 0x1000 32 x).map Reg.memChFailed,
    if x < 0x0 then none else if (x - 0x0) / 0x1000 < 32 then (idxAt 0x100 0x10 16 ((x - 0x0) % 0x1000)).map (Reg.memParkBase ((x - 0x0) / 0x1000)) else none,
    if x < 0x0 then none else if (x - 0x0) / 0x1000 < 32 then (idxAt 0x108 0x10 16 ((x - 0x0) % 0x1000)).map (Reg.memParkLimit ((x - 0x0) / 0x1000)) else none,
    (idxAt 0x200 0x1000 32 x).map Reg.memEcc,
    (idxAt 0x208 0x1000 32 x).map Reg.memUe,
    (idxAt 0x210 0x1000 32 x).map Reg.memAccWords,
    (idxAt 0x218 0x1000 32 x).map Reg.memMergeHits,
    (idxAt 0x220 0x1000 32 x).map Reg.memParkWait,
    (idxAt 0x228 0x1000 32 x).map Reg.memParkPeak,
    (idxAt 0x230 0x1000 32 x).map Reg.memPatrolPasses,
    if x < 0x0 then none else if (x - 0x0) / 0x1000 < 32 then (idxAt 0x300 0x8 33 ((x - 0x0) % 0x1000)).map (Reg.memChCorr ((x - 0x0) / 0x1000)) else none]

/-- The register at an offset of the UPD block. -/
def regUpd (x : Nat) : Option Reg :=
  firstReg [
    (idxAt 0x0 0x1000 32 x).map Reg.updState,
    (idxAt 0x8 0x1000 32 x).map Reg.updCtrl,
    (idxAt 0x10 0x1000 32 x).map Reg.updFetch,
    if x < 0x0 then none else if (x - 0x0) / 0x1000 < 32 then (idxAt 0x100 0x8 8 ((x - 0x0) % 0x1000)).map (Reg.updCtr ((x - 0x0) / 0x1000)) else none]

/-- The register at an offset of the EVT block. -/
def regEvt (x : Nat) : Option Reg :=
  firstReg [
    (idxAt 0x0 0x8 65536 x).map Reg.evtValue,
    (idxAt 0x80000 0x8 65536 x).map Reg.evtFault,
    (idxAt 0x100000 0x8 256 x).map Reg.evtOwner]

/-- The register at an offset of the FAB block. -/
def regFab (x : Nat) : Option Reg :=
  firstReg [
    if x = 0x0 then some .fabNodeId else none,
    if x = 0x8 then some .fabReqCtrl else none,
    (idxAt 0x10 0x8 4 x).map Reg.fabRevt,
    (idxAt 0x40 0x8 4 x).map Reg.fabBcast,
    (idxAt 0x100 0x20 16 x).map Reg.fabWinBase,
    (idxAt 0x108 0x20 16 x).map Reg.fabWinLimit,
    (idxAt 0x110 0x20 16 x).map Reg.fabWinCtrl,
    (idxAt 0x400 0x8 9 x).map Reg.fabDrop,
    (idxAt 0x10000 0x400 24 x).map Reg.fabPortCtrl,
    (idxAt 0x10008 0x400 24 x).map Reg.fabPortState,
    (idxAt 0x10010 0x400 24 x).map Reg.fabPortLane,
    (idxAt 0x10018 0x400 24 x).map Reg.fabPortWeight,
    (idxAt 0x10020 0x400 24 x).map Reg.fabPortAlloc0,
    (idxAt 0x10028 0x400 24 x).map Reg.fabPortAlloc1,
    if x < 0x10000 then none else if (x - 0x10000) / 0x400 < 24 then (idxAt 0x100 0x8 8 ((x - 0x10000) % 0x400)).map (Reg.fabPortCtr ((x - 0x10000) / 0x400)) else none,
    if x < 0x10000 then none else if (x - 0x10000) / 0x400 < 24 then (idxAt 0x200 0x8 10 ((x - 0x10000) % 0x400)).map (Reg.fabLaneSymerr ((x - 0x10000) / 0x400)) else none,
    if x < 0x10000 then none else if (x - 0x10000) / 0x400 < 24 then (idxAt 0x280 0x8 10 ((x - 0x10000) % 0x400)).map (Reg.fabLaneSnr ((x - 0x10000) / 0x400)) else none,
    (idxAt 0x100000 0x8 65536 x).map Reg.fabRoute]

/-- The register at an offset of a Core register page (R517). -/
def regCore (c x : Nat) : Option Reg :=
  firstReg [
    if x = 0x0 then some (.coreFeState c) else none,
    (idxAt 0x8 0x8 5 x).map (Reg.coreFeCtr c),
    if x = 0x40 then some (.coreBeState c) else none,
    (idxAt 0x48 0x8 9 x).map (Reg.coreBeCtr c),
    (idxAt 0x100 0x8 16 x).map (Reg.coreDwc c),
    if x = 0x180 then some (.coreTpState c) else none,
    (idxAt 0x188 0x8 7 x).map (Reg.coreRet c),
    (idxAt 0x1C0 0x8 3 x).map (Reg.coreNum c),
    if x = 0x1D8 then some (.coreTpWait c) else none,
    if x = 0x200 then some (.coreSpadState c) else none,
    if x = 0x208 then some (.coreSpadDmaWait c) else none,
    if x = 0x210 then some (.coreSpadDmaMax c) else none,
    if x = 0x218 then some (.coreSpadConflict c) else none,
    if x = 0x220 then some (.coreSpadEcc c) else none,
    if x = 0x228 then some (.coreSpadUe c) else none]

/-- The register at an offset of a Cluster register page (R517). -/
def regCluster (c x : Nat) : Option Reg :=
  firstReg [
    if x = 0x0 then some (.cluState c) else none,
    (idxAt 0x300 0x8 7 x).map (Reg.cluCopyCtr c),
    if x = 0x340 then some (.cluCmemState c) else none,
    if x = 0x348 then some (.cluCmemCtrl c) else none,
    if x = 0x350 then some (.cluCmemDmaWait c) else none,
    if x = 0x358 then some (.cluCmemDmaMax c) else none,
    if x = 0x360 then some (.cluCmemEcc c) else none,
    if x = 0x368 then some (.cluCmemUe c) else none,
    if x = 0x380 then some (.cluCoreMap c) else none,
    if x = 0x388 then some (.cluCoreSpares c) else none]

/-- The register at an offset of a per-die window (R517). -/
def regWindow (n y : Nat) : Option Reg :=
  if y < 0x100000 then regCore (1024 * n + y / 0x400) (y % 0x400)
  else if y < 0x110000 then regCluster (16 * n + (y - 0x100000) / 0x1000) (y % 0x1000)
  else none

/-- The register at a BAR0 offset (R516); none where the offset is reserved. -/
def regAt (x : Nat) : Option Reg :=
  if x < 0x10000 then regGlb (x - 0x0)
  else if x < 0x20000 then regCfg (x - 0x10000)
  else if x < 0x30000 then regTime (x - 0x20000)
  else if x < 0x40000 then regCum (x - 0x30000)
  else if x < 0x50000 then regDlk (x - 0x40000)
  else if x < 0x60000 then regSec (x - 0x50000)
  else if x < 0x70000 then regErr (x - 0x60000)
  else if x < 0x80000 then regFld (x - 0x70000)
  else if x < 0x100000 then regCq (x - 0x80000)
  else if x < 0x120000 then regGov (x - 0x100000)
  else if x < 0x140000 then regMem (x - 0x120000)
  else if x < 0x160000 then regUpd (x - 0x140000)
  else if x < 0x200000 then none
  else if x < 0x400000 then regEvt (x - 0x200000)
  else if x < 0x600000 then regFab (x - 0x400000)
  else if x < 0x1000000 then none
  else if x < 0x5000000 then regWindow ((x - 0x1000000) / 0x1000000) ((x - 0x1000000) % 0x1000000)
  else none

/-- The reset value of the register at an offset (R14); zero at a reserved one. -/
def regResetAt (x : Nat) : Word64 :=
  match regAt x with
  | some r => BitVec.ofNat 64 (regInfo r).reset
  | none => 0

end Sys2Proof.Machine
end

