-- ==== Sys2Proof/Machine/StateCore.lean ====
section
/-! DEFINITION. The state of the compute cores and clusters (spec/02 to spec/07): plain data, one home per piece. -/
namespace Sys2Proof.Machine

/-- Phases of a core's program (R223): idle, loading code and arguments, running, ending. -/
inductive Phase where
  | idle | loading | running | ending
deriving DecidableEq, Repr, Inhabited

/-- States of a weight plane (R82). -/
inductive PlaneSt where
  | empty | loading | ready
deriving DecidableEq, Repr, Inhabited

/-- One weight plane of FE or BE0 (R80, R85, R87): formats and the exact values of its tile; position (k, j) outside the
load holds +0. -/
structure Plane where
  st    : PlaneSt := .empty
  wFmt  : Option Fmt := none
  aFmt  : Option Fmt := none
  kext  : Nat := 0
  ncol  : Nat := 0
  elems : List Val := []
deriving DecidableEq, Repr, Inhabited

/-- How far a queued instruction has come. -/
inductive JobSt where
  | queued | started | done
deriving DecidableEq, Repr, Inhabited

/-- An instruction handed to a unit, with copies of the descriptors, the numeric control word and the scalars it named
at issue (R137, R188). `order` is its place in the program's issue order; `tile` the plane a started stream uses,
`pos` the bytes that a remote request has asked for so far. -/
structure Job where
  insn  : Instr
  pc    : BitVec 12
  order : Nat
  descs : List (BitVec 1024) := []
  num   : Word64 := 0
  args  : List Word64 := []
  st    : JobSt := .queued
  tile  : Option Plane := none
  pos   : Nat := 0
deriving DecidableEq, Repr

/-- A stall of the issue (R212): what the sequencer waits for. -/
inductive Stall where
  | ewait (ctr : Half) (value : Word64)
  | lwait (counter : Nat) (target : Word32)
  | twait (at_ : Word64)
  | drain (mask : Byte)
  | endp
deriving DecidableEq, Repr

/-- FE or BE0 with its planes and queue (R80 to R85, R93, R103, R108, R123). `loaded` holds the formats of the FE_WLOAD
issued since the last SWAP, `swapped` those of the tile of the last SWAP issued without fault: the order of issue from
which R93 decides FE_NO_TILE. -/
structure Engine where
  active  : Plane := {}
  shadow  : Plane := {}
  queue   : List Job := []
  loaded  : Option (Fmt × Fmt) := none
  swapped : Option (Fmt × Fmt) := none
  clocked : Bool := false
deriving DecidableEq, Repr, Inhabited

/-- A posted receive (R366): the job's order number, receive number, endpoint, tag, capacity, bytes received so far, and
for a chunk what its check needs (R399): the payload, the CRC and chunk numbers its packets carried. -/
structure Posted where
  order   : Nat
  rxn     : Half
  node    : Half
  unit    : BitVec 12
  tag     : Half
  vc      : BitVec 3
  size    : Nat
  got     : Nat := 0
  chunk   : Option Word32 := none
  data    : List Host.Cell := []
  auxSeen : List Word64 := []
  checked : Bool := false
deriving DecidableEq, Repr

/-- A clear-to-send held by a sending core (R366). -/
structure HeldCts where
  node : Half
  unit : BitVec 12
  tag  : Half
  rxn  : Half
  size : Nat
deriving DecidableEq, Repr

/-- An outstanding remote request of a core (R369, R370): transaction number, the job it belongs to, the instant it was
sent, where read data goes, and whether the data and the response have come. -/
structure Outst where
  txn    : Half
  order  : Nat
  sentNs : Nat
  pos    : Nat
  len    : Nat
  got    : Bool := false
  resp   : Bool := false
deriving DecidableEq, Repr

/-- One compute core, physical (R24): sequencer, registers, memories, engines, unit queues, counters. `spadBad` lists the 8-byte words
whose stored bits are uncorrectable and that nobody has read since (R242, R243); `dmaWaits` holds how long each waiting DMA-class
request has waited (R256). `engCyc` is the cycle from which an engine takes its next instruction, counted within the program, `engClass` the class of its last
one, `cycProg`
and `cycCmd` the cycle of the first non-finite output that the numeric flags of an engine name (R70, R135). `fault` is the status and
PC of a fault whose sequence waits for atomics (R221). -/
structure Core where
  phase      : Phase := .idle
  pc         : BitVec 12 := 0
  codeLen    : Nat := 0
  wait       : BitVec 3 := 0
  stall      : Option Stall := none
  lastStatus : Status := .success
  faulted    : Bool := false
  sregs      : Table Word64 := []
  busy       : List (BitVec 5) := []
  slots      : Table (BitVec 1024) := []
  code       : Table Word64 := []
  spad       : List Host.Cell := []
  spadPoison : List Nat := []
  spadBad    : List Nat := []
  fe         : Engine := {}
  be0        : Engine := {}
  defer      : List Job := []
  run0       : List Job := []
  run1       : List Job := []
  be1Clocked : Bool := false
  adapterOnly   : Bool := false
  implicitDrain : Bool := false
  dxHold     : Bool := false
  dwc        : Table Word32 := []
  vq         : List Job := []
  lq         : List Job := []
  fsq        : List Job := []
  frq        : List Job := []
  atq        : List Job := []
  evq        : List Job := []
  rets       : Table Word32 := []
  issued     : Nat := 0
  numProg    : Table NumBlock := []
  numCmd     : Table NumBlock := []
  cycProg    : Table Nat := []
  cycCmd     : Table Nat := []
  engCyc     : Table Nat := []
  engClass   : Table Nat := []
  cmdQueue   : Nat := 0
  cmdSeq     : Word32 := 0
  partition  : Byte := 0
  rank       : Nat := 0
  setSize    : Nat := 0
  timeLimit  : Word32 := 0
  startNs    : Nat := 0
  argOffset  : Nat := 0
  codeAddr   : Word64 := 0
  argAddr    : Word64 := 0
  argLen     : Nat := 0
  ended      : Bool := false
  endPc      : BitVec 12 := 0
  halted     : Bool := false
  stepping   : Bool := false
  haltNs     : Nat := 0
  rxn        : Half := 0
  txn        : Half := 0
  posted     : List Posted := []
  cts        : List HeldCts := []
  outst      : List Outst := []
  retirePending : Bool := false
  retireBank : BitVec 4 := 0
  dmaWaits   : Table Nat := []
  dmaWaiting : Bool := false
  corr       : List (Nat × Nat) := []
  failed     : Bool := false
  inColl     : Bool := false
  fault      : Option (Status × BitVec 12) := none
deriving DecidableEq, Repr, Inhabited

/-- A request for the staging area (R183): a core's load unit job or the copy unit's command. -/
inductive Stager where
  | core (p : Nat) (order : Nat)
  | copyUnit (q : Nat) (seq : Word32)
deriving DecidableEq, Repr

/-- A message in a steward mailbox (R371). -/
structure MailMsg where
  value : Word64
  node  : Half
  unit  : BitVec 12
deriving DecidableEq, Repr

/-- One cluster (R24): cluster memory and its bank map, staging area, copy unit, core map, steward, regulator. `dues` lists the logical
banks that are due for retirement, in order, each with whether its record is a follow-on (R246, R569); `rr` the core, or 64 for the steward, that each bank granted
last (R234). -/
structure Cluster where
  cmem       : List Host.Cell := []
  cmemPoison : List Nat := []
  cmemBad    : List Nat := []
  bankMap    : Table Nat := []
  retired    : List Nat := []
  half       : Bool := false
  migrating  : Option (Nat × Nat) := none
  dues       : List (Nat × Bool) := []
  corr       : List (Nat × Nat) := []
  dmaWaits   : Table Nat := []
  rr         : Table Nat := []
  clearing   : Bool := true
  clearReq   : Bool := false
  stageHold  : Option Stager := none
  stageWait  : List Stager := []
  copyCmd    : Option (Nat × Word32) := none
  absent     : Word64 := 0
  spare0     : Byte := 0xFF
  spare1     : Byte := 0xFF
  stewardIrq : Bool := false
  mailbox    : List MailMsg := []
  stewardOut : Bool := false
  stewardData : Word64 := 0
  lastFault  : Option Nat := none
  partnerServes : Bool := false
deriving DecidableEq, Repr, Inhabited

end Sys2Proof.Machine
end

