-- ==== Sys2Proof/Machine/StateMem.lean ====
section
/-! DEFINITION. The state of the memory stacks, the update units, the queues, the event counters and the time unit
(spec/08 to spec/10): plain data, one home per piece. -/
namespace Sys2Proof.Machine

/-! ## Memory stacks (spec/08) -/

/-- One entry of a channel's merge buffer (R272): the 32-byte word, by device address ÷ 32, and the instant of its last
add. The word's bytes stand in device memory, since the buffer never changes the order of R271. -/
structure MergeEntry where
  word   : Nat
  chan   : Nat
  lastNs : Nat
deriving DecidableEq, Repr

/-- How far the fetch of a parked block's state has come (R304, R305). -/
inductive FetchSt where
  | queued | active (sinceNs : Nat) | arrived (bytes : List Byte) | failed
deriving DecidableEq, Repr

/-- A holding slot that is not FREE (R278): FILLING, or UPDATING once the update unit took the block. `idx` is its place in the holding
region. -/
structure HoldSlot where
  tag      : Nat
  idx      : Nat := 0
  updating : Bool := false
  data     : List Host.Cell := []
  fetch    : FetchSt := .queued
deriving DecidableEq, Repr

/-- A request waiting in the park queue (R279): block address, bytes or adds to apply with their rounding mode, the instant it came, and
for an instruction's request its core and order number. `host` marks a CXL.mem write, which waits for no snoop of its own line. -/
structure ParkReq where
  addr    : Nat
  accFmt  : Option Fmt
  mode    : RoundMode := .nearest
  mask    : Nat
  data    : List Byte
  sinceNs : Nat
  origin  : Option (Nat × Nat) := none
  host    : Bool := false
deriving DecidableEq, Repr

/-- One memory stack with its controller (R258 to R283). `poisonCh` lists the logical channels all of whose words were
poisoned when CH32 took them over (R267): for a word of such a channel the list State.devPoison names the words written
whole since. `halfMap` lists the physical channels that serve the logical ones in half mode (R268); `pendingPhys` is the physical
channel that set RETIRE_PENDING. `lastRead` is the word the controller last returned. -/
structure Stack where
  ready      : Bool := false
  selfRefresh : Bool := false
  kept       : Bool := false
  half       : Bool := false
  halfMap    : List Nat := []
  spareUsed  : Bool := false
  spareFor   : Nat := 0
  failedCh   : List Nat := []
  deadCh     : List Nat := []
  migrating  : Option Nat := none
  due        : Option Nat := none
  dueFollow  : Bool := false
  poisonCh   : List Nat := []
  lastRead   : BitVec 256 := 0
  retirePending : Bool := false
  pendingCh  : Nat := 0
  pendingPhys : Nat := 0
  merge      : List MergeEntry := []
  slots      : List HoldSlot := []
  parkQ      : List ParkReq := []
  corr       : List (Nat × Nat) := []
  patrolPos  : Table Nat := []
deriving DecidableEq, Repr, Inhabited

/-! ## Update units (spec/09) -/

/-- The steps of R299 that a dispatched block has behind it; a block skipped by its stamp (R294) starts at `committed`
without a record. A block whose command failed before it was committed is `dropped` until its record's commit word reads FREE (R308). -/
inductive UpdStep where
  | dispatched | written | committed | inPlace | dropped
deriving DecidableEq, Repr

/-- A block dispatched by an update unit and not yet retired (R291, R299): the command, the block index, its gradient
block, its journal record with the seven addresses and the payload, the writes of step 4, the gradient clear, and what
the command's completion record gains at retirement. -/
structure UpdBlock where
  q        : Nat
  seq      : Word32
  index    : Nat
  step     : UpdStep := .dispatched
  gAddr    : Nat
  cmdStep  : Word32 := 0
  flags    : Nat := 0
  addrs    : List Nat := []
  payload  : List Byte := []
  writes   : List (Nat × List Byte) := []
  gradClear : Bool := false
  slow     : Bool := false
  skip     : Bool := false
  journalRec : Option Nat := none
  recSeq   : Nat := 0
  num      : NumBlock := {}
  large    : List Nat := []
deriving DecidableEq, Repr

/-- A command that a unit takes blocks of (R291): its group record, its blocks `next` to `last` − 1, the instant that
orders it among the unit's commands, and for a slow-tier group the blocks already taken. -/
structure UpdTask where
  q     : Nat
  seq   : Word32
  step  : Word32
  group : BitVec 1024
  next  : Nat
  last  : Nat
  key   : Nat
  taken : List Nat := []
deriving DecidableEq, Repr

/-- One update unit (R285 to R307). `slowReplay` holds the committed slow-tier records that wait for the host link. -/
structure UpdUnit where
  ready       : Bool := false
  recovering  : Bool := false
  journalInit : Bool := false
  slowReplay  : List Nat := []
  tasks       : List UpdTask := []
  blocks      : List UpdBlock := []
  nextSeq     : Nat := 1
  ringPos     : Nat := 0
deriving DecidableEq, Repr, Inhabited

/-! ## Queues (spec/10) -/

/-- States of a queue (R328). -/
inductive QState where
  | disabled | running | stopped | failed
deriving DecidableEq, Repr, Inhabited

/-- A fetched command record (R315): its sequence number and its 128 bytes. -/
structure CmdRec where
  seq : Word32
  raw : BitVec 1024
deriving DecidableEq, Repr, Inhabited

/-- A command that has started, or that completes unrun, and has no completion record yet (R322, R324).
`begun` says that its work has begun, `descs` holds the descriptors or the group record read at its start (R318), `progress`
the blocks of an UPDATE that are finished, `copyUnit` the cluster whose copy unit it runs on, `launched` the cores reserved or running for
it, `tried` the instant since which it waits. -/
structure Flight where
  cmd      : CmdRec
  started  : Bool := true
  begun    : Bool := false
  descs    : List (BitVec 1024) := []
  done     : Bool := false
  signalled : Bool := false
  status   : Status := .success
  timeFlags : BitVec 3 := 0
  detail   : BitVec 24 := 0
  num      : NumBlock := {}
  kindBlk  : BitVec 128 := 0
  startNs  : Nat := 0
  launched : List (Nat × Nat) := []
  progress : Nat := 0
  failCore : Option (Nat × Status × BitVec 12) := none
  copyUnit : Option Nat := none
  tried    : Nat := 0
  svt      : Word64 := 0
deriving DecidableEq, Repr, Inhabited

/-- One queue (R309 to R328, R657, R658). `wake` says that a read of its tail line waits for a back-invalidate and is still to be made
(R313, R510), `woken` that an invalidation asked for that read, `cancelAsked` that a CANCEL waits with it; `shut` that the loss of the host link shuts it (R524). -/
structure Queue where
  state     : QState := .disabled
  lastStatus : Status := .success
  lineHeld  : Bool := false
  tail      : Word32 := 0
  wake      : Bool := false
  woken     : Bool := false
  cancelAsked : Bool := false
  queued    : List CmdRec := []
  flight    : List Flight := []
  disabling : Bool := false
  cancelTo  : Option Word32 := none
  pollNs    : Nat := 0
  shut      : Bool := false
deriving DecidableEq, Repr, Inhabited

/-! ## Cluster time (spec/10) -/

/-- States of the time unit (R341). -/
inductive TimeSt where
  | free | locked | slewing | holdover | unsync
deriving DecidableEq, Repr, Inhabited

/-- The time unit (R336 to R347). `nextEdge` is the value that applies at the coming edge, `edgeNs` the instant of the last edge of
TIMEPPS that came when it was expected, `slew` what is left to steer, `slewPhase` the nanoseconds towards its next correction; `steps`
lists what the forward steps of this nanosecond passed over, from and to. -/
structure TimeUnit where
  now        : Word64 := 0
  st         : TimeSt := .free
  refOk      : Bool := false
  ppsOk      : Bool := false
  goodEdges  : Nat := 0
  edgeNs     : Option Nat := none
  nextEdge   : Option Word64 := none
  masterBound : Nat := 0
  slew       : Int := 0
  slewPhase  : Nat := 0
  lossBound  : Nat := 0
  lossNs     : Nat := 0
  lastMsgNs  : Nat := 0
  epochStale : Bool := false
  msgMs      : Nat := 0
  stepped    : Bool := false
  steps      : List (Nat × Nat) := []
deriving DecidableEq, Repr, Inhabited

end Sys2Proof.Machine
end

