-- ==== Sys2Proof/Machine/StateRest.lean ====
section
/-! DEFINITION. The state of dies, die links, host port and error records (spec/14, 16 and 18): plain data, one home per
piece. -/
namespace Sys2Proof.Machine

/-! ## Dies and die links (spec/14) -/

/-- States of an Ndopiolo die (R463). -/
inductive DieSt where
  | inService | fencing | out | returning | ready
deriving DecidableEq, Repr, Inhabited

/-- One Ndopiolo die (R462 to R471); `linksUp` says that its links have been trained since it left reset (R467). -/
structure Die where
  st         : DieSt := .inService
  cause      : Byte := 0
  stacksKept : Bool := true
  linksUp    : Bool := true
deriving DecidableEq, Repr, Inhabited

/-- Modes of a bundle (R454, R464, R470). -/
inductive BundleMode where
  | untrained | full | half | disabled | fenced
deriving DecidableEq, Repr, Inhabited

/-- One lane of a bundle (R443 to R445): the sender's unacknowledged words with the NAK it has received, and the receiver's
count of accepted words, its NAK still to send, whether it discards until REPLAY, and the accepted words that its receiver port has
still to take (R446); `replays` are the instants of the last replays (R456). -/
structure LinkLane where
  unacked : List (BitVec 512) := []
  nakSeen : Bool := false
  credit  : Nat := 0
  nakDue  : Bool := false
  discard : Bool := false
  got     : List (BitVec 512) := []
  replays : List Nat := []
deriving DecidableEq, Repr, Inhabited

/-- One bundle (R442 to R460): mode, wires marked failed (0 to 255 data, 256 to 263 control, 264 to 279 spare, 280 and 281
clock), wires found failed that wait for a remap, and its lanes. -/
structure Bundle where
  mode   : BundleMode := .untrained
  failed : List Nat := []
  due    : List Nat := []
  lanes  : Table LinkLane := []
deriving DecidableEq, Repr, Inhabited

/-- One direction of a die link (R441 to R461): its bundles, grants by stream, the stream's place in its round-robin at the sender and at the
receiver port, streams starved, an open detour; by stream, the words that the receiver port has taken, oldest first, and the words that
wait for lanes in their order, each with whether the receiver has accepted it (R450, R457). -/
structure LinkDir where
  bundles : Table Bundle := []
  granted : Table Nat := []
  turn    : Table Nat := []
  rturn   : Table Nat := []
  rx      : Table (List (BitVec 512)) := []
  held    : Table (List (Bool × BitVec 512)) := []
  starved : List Nat := []
  detour  : Bool := false
deriving DecidableEq, Repr, Inhabited

/-! ## Host port (spec/16) -/

/-- An entry of the MSI-X table (R520). -/
structure MsixEntry where
  addr   : Word64 := 0
  data   : Word32 := 0
  masked : Bool := true
deriving DecidableEq, Repr, Inhabited

/-- What configuration space says of the one PCIe function and of its CXL features (R503 to R505, R523): identity, the 64-bit BAR0 that is
not prefetchable, the vectors of MSI-X, no INTx and no MSI, a Type 2 device, one DOE mailbox, Mem Clr Capable 0. The vendor ID is fused. -/
structure PcieFunction where
  deviceId : Half := 0x4096
  revision : Byte := 0xA1
  classCode : BitVec 24 := 0x120000
  barBytes : Nat := 2 ^ 28
  bar64    : Bool := true
  prefetch : Bool := false
  vectors  : Nat := 2048
  intx     : Bool := false
  msi      : Bool := false
  cxlType  : Nat := 2
  hdmDecoders : Nat := 4
  doeMailboxes : Nat := 1
  memClr   : Bool := false
deriving DecidableEq, Repr, Inhabited

/-- Host port (R502 to R527). `snoop` lists the device lines that the host holds, least recently used first, `sfWait` the cacheable reads that
wait for a way of a full set (R511); `cmdEn`, `bar0`, `msixEn` and `msixMask` are the command register, BAR0 and the MSI-X capability;
`sent` is the outbox of MSI-X messages (DESIGN CHOICE, log entry 12). -/
structure HostPort where
  mode     : Nat := 0
  speed    : Nat := 0
  width    : Nat := 0
  cacheEn  : Bool := false
  ideIo    : Bool := false
  ideMem   : Bool := false
  ideSkid  : Bool := false
  func     : PcieFunction := {}
  cmdEn    : Bool := false
  bar0     : Word64 := 0
  msixEn   : Bool := false
  msixMask : Bool := false
  decoders : List Decoder := []
  snoop    : List Nat := []
  sfWait   : List Nat := []
  msix     : Table MsixEntry := []
  pba      : List Nat := []
  sent     : List (Word64 × Word32) := []
  viral    : Bool := false
  rasErrs  : Nat := 0
  ideKeys  : Bool := false
  lastRead : BitVec 512 := 0
  lastPoison : Bool := false
  barData  : Word64 := 0
deriving DecidableEq, Repr, Inhabited

/-! ## Errors (spec/18) -/

/-- One error record (R568); LOG_SEQ is written when the record is logged. -/
structure ErrRec where
  time      : Word64 := 0
  status    : Status
  cls       : Nat
  raised    : Bool := false
  timeFlags : BitVec 3 := 0
  followOn  : Bool := false
  source    : Nat
  resource  : Word32
  addr      : Word64 := 0
  queue     : Half := 0xFFFF
  cmdSeq    : Word32 := 0
  detail    : Word64 := 0
deriving DecidableEq, Repr

/-- The record queue of a die (R570 to R573). -/
structure ErrQueue where
  recs       : List ErrRec := []
  lastStatus : Option Status := none
  takenOver  : Bool := false
  escalated  : Bool := false
deriving DecidableEq, Repr, Inhabited

/-- An action that a record or a fault calls for and that has not been taken yet: a die to fence (R576), the welkin die
to reset (R577), the package to stop (R578), an element to retire (R571, R575). -/
inductive Due where
  | dieFatal (n : Nat) (cause : Byte)
  | welkinFatal
  | packageFatal (status : Status)
  | retire (resource : Word32)
deriving DecidableEq, Repr

/-- Error records of the package, the shared LOG_SEQ (R573), and the actions due. -/
structure ErrUnit where
  queues : Table ErrQueue := []
  logSeq : Word64 := 1
  due    : List Due := []
deriving DecidableEq, Repr, Inhabited

/-- The architectural state of an application core under the RISC-V profile of R227: integer and floating-point registers, pc, privilege
mode (3 machine, 1 supervisor, 0 user) and virtualization mode, and the control and status registers by number, the 16 PMP entries and
hpmcounter3 to hpmcounter18 among them. The registers are those of the RISC-V specifications, which the manual does not re-describe
(PRESUMED, log entry 16). -/
structure Hart where
  x    : Table Word64 := []
  f    : Table Word64 := []
  pc   : Word64 := 0
  mode : BitVec 2 := 3
  virt : Bool := false
  csrs : Table Word64 := []
deriving DecidableEq, Repr, Inhabited

/-- An application core (R227, R581): its architectural state, out of service, when it last failed, kept out by a second failure, halted by
a debug scope. -/
structure AppCore where
  hart     : Hart := {}
  out      : Bool := false
  lastFault : Option Nat := none
  locked   : Bool := false
  halted   : Bool := false
deriving DecidableEq, Repr, Inhabited

end Sys2Proof.Machine
end

