-- ==== Sys2Proof/Machine/StateFab.lean ====
section
/-! DEFINITION. The state of the fabric ports and the switch (spec/11): plain data, one home per piece. -/
namespace Sys2Proof.Machine

/-- Port states (R353). -/
inductive PortSt where
  | disabled | training | active | recovery | retired
deriving DecidableEq, Repr, Inhabited

/-- A packet waiting at a switch output for credits, since when (R375), and the switch input it came from (R381): a fabric
port, 24 + a die, 28 for the cumulus port, or 29 for the management port. `held`: the buffer of that fabric port holds it until it
is sent (R360), in the class `inCls` in which it came. -/
structure OutPkt where
  pkt     : Packet
  sinceNs : Nat
  inp     : Nat
  inCls   : BitVec 1 := 0
  held    : Bool := false
deriving DecidableEq, Repr

/-- A packet at the switch: the fabric port it came in by, none when the package originated it; `join` marks the sum of a join, which comes
by the cumulus port (R373). -/
structure InPkt where
  pkt  : Packet
  port : Option Nat
  join : Bool := false
deriving DecidableEq, Repr

/-- What a port tells its peer in training and recovery (R354, R385): its node, its number, its allocation by VC. -/
structure PortTold where
  node  : Half
  port  : Nat
  alloc : List Nat
deriving DecidableEq, Repr, Inhabited

/-- One fabric port (R349 to R362). The peer's allocation, the slots sent against it, and the slots owed to the peer are keyed by
VC + 8 × class; `partials` holds the slots of packets that have not arrived whole, `orphan` marks a VC and class whose packet came
without START, `cur` holds the slots of the packet being sent, `curNs` one more than the instant since which its next packet waits for credits (R375), `lastIn` the switch input served last, by
the same key; `rr` and `deficit` are the state of the round robin of R381. `lanes` and `txLanes` list the physical receive and
transmit lanes in use in logical order, `rev` and `inv` what training corrects (R354), `swapDue` the failed lanes that a swap is due
for. -/
structure Port where
  st        : PortSt := .disabled
  rxFailed  : BitVec 10 := 0
  txFailed  : BitVec 10 := 0
  width     : Nat := 0
  peerNode  : Half := 0xFFFF
  peerPort  : BitVec 5 := 0
  sinceNs   : Nat := 0
  rxNext    : BitVec 12 := 0
  nakSent   : Bool := false
  txSeq     : BitVec 12 := 0
  replay    : List Flit := []
  resends   : Nat := 0
  ackNs     : Nat := 0
  allocs    : Table Nat := []
  used      : Table Nat := []
  owed      : Table Nat := []
  partials  : Table (List Slot) := []
  orphan    : Table Nat := []
  outq      : List OutPkt := []
  cur       : Table (List Slot) := []
  curNs     : Table Nat := []
  lastIn    : Table Nat := []
  rr        : Nat := 0
  deficit   : Table Nat := []
  nakSeen   : Bool := false
  lanes     : List Nat := []
  txLanes   : List Nat := []
  inv       : BitVec 10 := 0
  rev       : Bool := false
  told      : Option PortTold := none
  swapDue   : List Nat := []
  retrain   : Bool := false
  symStart  : Nat := 0
  symCount  : Table Nat := []
deriving DecidableEq, Repr, Inhabited

/-- The switch and its ports: packets not yet routed, packets delivered inside the package and not yet processed, the
management packets waiting for the service cores, and the outbox of flits sent: the port, and the bytes that each physical transmit
lane carried (R352; DESIGN CHOICE, log entry 12). A packet delivered in `arrived` stands in its port's input buffer. -/
structure Fabric where
  ports   : Table Port := []
  sw      : List InPkt := []
  arrived : List InPkt := []
  mgmt    : List Packet := []
  wire    : List (Nat × List (Nat × List Byte)) := []
deriving DecidableEq, Repr, Inhabited

end Sys2Proof.Machine
end

