-- ==== Sys2Proof/Machine/StateColl.lean ====
section
/-! DEFINITION. The state of the collective unit and of cumulus (spec/12): plain data, one home per piece. -/
namespace Sys2Proof.Machine

/-- States of a seal-table entry (R408). -/
inductive SealSt where
  | opened | sealedOk | tainted | failed
deriving DecidableEq, Repr, Inhabited

/-- One seal-table entry (R408): the reference, its attempt and state, the reason of its first taint, the status that the
commands which depend on it take, and the instants of its opening and of its end. -/
structure SealEntry where
  ref     : Word64
  attempt : Byte
  st      : SealSt := .opened
  reason  : Half := 0
  status  : Status := .success
  openNs  : Nat := 0
  endNs   : Nat := 0
deriving DecidableEq, Repr

/-- An entry of a member list (R390) with the descriptors of a local member, and how far its supplied program has come
(DEDUCED, log entry 20): receives posted and taken, chunks sent, the chunks it holds to send on, whether what it keeps of its own
source stands in its destination, the sends of a claim that have their CTS (R401), and the instant of its last chunk boundary (R416). -/
structure Member where
  node   : Half
  unit   : BitVec 12
  src    : BitVec 1024 := 0
  dst    : BitVec 1024 := 0
  posted : Nat := 0
  taken  : Nat := 0
  sent   : Nat := 0
  held   : List (Nat × List Byte) := []
  copied : Bool := true
  ended  : Bool := true
  bound  : Nat := 0
  sinceNs : Nat := 0
deriving DecidableEq, Repr

/-- One input of a join (R401): the member that sends it, what has come of its chunk, and whether it was checked and
added. -/
structure JoinIn where
  from_   : Nat
  got     : Nat := 0
  data    : List Host.Cell := []
  auxSeen : List Word64 := []
  added   : Bool := false
deriving DecidableEq, Repr

/-- A join (R401): its chunk and share, the members of its segment, the receive number that the predecessor's data names,
the sum so far, its inputs, the members of the segment whose contribution is still to be sent, and the CTS that its last member's FCSEND
holds. -/
structure Join where
  chunk  : Nat
  share  : Nat
  seg    : List Nat
  pred   : Option Nat := none
  succ   : Option Nat := none
  rxn    : Half := 0
  sum    : List Val := []
  inputs : List JoinIn := []
  due    : List Nat := []
  cts    : Option HeldCts := none
deriving DecidableEq, Repr

/-- A collective that this package takes part in (R389 to R407): among the rest the physical slots of its claim that are due for retirement
(R405), the status of a taint while members wait for their clocks to end (R603), and the longest wait and the capped time of R416. -/
structure Coll where
  q        : Nat
  seq      : Word32
  ref      : Word64
  attempt  : Byte
  op       : Nat
  fmt      : Fmt
  width    : Nat
  root     : Nat
  num      : Word64
  timeoutUs : Nat
  elems    : Nat
  members  : List Member
  slots    : Nat := 0
  fallback : Bool := false
  joins    : List Join := []
  opened   : List (Nat × Nat) := []
  retire   : List Nat := []
  failing  : Option Status := none
  waitNs   : Nat := 0
  capNs    : Nat := 0
  checked  : Nat := 0
  confirmAt : Bool := false
  confirmSent : Bool := false
  passEnded : Bool := false
  tokenNs  : Nat := 0
  progressNs : Nat := 0
deriving DecidableEq, Repr

/-- The collective unit (R400 to R415): the seal table, the running collectives, the references tainted by this package
already, the retired physical slots (R596), the reductions that started and whose claim is still to be made, in the order of their
starts (R403), and the causes of taint after the first of an attempt (R411). -/
structure CollUnit where
  ready   : Bool := false
  entries : List SealEntry := []
  colls   : List Coll := []
  tainted : List (Word64 × Byte) := []
  retired : List Nat := []
  starts  : List (Nat × Word32) := []
  further : Nat := 0
deriving DecidableEq, Repr, Inhabited

end Sys2Proof.Machine
end

