-- ==== Sys2Proof/Machine/StateGov.lean ====
section
/-! DEFINITION. The state of the governor: droop, levels, base note, ramp windows, coolant loop, energy accounts (spec/15).
Powers are kept in 1/100 W, so that a ramp rate in W per ms is that many units per heart interval; the coolant law is kept
in exact parts of 2^20 × 100,000 (DEDUCED, log entry 24). -/
namespace Sys2Proof.Machine

/-- What the governor keeps about one cluster (R475 to R486): level, thermal and guard level, the level that a deferral
holds back, power and temperature of the last interval, the depth of a droop that runs with the instant since which its stretched cycles
are still to be counted and those of earlier intervals, stretched cycles of the interval, and the count of keep-warm grids (R489). -/
structure CluGov where
  level    : Nat := 24
  lt       : Nat := 24
  lg       : Nat := 24
  wanted   : Nat := 24
  power    : Nat := 0
  temp     : Half := 0
  off      : Bool := false
  deferSince : Option Nat := none
  graceOut : Option Nat := none
  trigNs   : Nat := 0
  stretched : Nat := 0
  droop    : Option Nat := none
  droopNs  : Nat := 0
  droopCyc : Nat := 0
  idleSince : Nat := 0
  fill     : Nat := 0
deriving DecidableEq, Repr, Inhabited

/-- The flow states of R494. -/
inductive FlowSt where
  | ok | low | lost | notMonitored
deriving DecidableEq, Repr, Inhabited

/-- The governor (R479 to R497). `heart`, `cool` and `law` are GOV_HEART_CTRL, GOV_COOL_CTRL and GOV_COOL_LAW as the last interval end
found them (R499), `lastLocal` the local time of that end (R605), `fastNs` that of the last fast-path entry (R481), `inNoted` and `outNoted`
whether the failure of the inlet and of the outlet sensor has its record (R493). -/
structure Gov where
  clus     : Table CluGov := []
  lhard    : Nat := 24
  lpkg     : Nat := 24
  lpart    : Table Nat := []
  effSoft  : Nat := 650000
  draw     : Nat := 0
  r        : Nat := 0
  fill     : Nat := 0
  holdEnd  : Option Nat := none
  lastEnd  : Nat := 0
  lastLocal : Nat := 0
  fastNs   : Option Nat := none
  heart    : Word64 := 0x1E145F00C8
  cool     : Word64 := 0x0FA000000CDFFC00
  law      : Word64 := 0x320000CD0029019A
  shortfall : Bool := false
  softOver : Bool := false
  hardLimited : Bool := false
  winFlags : Table Nat := []
  duty     : Nat := 104755200000
  integral : Int := 0
  tIn      : Half := 0
  tOut     : Half := 0
  badIn    : Nat := 0
  badOut   : Nat := 0
  sensorFail : Bool := false
  inNoted  : Bool := false
  outNoted : Bool := false
  valveNs  : Nat := 0
  flow     : FlowSt := .notMonitored
  flowRate : Nat := 0
  flowNs   : Nat := 0
  nLow     : Nat := 0
  nLost    : Nat := 0
  nOk      : Nat := 0
  nBack    : Nat := 0
  rem      : Table Nat := []
deriving DecidableEq, Repr, Inhabited

end Sys2Proof.Machine
end

