-- ==== Sys2Proof/Machine/StatePkg.lean ====
section
/-! DEFINITION. The state of the package as a whole: boot, pins, configuration transactions, security engine, flash and
field record (spec/17, 19, 22): plain data, one home per piece. -/
namespace Sys2Proof.Machine

/-! ## Configuration transactions (R550 to R560) -/

/-- An open transaction: its identifier, its shadow, and when it last received a WRITE or COMMIT. -/
structure Txn where
  id     : Word32
  shadow : List CfgEntry := []
  lastNs : Nat := 0
deriving DecidableEq, Repr

/-- A COMMIT that waits (R553): its command, when its holds began, none while it still waits for AT, and once applied what
the persist writes. -/
structure Commit where
  q       : Nat
  seq     : Word32
  holdNs  : Option Nat := none
  applied : Bool := false
deriving DecidableEq, Repr

/-- The configuration unit: open transaction, waiting COMMIT, pending shadow of direct writes (R557, R558). -/
structure CfgUnit where
  txn        : Option Txn := none
  commit     : Option Commit := none
  pend       : List CfgEntry := []
  lastDirect : Half := 0
deriving DecidableEq, Repr, Inhabited

/-! ## Flash and security (R529 to R549) -/

/-- What a firmware, configuration or agent bank holds (R530 to R532): the fields of its header sector, whether HCRC is that of the header
and CRC that of the body, the signed image's header, a configuration's write list, and whether the security engine accepted the image's
signatures when it last checked them (R536). -/
structure FlashBank where
  seq  : Word32
  hdr  : ImgHdr := default
  list : List CfgEntry := []
  len  : Nat := 0
  crc  : Word32 := 0
  magic : Word32 := 0x5A424E4B
  kind  : Byte := hdr.kind
  format : Byte := 1
  hcrcGood : Bool := true
  crcGood : Bool := true
  accepted : Bool := true
deriving DecidableEq, Repr, Inhabited

/-- Fuses (R537): per key slot the SHA-384 of the RSA modulus and of the SLH-DSA key, and the wrapped private halves of the identity pairs
and of the device configuration pair, with the hashes of that pair's public halves, which the security engine holds (R536). -/
structure Fuses where
  vendorKeys   : Table (BitVec 384 × BitVec 384) := []
  ownerKeys    : Table (BitVec 384 × BitVec 384) := []
  identity     : BitVec 4096 := 0
  deviceKey    : BitVec 384 × BitVec 384 := (0, 0)
  lifecycle    : BitVec 2 := 1
  vendorRevoke : BitVec 4 := 0
  ownerUsed    : BitVec 4 := 0
  ownerRevoke  : BitVec 4 := 0
  fwSvn        : Nat := 0
  cfgSvn       : Nat := 0
  agentSvn     : Nat := 0
  vendorId     : Half := 0
  variant      : Byte := 0
  serial       : Word64 := 0
deriving DecidableEq, Repr, Inhabited

/-- Where an SPDM connection stands (R546, R547): the last step of its start-up, sessions in handshake and established, the transcript of its
answers, by request code and body, and when the last response was signed the transcript that it signs. -/
structure Spdm where
  step      : Nat := 0
  handshake : List Nat := []
  sessions  : List Nat := []
  log       : List (Nat × List Byte) := []
  signed    : Option (List (Nat × List Byte)) := none
deriving DecidableEq, Repr, Inhabited

/-- A response of the SPDM responder, in its outbox (log entries 9 and 12): the request it answers, or an error. -/
inductive SpdmResp where
  | error
  | answer (request : Nat) (body : List Byte)
deriving DecidableEq, Repr

/-- The security engine. `toWrite` is a checked image that waits for its flash pair (R544). Flash banks are numbered as in R530: 0 and 1 firmware, 2 and 3 configuration, 6 and 7 agent. -/
structure SecUnit where
  fuses   : Fuses := {}
  flash   : Table (Option FlashBank) := []
  scopes  : BitVec 3 := 0
  spdm    : Spdm := {}
  out     : List SpdmResp := []
  measure : Table Nat := []
  nonce   : BitVec 128 := 0
  updStatus : Half := 0
  updSeq  : Word32 := 0
  updDone : Bool := false
  updBusy : Bool := false
  toWrite : Option FlashBank := none
  dbgStatus : Half := 0
deriving DecidableEq, Repr, Inhabited

/-! ## Field record (R586 to R599) -/

/-- An entry of the event log (R597). -/
structure FldEvent where
  time     : Word64
  code     : Half
  flags    : BitVec 3
  resource : Word32
  detail   : Word64
deriving DecidableEq, Repr

/-- A cluster's core and bank maps as the record keeps them (R596), with the banks that are due for retirement, which stay out of service
from the next die reset on (R248; DESIGN CHOICE, log entry 42). -/
structure CluMap where
  absent : Word64 := 0
  spare0 : Byte := 0xFF
  spare1 : Byte := 0xFF
  bankMap : Table Nat := []
  retired : List Nat := []
  half   : Bool := false
  dues   : List (Nat × Bool) := []
deriving DecidableEq, Repr, Inhabited

/-- A stack's channel map as the record keeps it (R596); `pendingPhys` is the physical channel that set RETIRE_PENDING. -/
structure ChanMap where
  spareUsed : Bool := false
  spareFor  : Nat := 0
  half      : Bool := false
  pendingPhys : Option Nat := none
  failedCh  : List Nat := []
deriving DecidableEq, Repr, Inhabited

/-- The maps of R596: per cluster cores and banks, per stack channels, retired cumulus slots, failed wires by bundle, and the
fabric lanes that failed when last trained, receive and transmit, by port. -/
structure FldMaps where
  clus   : Table CluMap := []
  chans  : Table ChanMap := []
  cum    : List Nat := []
  wires  : Table (List Nat) := []
  laneRx : Table (BitVec 10) := []
  laneTx : Table (BitVec 10) := []
deriving DecidableEq, Repr, Inhabited

/-- An image of the record: the summary of R594, the histograms of R593 by entry × bins + bin, the maps, the event log, and the replays of each fabric
port (R388). -/
structure FldImage where
  powerOn   : Nat := 0
  boots     : Nat := 0
  resets    : Nat := 0
  writes    : Nat := 0
  erases0   : Nat := 0
  erases1   : Nat := 0
  snapTime  : Word64 := 0
  cause     : BitVec 3 := 0
  flags     : BitVec 3 := 0
  flowLow   : Nat := 0
  flowLost  : Nat := 0
  flowLowS  : Nat := 0
  flowLostS : Nat := 0
  trips     : Nat := 0
  fatals    : Nat := 0
  eventNext : Nat := 0
  rebuilds  : Nat := 0
  energyJ   : Nat := 0
  temp      : Table Nat := []
  droop     : Table Nat := []
  ser       : Table Nat := []
  snr       : Table Nat := []
  corr      : Table Nat := []
  uncorr    : Table Nat := []
  replays   : Table Nat := []
  maps      : FldMaps := {}
  events    : Table (Option FldEvent) := []
deriving DecidableEq, Repr, Inhabited

/-- A write of the record that runs (R588): its cause, when it started, the bank it goes to, and whether it
serves a WRITE_NOW. -/
structure FldWrite where
  cause : BitVec 3
  startNs : Nat
  bank  : Nat
  serves : Bool := false
deriving DecidableEq, Repr

/-- The field record (R586 to R592). `lastStart` is the instant of the last write's start, `again` a WRITE_NOW that
came while a write ran, `serPrev` what the lane counters stood at at the last second. -/
structure FldUnit where
  live     : FldImage := {}
  snap     : FldImage := {}
  banks    : Table (Option (Word32 × FldImage)) := []
  writing  : Option FldWrite := none
  pend     : Option (BitVec 3) := none
  request  : Bool := false
  again    : Bool := false
  lastStart : Option Nat := none
  lastFailed : Bool := false
  rebuilt  : Bool := false
  lastCause : BitVec 3 := 0
  lastSeq  : Word32 := 0
  lastSlot : Nat := 0
  tickNs   : Nat := 0
  serPrev  : Table Nat := []
  energyRem : Nat := 0
deriving DecidableEq, Repr, Inhabited

/-! ## Package (R540 to R543, R577, R578, R636 to R639) -/

/-- What the package as a whole is in. `stage` is STAGE of R540, `fwRun` the bank and the SEQ of the firmware chosen since package reset
(R544), `runSince` the instant it reached RUNNING, `fatal` the
status of a package-fatal error, `inReset` package reset in force, `powered` VBUS present, `warm` that the boot follows a
reset of the welkin die (R469), `fatalBefore` that the welkin die was fatal since package reset (R577). -/
structure Pkg where
  powered    : Bool := true
  inReset    : Bool := false
  stage      : Nat := 0
  failStatus : Half := 0
  cfgSource  : Nat := 0
  fwBank     : Nat := 0
  fwRun      : Option (Nat × Word32) := none
  agentBank  : Option Nat := none
  runSince   : Nat := 0
  fatal      : Option Status := none
  thermTrip  : Bool := false
  warm       : Bool := false
  fatalBefore : Bool := false
deriving DecidableEq, Repr, Inhabited

end Sys2Proof.Machine
end

