-- ==== Sys2Proof/Machine/State.lean ====
section
/-! DEFINITION. The whole state of the package (plain data), its faults and refusals, and the state after reset. -/
namespace Sys2Proof.Machine

/-- Faults of the machine. No rule of the spec leaves a command without an effect, so no meaning raises one; the type is
closed and safe. -/
inductive Fault where
  /-- Raised by nobody: kept so that the type has a name to report. Safe. -/
  | unreachable
deriving DecidableEq, Repr

/-- Refusals of the machine. -/
inductive Refusal where
  /-- A command that has no meaning yet, by its mnemonic; raised by an arm of exec only. Safe. -/
  | notModelled (mnemonic : String)
deriving DecidableEq, Repr

/-- Everything the spec gives the package, as plain data; reset values that the spec does not give are DESIGN CHOICE, log entry 3. -/
structure State where
  /-- Commands that wait, first in first out. -/
  pending    : List Instr := []
  /-- The model's own counter of free values drawn (DESIGN CHOICE, log entry 5). -/
  freeCtr    : Nat := 0
  /-- Local time in nanoseconds (R13; idle ticks, DESIGN CHOICE, log entry 1). -/
  localNs    : Nat := 0
  /-- Registers that are stored as written or counted, by key (RegId.key); an unlisted one holds its reset value (regResetAt). -/
  regs       : Table Word64 := []
  /-- The cores by physical number: scalar and tile registers, descriptors, scratchpad, units (spec/03 to spec/06). -/
  cores      : Table Core := []
  /-- The clusters: cluster memory, map, barriers, stagers, copy unit, steward (spec/06, spec/07). -/
  clusters   : Table Cluster := []
  /-- Device memory (spec/08). -/
  dev        : List Host.Cell := []
  /-- Words of 32 bytes of device memory whose poison differs from that of their channel (R262): poisoned ones, or readable ones of a channel that is poisoned whole. -/
  devPoison  : List Nat := []
  /-- Bit errors that stand in stored words of device memory (R262): what the 36 stored symbols differ by from the code word of what was written. -/
  devErrs    : Table (BitVec 288) := []
  /-- Host memory as the package reads and writes it (R512; DESIGN CHOICE, log entry 15). -/
  hostMem    : List Host.Cell := []
  /-- Memory stacks: state, repairs, journals, park queues (spec/08). -/
  stks     : Table Stack := []
  /-- Update units (spec/09). -/
  upds       : Table UpdUnit := []
  /-- The command queues (spec/10). -/
  queues     : Table Queue := []
  /-- Event counters (R330). -/
  evt        : Table Word64 := []
  /-- Status that marks an event counter (R334). -/
  evtFault   : Table (Option Status) := []
  /-- The time unit (R336 to R345). -/
  time       : TimeUnit := {}
  /-- Queue last granted (R323; DEDUCED, log entry 21). -/
  lastGrant  : Nat := 0
  /-- Compute dies: in service, out, returning (spec/14). -/
  dies       : Table Die := []
  /-- Fabric ports, switch, packets under way, flits sent (spec/11). -/
  fab        : Fabric := {}
  /-- The collective unit and cumulus (spec/12). -/
  coll       : CollUnit := {}
  /-- Host port: CXL, snoop filter, MSI-X (spec/16). -/
  host       : HostPort := {}
  /-- Error records, taint and retirement (spec/18). -/
  err        : ErrUnit := {}
  /-- Die links by direction (spec/14). -/
  links      : Table LinkDir := []
  /-- Application cores: stewards and service cores (R227, R581). -/
  svc        : Table AppCore := []
  /-- Governor: powers, levels, ramps, valve, heartbeat (spec/15). -/
  gov        : Gov := {}
  /-- Configuration unit (spec/17). -/
  cfg        : CfgUnit := {}
  /-- Security engine and flash banks (spec/17). -/
  sec        : SecUnit := {}
  /-- Field record (spec/19). -/
  fld        : FldUnit := {}
  /-- Package: power, reset, boot stage, pins (spec/17, spec/22). -/
  pkg        : Pkg := {}
deriving DecidableEq, Repr

/-- The package right after package reset, at instant 0 of R540: every field at its default above. Registers hold the Reset values
of their tables (regResetAt), memories list nothing, every unit waits for BOOT. -/
def State.reset : State := {}

end Sys2Proof.Machine
end

