-- ==== Sys2Proof/Machine/StatusTable.lean ====
section
/-! DEFINITION. The table of status values of R585: value, class and record rule of each status. -/
namespace Sys2Proof.Machine

/-- The 16-bit value of a status (R585). -/
def statusCode : Status → Half
  | .success => 0x0000
  | .cumFallback => 0x0001
  | .shardNewer => 0x0002
  | .cfgPending => 0x0003
  | .formatBad => 0x0101
  | .numCtrlBad => 0x0102
  | .feBlockAxis => 0x0103
  | .feNoTile => 0x0104
  | .feTileMismatch => 0x0105
  | .feExtentBad => 0x0106
  | .feAlias => 0x0107
  | .beNoTile => 0x0108
  | .beTileMismatch => 0x0109
  | .beExtentBad => 0x010A
  | .beAlias => 0x010B
  | .descBad => 0x0201
  | .descSpaceBad => 0x0202
  | .descPartBad => 0x0203
  | .descShapeBad => 0x0204
  | .descDestBroadcast => 0x0205
  | .indexStrict => 0x0206
  | .copyOverlapLarge => 0x0207
  | .illegalInsn => 0x0301
  | .tpPcRange => 0x0302
  | .scalarAddrBad => 0x0303
  | .progBad => 0x0304
  | .tpTimeout => 0x0305
  | .fabVcBad => 0x0306
  | .atomicAddrBad => 0x0307
  | .evtDenied => 0x0308
  | .coreAbsent => 0x0309
  | .coreHwFault => 0x030A
  | .spadUncorrectable => 0x0401
  | .cmemUncorrectable => 0x0402
  | .aliasOpBad => 0x0403
  | .cmemAbsent => 0x0404
  | .memUncorrectable => 0x0501
  | .memReserved => 0x0502
  | .memAbsent => 0x0503
  | .holdOverrun => 0x0504
  | .updGroupBad => 0x0601
  | .updSlowFail => 0x0602
  | .updJournalBad => 0x0603
  | .updJournalLost => 0x0604
  | .cmdKindBad => 0x0701
  | .cmdBad => 0x0702
  | .cqTailBad => 0x0703
  | .partDenied => 0x0704
  | .depFailed => 0x0705
  | .cancelled => 0x0706
  | .evtTimeout => 0x0707
  | .fabTimeout => 0x0801
  | .fabAccessDenied => 0x0802
  | .fabNoRoute => 0x0803
  | .fabPeerWithdrawn => 0x0804
  | .fabSizeMismatch => 0x0805
  | .fabStall => 0x0806
  | .tainted => 0x0901
  | .collMemberLost => 0x0902
  | .collTimeout => 0x0903
  | .collBad => 0x0904
  | .collRefUnknown => 0x0905
  | .collCrcBad => 0x0906
  | .cumUncorrectable => 0x0907
  | .shardStale => 0x0908
  | .dieLost => 0x0A01
  | .dieNotReady => 0x0A02
  | .dlkStreamStarved => 0x0A03
  | .thermalTrip => 0x0B01
  | .flowLow => 0x0B02
  | .flowLost => 0x0B03
  | .coolSensorFail => 0x0B04
  | .hostLinkDown => 0x0C01
  | .hostAccessFail => 0x0C02
  | .hostIdeFail => 0x0C03
  | .secImageBad => 0x0D01
  | .secRollback => 0x0D02
  | .debugGrantBad => 0x0D03
  | .cfgBusy => 0x0D04
  | .cfgTxnBad => 0x0D05
  | .cfgShadowFull => 0x0D06
  | .cfgCheckFail => 0x0D07
  | .cfgQuiesceTimeout => 0x0D08
  | .cfgAborted => 0x0D09
  | .cfgPersistFail => 0x0D0A
  | .coreRetired => 0x0E01
  | .coreLost => 0x0E02
  | .cmemBankRetired => 0x0E03
  | .cmemHalf => 0x0E04
  | .memChannelSpared => 0x0E05
  | .memRetirePending => 0x0E06
  | .memChannelDead => 0x0E07
  | .fabLaneSpared => 0x0E08
  | .fabPortNarrowed => 0x0E09
  | .fabPortRetired => 0x0E0A
  | .dlkWireSpared => 0x0E0B
  | .dlkBundleHalf => 0x0E0C
  | .dlkBundleDisabled => 0x0E0D
  | .appCoreFault => 0x0E0E
  | .timeRefLost => 0x0E0F
  | .stackContentsLost => 0x0E10
  | .dieOut => 0x0E20
  | .errQueueOverflow => 0x0E21
  | .stewardPairLost => 0x0E22
  | .welkinFatal => 0x0E30
  | .vbusFault => 0x0E31
  | .welkinRepeat => 0x0E32

/-- The class of a status (R565, R585); 0 stands for no class. -/
def statusClass : Status → Nat
  | .success => 0
  | .cumFallback => 1
  | .shardNewer => 1
  | .cfgPending => 1
  | .formatBad => 2
  | .numCtrlBad => 2
  | .feBlockAxis => 2
  | .feNoTile => 2
  | .feTileMismatch => 2
  | .feExtentBad => 2
  | .feAlias => 2
  | .beNoTile => 2
  | .beTileMismatch => 2
  | .beExtentBad => 2
  | .beAlias => 2
  | .descBad => 2
  | .descSpaceBad => 2
  | .descPartBad => 2
  | .descShapeBad => 2
  | .descDestBroadcast => 2
  | .indexStrict => 2
  | .copyOverlapLarge => 2
  | .illegalInsn => 2
  | .tpPcRange => 2
  | .scalarAddrBad => 2
  | .progBad => 2
  | .tpTimeout => 2
  | .fabVcBad => 2
  | .atomicAddrBad => 2
  | .evtDenied => 2
  | .coreAbsent => 2
  | .coreHwFault => 2
  | .spadUncorrectable => 2
  | .cmemUncorrectable => 2
  | .aliasOpBad => 2
  | .cmemAbsent => 2
  | .memUncorrectable => 2
  | .memReserved => 2
  | .memAbsent => 2
  | .holdOverrun => 2
  | .updGroupBad => 2
  | .updSlowFail => 2
  | .updJournalBad => 2
  | .updJournalLost => 4
  | .cmdKindBad => 2
  | .cmdBad => 2
  | .cqTailBad => 2
  | .partDenied => 2
  | .depFailed => 2
  | .cancelled => 2
  | .evtTimeout => 2
  | .fabTimeout => 2
  | .fabAccessDenied => 2
  | .fabNoRoute => 2
  | .fabPeerWithdrawn => 2
  | .fabSizeMismatch => 2
  | .fabStall => 2
  | .tainted => 2
  | .collMemberLost => 2
  | .collTimeout => 2
  | .collBad => 2
  | .collRefUnknown => 2
  | .collCrcBad => 2
  | .cumUncorrectable => 3
  | .shardStale => 2
  | .dieLost => 2
  | .dieNotReady => 2
  | .dlkStreamStarved => 3
  | .thermalTrip => 5
  | .flowLow => 3
  | .flowLost => 3
  | .coolSensorFail => 3
  | .hostLinkDown => 2
  | .hostAccessFail => 2
  | .hostIdeFail => 3
  | .secImageBad => 2
  | .secRollback => 2
  | .debugGrantBad => 2
  | .cfgBusy => 2
  | .cfgTxnBad => 2
  | .cfgShadowFull => 2
  | .cfgCheckFail => 2
  | .cfgQuiesceTimeout => 2
  | .cfgAborted => 2
  | .cfgPersistFail => 2
  | .coreRetired => 3
  | .coreLost => 3
  | .cmemBankRetired => 3
  | .cmemHalf => 3
  | .memChannelSpared => 3
  | .memRetirePending => 3
  | .memChannelDead => 3
  | .fabLaneSpared => 3
  | .fabPortNarrowed => 3
  | .fabPortRetired => 3
  | .dlkWireSpared => 3
  | .dlkBundleHalf => 3
  | .dlkBundleDisabled => 3
  | .appCoreFault => 3
  | .timeRefLost => 3
  | .stackContentsLost => 3
  | .dieOut => 4
  | .errQueueOverflow => 4
  | .stewardPairLost => 4
  | .welkinFatal => 4
  | .vbusFault => 5
  | .welkinRepeat => 5

/-- Whether a record is written for the status (R569, Record column of R585); WELKIN_FATAL goes only into the
field record. -/
def statusRecorded : Status → Bool
  | .coreHwFault => true
  | .spadUncorrectable => true
  | .cmemUncorrectable => true
  | .memUncorrectable => true
  | .updJournalBad => true
  | .updJournalLost => true
  | .fabStall => true
  | .collCrcBad => true
  | .cumUncorrectable => true
  | .dlkStreamStarved => true
  | .thermalTrip => true
  | .flowLow => true
  | .flowLost => true
  | .coolSensorFail => true
  | .hostLinkDown => true
  | .hostIdeFail => true
  | .cfgPersistFail => true
  | .coreRetired => true
  | .coreLost => true
  | .cmemBankRetired => true
  | .cmemHalf => true
  | .memChannelSpared => true
  | .memRetirePending => true
  | .memChannelDead => true
  | .fabLaneSpared => true
  | .fabPortNarrowed => true
  | .fabPortRetired => true
  | .dlkWireSpared => true
  | .dlkBundleHalf => true
  | .dlkBundleDisabled => true
  | .appCoreFault => true
  | .timeRefLost => true
  | .stackContentsLost => true
  | .dieOut => true
  | .errQueueOverflow => true
  | .stewardPairLost => true
  | .vbusFault => true
  | .welkinRepeat => true
  | _ => false

/-- Whether commands and instructions may complete with the status: those from 0x0E01 upward appear only in
error records and the field record (R585). -/
def statusCompletes (s : Status) : Bool := decide ((statusCode s).toNat < 0x0E01)

/-- All statuses of R585. -/
def allStatuses : List Status :=
  [.success, .cumFallback, .shardNewer, .cfgPending, .formatBad, .numCtrlBad, .feBlockAxis, .feNoTile,
   .feTileMismatch, .feExtentBad, .feAlias, .beNoTile, .beTileMismatch, .beExtentBad, .beAlias, .descBad,
   .descSpaceBad, .descPartBad, .descShapeBad, .descDestBroadcast, .indexStrict, .copyOverlapLarge, .illegalInsn,
   .tpPcRange, .scalarAddrBad, .progBad, .tpTimeout, .fabVcBad, .atomicAddrBad, .evtDenied, .coreAbsent,
   .coreHwFault, .spadUncorrectable, .cmemUncorrectable, .aliasOpBad, .cmemAbsent, .memUncorrectable, .memReserved,
   .memAbsent, .holdOverrun, .updGroupBad, .updSlowFail, .updJournalBad, .updJournalLost, .cmdKindBad, .cmdBad,
   .cqTailBad, .partDenied, .depFailed, .cancelled, .evtTimeout, .fabTimeout, .fabAccessDenied, .fabNoRoute,
   .fabPeerWithdrawn, .fabSizeMismatch, .fabStall, .tainted, .collMemberLost, .collTimeout, .collBad,
   .collRefUnknown, .collCrcBad, .cumUncorrectable, .shardStale, .dieLost, .dieNotReady, .dlkStreamStarved,
   .thermalTrip, .flowLow, .flowLost, .coolSensorFail, .hostLinkDown, .hostAccessFail, .hostIdeFail, .secImageBad,
   .secRollback, .debugGrantBad, .cfgBusy, .cfgTxnBad, .cfgShadowFull, .cfgCheckFail, .cfgQuiesceTimeout,
   .cfgAborted, .cfgPersistFail, .coreRetired, .coreLost, .cmemBankRetired, .cmemHalf, .memChannelSpared,
   .memRetirePending, .memChannelDead, .fabLaneSpared, .fabPortNarrowed, .fabPortRetired, .dlkWireSpared,
   .dlkBundleHalf, .dlkBundleDisabled, .appCoreFault, .timeRefLost, .stackContentsLost, .dieOut, .errQueueOverflow,
   .stewardPairLost, .welkinFatal, .vbusFault, .welkinRepeat]

/-- The status that a 16-bit value names (R585); values not listed are never produced. -/
def statusOfCode (c : Half) : Status := (allStatuses.find? fun s => decide (statusCode s = c)).getD .fabPeerWithdrawn

end Sys2Proof.Machine
end

