-- ==== Sys2Proof/Machine/Ops.lean ====
section
/-! DEFINITION. The named operations over registers, units, memories and error records that every meaning uses. -/
namespace Sys2Proof.Machine

/-- A command that is not enabled in a state leaves it as it is (DESIGN CHOICE, log entry 2). -/
abbrev Out := Host.Outcome State Fault Refusal

/-! ## Homes of state: one accessor pair each -/

/-- The stored value of a register (R14). -/
def rget (s : State) (r : Reg) : Word64 := tget regResetAt s.regs (regOffset r)
/-- Store a register. -/
def rset (s : State) (r : Reg) (v : Word64) : State := { s with regs := tset regResetAt s.regs (regOffset r) v }
/-- Advance a counter register, which wraps at 2^64. -/
def rbump (s : State) (r : Reg) (n : Nat) : State := rset s r (rget s r + BitVec.ofNat 64 n)
/-- A field of a stored register. -/
def rfld (s : State) (r : Reg) (lo n : Nat) : Nat := nfld (rget s r).toNat lo n
def rbit (s : State) (r : Reg) (i : Nat) : Bool := nbit (rget s r).toNat i
/-- Store a field of a register. -/
def rsetFld (s : State) (r : Reg) (lo n v : Nat) : State :=
  let w := (rget s r).toNat
  rset s r (BitVec.ofNat 64 (w - nfld w lo n * 2 ^ lo + v % 2 ^ n * 2 ^ lo))

def coreOf (s : State) (p : Nat) : Core := tget (fun _ => {}) s.cores p
def setCore (s : State) (p : Nat) (c : Core) : State := { s with cores := tset (fun _ => {}) s.cores p c }
def clusterOf (s : State) (c : Nat) : Cluster := tget (fun _ => {}) s.clusters c
def setCluster (s : State) (c : Nat) (k : Cluster) : State := { s with clusters := tset (fun _ => {}) s.clusters c k }
def stackOf (s : State) (n : Nat) : Stack := tget (fun _ => {}) s.stks n
def setStack (s : State) (n : Nat) (k : Stack) : State := { s with stks := tset (fun _ => {}) s.stks n k }
def updOf (s : State) (n : Nat) : UpdUnit := tget (fun _ => {}) s.upds n
def setUpd (s : State) (n : Nat) (u : UpdUnit) : State := { s with upds := tset (fun _ => {}) s.upds n u }
def queueOf (s : State) (q : Nat) : Queue := tget (fun _ => {}) s.queues q
def setQueue (s : State) (q : Nat) (k : Queue) : State := { s with queues := tset (fun _ => {}) s.queues q k }
def dieOf (s : State) (n : Nat) : Die := tget (fun _ => {}) s.dies n
def setDie (s : State) (n : Nat) (d : Die) : State := { s with dies := tset (fun _ => {}) s.dies n d }
def errQ (s : State) (n : Nat) : ErrQueue := tget (fun _ => {}) s.err.queues n
def setErrQ (s : State) (n : Nat) (q : ErrQueue) : State :=
  { s with err := { s.err with queues := tset (fun _ => {}) s.err.queues n q } }
def evtOf (s : State) (c : Nat) : Word64 := tget (fun _ => 0) s.evt c
def evtMark (s : State) (c : Nat) : Option Status := tget (fun _ => none) s.evtFault c

/-- A fresh free value (DESIGN CHOICE, log entry 5). -/
def freeWord (s : State) : Word64 := Config.freeWord s.freeCtr
def freeNat (s : State) : Nat := Config.freeNat s.freeCtr
def tickFree (s : State) : State := { s with freeCtr := s.freeCtr + 1 }
/-- Advance a counter of cycles or nanoseconds by a free amount: the model keeps no cycles (DESIGN CHOICE, log entry 11). -/
def rbumpFree (s : State) (r : Reg) : State := rset (tickFree s) r (rget s r + freeWord s)

/-- Put an action on the list of those due, once. -/
def addDue (s : State) (d : Due) : State :=
  if s.err.due.contains d then s else { s with err := { s.err with due := s.err.due ++ [d] } }
def dropDue (s : State) (d : Due) : State := { s with err := { s.err with due := s.err.due.filter (fun x => decide (x ≠ d)) } }

/-! ## Logical and physical cores (R7, R27, R28) -/

/-- The physical core that serves a logical core number, none when it is absent. -/
def physOf (s : State) (core : Nat) : Option Nat :=
  let c := core / 64
  let k := core % 64
  let cl := clusterOf s c
  if cl.spare0.toNat = k then some (66 * c + 64)
  else if cl.spare1.toNat = k then some (66 * c + 65)
  else if cl.absent.getLsbD k then none
  else some (66 * c + k)

/-- The logical number that a physical core serves, none for an idle spare or a retired core. -/
def logicalOf (s : State) (p : Nat) : Option Nat :=
  let c := p / 66
  let j := p % 66
  let cl := clusterOf s c
  if j = 64 then (if cl.spare0.toNat < 64 then some (64 * c + cl.spare0.toNat) else none)
  else if j = 65 then (if cl.spare1.toNat < 64 then some (64 * c + cl.spare1.toNat) else none)
  else if physOf s (64 * c + j) = some p then some (64 * c + j) else none

def clusterDie (c : Nat) : Nat := c / 16
def cluGovOf (s : State) (c : Nat) : CluGov := tget (fun _ => {}) s.gov.clus c
def setCluGov (s : State) (c : Nat) (g : CluGov) : State := { s with gov := { s.gov with clus := tset (fun _ => {}) s.gov.clus c g } }
/-- Whether a cluster's regulator is off (R486). -/
def cluOff (s : State) (c : Nat) : Bool := (cluGovOf s c).off
def linkOf (s : State) (l d : Nat) : LinkDir := tget (fun _ => {}) s.links (2 * l + d)
def setLink (s : State) (l d : Nat) (x : LinkDir) : State := { s with links := tset (fun _ => {}) s.links (2 * l + d) x }
def svcOf (s : State) (k : Nat) : AppCore := tget (fun _ => {}) s.svc k
def setSvc (s : State) (k : Nat) (x : AppCore) : State := { s with svc := tset (fun _ => {}) s.svc k x }
/-- The mtime counter of an application core (R228): cluster time in nanoseconds divided by 10, truncated. -/
def mtime (s : State) : Word64 := BitVec.ofNat 64 (s.time.now.toNat / 10)

/-- The misa register of the profile of R227: 64 bits wide, with A, C, D, F, H, I, M, S and U (PRESUMED, log entry 16). -/
def misa : Word64 := BitVec.ofNat 64 (2 ^ 63 + 2 ^ 20 + 2 ^ 18 + 2 ^ 12 + 2 ^ 8 + 2 ^ 7 + 2 ^ 5 + 2 ^ 3 + 2 ^ 2 + 1)

/-- A control and status register of an application core (R227, R228): `time` reads mtime, `mhartid` the core's number, service cores
first, `misa` the profile (PRESUMED, log entry 16). -/
def csrOf (s : State) (k num : Nat) : Word64 :=
  match num with
  | 0xC01 => mtime s
  | 0xF14 => BitVec.ofNat 64 k
  | 0x301 => misa
  | _ => tget (fun _ => 0) (svcOf s k).hart.csrs num

/-- Whether a cause of R462 has been detected on a die whose fence is still to run. -/
def dieCalled (s : State) (n : Nat) : Bool := s.err.due.any fun d => match d with | .dieFatal m _ => decide (m = n) | _ => false
/-- The state of a die (R463): one in service is FENCING from the detection of a cause on. -/
def dieState (s : State) (n : Nat) : DieSt := if (dieOf s n).st = .inService ∧ dieCalled s n then .fencing else (dieOf s n).st
/-- Whether a die is in service (R463). -/
def dieServes (s : State) (n : Nat) : Bool := decide (dieState s n = .inService)
/-- Whether the arithmetic clock of a cluster runs: its die serves, its regulator is on, and the flow state is not LOST
(R486, R494). -/
def clusterRuns (s : State) (c : Nat) : Bool := dieServes s (clusterDie c) && !cluOff s c && decide (s.gov.flow ≠ .lost)

/-! ## Error records (R567 to R573) -/

/-- The flags of R343 for an action that fires now. -/
def timeFlags (s : State) : BitVec 3 :=
  (if s.time.st = .holdover then 1 else 0)
  + (if s.time.st = .free ∨ s.time.st = .unsync then 2 else 0)
  + (if s.time.stepped then 4 else 0)

/-- The flags of R343 for an action of an instant (R339): one that a forward step passed over fires at the step. -/
def timeFlagsAt (s : State) (instant : Nat) : BitVec 3 :=
  let f := timeFlags s
  if s.time.steps.any fun x => decide (x.1 < instant) && decide (instant ≤ x.2) then f ||| 4 else f

/-- An action fires (R343): its flags; one that fires in FREE or UNSYNC is counted. -/
def fireFlags (s : State) (instant : Nat) : State × BitVec 3 :=
  (if s.time.st = .free ∨ s.time.st = .unsync then rbump s (.timeCtr 1) 1 else s, timeFlagsAt s instant)

/-- A resource of R567. -/
def resource (kind index : Nat) : Word32 := BitVec.ofNat 32 (kind * 2 ^ 24 + index % 2 ^ 24)

/-- The die whose record queue takes a resource (R567); 4 is the welkin die. -/
def resourceDie (r : Word32) : Nat :=
  let k := r.toNat / 2 ^ 24
  let i := r.toNat % 2 ^ 24
  let linkDie (l d : Nat) : Nat :=
    match l, d with
    | 0, 0 => 0 | 0, _ => 1 | 1, 0 => 0 | 1, _ => 2 | 2, 0 => 1 | 2, _ => 3 | 3, 0 => 2 | 3, _ => 3
    | l, _ => l - 4
  match k with
  | 0x01 => i / 66 / 16
  | 0x02 => i / 16 / 66 / 16
  | 0x03 => i / 66 / 16
  | 0x04 => i / 33 / 8
  | 0x05 => i / 8
  | 0x08 => linkDie (i / 2 ^ 21) (i / 2 ^ 20 % 2)
  | 0x0A => if i < 64 then i / 16 else 4
  | 0x12 => linkDie (i / 2 ^ 21) (i / 2 ^ 20 % 2)
  | _ => 4

/-- Whether a raise from contained to degraded retires the element (R571): kinds without a retirement of their own. -/
def resourceRetires (r : Word32) : Bool :=
  !([0x05, 0x0B, 0x0C, 0x0D, 0x10, 0x11, 0x12].contains (r.toNat / 2 ^ 24))

/-- The cause byte RESET of R462. -/
def causeReset : Byte := 1

/-- Write a record into the queue of its die without the raise of R571: overflow (R572) and counters. The record of a full
queue of an Ndopiolo die is itself raised where the welkin queue holds one of its resource (R571), to package-fatal. -/
def putRecord (s : State) (r : ErrRec) : State :=
  let q := errQ s r.source
  if q.recs.length ≥ 32 then
    let s := rbump s (.errOverflow r.source) 1
    let s := setErrQ s r.source { q with escalated := true }
    if r.source = 4 then addDue s .welkinFatal
    else
      let s := addDue s (.dieFatal r.source causeReset)
      let w := errQ s 4
      if w.recs.length ≥ 32 then
        addDue (setErrQ (rbump s (.errOverflow 4) 1) 4 { w with escalated := true }) .welkinFatal
      else
        let up := w.recs.any fun x => decide (x.resource = resource 0x0E r.source)
        let o : ErrRec := { time := s.time.now, status := .errQueueOverflow, cls := if up then 5 else 4, raised := up, timeFlags := timeFlags s,
                            source := 4, resource := resource 0x0E r.source, detail := (rget s (.errOverflow r.source)) }
        let s := rbump (setErrQ s 4 { w with recs := w.recs ++ [o], lastStatus := some o.status }) (.errRecords 4) 1
        if up then addDue (rbump s (.errRaised 4) 1) (.packageFatal .errQueueOverflow) else s
  else
    let s := setErrQ s r.source { q with recs := q.recs ++ [r], lastStatus := some r.status }
    let s := rbump s (.errRecords r.source) 1
    if r.raised then rbump s (.errRaised r.source) 1 else s

/-! ### Elements due for retirement (R246 to R249, R265 to R268) -/

/-- Bank of a word of a scratchpad, and logical bank of a word of a cluster memory (R230, R248). -/
def spadBank (w : Nat) : Nat := w / 8 % 16
def cmemBank (half : Bool) (w : Nat) : Nat := w / 8 % (if half then 32 else 64)

/-- The physical bank that serves a logical one: by the bank map (R247), in half mode the first 32 that are in service (R248; DESIGN
CHOICE, log entry 42). -/
def physBank (k : Cluster) (b : Nat) : Nat :=
  if k.half then ((upto 0 66).filter fun x => !setHas x k.retired).getD b b else tget (fun x => x) k.bankMap b

/-- A scratchpad bank becomes due: the first one sets RETIRE_PENDING (R249, R254). -/
def coreBankDue (c : Core) (bank : Nat) : Core :=
  if c.retirePending then c else { c with retirePending := true, retireBank := BitVec.ofNat 4 bank }

/-- A bank of a cluster memory becomes due, once (R246). -/
def bankDue (k : Cluster) (b : Nat) (follow : Bool) : Cluster :=
  if k.dues.any (fun x => decide (x.1 = b)) then k else { k with dues := k.dues ++ [(b, follow)] }

/-- The physical channel that serves a logical channel (R266 to R268). -/
def physChan (k : Stack) (ch : Nat) : Nat :=
  if k.half then k.halfMap.getD ch ch else if k.spareUsed ∧ k.spareFor = ch then 32 else ch

/-- The logical channel that a physical one serves, if it serves one. -/
def logicalChan (k : Stack) (c : Nat) : Option Nat := (upto 0 (if k.half then 16 else 32)).find? fun l => decide (physChan k l = c)

/-- Whether the spare channel can take a channel over. -/
def spareFree (k : Stack) : Bool := !k.spareUsed && !setHas 32 k.failedCh && !k.half

/-- RETIRE_PENDING of a stack is set by a channel, unless it is set (R268): the stack, and whether this set it. -/
def chanPending (k : Stack) (ch : Nat) : Stack × Bool :=
  if k.retirePending then (k, false) else ({ k with retirePending := true, pendingCh := ch, pendingPhys := physChan k ch }, true)

/-- A channel becomes due for retirement (R265): while the spare is free the first takes it, by the copy of R266; for any other, the
spare is in use (R268; DEDUCED, log entry 43). -/
def chanDue (k : Stack) (ch : Nat) (follow : Bool) : Stack × Bool :=
  if k.due = some ch then (k, false)
  else if spareFree k && k.due.isNone then ({ k with due := some ch, dueFollow := follow }, false)
  else chanPending k ch

/-- A record that follows from another one and is raised by none (R571). -/
def followRecord (s : State) (st : Status) (res : Word32) (detail : Nat) : State :=
  putRecord s { time := s.time.now, status := st, cls := statusClass st, timeFlags := timeFlags s, source := resourceDie res, resource := res
                detail := BitVec.ofNat 64 detail, followOn := true }

/-- An element becomes due for retirement by a raised record (R571, R246, R265); elements without a pending mark of their
own are kept on the list of actions due. -/
def markRetire (s : State) (r : Word32) : State :=
  let i := r.toNat % 2 ^ 24
  match r.toNat / 2 ^ 24 with
  | 0x02 => setCore s (i / 16) (coreBankDue (coreOf s (i / 16)) (i % 16))
  | 0x03 =>
    let k := clusterOf s (i / 66)
    match (upto 0 64).find? fun b => decide (physBank k b = i % 66) with
    | some b => setCluster s (i / 66) (bankDue k b true)
    | none => s
  | 0x04 =>
    let k := stackOf s (i / 33)
    match logicalChan k (i % 33) with
    | some ch =>
      let (k', new) := chanDue k ch true
      let s := setStack s (i / 33) k'
      if new then followRecord s .memRetirePending r ch else s
    | none => s
  | _ => addDue s (.retire r)

/-- The action of a raised record (R571). -/
def raisedAction (s : State) (r : ErrRec) : State :=
  if !r.raised then s
  else match r.cls with
    | 3 => if resourceRetires r.resource then markRetire s r.resource else s
    | 4 => if r.source = 4 then addDue s .welkinFatal else addDue s (.dieFatal r.source causeReset)
    | 5 => addDue s (.packageFatal r.status)
    | _ => s

/-- Write a record (R569 to R573): raised by one class when its queue holds a record of the same resource, unless it is
a follow-on. A record that a full queue discards takes no raised action (R572; DEDUCED, log entry 52). -/
def raiseRecord (s : State) (r : ErrRec) : State :=
  let held := (errQ s r.source).recs.any fun x => decide (x.resource = r.resource)
  let up := held && !r.followOn
  let r := { r with cls := min 5 (if up then r.cls + 1 else r.cls), raised := up,
                    time := s.time.now, timeFlags := timeFlags s }
  if (errQ s r.source).recs.length ≥ 32 then putRecord s r else raisedAction (putRecord s r) r

/-- Write the record of a status about a resource, when the status has one (R569). -/
def report (s : State) (st : Status) (res : Word32) (addr : Word64) (detail : Word64) (followOn : Bool) : State :=
  if statusRecorded st then
    raiseRecord s { status := st, cls := statusClass st, source := resourceDie res, resource := res, addr := addr,
                    detail := detail, followOn := followOn }
  else s

/-- Write the record of a status that R508, R542 or R557 names, with CLASS 2 (R569). -/
def reportAlways (s : State) (st : Status) (res : Word32) (addr : Word64) : State :=
  raiseRecord s { status := st, cls := 2, source := resourceDie res, resource := res, addr := addr }

/-- Change the live image of the field record (R586). -/
def modLive (s : State) (f : FldImage → FldImage) : State := { s with fld := { s.fld with live := f s.fld.live } }
/-- A counter of the field record, which stops at its largest value (R593). -/
def fldAdd (bits a n : Nat) : Nat := min (2 ^ bits - 1) (a + n)

/-! ## Memory accesses -/

/-- An uncorrectable or poisoned word: 8-byte word w of the scratchpad of a physical core or of a cluster memory, or 32-byte word w of
device memory. -/
inductive BadWord where
  | spad (p w : Nat) | cmem (c w : Nat) | dev (w : Nat)
deriving DecidableEq, Repr

/-- Why an access could not be made: the status, the resource and address of its record, and the register that holds the
first uncorrectable address (R243, R263). `found` lists the uncorrectable or poisoned words that the access met. `wait` marks an access that
waits instead (R250, R279), `park` the address that waits for a holding slot. -/
structure Err where
  status   : Status
  resource : Word32 := 0
  addr     : Word64 := 0
  ue       : Option Reg := none
  found    : List BadWord := []
  wait     : Bool := false
  park     : Option Nat := none
deriving DecidableEq, Repr

/-- The UE address register that an access error sets, unless it holds an address (R243, R256). -/
def noteUe (s : State) (e : Err) : State :=
  match e.ue with
  | none => s
  | some r => if rbit s r 63 then s else rset s r (BitVec.ofNat 64 (2 ^ 63 + e.addr.toNat % 2 ^ 41))

/-! ### Corrected and uncorrectable words (R242 to R246, R262 to R265) -/

/-- Record a correction of an element at an instant and keep those of the last `window` ns: the list and whether `limit` of
them are the element's (R246, R265). -/
def noteCorr (l : List (Nat × Nat)) (now elem window limit : Nat) : List (Nat × Nat) × Bool :=
  let l := (l.filter fun x => decide (now < x.2 + window)) ++ [(elem, now)]
  (l, decide ((l.filter fun x => decide (x.1 = elem)).length ≥ limit))

/-- Stack, local offset and logical channel of a device address (R259, R268). -/
def devStack (a : Nat) : Nat := 8 * nfld a 39 2 + nfld a 12 3
def devLocal (a : Nat) : Nat := nfld a 15 24 * 2 ^ 12 + nfld a 0 12
def devChan (half : Bool) (a : Nat) : Nat := if half then nfld (devLocal a) 8 4 else nfld (devLocal a) 8 5

/-- Whether a word of device memory is poisoned (R263, R267). -/
def devPoisoned (s : State) (w : Nat) : Bool :=
  let k := stackOf s (devStack (32 * w))
  if setHas (devChan k.half (32 * w)) k.poisonCh then !setHas w s.devPoison else setHas w s.devPoison

/-- Set or clear the poison bit of a word. -/
def setDevPoison (s : State) (w : Nat) (b : Bool) : State :=
  let k := stackOf s (devStack (32 * w))
  let listed := if setHas (devChan k.half (32 * w)) k.poisonCh then !b else b
  { s with devPoison := if listed then setAdd w s.devPoison else setDel w s.devPoison }

/-- Poisoned words of a channel. -/
def chanPoison (s : State) (n ch : Nat) : Nat :=
  let k := stackOf s n
  let l := (s.devPoison.filter fun w => decide (devStack (32 * w) = n) && decide (devChan k.half (32 * w) = ch)).length
  if setHas ch k.poisonCh then 67108864 - l else l

/-- A channel becomes due for retirement (R265, R268). -/
def channelDue (s : State) (n ch : Nat) (follow : Bool) : State :=
  let (k, new) := chanDue (stackOf s n) ch follow
  let s := setStack s n k
  if new then report s .memRetirePending (resource 0x04 (33 * n + k.pendingPhys)) 0 (BitVec.ofNat 64 ch) follow else s

/-- What becomes of a word that a read finds uncorrectable or poisoned (R243, R263): its poison bit is set. An uncorrectable word that was
not poisoned yet is an uncorrectable error, by which a bank that held four poisoned words, or a channel that held 16, becomes due for
retirement (R246, R265; that a poisoned word met again is none is DEDUCED, log entry 41). -/
def foundUncorr (s : State) (b : BadWord) : State :=
  match b with
  | .spad p w =>
    let c := coreOf s p
    let held := (c.spadPoison.filter fun x => decide (spadBank x = spadBank w)).length
    let c' := { c with spadPoison := setAdd w c.spadPoison, spadBad := setDel w c.spadBad }
    setCore s p (if held ≥ 4 && !setHas w c.spadPoison then coreBankDue c' (spadBank w) else c')
  | .cmem c w =>
    let k := clusterOf s c
    let held := (k.cmemPoison.filter fun x => decide (cmemBank k.half x = cmemBank k.half w)).length
    let k' := { k with cmemPoison := setAdd w k.cmemPoison, cmemBad := setDel w k.cmemBad }
    setCluster s c (if held ≥ 4 && !setHas w k.cmemPoison then bankDue k' (cmemBank k.half w) true else k')
  | .dev w =>
    let n := devStack (32 * w)
    let k := stackOf s n
    let ch := devChan k.half (32 * w)
    let held := chanPoison s n ch
    let fresh := !devPoisoned s w
    let s := if devPoisoned s w then s
             else modLive (setDevPoison s w true) fun l => { l with uncorr := tmod (fun _ => 0) l.uncorr (33 * n + physChan k ch) fun x => fldAdd 32 x 1 }
    let s := { s with devErrs := tset (fun _ => 0) s.devErrs w 0 }
    if held ≥ 16 && fresh then channelDue s n ch true else s

/-- The effects an access error has beside the status it gives (R243, R263). -/
def noteErr (s : State) (e : Err) : State :=
  e.found.foldl foundUncorr (noteUe s e)

/-- An instruction or command failed on an access: the record (R569), and the effects on the memory. -/
def reportErr (s : State) (e : Err) : State :=
  noteErr (if e.resource = 0 then s else report s e.status e.resource e.addr 0 false) e

/-- The records that were written between two states name a command (R568, QUEUE and CMD_SEQ). -/
def forCommand (q : Nat) (seq : Word32) (s s' : State) : State :=
  { s' with err := { s'.err with queues := s'.err.queues.map fun (x : Nat × ErrQueue) =>
      (x.1, { x.2 with recs := x.2.recs.mapIdx fun i r =>
        if i < (errQ s x.1).recs.length then r else { r with queue := BitVec.ofNat 16 q, cmdSeq := seq } }) } }

/-- An instruction of a core failed on an access. -/
def coreReport (s : State) (p : Nat) (e : Err) : State :=
  forCommand (coreOf s p).cmdQueue (coreOf s p).cmdSeq s (reportErr s e)

/-- The outcome of an access over a whole range: the state and the first error met. -/
abbrev Acc := State × Option Err

/-- The first of two errors of a request, with the bad words of both (R244: a request is applied word by word). -/
def orErr (a b : Option Err) : Option Err :=
  match a, b with
  | none, b => b
  | some e, none => some e
  | some e, some f => some { e with found := e.found ++ f.found }

/-- Bytes grouped by the words of a given size they lie in: (word number, offset in it, bytes). -/
def wordChunks (size : Nat) : Nat → List Byte → List (Nat × Nat × List Byte)
  | _, [] => []
  | a, b :: t =>
    match wordChunks size (a + 1) t with
    | (w, o, bs) :: rest =>
      if a / size = w ∧ o ≠ 0 then (w, a % size, b :: bs) :: rest
      else (a / size, a % size, [b]) :: (w, o, bs) :: rest
    | [] => [(a / size, a % size, [b])]

/-- How a windowed write combines old and new (R238): 0 plain, 1 bit-set, 2 bit-clear. -/
def windowByte (w : Nat) (old new : Byte) : Byte :=
  match w with | 0 => new | 1 => old ||| new | _ => old &&& ~~~new

/-- Write chunks of 8-byte words into a windowed memory with poison marks: a plain write of the whole word clears the
mark, any other write of a marked word leaves it and is an error (R244). The words so left are listed. -/
def putWords (win : Nat) : List (Nat × Nat × List Byte) → List Host.Cell × List Nat → (List Host.Cell × List Nat) × List Nat
  | [], m => (m, [])
  | (w, o, bs) :: t, (m, poison) =>
    let whole := decide (bs.length = 8) && decide (win = 0)
    if setHas w poison && !whole then
      let (r, e) := putWords win t (m, poison)
      (r, w :: e)
    else
      let old := mread m (8 * w + o) bs.length
      let m' := mwrite m (8 * w + o) (List.zipWith (windowByte win) old bs)
      putWords win t (m', if whole then setDel w poison else poison)

/-- The words among n bytes from a that are in either of two lists of marks, rising. -/
def badWords (size a n : Nat) (poison bad : List Nat) : List Nat :=
  let here (l : List Nat) : List Nat := l.filter fun w => decide (a / size ≤ w) && decide (w * size < a + n)
  (here bad).foldl (fun l w => setAdd w l) (here poison)

/-- Both lists of marks of a memory, and what is left of each once a write has left `marks`. -/
def bothMarks (poison bad : List Nat) : List Nat := bad.foldl (fun l w => setAdd w l) poison
def marksLeft (marks l : List Nat) : List Nat := l.filter fun w => setHas w marks

/-- An access that waits. -/
def waitErr : Err := { status := .success, wait := true }

/-! ### Scratchpads (R230 to R244) -/

def spadErr (s : State) (p w : Nat) : Err :=
  { status := .spadUncorrectable, resource := resource 0x02 (16 * p + (w * 8 / 64) % 16),
    addr := BitVec.ofNat 64 (w * 8), ue := (logicalOf s p).map Reg.coreSpadUe, found := [.spad p w] }

/-- The error of a request that met a list of bad words: that of the first, with all of them (R243, R244). -/
def wordsErr (err : Nat → Err) : List Nat → Option Err
  | [] => none
  | w :: t => orErr (some (err w)) (wordsErr err t)

/-- Whether the memories of a physical core's cluster are being cleared: their requests wait (R250). -/
def spadClears (s : State) (p : Nat) : Bool := (clusterOf s (p / 66)).clearing

/-- Read n bytes of a scratchpad at an offset of any window (R239: a read returns the plain contents). -/
def spadRead (s : State) (p off n : Nat) : Except Err (List Byte) :=
  let a := off % 0x80000
  let c := coreOf s p
  if spadClears s p then .error waitErr
  else match wordsErr (spadErr s p) (badWords 8 a n c.spadPoison c.spadBad) with
    | some e => .error e
    | none => .ok (mread c.spad a n)

/-- Write bytes at an offset of a scratchpad, in the window the offset lies in. -/
def spadWrite (s : State) (p off : Nat) (bs : List Byte) : Acc :=
  let c := coreOf s p
  if spadClears s p then (s, some waitErr)
  else
    let ((m, marks), e) := putWords (off / 0x80000) (wordChunks 8 (off % 0x80000) bs) (c.spad, bothMarks c.spadPoison c.spadBad)
    (setCore s p { c with spad := m, spadPoison := marksLeft marks c.spadPoison, spadBad := marksLeft marks c.spadBad }, wordsErr (spadErr s p) e)

/-! ### Cluster memory (R230 to R248) -/

def cmemErr (s : State) (c w : Nat) : Err :=
  let k := clusterOf s c
  { status := .cmemUncorrectable, resource := resource 0x03 (66 * c + physBank k (cmemBank k.half w)),
    addr := BitVec.ofNat 64 (w * 8), ue := some (.cluCmemUe c), found := [.cmem c w] }

/-- An access beyond the 4 MiB of a halved cluster memory (R248), to a cluster being cleared (R250) or whose arithmetic clock stands
(R29), or on a die out of service (R464). -/
def cmemFault (s : State) (c a n : Nat) : Option Err :=
  if !dieServes s (clusterDie c) then some { status := .dieLost }
  else if (clusterOf s c).clearing || !clusterRuns s c then some waitErr
  else if (clusterOf s c).half && decide (a + n > 0x400000) then some { status := .cmemAbsent }
  else none

def cmemRead (s : State) (c off n : Nat) : Except Err (List Byte) :=
  let a := off % 0x800000
  match cmemFault s c a n with
  | some e => .error e
  | none =>
    match wordsErr (cmemErr s c) (badWords 8 a n (clusterOf s c).cmemPoison (clusterOf s c).cmemBad) with
    | some e => .error e
    | none => .ok (mread (clusterOf s c).cmem a n)

def cmemWrite (s : State) (c off : Nat) (bs : List Byte) : Acc :=
  match cmemFault s c (off % 0x800000) bs.length with
  | some e => (s, some e)
  | none =>
    let k := clusterOf s c
    let ((m, marks), e) := putWords (off / 0x800000) (wordChunks 8 (off % 0x800000) bs) (k.cmem, bothMarks k.cmemPoison k.cmemBad)
    (setCluster s c { k with cmem := m, cmemPoison := marksLeft marks k.cmemPoison, cmemBad := marksLeft marks k.cmemBad }, wordsErr (cmemErr s c) e)

/-! ### Device memory (R258 to R281) -/

/-- The device address of a local offset of a stack (R259 read backwards). -/
def devAddr (stack loc : Nat) : Nat := stack / 8 * 2 ^ 39 + loc / 2 ^ 12 * 2 ^ 15 + stack % 8 * 2 ^ 12 + loc % 2 ^ 12

/-- First local offset of the optimizer journal and of the holding region (R260, R268). -/
def journalBase (half : Bool) : Nat := if half then 0x7EC000000 else 0xFEC000000
def holdBase (half : Bool) : Nat := journalBase half + 0x4000000
def reservedEnd (half : Bool) : Nat := if half then 0x800000000 else 0x1000000000

/-- Whether a device address lies in a reserved range (R260). -/
def devReserved (s : State) (a : Nat) : Bool :=
  let h := (stackOf s (devStack a)).half
  decide (journalBase h ≤ devLocal a) && decide (devLocal a < reservedEnd h)

/-- Whether a device block is parked (R277). -/
def devParked (s : State) (a : Nat) : Bool :=
  let n := devStack a
  (upto 0 16).any fun i =>
    rbit s (.memParkBase n i) 63 && decide (rfld s (.memParkBase n i) 12 29 ≤ a / 4096)
      && decide (a / 4096 ≤ rfld s (.memParkLimit n i) 12 29)

def devErr (s : State) (w : Nat) : Err :=
  let n := devStack (32 * w)
  let k := stackOf s n
  { status := .memUncorrectable, resource := resource 0x04 (33 * n + physChan k (devChan k.half (32 * w))),
    addr := BitVec.ofNat 64 (32 * w), ue := some (.memUe n), found := [.dev w] }

/-- The holding slot of a parked block (R278). -/
def slotOf (s : State) (a : Nat) : Option HoldSlot :=
  (stackOf s (devStack a)).slots.find? fun x => decide (x.tag = a / 4096)

/-- The word of the holding region in which a slot keeps a word of its block. -/
def slotWord (s : State) (x : HoldSlot) (w : Nat) : Nat :=
  let n := devStack (32 * w)
  devAddr n (holdBase (stackOf s n).half + 4096 * x.idx + 32 * w % 4096) / 32

/-- The word of a stack's storage that serves a word of device memory: of a parked block, that of its slot, or none while it has no
slot (R277, R278). -/
def devHome (s : State) (w : Nat) : Option Nat :=
  if devParked s (32 * w) then (slotOf s (32 * w)).map fun x => slotWord s x w else some w

/-- A word whose channel is dead (R267). -/
def devDead (s : State) (h : Nat) : Bool :=
  let k := stackOf s (devStack (32 * h))
  setHas (devChan k.half (32 * h)) k.deadCh

/-- Why a word of device memory cannot be accessed at all (R261, R267, R268, R464); an access to a line that the host holds
waits for its back-invalidate (R510), and one to a parked block while the park queue of its stack is full (R279). -/
def devFault (s : State) (write : Bool) (w : Nat) : Option Err :=
  let a := 32 * w
  let n := devStack a
  let k := stackOf s n
  if a ≥ 2 ^ 41 then some { status := .memAbsent }
  else if !dieServes s (n / 8) then some { status := .dieLost }
  else if !k.ready then some { status := .memAbsent }
  else if k.half && decide (devLocal a ≥ 2 ^ 35) then some { status := .memAbsent }
  else if write && devReserved s a then some { status := .memReserved }
  else match (devHome s w).filter (devDead s) with
    | some h => some (devErr s h)
    | none =>
      if s.host.snoop.contains (w / 2) || (!s.host.snoop.isEmpty && (devHome s w).any fun h => s.host.snoop.contains (h / 2)) || (decide (k.parkQ.length ≥ 64) && devParked s a) then some waitErr
      else none

/-- The words of n bytes from a. -/
def wordsOf (size a n : Nat) : List Nat := if n = 0 then [] else upto (a / size) ((a + n - 1) / size - a / size + 1)

def firstErr (f : Nat → Option Err) : List Nat → Option Err
  | [] => none
  | w :: t => orErr (f w) (firstErr f t)

/-- The slot that keeps its block where a device address of the holding region lies (R278). -/
def slotAt (s : State) (a : Nat) : Option HoldSlot :=
  let k := stackOf s (devStack a)
  if k.slots.isEmpty || decide (devLocal a < holdBase k.half) then none
  else k.slots.find? fun x => decide (x.idx = (devLocal a - holdBase k.half) / 4096)

/-- How the park queue names a command's request (R279): this number plus its queue, and its sequence number. -/
def cmdOrigin : Nat := 2 ^ 20

/-- Requests in the park queues whose origin a test picks are taken back: their instruction or command has ended (R281). -/
def parkForget (s : State) (t : Nat × Nat → Bool) : State :=
  let gone (r : ParkReq) : Bool := match r.origin with | some o => t o | none => false
  if s.stks.any fun x => x.2.parkQ.any gone then
    (s.stks.map (·.1)).foldl (fun s n => setStack s n { stackOf s n with parkQ := (stackOf s n).parkQ.filter fun r => !gone r }) s
  else s

/-- Replace the slots of a stack; the most slots in use is kept for MEM_PARK_PEAK (R283). -/
def setSlots (s : State) (n : Nat) (slots : List HoldSlot) : State :=
  let s := setStack s n { stackOf s n with slots := slots }
  if (rget s (.memParkPeak n)).toNat < slots.length then rset s (.memParkPeak n) (BitVec.ofNat 64 slots.length) else s

/-- What the stored symbols of a word differ by from a code word (R262). -/
def devPattern (s : State) (h : Nat) : BitVec 288 := tget (fun _ => 0) s.devErrs h

/-- A byte of a stack's storage, as it was last written. -/
def rawByte (s : State) (a : Nat) : Byte :=
  match slotAt s a with | some x => mget x.data (a % 4096) | none => mget s.dev a

/-- Store bytes of one word of a stack's storage. -/
def putRaw (s : State) (a : Nat) (bs : List Byte) : State :=
  match slotAt s a with
  | some x =>
    let n := devStack a
    setSlots s n ((stackOf s n).slots.map fun y => if y.idx = x.idx then { y with data := mwrite y.data (a % 4096) bs } else y)
  | none => { s with dev := mwrite s.dev a bs }

/-- Whether a read of a word of storage fails: it is poisoned, or its code finds it uncorrectable (R263). -/
def devBad (s : State) (h : Nat) : Bool :=
  devPoisoned s h || (decide (devPattern s h ≠ 0) && decide (rsFound (devPattern s h) = .uncorrectable))

/-- A byte of a word of storage as a read delivers it, corrected (R242, R263). -/
def homeByte (s : State) (a : Nat) : Byte :=
  if s.devErrs.isEmpty then rawByte s a else rawByte s a ^^^ (leftData (rsLeft (devPattern s (a / 32)))).getD (a % 32) 0

/-- A read corrected a bad symbol of a word of storage: it is counted, and its channel may become due (R263, R265, R283). -/
def devCorrected (s : State) (h : Nat) : State :=
  let n := devStack (32 * h)
  let k := stackOf s n
  let ch := devChan k.half (32 * h)
  let c := physChan k ch
  let (l, due) := noteCorr k.corr s.time.now.toNat c 86400000000000 1024
  let s := setStack s n { k with corr := l }
  let s := rbump (rbump s (.memEcc n) 1) (.memChCorr n c) 1
  let s := modLive s fun l => { l with corr := tmod (fun _ => 0) l.corr (33 * n + c) fun x => fldAdd 64 x 1 }
  if due then channelDue s n ch false else s

/-- A read of a word of storage (R263): the corrected word is written back; an uncorrectable one is left to the read's error. -/
def devFix (s : State) (h : Nat) : State :=
  let p := devPattern s h
  if p = 0 ∨ devPoisoned s h then s
  else match rsFound p with
    | .uncorrectable => s
    | f =>
      let r := rsLeft p
      let s1 := if r = 0 then s
        else setDevPoison (putRaw s (32 * h) (List.zipWith (· ^^^ ·) ((upto (32 * h) 32).map (rawByte s)) (leftData r))) h (leftPoison r)
      let s1 := { s1 with devErrs := tset (fun _ => 0) s1.devErrs h 0 }
      match f with | .corrected => devCorrected s1 h | _ => s1

/-- The words of device memory that a requester reads are corrected as they are read (R263); those that cannot be accessed are not
read. -/
def devSettle (s : State) (a n : Nat) : State :=
  if s.devErrs.isEmpty then s
  else (wordsOf 32 a n).foldl (fun s w =>
    if (devFault s false w).isSome then s else match devHome s w with | some h => devFix s h | none => s) s

/-- The words of host or device memory that a requester reads are corrected as they are read. -/
def hdSettle (s : State) (host : Bool) (a n : Nat) : State := if host then s else devSettle s a n

/-- One byte of device memory as a read sees it: of a parked block, its slot's byte, or +0 when it has none (R278). -/
def devByte (s : State) (a : Nat) : Byte :=
  match devHome s (a / 32) with | some h => homeByte s (32 * h + a % 32) | none => 0

/-- Whether a range lies as it is stored: no bit errors stand in storage, and no block of it is parked (R277) or a slot's. -/
def devPlain (s : State) (a n : Nat) : Bool :=
  s.devErrs.isEmpty && !((wordsOf 4096 a n).any fun b => devParked s (4096 * b) || (slotAt s (4096 * b)).isSome)

/-- n bytes of device memory as a read sees them. -/
def devBytes (s : State) (a n : Nat) : List Byte :=
  if devPlain s a n then mread s.dev a n else (upto a n).map (devByte s)

/-- Why a word of device memory cannot be read: it cannot be accessed, or what serves it is poisoned or uncorrectable (R263). -/
def devWordErr (s : State) (w : Nat) : Option Err :=
  match devFault s false w with
  | some e => some e
  | none => ((devHome s w).filter (devBad s)).map (devErr s)

def devRead (s : State) (a n : Nat) : Except Err (List Byte) :=
  match firstErr (devWordErr s) (wordsOf 32 a n) with
  | some e => .error e
  | none => .ok (devBytes s a n)

/-- Whether a COMMIT holds requests that would take a slot of a stack (R554). -/
def parkHeld (s : State) (n : Nat) : Bool :=
  s.cfg.commit.any fun m => m.holdNs.isSome && !m.applied &&
    ((s.cfg.txn.map (·.shadow)).getD []).any fun e => match regAt e.off with
      | some (.memParkBase k _) => decide (k = n)
      | some (.memParkLimit k _) => decide (k = n)
      | _ => false

/-- The k-th number that a list of numbers does not hold. -/
def nthFree (used : List Nat) (k : Nat) : Nat := (used.foldl (fun l u => setAdd u l) []).foldl (fun k u => if u ≤ k then k + 1 else k) k

/-- A slot taken for a block (R278): any FREE one, since the spec does not say which (a free value, log entry 5), set to +0, its poison
bits clear. -/
def fillSlot (s : State) (n tag : Nat) : State :=
  let k := stackOf s n
  let x : HoldSlot := { tag := tag, idx := nthFree (k.slots.map (·.idx)) (freeNat s % (65536 - k.slots.length)) }
  let s := setSlots (tickFree s) n (k.slots ++ [x])
  (upto (devAddr n (holdBase k.half + 4096 * x.idx) / 32) 128).foldl (fun s h =>
    let s := if devPoisoned s h then setDevPoison s h false else s
    if s.devErrs.isEmpty then s else { s with devErrs := tset (fun _ => 0) s.devErrs h 0 }) s

/-- The state in which a word can be written: a parked block without a slot takes one, and its slot is FILLING; none when the request
has to wait for one, behind those that wait already (R278, R279). -/
def parkReady (s : State) (w : Nat) : Option State :=
  let n := devStack (32 * w)
  if !devParked s (32 * w) then some s
  else match slotOf s (32 * w) with
    | some x => if x.updating then none else some s
    | none => if (stackOf s n).slots.length ≥ 65536 || !(stackOf s n).parkQ.isEmpty || parkHeld s n then none else some (fillSlot s n (32 * w / 4096))

/-- Write bytes of one word of storage (R244 with R263): poison clears only on a whole plain write; a partial write of a word that is
poisoned or uncorrectable, and a write on a dead channel, change nothing. -/
def putHome (s : State) (h o : Nat) (bs : List Byte) : Acc :=
  if devDead s h then (s, some (devErr s h))
  else if bs.length = 32 then
    let s := setDevPoison (putRaw s (32 * h) bs) h false
    ({ s with devErrs := tset (fun _ => 0) s.devErrs h 0 }, none)
  else if devBad s h then (s, some (devErr s h))
  else (putRaw (devFix s h) (32 * h + o) bs, none)

/-- Write the chunks of 32-byte words of device memory. -/
def putDev : List (Nat × Nat × List Byte) → State → Acc
  | [], s => (s, none)
  | (w, o, bs) :: t, s =>
    match parkReady s w with
    | none => (s, some { waitErr with park := some (32 * w + o) })
    | some s1 =>
      let (s2, e) := putHome s1 ((devHome s1 w).getD w) o bs
      let (s3, e') := putDev t s2
      (s3, orErr e e')

/-- Write bytes of device memory; an address that cannot be written leaves everything unchanged. -/
def devWrite (s : State) (a : Nat) (bs : List Byte) : Acc :=
  match firstErr (devFault s true) (wordsOf 32 a bs.length) with
  | some e => (s, some e)
  | none => putDev (wordChunks 32 a bs) s

/-- A write of the owning update unit or the holding logic, which may enter reserved ranges (R261). -/
def devWriteUnit (s : State) (a : Nat) (bs : List Byte) : State :=
  (putDev (wordChunks 32 a bs) s).1

/-! ### Host memory (R512 to R514) -/

/-- Why the package sends no request to the host: the link is down (R524), IDE is required and a stream is not active (R522),
or the package has stopped (R578). -/
def hostErr (s : State) : Option Status :=
  if s.host.mode = 0 then some .hostLinkDown
  else if (rbit s .glbHostCtrl 0 && !(s.host.ideIo && s.host.ideMem)) || s.pkg.fatal.isSome then some .hostAccessFail
  else none
def hostServes (s : State) : Bool := (hostErr s).isNone

def hostRead (s : State) (a n : Nat) : Except Err (List Byte) :=
  match hostErr s with | some st => .error { status := st } | none => .ok (mread s.hostMem a n)

def hostWrite (s : State) (a : Nat) (bs : List Byte) : Acc :=
  match hostErr s with | some st => (s, some { status := st }) | none => ({ s with hostMem := mwrite s.hostMem a bs }, none)

/-! ### Any space (R154) -/

/-- The physical core of a scratchpad unit and whether its die serves; an absent core's scratchpad is out of reach. -/
def spadUnit (s : State) (unit : Nat) : Except Err Nat :=
  if !dieServes s (clusterDie (unit / 64)) then .error { status := .dieLost }
  else match physOf s unit with
    | none => .error { status := .coreAbsent }
    | some p => if (clusterOf s (unit / 64)).clearing || !clusterRuns s (unit / 64) then .error waitErr else .ok p

/-- Read n bytes at an offset of a space (R154). -/
def memRead (s : State) (space unit off n : Nat) : Except Err (List Byte) :=
  match space with
  | 0 => match spadUnit s unit with | .error e => .error e | .ok p => spadRead s p off n
  | 1 => cmemRead s unit off n
  | 2 => devRead s off n
  | _ => hostRead s off n

/-- A requester reads n bytes at an offset of a space: words of device memory are corrected as they are read (R263). -/
def settle (s : State) (space off n : Nat) : State := if space = 2 then devSettle s off n else s

/-- Write bytes at an offset of a space. -/
def memWrite (s : State) (space unit off : Nat) (bs : List Byte) : Acc :=
  match space with
  | 0 => match spadUnit s unit with | .error e => (s, some e) | .ok p => spadWrite s p off bs
  | 1 => cmemWrite s unit off bs
  | 2 => devWrite s off bs
  | _ => hostWrite s off bs

/-- Why a range of a space cannot be written at all, poison and holding slots apart. -/
def spaceFault (s : State) (space unit a n : Nat) : Option Err :=
  match space with
  | 0 => match spadUnit s unit with | .error e => some e | .ok _ => none
  | 1 => cmemFault s unit (a % 0x800000) n
  | 2 => firstErr (devFault s true) (wordsOf 32 a n)
  | _ => (hostErr s).map fun st => { status := st }

/-- A sequence of writes, in order, with the first error met. -/
def memPuts (space unit : Nat) : List (Nat × List Byte) → State → Acc
  | [], s => (s, none)
  | (a, bs) :: t, s =>
    let (s1, e1) := memWrite s space unit a bs
    let (s2, e2) := memPuts space unit t s1
    (s2, orErr e1 e2)

/-- The writes of one request: a range that cannot be accessed keeps all of them from being made (R257). -/
def memWrites (space unit : Nat) (ws : List (Nat × List Byte)) (s : State) : Acc :=
  match ws.findSome? fun w => spaceFault s space unit w.1 w.2.length with
  | some e => (s, some e)
  | none => memPuts space unit ws s

/-! ## Event counters (R331 to R334) -/

/-- Add to a counter; it stops at 2^64 − 1 (R331, R333). -/
def evtAdd (s : State) (c : Nat) (v : Word64) : State :=
  let n := (evtOf s c).toNat + v.toNat
  { s with evt := tset (fun _ => 0) s.evt c (if n ≥ 2 ^ 64 then 0xFFFFFFFFFFFFFFFF else BitVec.ofNat 64 n) }

/-- Raise a counter to a value (R333). -/
def evtRaise (s : State) (c : Nat) (v : Word64) : State :=
  { s with evt := tset (fun _ => 0) s.evt c (if (evtOf s c).toNat < v.toNat then v else evtOf s c) }

/-- Mark a counter with the status of the first failure (R334). -/
def evtSetMark (s : State) (c : Nat) (st : Status) : State :=
  match evtMark s c with
  | some _ => s
  | none => { s with evtFault := tset (fun _ => none) s.evtFault c (some st) }

/-- Whether a partition may use a counter (R332). -/
def evtAllowed (s : State) (part c : Nat) : Bool :=
  let o := rfld s (.evtOwner (c / 256)) 0 9
  decide (o = part) || decide (o = 0x100)

/-- The status that an unsatisfied wait on a marked counter gives (R334). -/
def markStatus (st : Status) : Status := if st = .tainted then .tainted else .depFailed

end Sys2Proof.Machine
end

