-- ==== Sys2Proof/Machine/AccOps.lean ====
section
/-! DEFINITION. Accumulating writes and the merge buffer of the stack controllers (spec/08, R269 to R273). -/
namespace Sys2Proof.Machine

/-- An add served at a word of storage (R272): its merge-buffer entry is made or refreshed, the entry least recently added to leaving
a full buffer; the add and a hit are counted (R283). -/
def mergeTouch (s : State) (w : Nat) : State :=
  let n := devStack (32 * w)
  let k := stackOf s n
  let ch := devChan k.half (32 * w)
  let hit := k.merge.any fun e => decide (e.word = w)
  let others := k.merge.filter fun e => decide (e.word ≠ w)
  let mine := others.filter fun e => decide (e.chan = ch)
  let full := decide (mine.length ≥ 64)
  let oldest := mine.foldl (fun a e => if e.lastNs < a then e.lastNs else a) s.localNs
  let kept := if full && !hit then dropFirst (fun e => decide (e.chan = ch) && decide (e.lastNs = oldest)) others else others
  let s := setStack s n { k with merge := kept ++ [{ word := w, chan := ch, lastNs := s.localNs }] }
  let s := rbump s (.memAccWords n) 1
  if hit then rbump s (.memMergeHits n) 1 else s

/-- What accumulating word requests leave: the results with their device addresses and whether each was beyond range, and the first
error (R273). -/
structure AccResult where
  st   : State
  outs : List (Nat × Val × Bool) := []
  err  : Option Err := none
deriving DecidableEq, Repr

/-- Elements of a word request that its mask enables (R270). -/
def maskVals (f : Fmt) (mask : Nat) (data : List Byte) : List (Option Val) :=
  (chunks (fmtBits f / 8) data.length data).mapIdx fun i d =>
    if mask.testBit i then some (decodeScalar (scalarFmt f) (leNat d)) else none

/-- The elements of a word after adding those that are given (R176, R270): new bytes, result, whether beyond range, whether enabled. -/
def accVals (mode : RoundMode) (f : Fmt) (vals : List (Option Val)) (old : List Byte) : List (List Byte × Val × Bool × Bool) :=
  let n := fmtBits f / 8
  List.zipWith (fun o v =>
    match v with
    | some y =>
      let x := decodeScalar (scalarFmt f) (leNat o)
      let (r, ovf) := roundVal (scalarFmt f) (ctxOf (accMode mode)) (vadd (decide (accMode mode = .down)) x y) false
      (leBytes n (encodeScalar (scalarFmt f) r), r, ovf, true)
    | none => (o, vzero false, false, false)) (chunks n old.length old) vals

/-- New bytes of a word after adding the enabled elements of 32 data bytes. -/
def accBytes (mode : RoundMode) (f : Fmt) (mask : Nat) (old data : List Byte) : List (List Byte × Val × Bool × Bool) :=
  accVals mode f (maskVals f mask data) old

/-- Apply one word request of an accumulating write (R270 to R273); `w` is the word number. A poisoned word, or one that its read finds
uncorrectable, is left as it is. -/
def accWord (s : State) (mode : RoundMode) (f : Fmt) (w : Nat) (vals : List (Option Val)) : AccResult :=
  match devFault s true w with
  | some e => { st := s, err := some e }
  | none =>
    match parkReady s w with
    | none => { st := s, err := some { waitErr with park := some (32 * w) } }
    | some s1 =>
      let h := (devHome s1 w).getD w
      let s1 := devFix s1 h
      if devDead s1 h || devBad s1 h then { st := s1, err := some (devErr s1 h) }
      else
        let rs := accVals mode f vals (devBytes s1 (32 * w) 32)
        let (s2, e) := putDev [(w, 0, rs.flatMap (·.1))] s1
        match e with
        | some e => { st := s2, err := some e }
        | none =>
          { st := mergeTouch s2 h
            outs := (rs.mapIdx fun i r => (32 * w + i * (fmtBits f / 8), r)).filterMap fun x =>
              if x.2.2.2.2 then some (x.1, x.2.2.1, x.2.2.2.1) else none }

/-- Bytes of an accumulating transfer at a device address as word requests: word and elements (R270). -/
def accRequests (f : Fmt) (addr : Nat) (bs : List Byte) : List (Nat × List (Option Val)) :=
  let n := fmtBits f / 8
  (wordChunks 32 addr bs).map fun (w, o, b) =>
    let data := List.replicate o 0 ++ b ++ List.replicate (32 - o - b.length) 0
    (w, maskVals f ((2 ^ (b.length / n) - 1) * 2 ^ (o / n)) data)

/-- Apply word requests in order; the others are applied as without a failing one (R244, R263). -/
def accAll (mode : RoundMode) (f : Fmt) : List (Nat × List (Option Val)) → State → AccResult
  | [], s => { st := s }
  | (w, vals) :: t, s =>
    let a := accWord s mode f w vals
    let b := accAll mode f t a.st
    { st := b.st, outs := a.outs ++ b.outs, err := orErr a.err b.err }

/-- Elements beyond range among results (R58, R273). -/
def accSat (outs : List (Nat × Val × Bool)) : Nat := (outs.filter fun x => x.2.2).length

/-- Single adds at device addresses as word requests: adds that follow one another and fall on different elements of one word go in one
request. The spec does not say how a unit groups its adds (DESIGN CHOICE, log entry 44). -/
def groupAdds (f : Fmt) : List (Nat × Val) → List (Nat × List (Option Val))
  | [] => []
  | (a, v) :: t =>
    let n := fmtBits f / 8
    let fresh : Nat × List (Option Val) := (a / 32, (List.replicate (32 / n) none).set (a % 32 / n) (some v))
    match groupAdds f t with
    | (w, vals) :: rest =>
      if a / 32 = w ∧ vals.getD (a % 32 / n) none = none then (w, vals.set (a % 32 / n) (some v)) :: rest
      else fresh :: (w, vals) :: rest
    | [] => [fresh]

/-- What the results of accumulating writes add to the numeric status block of their command (R69 to R71, R273): a stack controller has
no core index; FIRST_LANE is the element's place in its word, and the lowest element gives the position. `elemOf` numbers the
element of an address in the destination. -/
def accBlock (f : Fmt) (elemOf : Nat → Nat) (outs : List (Nat × Val × Bool)) (nonfiniteIn : Bool) : NumBlock :=
  numBlockOf 0xFFF (outs.map fun x =>
    ({ val := x.2.1, ovf := x.2.2, cycle := elemOf x.1, lane := x.1 % 32 / (fmtBits f / 8), elem := elemOf x.1, row := 0xFFFFFF } : Output)) 0 nonfiniteIn

end Sys2Proof.Machine
end

