-- ==== Sys2Proof/Machine/Tensor.lean ====
section
/-! DEFINITION. Tensor accesses through descriptors (spec/05, R156 to R181): reading elements, writing tensors with
conversion, copying blocks raw, adding at a destination, and the choice among the overlap methods. -/
namespace Sys2Proof.Machine

/-- A descriptor that passed its checks, with its format and unit. -/
structure Tensor where
  d    : Desc
  fmt  : Fmt
  unit : Nat
deriving DecidableEq, Repr

/-- Byte address of the element record or block of an offset. -/
def planeAddr (base : Nat) (off : Int) : Nat := ((base : Int) + off).toNat

/-- Read a number of n bytes. -/
def readNat (s : State) (t : Tensor) (addr n : Nat) : Except Err Nat :=
  match memRead s t.d.space t.unit addr n with
  | .error e => .error e
  | .ok bs => .ok (leNat bs)

/-- Scale byte of block k of a block tensor: from its scale plane, or from an M8 header (R43, R46, R156); an M8 header
with another TAG is read as NaN by the update unit only (R46), which looks at the tag itself. -/
def readScale (s : State) (t : Tensor) (k : Int) : Except Err Nat :=
  if t.fmt = .m8 then readNat s t (planeAddr t.d.scaleBase (8 * k)) 1
  else readNat s t (planeAddr t.d.scaleBase k) 1

/-- Code, scale byte and side byte of the element at an offset; scale and side are 0 for scalar formats. -/
def readCode (s : State) (t : Tensor) (off : Int) : Except Err (Nat × Nat × Nat) :=
  let bits := fmtBits t.fmt
  if fmtIsBlock t.fmt then
    let bitPos := off * (bits : Int)
    match readNat s t (planeAddr t.d.base (bitPos / 8)) 1 with
    | .error e => .error e
    | .ok b =>
      let code := nfld b (bitPos % 8).toNat bits
      match readScale s t (off / (fmtBlock t.fmt : Int)) with
      | .error e => .error e
      | .ok sc =>
        if t.fmt = .t2 then
          match readNat s t (planeAddr t.d.sideBase (off / 64)) 1 with
          | .error e => .error e
          | .ok sd => .ok (code, sc, sd)
        else .ok (code, sc, 0)
  else
    match readNat s t (planeAddr t.d.base (off * (bits / 8 : Nat))) (bits / 8) with
    | .error e => .error e
    | .ok w => .ok (w, 0, 0)

/-- Decode an element from its code, scale and side byte (R39, R43 to R46). -/
def decodeElem (f : Fmt) (x : Nat × Nat × Nat) : Val :=
  match f with
  | .q4 => scaled x.2.1 (q4Element x.1)
  | .t2 => scaled x.2.1 (t2Element x.1 x.2.2)
  | .m8 => scaled x.2.1 (decodeScalar (scalarFmt .m8) x.1)
  | f => decodeScalar (scalarFmt f) x.1

/-- Collect results in order; the first error wins. -/
def collect {α β : Type} (f : α → Except Err β) : List α → Except Err (List β)
  | [] => .ok []
  | a :: t =>
    match f a with
    | .error e => .error e
    | .ok b => match collect f t with | .error e => .error e | .ok bs => .ok (b :: bs)

/-- The index vectors of the presented tensor, dimension 0 fastest. -/
def indices (d : Desc) : List (List Nat) := (upto 0 (elemCount d)).map (idxOfLinear (shape d))

/-- Codes of a list of index vectors. -/
def readCodes (s : State) (t : Tensor) (ix : List (List Nat)) : Except Err (List (Nat × Nat × Nat)) :=
  collect (fun i => readCode s t (offsetOf t.d i)) ix

/-- The elements of a list of index vectors are read: words of device memory among them are corrected (R263). -/
def settleElems (s : State) (t : Tensor) (ix : List (List Nat)) : State :=
  if t.d.space ≠ 2 ∨ s.devErrs.isEmpty then s
  else ix.foldl (fun s i =>
    let off := offsetOf t.d i
    let bits : Int := fmtBits t.fmt
    if fmtIsBlock t.fmt then
      let s := devSettle s (planeAddr t.d.base (off * bits / 8)) 1
      let k := off / (fmtBlock t.fmt : Int)
      let s := devSettle s (planeAddr t.d.scaleBase (if t.fmt = .m8 then 8 * k else k)) 1
      if t.fmt = .t2 then devSettle s (planeAddr t.d.sideBase (off / 64)) 1 else s
    else devSettle s (planeAddr t.d.base (off * (bits / 8))) (fmtBits t.fmt / 8)) s

/-- Exact values of a list of index vectors (R168). -/
def readVals (s : State) (t : Tensor) (ix : List (List Nat)) : Except Err (List Val) :=
  match readCodes s t ix with
  | .error e => .error e
  | .ok cs => .ok (cs.map (decodeElem t.fmt))

/-! ## Writes -/

/-- Byte writes of one space and unit. -/
abbrev Writes := List (Nat × List Byte)

/-- Whether two groups of writes share an address (R161). A group holds the writes of one element, or of one block in all its planes. -/
def writesClash (gs : List Writes) : Bool := !(gs.flatten.map (·.1)).Nodup

/-- A list with x put before its n-th element. -/
def insertAt {α : Type} (x : α) : Nat → List α → List α
  | 0, l => x :: l
  | _ + 1, [] => [x]
  | n + 1, y :: t => y :: insertAt x n t

/-- The n-th order of a list: every order is the one of some n. -/
def reorder {α : Type} : Nat → List α → List α
  | _, [] => []
  | n, x :: t => insertAt x (n % (t.length + 1)) (reorder (n / (t.length + 1)) t)

/-- The order of the writes: which of several writes of one address stays is not defined (R161): a free order decides
(DESIGN CHOICE, log entry 14). -/
def orderWrites (s : State) (gs : List Writes) : State × List Writes :=
  if writesClash gs then (tickFree s, reorder (freeNat s) gs) else (s, gs)

/-- Pack element codes of `bits` bits into bytes, lowest first (R44, R45). -/
def packCodes (bits : Nat) (cs : List Nat) : Nat := cs.foldr (fun c acc => c % 2 ^ bits + 2 ^ bits * acc) 0

/-- The byte writes of one block: element record, scale byte or M8 header, side byte (R44 to R47). -/
def blockWrites (t : Tensor) (k : Int) (scale side : Nat) (codes : List Nat) (header : Word64) : Writes :=
  let B := fmtBlock t.fmt
  let n := B * fmtBits t.fmt / 8
  let codes := codes ++ List.replicate (B - codes.length) 0
  [(planeAddr t.d.base (k * (n : Int)), leBytes n (packCodes (fmtBits t.fmt) codes))]
  ++ (if t.fmt = .m8 then [(planeAddr t.d.scaleBase (8 * k), leBytes 8 header.toNat)]
      else [(planeAddr t.d.scaleBase k, leBytes 1 scale)])
  ++ (if t.fmt = .t2 then [(planeAddr t.d.sideBase k, leBytes 1 side)] else [])

/-- The blocks of a block tensor as lists of (position, index vector): runs of B along dimension 0 (R159). -/
def blockRuns (d : Desc) (B : Nat) : List (List (Nat × List Nat)) :=
  let e0 := (shape d).headD 0
  let all := (indices d).mapIdx fun i v => (i, v)
  (chunks e0 all.length all).flatMap fun row => chunks B row.length row

/-- Who converts: the seeding core number, the first lane, the number of lanes and the core index of R69. -/
structure Converter where
  seedCore : Nat
  lane0    : Nat
  width    : Nat
  coreIdx  : Nat
deriving DecidableEq, Repr

/-- The load unit of a core and the copy unit of a cluster (R56, R170). -/
def loadUnit (core : Nat) : Converter := ⟨core, 160, 32, core⟩
def copyUnit (c : Nat) : Converter := ⟨4096 + c, 0, 128, 0xFFF⟩

/-- Lane of the element at a position of a unit with `lanes` lanes that takes `rate` elements in a cycle, and its draw there (R57): a
lane draws once for every element it converts, in order, so the draw is the number of earlier positions on that lane. Which lane it
is, is free (DESIGN CHOICE, log entry 13). -/
def laneDraw (rate lanes pos : Nat) : Nat × Nat :=
  let l := Config.convLane rate pos % lanes
  (l, ((upto 0 pos).filter fun q => decide (Config.convLane rate q % lanes = l)).length)

/-- Lane, within the unit, and rounding of the element at a position (R57, DESIGN CHOICE, log entry 13). -/
def convCtx (u : Converter) (nc : NumCtrl) (pos : Nat) : Nat × RoundCtx :=
  let (l, k) := laneDraw u.width u.width pos
  match nc.mode with
  | .stochastic => (l, laneCtx nc u.seedCore (u.lane0 + l) k)
  | m => (l, ctxOf m)

/-- Writes and outputs of scalar elements, one at a position. -/
def scalarOut (u : Converter) (nc : NumCtrl) (t : Tensor) (pos : Nat) (ix : List Nat) (v : Val) :
    (Nat × List Byte) × Output :=
  let (lane, c) := convCtx u nc pos
  let (r, o) := roundVal (scalarFmt t.fmt) c v false
  let n := fmtBits t.fmt / 8
  ((planeAddr t.d.base (offsetOf t.d ix * (n : Int)), leBytes n (encodeScalar (scalarFmt t.fmt) r)),
   { val := r, ovf := o, cycle := pos / u.width, lane := lane, elem := globalIndex t.d ix, row := 0xFFFFFF })

/-- One block written with conversion (R48, R49): codes, scale, side, count beyond range. -/
def encodeBlock (f : Fmt) (mode : RoundMode) (ctx : Nat → RoundCtx) (vs : List Val) : BlockOut :=
  let B := fmtBlock f
  let padded := vs ++ List.replicate (B - vs.length) (vzero false)
  match f with
  | .q4 => writeQ4 ctx padded
  | .t2 => writeT2 mode ctx vs.length padded
  | _ => writeM8 ctx padded

/-- Writes and outputs of one block. -/
def blockOut (u : Converter) (nc : NumCtrl) (t : Tensor) (run : List (Nat × List Nat)) (vs : List Val) :
    Writes × List Output × Nat :=
  let pos0 := (run.headD (0, [])).1
  let b := encodeBlock t.fmt nc.mode (fun j => (convCtx u nc (pos0 + j)).2) vs
  let k := offsetOf t.d (run.headD (0, [])).2 / (fmtBlock t.fmt : Int)
  let outs := List.zipWith (fun (p : Nat × List Nat) c =>
    ({ val := decodeElem t.fmt (c, b.scale, b.side), ovf := false, cycle := p.1 / u.width,
       lane := (convCtx u nc p.1).1, elem := globalIndex t.d p.2, row := 0xFFFFFF } : Output)) run b.codes
  (blockWrites t k b.scale b.side b.codes (m8Header b.scale b.codes), outs, b.ovf)

/-- The byte writes and the numeric block of writing values to a whole tensor with conversion (R167). -/
def convertOut (u : Converter) (nc : NumCtrl) (t : Tensor) (vals : List Val) (nonfiniteIn : Bool) : List Writes × NumBlock :=
  if fmtIsBlock t.fmt then
    let runs := blockRuns t.d (fmtBlock t.fmt)
    let rs := runs.map fun run => blockOut u nc t run (run.map fun p => vals.getD p.1 (vzero false))
    (rs.map (·.1), numBlockOf u.coreIdx (rs.flatMap (·.2.1)) ((rs.map (·.2.2)).foldl (· + ·) 0) nonfiniteIn)
  else
    let rs := List.zipWith (fun (p : Nat × List Nat) v => scalarOut u nc t p.1 p.2 v)
      ((indices t.d).mapIdx fun i v => (i, v)) vals
    (rs.map fun x => [x.1], numBlockOf u.coreIdx (rs.map (·.2)) 0 nonfiniteIn)

/-- The code that a copy between equal formats writes (R42, R68): a NaN is written as the canonical NaN of its format, every other code
as it is. The codes of a Q4 or T2 block are none of them a NaN by themselves. -/
def copyCode (f : Fmt) (c : Nat) : Nat :=
  match f with
  | .q4 | .t2 => c
  | f => if vIsNan (decodeScalar (scalarFmt f) c) then encodeScalar (scalarFmt f) .nan else c

/-- One block written without conversion: codes, scale and side byte as they were read. Its header counts the padding of a partial block
as zeros, as that of a converted block does (DEDUCED, log entry 34). -/
def rawBlockWrites (t : Tensor) (k : Int) (cs : List (Nat × Nat × Nat)) : Writes :=
  let h := cs.headD (0, 0, 0)
  let codes := cs.map fun c => copyCode t.fmt c.1
  blockWrites t k h.2.1 h.2.2 codes (m8Header h.2.1 (codes ++ List.replicate (fmtBlock t.fmt - codes.length) 0))

/-- The byte writes of a copy between equal formats: codes, scales and side bytes as they are (R167), NaNs canonical (R42). -/
def rawOut (t : Tensor) (codes : List (Nat × Nat × Nat)) : List Writes :=
  if fmtIsBlock t.fmt then
    (blockRuns t.d (fmtBlock t.fmt)).map fun run =>
      rawBlockWrites t (offsetOf t.d (run.headD (0, [])).2 / (fmtBlock t.fmt : Int)) (run.map fun p => codes.getD p.1 (0, 0, 0))
  else
    let n := fmtBits t.fmt / 8
    List.zipWith (fun ix (c : Nat × Nat × Nat) => [(planeAddr t.d.base (offsetOf t.d ix * (n : Int)), leBytes n (copyCode t.fmt c.1))])
      (indices t.d) codes

/-- Numeric block of values stored without conversion: only non-finite values are reported (R68, R69). -/
def rawBlock (u : Converter) (t : Tensor) (vals : List Val) : NumBlock :=
  numBlockOf u.coreIdx (List.zipWith (fun (p : Nat × List Nat) v =>
    ({ val := v, ovf := false, cycle := p.1 / u.width, lane := (laneDraw u.width u.width p.1).1,
       elem := globalIndex t.d p.2, row := 0xFFFFFF } : Output)) ((indices t.d).mapIdx fun i v => (i, v)) vals)
    0 (vals.any fun v => !vIsFinite v)

/-- The block of a receive or a remote read (R69): the non-finite values of what it stored. The spec states no lanes of the fabric
interface: the lane is free (DESIGN CHOICE, log entry 13), and elements come in index order. -/
def fabricBlock (core : Nat) (t : Tensor) (vals : List Val) : NumBlock :=
  numBlockOf core (List.zipWith (fun (p : Nat × List Nat) v =>
    ({ val := v, ovf := false, cycle := p.1, lane := (laneDraw 0 256 p.1).1, elem := globalIndex t.d p.2, row := 0xFFFFFF } : Output))
    ((indices t.d).mapIdx fun i v => (i, v)) vals) 0 (vals.any fun v => !vIsFinite v)

/-- The index status block (R175): FIRST_POS, FIRST_VALUE and IDX_COUNT. -/
structure IdxBlock where
  pos   : Option (Nat × Word32) := none
  count : Nat := 0
deriving DecidableEq, Repr

/-- What a copy, gather or scatter leaves: state, numeric block, index block, out-of-range count, bytes stored, first error. -/
structure MoveResult where
  st    : State
  num   : NumBlock := {}
  idx   : IdxBlock := {}
  oor   : Nat := 0
  bytes : Nat := 0
  err   : Option Err := none
deriving DecidableEq, Repr

/-- The writes of one instruction joined into runs of adjacent bytes, the last write of a byte winning: a poisoned word that its
elements cover together is covered whole, and is cleared (R244; DEDUCED, log entry 40). Writes through the bit-set and
bit-clear windows combine with what stands there and are left as they are. -/
def joinWrites (space : Nat) (ws : Writes) : Writes :=
  let w := windowSize space
  if w ≠ 0 ∧ ws.any (fun x => decide (w ≤ x.1)) then ws
  else joinRuns ((ws.flatMap fun x => (upto x.1 x.2.length).zip x.2).foldl (fun (t : Table Byte) x => tinsert (tdrop t x.1) x.1 x.2) [])

/-- Bytes of a list of writes. -/
def writeBytes (ws : Writes) : Nat := (ws.map fun w => w.2.length).foldl (· + ·) 0

/-- Bytes of writes that a memory took although some of them failed (R184, R244, R257): none where a range cannot be accessed, else those
of the words that could be written. -/
def takenBytes (s : State) (space unit : Nat) (ws : Writes) : Nat :=
  if ws.any fun w => (spaceFault s space unit w.1 w.2.length).isSome then 0
  else
    let size := if space = 2 then 32 else 8
    writeBytes ((ws.flatMap fun w => (wordChunks size w.1 w.2).map fun c => (size * c.1 + c.2.1, c.2.2)).filter fun w =>
      (memWrite s space unit w.1 w.2).2.isNone)

/-- Make the writes of one instruction, or of one row of it, at a tensor: all, or the groups that a free number picks, so that each
element is old or new whole (R162, R221); with the bytes that were written, each counted once (R184). -/
def tensorPut (mask : Option Nat) (t : Tensor) (gs : List Writes) (s : State) : Acc × Nat :=
  let (s, gs) := orderWrites s gs
  let ws := joinWrites t.d.space (pick mask gs).flatten
  let r := memWrites t.d.space t.unit ws s
  (r, match r.2 with | none => writeBytes ws | some _ => takenBytes s t.d.space t.unit ws)

/-- The same without the count. -/
def tensorWrites (mask : Option Nat) (t : Tensor) (gs : List Writes) (s : State) : Acc := (tensorPut mask t gs s).1

/-- Copy a tensor (R167): every destination element from the source element with the same indices, the whole source read
first (R181).  -/
def copyTensor (mask : Option Nat) (s : State) (u : Converter) (nc : NumCtrl) (src dst : Tensor) : MoveResult :=
  let s := settleElems s src (indices src.d)
  match readCodes s src (indices src.d) with
  | .error e => { st := s, err := some e }
  | .ok cs =>
    let vals := cs.map (decodeElem src.fmt)
    let bad := vals.any fun v => !vIsFinite v
    let (ws, nb) :=
      if src.fmt = dst.fmt then (rawOut dst cs, rawBlock u dst vals) else convertOut u nc dst vals bad
    let ((s, e), n) := tensorPut mask dst ws s
    { st := s, num := nb, bytes := n, err := e }

/-! ## Accumulating adds (R176 to R178, R270) -/

/-- Add a value at one scalar element: exact sum of the stored value and the source, rounded once as R52 lays down. -/
def addElem (s : State) (mode : RoundMode) (f : Fmt) (space unit addr : Nat) (v : Val) : State × Val × Bool × Option Err :=
  let n := fmtBits f / 8
  match memRead s space unit addr n with
  | .error e => (s, .nan, false, some e)
  | .ok bs =>
    let old := decodeScalar (scalarFmt f) (leNat bs)
    let (r, o) := roundVal (scalarFmt f) (ctxOf (accMode mode)) (vadd (decide (accMode mode = .down)) old v) false
    let (s, e) := memWrite s space unit addr (leBytes n (encodeScalar (scalarFmt f) r))
    (s, r, o, e)

/-- Adds in order, with the outputs and the first error; a failed add does not keep the others from being applied
(R244). -/
def addElems (mode : RoundMode) (f : Fmt) (space unit : Nat) :
    List (Nat × Val × Output) → State → State × List Output × Option Err
  | [], s => (s, [], none)
  | (a, v, o) :: t, s =>
    let (s, r, ovf, e) := addElem s mode f space unit a v
    let (s, os, e2) := addElems mode f space unit t s
    match e with
    | some e => (s, os, some e)
    | none => (s, { o with val := r, ovf := ovf } :: os, e2)

/-- Adds of one request: a range that cannot be accessed keeps all of them from being made (R257). -/
def addsOf (mode : RoundMode) (f : Fmt) (space unit : Nat) (adds : List (Nat × Val × Output)) (s : State) : State × List Output × Option Err :=
  match adds.findSome? fun x => spaceFault s space unit x.1 (fmtBits f / 8) with
  | some e => (s, [], some e)
  | none => addElems mode f space unit adds s

/-- The adds of a scatter's results at a tensor, in order: in device memory as word requests of the stack controllers, whose
results come back with no core index (R269, R273), elsewhere one by one; where one of them cannot be accessed none is made (R257). -/
def addAll (mode : RoundMode) (coreIdx : Nat) (t : Tensor) (adds : List (Nat × Val × Output)) (badIn : Bool) (s : State) :
    State × NumBlock × Nat × Option Err :=
  if t.d.space = 2 then
    let r := accAll mode t.fmt (groupAdds t.fmt (adds.map fun x => (x.1, x.2.1))) s
    let elemOf (a : Nat) : Nat := ((adds.find? fun x => decide (x.1 = a)).map fun x => x.2.2.elem).getD 0
    (r.st, accBlock t.fmt elemOf r.outs badIn, r.outs.length, r.err)
  else
    let (s, os, e) := addsOf mode t.fmt t.d.space t.unit adds s
    (s, numBlockOf coreIdx os 0 badIn, os.length, e)

/-- The order of adds to one element is not defined (R176): a free order where addresses repeat (DESIGN CHOICE, log entry 14). -/
def orderAdds (s : State) (l : List (Nat × Val × Output)) : State × List (Nat × Val × Output) :=
  if (l.map (·.1)).Nodup then (s, l) else (tickFree s, reorder (freeNat s) l)

/-! ## Comparisons of descriptors and overlap (R167, R180, R181, R653) -/

/-- Whether two tensors lie in one memory instance (R180). -/
def sameMemory (a b : Tensor) : Bool :=
  decide (a.d.space = b.d.space) && (decide (a.d.space ≥ 2) || decide (a.unit = b.unit))

def overlaps (a b : Tensor) : Bool := sameMemory a b && descMeets a.d b.d

/-- Bytes of the bounding ranges of a tensor (S and D of R181). -/
def boundBytes (t : Tensor) : Nat := ((spans t.d t.fmt).map fun r => (r.2 - r.1 + 1).toNat).foldl (· + ·) 0

/-- The methods of R181. -/
inductive OvlMethod where
  | apart | direct | transpose | staged | tooLarge
deriving DecidableEq, Repr

/-- Descriptors identical but for their bases (R181). -/
def sameLayout (a b : Desc) : Bool :=
  decide ({ a with base := 0, scaleBase := 0, sideBase := 0 } = { b with base := 0, scaleBase := 0, sideBase := 0 })

/-- A square in-place transpose (R181): the same planes, dimensions 0 and 1 exchanged, each of one size up to 32, all others
of size 1: element (i, j) of the source stands where element (j, i) of the destination does. The table allows any format, so the two
formats may differ where their planes are the same, elements of one width in blocks of one size (DEDUCED, log entry 39). -/
def isTranspose (a b : Desc) : Bool :=
  let n := dimSize a 0
  decide (a.base = b.base) && decide (fmtBits (descFmt a) = fmtBits (descFmt b)) && decide (fmtBlock (descFmt a) = fmtBlock (descFmt b)) && decide (a.ndim = b.ndim) && decide (2 ≤ a.ndim)
  && (!fmtIsBlock (descFmt a) || decide (a.scaleBase = b.scaleBase)) && (decide (descFmt a ≠ .t2) || decide (a.sideBase = b.sideBase))
  && decide (shape a = shape b) && decide (n = dimSize a 1) && decide (n ≤ 32) && ((shape a).drop 2).all (· = 1)
  && (upto 0 n).all fun i => (upto 0 n).all fun j => decide (offsetOf a [i, j] = offsetOf b [j, i])

/-- The method the unit chooses (R181), in the order of its table. `extra` holds the further sources of a gather or scatter: its data
does not keep the places of a copy, so that it is never handled directly or as a transpose (DEDUCED, log entry 39). -/
def ovlMethod (src dst : Tensor) (extra : List Tensor) : OvlMethod :=
  if !(overlaps src dst || extra.any fun t => overlaps t dst) then .apart
  else if extra.isEmpty && sameLayout src.d dst.d then .direct
  else if extra.isEmpty && isTranspose src.d dst.d then .transpose
  else if boundBytes src + (extra.map boundBytes).foldl (· + ·) 0 ≤ 262144 then .staged
  else .tooLarge

/-! ## Gather and scatter (R171 to R178) -/

/-- Index modes (R173). -/
inductive IdxMode where
  | skip | clamp | wrap | strict
deriving DecidableEq, Repr

def idxModeOf (c : BitVec 2) : IdxMode :=
  match c.toNat with | 0 => .skip | 1 => .clamp | 2 => .wrap | _ => .strict

/-- The table slice that an index selects (R172, R173): s the partition's first index, n its extent; none where the slice
is skipped. -/
def selectSlice (m : IdxMode) (s n : Nat) (index : Int) : Option Nat × Bool :=
  let i := index - s
  if 0 ≤ i ∧ i < n then (some i.toNat, false)
  else if n = 0 then (none, true)
  else match m with
    | .clamp => (some (if i < 0 then 0 else n - 1), true)
    | .wrap => (some (i % (n : Int)).toNat, true)
    | _ => (none, true)

def idxBlock (strict : Bool) (bad : List (Nat × Word32)) : IdxBlock :=
  { pos := bad.head?, count := if strict then min 1 bad.length else min bad.length 0xFFFFFFFF }

def idxBlockBits (b : IdxBlock) : Nat :=
  match b.pos with
  | none => fields [(0, 2 ^ 64 - 1), (64, 2 ^ 32 - 1), (96, b.count)]
  | some (k, v) => fields [(0, k), (64, v.toNat), (96, b.count)]

/-- Set entry k of an index vector. -/
def setIdx (l : List Nat) (k v : Nat) : List Nat := l.set k v

/-- The sizes of the dense operand match the table's but for INDEX_DIM, where it has the number of indices (R171). -/
def denseOk (table dense : Desc) (dim n : Nat) : Bool := decide (shape dense = (shape table).set dim n)

/-- The 32-bit indices of the index tensor. -/
def readIndices (s : State) (t : Tensor) : Except Err (List Word32) :=
  match readCodes s t (indices t.d) with
  | .error e => .error e
  | .ok cs => .ok (cs.map fun c => BitVec.ofNat 32 c.1)

/-- Positions of the out-of-range indices with their values (R173, R175). -/
def badIndices (ix : List Word32) (sel : List (Option Nat × Bool)) : List (Nat × Word32) :=
  ((List.zipWith (fun (p : Nat × Word32) (q : Option Nat × Bool) => (p, q.2)) (ix.mapIdx fun i v => (i, v)) sel).filter (·.2)).map (·.1)

/-- The first position whose slice of DENSE or of TABLE cannot be accessed, n where each can: the elements by their indices in DENSE
and, where an index selects a slice, in TABLE. -/
def firstFailed (s : State) (table dense : Tensor) (dim n : Nat) (els : List (List Nat × Option (List Nat))) : Nat :=
  let fails (t : Tensor) (v : List Nat) : Bool := match readCode s t (offsetOf t.d v) with | .error _ => true | .ok _ => false
  (els.filter fun x => fails dense x.1 || (match x.2 with | some w => fails table w | none => false)).foldl (fun k x => min k (x.1.getD dim 0)) n

/-- A gather or scatter that fails reports the out-of-range indices met before the failure (R602), in index order (DEDUCED, log entry 52). -/
def metBefore (table dense : Tensor) (dim n : Nat) (bad : List (Nat × Word32)) (els : List (List Nat × Option (List Nat)))
    (m : MoveResult) : MoveResult :=
  if m.err.isNone then m
  else
    let k := firstFailed m.st table dense dim n els
    let met := bad.filter fun x => decide (x.1 < k)
    { m with idx := idxBlock false met, oor := met.length }

/-- Gather (R172, R173): slice k of DENSE from the selected slice of TABLE; a skipped slice is written with +0. -/
def gatherTensor (mask : Option Nat) (s : State) (u : Converter) (nc : NumCtrl) (table dense : Tensor) (dim : Nat) (mode : IdxMode)
    (ix : List Word32) : MoveResult :=
  let (first, n) := dimRange table.d dim
  let sel := ix.map fun v => selectSlice mode first n v.toInt
  let bad := badIndices ix sel
  let ib := idxBlock (decide (mode = .strict)) bad
  if mode = .strict ∧ !bad.isEmpty then { st := s, idx := ib, oor := 1, err := some { status := .indexStrict } }
  else
    let rd (v : List Nat) : Except Err (Nat × Nat × Nat) :=
      match (sel.getD (v.getD dim 0) (none, false)).1 with
      | none => .ok (0, 0, 0)
      | some i => readCode s table (offsetOf table.d (setIdx v dim i))
    let els := (indices dense.d).map fun v => (v, (sel.getD (v.getD dim 0) (none, false)).1.map (setIdx v dim))
    let s := settleElems s table (els.filterMap (·.2))
    metBefore table dense dim ix.length bad els <| match collect rd (indices dense.d) with
    | .error e => { st := s, idx := ib, oor := bad.length, err := some e }
    | .ok cs =>
      let vals := cs.map (decodeElem table.fmt)
      let (ws, nb) :=
        if table.fmt = dense.fmt ∧ !fmtIsBlock dense.fmt then (rawOut dense cs, rawBlock u dense vals)
        else if table.fmt = dense.fmt ∧ dim ≠ 0 then (rawOut dense cs, rawBlock u dense vals)
        else convertOut u nc dense vals (vals.any fun v => !vIsFinite v)
      let ((s, e), n) := tensorPut mask dense ws s
      { st := s, num := nb, idx := ib, oor := bad.length, bytes := n, err := e }

/-- Keep the last of several writes of one element, or of the block that starts with it, by its index vector in TABLE (R178: the highest
position wins). Elements of different indices that share an address by their strides are left to R161. -/
def keepLast {α : Type} : List (List Nat × α) → List (List Nat × α)
  | [] => []
  | g :: t => if t.any (fun x => decide (x.1 = g.1)) then keepLast t else g :: keepLast t

/-- Index vectors of DENSE in order of position along INDEX_DIM, so that later writes have higher positions. -/
def scatterOrder (d : Desc) (dim n : Nat) : List (Nat × List Nat) :=
  let all := (indices d).mapIdx fun i v => (i, v)
  (upto 0 n).flatMap fun k => all.filter fun p => decide (p.2.getD dim 0 = k)

/-- The values of the B elements of block k of a tensor (R43 to R46). -/
def readBlock (s : State) (t : Tensor) (k : Int) : Except Err (List Val) :=
  let B := fmtBlock t.fmt
  match collect (fun (j : Nat) => readCode s t (k * (B : Int) + (j : Int))) (upto 0 B) with
  | .error e => .error e
  | .ok cs => .ok (cs.map (decodeElem t.fmt))

/-- Elements of the block that holds an index vector: the last block along dimension 0 ends with the dimension, and what lies beyond is
padding (R47, R157). -/
def blockReal (t : Tensor) (ix : List Nat) : Nat :=
  let B := fmtBlock t.fmt
  min B (dimOf t.d 0 - (ix.headD 0 + (dimRange t.d 0).1) / B * B)

/-- One block of TABLE of which a scatter along dimension 0 writes single elements: its other elements keep their values, and the
whole block is written again by R48 and R49 (DESIGN CHOICE, log entry 40), its padding by R47. `items` holds offset, index vector and
value of what is written, in order; `n` numbers the block among those converted. -/
def mixBlock (s : State) (u : Converter) (nc : NumCtrl) (t : Tensor) (n : Nat) (k : Int) (items : List (Int × List Nat × Val)) :
    Except Err (Writes × List Output × Nat) :=
  let B := fmtBlock t.fmt
  match readBlock s t k with
  | .error e => .error e
  | .ok old =>
    let mine := items.filter fun x => decide (x.1 / (B : Int) = k)
    let real := blockReal t ((mine.headD (0, [], vzero false)).2.1)
    let vs := mine.foldl (fun (vs : List Val) x => vs.set (x.1 % (B : Int)).toNat x.2.2) (old.take real)
    let b := encodeBlock t.fmt nc.mode (fun j => (convCtx u nc (B * n + j)).2) vs
    let outs := mine.map fun x =>
      let j := (x.1 % (B : Int)).toNat
      ({ val := decodeElem t.fmt (b.codes.getD j 0, b.scale, b.side), ovf := false, cycle := (B * n + j) / u.width,
         lane := (convCtx u nc (B * n + j)).1, elem := globalIndex t.d x.2.1, row := 0xFFFFFF } : Output)
    .ok (blockWrites t k b.scale b.side b.codes (m8Header b.scale b.codes), outs, b.ovf)

/-- What a plain scatter writes and reports: writes, outputs, counts beyond range, non-finite values moved. `items` are the
positions in DENSE with their index vectors there and in TABLE, in order of position along INDEX_DIM. -/
def scatterWork (s : State) (u : Converter) (nc : NumCtrl) (table dense : Tensor) (dim : Nat) (slice : Nat → Option Nat)
    (items : List (Nat × List Nat × List Nat)) (codes : List (Nat × Nat × Nat)) : Except Err (List Writes × List Output × Nat) :=
  let vals := codes.map (decodeElem dense.fmt)
  let raw (p : Nat × List Nat × List Nat) (n : Nat) (v : Val) : Output :=
    { val := v, ovf := false, cycle := n / u.width, lane := (laneDraw u.width u.width n).1, elem := globalIndex table.d p.2.2, row := 0xFFFFFF }
  if fmtIsBlock table.fmt then
    if dim = 0 then
      -- the highest position wins at each element (R178); among elements that share an offset a free order decides (R161)
      let its := keepLast (List.zipWith (fun (p : Nat × List Nat × List Nat) v => (p.2.2, (offsetOf table.d p.2.2, p.2.2, v))) items vals) |>.map (·.2)
      let its := if (its.map (·.1)).Nodup then its else reorder (freeNat s) its
      let ks := (its.map fun x => x.1 / (fmtBlock table.fmt : Int)).eraseDups
      match collect (fun (p : Nat × Int) => mixBlock s u nc table p.1 p.2 its) (ks.mapIdx fun i k => (i, k)) with
      | .error e => .error e
      | .ok rs => .ok (rs.map (·.1), rs.flatMap (·.2.1), (rs.map (·.2.2)).foldl (· + ·) 0)
    else
      -- whole runs of DENSE along dimension 0 become blocks of TABLE (R159)
      let at_ (pos : Nat) : Option ((Nat × List Nat × List Nat) × Nat × Nat × Nat) := (items.zip codes).find? fun x => decide (x.1.1 = pos)
      let runs := (scatterOrder dense.d dim (dimSize dense.d dim)).filterMap fun p =>
        if p.2.headD 0 % fmtBlock table.fmt ≠ 0 then none
        else match slice (p.2.getD dim 0) with
          | none => none
          | some i => some ((upto 0 (min (fmtBlock table.fmt) (dimSize dense.d 0 - p.2.headD 0))).map fun j => (p.1 + j, setIdx (p.2.set 0 (p.2.headD 0 + j)) dim i))
      if dense.fmt = table.fmt then
        -- equal formats: codes, scales and side bytes as they are (R167, R172)
        let ws := runs.map fun run =>
          let ix := (run.headD (0, [])).2
          (ix, rawBlockWrites table (offsetOf table.d ix / (fmtBlock table.fmt : Int)) (run.map fun p => ((at_ p.1).map (·.2)).getD (0, 0, 0)))
        .ok ((keepLast ws).map (·.2), List.zipWith (fun p (v : Nat × Val) => raw p v.1 v.2) items (vals.mapIdx fun i v => (i, v)), 0)
      else
        let rs := runs.map fun run => blockOut u nc table run (run.map fun p => match at_ p.1 with
          | some x => decodeElem dense.fmt x.2 | none => vzero false)
        .ok ((keepLast (List.zipWith (fun (run : List (Nat × List Nat)) r => ((run.headD (0, [])).2, r.1)) runs rs)).map (·.2), rs.flatMap (·.2.1), (rs.map (·.2.2)).foldl (· + ·) 0)
  else if dense.fmt = table.fmt then
    let n := fmtBits table.fmt / 8
    .ok ((keepLast (List.zipWith (fun (p : Nat × List Nat × List Nat) (c : Nat × Nat × Nat) =>
        (p.2.2, [(planeAddr table.d.base (offsetOf table.d p.2.2 * (n : Int)), leBytes n (copyCode table.fmt c.1))])) items codes)).map (·.2),
      List.zipWith (fun p (v : Nat × Val) => raw p v.1 v.2) items (vals.mapIdx fun i v => (i, v)), 0)
  else
    let rs := List.zipWith (fun (p : Nat × Nat × List Nat × List Nat) v => scalarOut u nc table p.1 p.2.2.2 v)
      (items.mapIdx fun i p => (i, p)) vals
    .ok ((keepLast (List.zipWith (fun (p : Nat × List Nat × List Nat) x => (p.2.2, [x.1])) items rs)).map (·.2), rs.map (·.2), 0)

/-- Scatter (R172, R173, R176, R178): slice k of DENSE to the selected slice of TABLE, plain or added there. -/
def scatterTensor (mask : Option Nat) (s : State) (u : Converter) (nc : NumCtrl) (table dense : Tensor) (dim : Nat) (mode : IdxMode)
    (accum : Bool) (ix : List Word32) : MoveResult :=
  let (first, n) := dimRange table.d dim
  let sel := ix.map fun v => selectSlice mode first n v.toInt
  let bad := badIndices ix sel
  let ib := idxBlock (decide (mode = .strict)) bad
  if mode = .strict ∧ !bad.isEmpty then { st := s, idx := ib, oor := 1, err := some { status := .indexStrict } }
  else
    let slice (k : Nat) : Option Nat := (sel.getD k (none, false)).1
    let items := (scatterOrder dense.d dim ix.length).filterMap fun p => (slice (p.2.getD dim 0)).map fun i => (p.1, p.2, setIdx p.2 dim i)
    let s := settleElems s dense (items.map (·.2.1))
    metBefore table dense dim ix.length bad (items.map fun p => (p.2.1, some p.2.2)) <| match readCodes s dense (items.map (·.2.1)) with
    | .error e => { st := s, idx := ib, oor := bad.length, err := some e }
    | .ok codes =>
      let vals := codes.map (decodeElem dense.fmt)
      let badIn := vals.any fun v => !vIsFinite v
      if accum then
        let nbytes := fmtBits table.fmt / 8
        let adds := List.zipWith (fun (p : Nat × Nat × List Nat × List Nat) v =>
          (planeAddr table.d.base (offsetOf table.d p.2.2.2 * (nbytes : Int)), v,
           ({ val := v, ovf := false, cycle := p.1 / u.width, lane := (laneDraw u.width u.width p.1).1,
              elem := globalIndex table.d p.2.2.2, row := 0xFFFFFF } : Output))) (items.mapIdx fun i p => (i, p)) vals
        let (s, adds) := orderAdds s adds
        let (s, nb, n, e) := addAll nc.mode u.coreIdx table (pick mask adds) badIn s
        { st := s, num := nb, idx := ib, oor := bad.length, bytes := nbytes * n, err := e }
      else match scatterWork s u nc table dense dim slice items codes with
        | .error e => { st := s, idx := ib, oor := bad.length, err := some e }
        | .ok (ws, os, ovf) =>
          -- a clash of elements in a block has taken a free value
          let ((s, e), n) := tensorPut mask table ws (if fmtIsBlock table.fmt then tickFree s else s)
          { st := s, num := numBlockOf u.coreIdx os ovf badIn, idx := ib, oor := bad.length, bytes := n, err := e }

end Sys2Proof.Machine
end

