-- ==== Sys2Proof/Machine/CoreOps.lean ====
section
/-! DEFINITION. Named operations on one compute core: scalar registers, descriptor slots, unit queues, scopes, retire
counters and numeric flags (spec/06, R189 to R195, R214, R224). -/
namespace Sys2Proof.Machine

/-! ## Scalar registers and slots (R153, R195) -/

/-- The value of a scalar register; s0 reads as zero (R195). -/
def sreg (c : Core) (r : BitVec 5) : Word64 := if r = 0 then 0 else tget (fun _ => 0) c.sregs r.toNat

/-- Write a scalar register; a write to s0 is discarded (R195). -/
def setSreg (c : Core) (r : BitVec 5) (v : Word64) : Core :=
  if r = 0 then c else { c with sregs := tset (fun _ => 0) c.sregs r.toNat v }

def slotRaw (c : Core) (r : BitVec 5) : BitVec 1024 := tget (fun _ => 0) c.slots r.toNat
def setSlot (c : Core) (r : BitVec 5) (v : BitVec 1024) : Core :=
  { c with slots := tset (fun _ => 0) c.slots r.toNat v }
def slotDesc (c : Core) (r : BitVec 5) : Desc := parseDesc (slotRaw c r)

/-- The code word at the PC. -/
def codeWord (c : Core) : Word64 := tget (fun _ => 0) c.code c.pc.toNat

/-- A signed immediate of n bits as a 64-bit word (R196). -/
def immWord {n : Nat} (imm : BitVec n) : Word64 := imm.signExtend 64

/-! ## Units (R190) -/

/-- The units of a core: FE, BE0 with its queue of BE_DX, the deferral list with BE1, vector unit, load unit, fabric out and in,
atomic port. -/
inductive CUnit where
  | fe | dx | dw | vu | lu | fs | fr | at
deriving DecidableEq, Repr

/-- Retire counter number of a unit in CORE_*_RET order (R224); BE_DW advances a DWC instead. -/
def retIdx : CUnit → Nat
  | .fe => 0 | .dx => 1 | .vu => 2 | .lu => 3 | .fs => 4 | .fr => 5 | .at => 6 | .dw => 7

/-- Key of a unit in the tables of numeric flags: what BE0 ran stands under `dx`, what BE1 ran under `dw` (R70, R135). -/
def numKey : CUnit → Nat
  | .fe => 0 | .dx => 1 | .dw => 2 | .vu => 3 | .lu => 4 | .fs => 5 | .fr => 6 | .at => 7

/-- Jobs of a unit that have not retired, oldest first. -/
def unitJobs (c : Core) : CUnit → List Job
  | .fe => c.fe.queue | .dx => c.be0.queue | .dw => c.defer ++ c.run0 ++ c.run1
  | .vu => c.vq | .lu => c.lq | .fs => c.fsq | .fr => c.frq | .at => c.atq

/-- Replace the jobs of a unit; the deferral list has places of its own. -/
def setUnitJobs (c : Core) (u : CUnit) (l : List Job) : Core :=
  match u with
  | .fe => { c with fe := { c.fe with queue := l } }
  | .dx => { c with be0 := { c.be0 with queue := l } }
  | .dw => c
  | .vu => { c with vq := l } | .lu => { c with lq := l } | .fs => { c with fsq := l }
  | .fr => { c with frq := l } | .at => { c with atq := l }

/-- The unit of a MASK bit (R214). -/
def scopeUnit : Nat → CUnit
  | 0 => .fe | 1 => .dx | 2 => .dw | 3 => .vu | 4 => .lu | 5 => .fs | 6 => .fr | _ => .at

/-- Whether every instruction issued before `order` in the scopes of a mask has retired (R212, R213). -/
def scopesClear (c : Core) (mask : Byte) (order : Nat) : Bool :=
  (upto 0 8).all fun i =>
    !mask.getLsbD i || (unitJobs c (scopeUnit i)).all fun j => decide (order ≤ j.order)

/-- The local counter of an LWAIT number (R214), none for 23 to 31. -/
def localCounter (c : Core) (n : Nat) : Option Word32 :=
  if n < 16 then some (tget (fun _ => 0) c.dwc n)
  else if n < 23 then some (tget (fun _ => 0) c.rets (n - 16)) else none

/-- Whether a wrapping counter has reached a target (R194). -/
def reached (c t : Word32) : Bool := decide ((c - t).toNat < 2 ^ 31)

/-- Count one retired instruction of a unit (R191). -/
def bumpRet (c : Core) (u : CUnit) : Core :=
  { c with rets := tset (fun _ => 0) c.rets (retIdx u) (tget (fun _ => 0) c.rets (retIdx u) + 1) }

/-- Add a unit's numeric block to the program and the command copy of the flags (R70, R72, R225). -/
def addNum (c : Core) (u : CUnit) (b : NumBlock) : Core :=
  let add (t : Table NumBlock) := tset (fun _ => {}) t (numKey u) (mergeLater (tget (fun _ => {}) t (numKey u)) b)
  { c with numProg := add c.numProg, numCmd := add c.numCmd }

/-- Add the block of one instruction of FE, BE0 or BE1, whose first non-finite output came in cycle `cyc` of the instruction. It entered
`gap` cycles after it could (the spec fixes no such time: log entry 11), one of another class than the last after the 31 cycles that the
last one's row takes to leave, and took `len` cycles; the next one follows (R103). The flags keep the earliest cycle of the engine
(R70, R135). -/
def addEngine (c : Core) (u : CUnit) (cls gap len cyc : Nat) (b : NumBlock) : Core :=
  let k := numKey u
  let start := tget (fun _ => 0) c.engCyc k + gap + (if tget (fun _ => 0) c.engClass k = cls then 0 else 31)
  let add (t : Table NumBlock) (cs : Table Nat) : Table NumBlock × Table Nat :=
    let a := tget (fun _ => {}) t k
    let m := mergeEngine (tget (fun _ => 0) cs k) (start + cyc) a b
    (tset (fun _ => {}) t k m, if takesPos (tget (fun _ => 0) cs k) (start + cyc) a b then tset (fun _ => 0) cs k (start + cyc) else cs)
  let p := add c.numProg c.cycProg
  let q := add c.numCmd c.cycCmd
  { c with numProg := p.1, cycProg := p.2, numCmd := q.1, cycCmd := q.2, engCyc := tset (fun _ => 0) c.engCyc k (start + len)
           engClass := tset (fun _ => 0) c.engClass k cls }

/-- Add the report of a unit outside the core, a stack controller, to the core's flags of one of its units: the lowest element gives the
position (R70, R273). -/
def addRemote (c : Core) (u : CUnit) (b : NumBlock) : Core :=
  let add (t : Table NumBlock) := tset (fun _ => {}) t (numKey u) (mergeUnits (tget (fun _ => {}) t (numKey u)) b)
  { c with numProg := add c.numProg, numCmd := add c.numCmd }

/-- Operands that a job copied at issue (R188). -/
def jobDesc (j : Job) (k : Nat) : Desc := parseDesc (j.descs.getD k 0)
def jobArg (j : Job) (k : Nat) : Word64 := j.args.getD k 0
/-- The numeric control word a job copied; a word with a reserved ROUND did not issue. -/
def jobNum (j : Job) : NumCtrl := (numCtrl j.num).getD ⟨0, .nearest, 1⟩

/-- A tensor of a job with the unit its descriptor resolves to for the issuing core. -/
def jobTensor (core : Nat) (j : Job) (k : Nat) : Tensor :=
  let d := jobDesc j k
  { d := d, fmt := descFmt d, unit := (match resolveUnit (some core) d with | .ok u => u | .error _ => 0) }

/-- A job made from an instruction that issues now. -/
def mkJob (c : Core) (i : Instr) (slots : List (BitVec 5)) (num : BitVec 5) (args : List Word64) : Job :=
  { insn := i, pc := c.pc, order := c.issued, descs := slots.map (slotRaw c), num := sreg c num, args := args }

end Sys2Proof.Machine
end

