-- ==== Sys2Proof/Machine/Grid.lean ====
section
/-! DEFINITION. The grids (spec/03 and spec/04): operand pairings, checks of the engine instructions in the order of
R655, weight planes, and the arithmetic of FE_STREAM, BE_DX and BE_DW. -/
namespace Sys2Proof.Machine

/-! ## Rate classes (R78) -/

/-- A rate class: packing factor p and row period P (R78). -/
structure RateClass where
  p : Nat
  period : Nat
deriving DecidableEq, Repr

def isWide (f : Fmt) : Bool := decide (f = .g16) || decide (f = .h16)
def isByte (f : Fmt) : Bool := decide (f = .g8) || decide (f = .k8)
def isNarrow (f : Fmt) : Bool := decide (f = .q4) || decide (f = .t2)

/-- The rate class of an activation and a weight format, none for a pairing outside R78. -/
def rateClass (a w : Fmt) : Option RateClass :=
  if (isWide a && (isWide w || isByte w || isNarrow w)) || ((isByte a || isNarrow a) && isWide w) then some ⟨1, 1⟩
  else if (isByte a && (isByte w || isNarrow w)) || (isNarrow a && isByte w) then some ⟨2, 1⟩
  else if (decide (a = .q4) && isNarrow w) || (decide (a = .t2) && decide (w = .q4)) then some ⟨4, 1⟩
  else if a = .t2 ∧ w = .t2 then some ⟨8, 1⟩
  else if a = .f32 ∧ w = .f32 then some ⟨1, 4⟩
  else if a = .f64 ∧ w = .f64 then some ⟨1, 16⟩
  else none

/-! ## Checks at issue (R653 to R655, R149) -/

/-- The first failure of a list of checks, in order; none when all hold. -/
def firstFail : List (Bool × Status) → Option Status
  | [] => none
  | (ok, e) :: t => if ok then firstFail t else some e

/-- The first status of a list of check results. -/
def firstStatus : List (Option Status) → Option Status
  | [] => none
  | some e :: _ => some e
  | none :: t => firstStatus t

/-- Formats an engine operand may have (R38). -/
def engineFormats : List Fmt := [.f64, .f32, .g16, .h16, .g8, .k8, .q4, .t2]

def descFault (core : Nat) (u : Use) (d : Desc) : Option Status :=
  match checkDesc (some core) u d with | .error e => some e | .ok _ => none

def engineSrc : Use := { engine := true, source := true, formats := engineFormats }
def engineDst : Use := { engine := true, formats := engineFormats }

/-- R654: at least `inner` elements along dimension 0 and `rows` along dimension 1. -/
def holds (d : Desc) (inner rows : Nat) : Bool := decide (inner ≤ dimSize d 0) && decide (rows ≤ dimSize d 1)

/-- R79: the source starts on a block boundary, or in an X1 tile at either half of a T2 block; the second holds for ADESC as for WDESC
(DEDUCED, log entry 39). -/
def blockStartOk (cls : RateClass) (d : Desc) : Bool :=
  let f := descFmt d
  let B := if f = .t2 ∧ cls.p = 1 then 32 else fmtBlock f
  decide (elemCount d = 0) || decide ((dimRange d 0).1 % B = 0)

/-- The alias check of R92: sources but the partial, and the partial with the exception for one descriptor in the partial
format; two slots with equal fields hold the same descriptor (DEDUCED, log entry 39). -/
def aliasOk (o : Desc) (srcs : List Desc) (p : Option Desc) (inPlace : Bool) : Bool :=
  (srcs.all fun d => !descMeets o d)
  && (match p with | none => true | some p => !descMeets o p || (decide (p = o) && inPlace))

/-- Checks of FE_WLOAD (R655: 1, 2, 6, 7, 8). -/
def feLoadFault (core : Nat) (w : Desc) (wFmt aFmt : BitVec 4) (kext ncol : Nat) : Option Status :=
  match descFault core engineSrc w with
  | some e => some e
  | none =>
    match fmtOfCode wFmt, fmtOfCode aFmt with
    | some wf, some af =>
      match rateClass af wf with
      | none => some .formatBad
      | some cls =>
        firstFail [(decide (descFmt w = wf), .formatBad),
                   (decide (1 ≤ kext) && decide (kext ≤ 32 * cls.p) && decide (1 ≤ ncol) && decide (ncol ≤ 32), .feExtentBad),
                   (holds w kext ncol, .descShapeBad), (blockStartOk cls w, .feBlockAxis)]
    | _, _ => some .formatBad

/-- Output formats of a class (R90); with no tile every FE output code passes here, and FE_NO_TILE follows. -/
def feOutFormats (wf : Option Fmt) : List Fmt :=
  match wf with
  | none => [.f64, .f32, .g16, .h16, .g8, .k8]
  | some .f64 => [.f64, .f32]
  | some _ => [.f32, .g16, .h16, .g8, .k8]

/-- Checks of FE_STREAM and, with `be`, of BE_DX (R655, R149). DESC_DEST_BROADCAST stands right after DESC_SHAPE_BAD, as in R653 (DEDUCED,
log entry 39). `tile` holds the activation and weight formats of the tile
that the order of issue gives the instruction (R84, R93). -/
def streamFault (be : Bool) (core : Nat) (tile : Option (Fmt × Fmt)) (a o p : Desc) (m kext ncol : Nat) (oFmt : BitVec 4)
    (acc : Bool) (num : Word64) : Option Status :=
  let outs := if be then [.g16, .f32] else feOutFormats (tile.map (·.2))
  match firstStatus [descFault core engineSrc a, descFault core engineDst o, if acc then descFault core engineSrc p else none,
      firstFail [(!be || decide (descFmt a = .g16), .formatBad),
        (match fmtOfCode oFmt with | some f => outs.contains f && decide (descFmt o = f) | none => false, .formatBad),
        ((numCtrl num).isSome, .numCtrlBad)]] with
  | some e => some e
  | none =>
    match tile with
    | none => some (if be then .beNoTile else .feNoTile)
    | some (af, wf) =>
      let cls := if be then ⟨1, 1⟩ else (rateClass af wf).getD ⟨1, 1⟩
      let pf := if wf = .f64 then Fmt.f64 else .f32
      firstFail [
        (be || decide (descFmt a = af), .feTileMismatch),
        (!acc || decide (descFmt p = pf), if be then .beTileMismatch else .feTileMismatch),
        (decide (1 ≤ kext) && decide (kext ≤ 32 * cls.p) && decide (1 ≤ ncol) && decide (ncol ≤ 32),
          if be then .beExtentBad else .feExtentBad),
        (holds a kext m && holds o ncol m && (!acc || holds p ncol m), .descShapeBad),
        (!destBroadcast o, .descDestBroadcast),
        (be || blockStartOk cls a, .feBlockAxis),
        (aliasOk o [a] (if acc then some p else none) (decide (descFmt o = pf)), if be then .beAlias else .feAlias)]

/-- Second operands of the backward engines (R117). -/
def beFormats : List Fmt := [.g16, .h16, .g8, .k8, .q4, .t2]

/-- Checks of BE_WLOAD (R149). -/
def beLoadFault (core : Nat) (w : Desc) (wFmt : BitVec 4) (trn : Bool) (kext ncol : Nat) : Option Status :=
  firstStatus [descFault core engineSrc w,
    firstFail [
      (match fmtOfCode wFmt with | some f => beFormats.contains f && decide (descFmt w = f) | none => false, .formatBad),
      (decide (1 ≤ kext) && decide (kext ≤ 32) && decide (1 ≤ ncol) && decide (ncol ≤ 32), .beExtentBad),
      (if trn then holds w ncol kext else holds w kext ncol, .descShapeBad)]]

/-- Checks of BE_DW (R132, R149). -/
def dwFault (core : Nat) (x g o p : Desc) (xFmt oFmt : BitVec 4) (m xext ncol : Nat) (acc : Bool) (num : Word64) :
    Option Status :=
  firstStatus [descFault core engineSrc x, descFault core engineSrc g, descFault core engineDst o,
    if acc then descFault core engineSrc p else none,
    firstFail [
      (match fmtOfCode xFmt with | some f => beFormats.contains f && decide (descFmt x = f) | none => false, .formatBad),
      (decide (descFmt g = .g16), .formatBad),
      (match fmtOfCode oFmt with | some f => [Fmt.g16, .f32].contains f && decide (descFmt o = f) | none => false, .formatBad),
      ((numCtrl num).isSome, .numCtrlBad),
      (!acc || decide (descFmt p = .f32), .beTileMismatch),
      (decide (1 ≤ xext) && decide (xext ≤ 32) && decide (1 ≤ ncol) && decide (ncol ≤ 32), .beExtentBad),
      (holds x xext m && holds g ncol m && holds o ncol xext && (!acc || holds p ncol xext), .descShapeBad),
      (!destBroadcast o, .descDestBroadcast),
      (aliasOk o [x, g] (if acc then some p else none) (decide (descFmt o = .f32)), .beAlias)]]

/-! ## Weight planes (R80 to R87, R121, R123) -/

/-- The weight at (k, j) of a plane; +0 outside the load (R87). -/
def weightAt (t : Plane) (k j : Nat) : Val :=
  if k < t.kext ∧ j < t.ncol then t.elems.getD (k * t.ncol + j) (vzero false) else vzero false

/-- Index vectors of the weights of a load, reduction elements outermost: source index (k, j), exchanged when the load
transposes (R87, R121). -/
def loadIndices (trn : Bool) (kext ncol : Nat) : List (List Nat) :=
  (upto 0 kext).flatMap fun k => (upto 0 ncol).map fun j => if trn then [j, k] else [k, j]

/-- The SWAP bit of a stream, none for other instructions. -/
def streamSwap : Instr → Option Bool
  | .feStream _ _ _ _ _ _ _ _ _ plane _ => some plane
  | .beDx _ _ _ _ _ _ _ _ _ plane _ => some plane
  | _ => none

/-- Formats, transposition and extents of a weight load, none for other instructions. -/
def loadOf : Instr → Option (Option Fmt × Fmt × Bool × Nat × Nat)
  | .feWload _ _ w a kext ncol => some (fmtOfCode a, (fmtOfCode w).getD .g16, false, kext.toNat, ncol.toNat)
  | .beWload _ _ w trn kext ncol => some (none, (fmtOfCode w).getD .g16, trn, kext.toNat, ncol.toNat)
  | _ => none

/-- Apply a function to the first job that a test accepts. -/
def modFirst (t : Job → Bool) (f : Job → Job) : List Job → List Job
  | [] => []
  | j :: l => if t j then f j :: l else j :: modFirst t f l

def isLoad (j : Job) : Bool := (loadOf j.insn).isSome
def isStream (j : Job) : Bool := (streamSwap j.insn).isSome

/-- Jobs before the first queued load: a queued stream with SWAP among them holds the load back (R84). -/
def loadHeld : List Job → Bool
  | [] => true
  | j :: l =>
    if isLoad j && decide (j.st = .queued) then false
    else if streamSwap j.insn = some true ∧ j.st = .queued then true
    else loadHeld l

/-- The rate class of the tile that a plane holds. -/
def planeClass (t : Plane) : Option RateClass :=
  match t.aFmt, t.wFmt with
  | some a, some w => rateClass a w
  | _, _ => none

/-- Start the next weight load when the shadow plane takes one (R82, R84): EMPTY and READY do, LOADING makes it wait. -/
def startLoad (e : Engine) : Engine :=
  if e.shadow.st = .loading ∨ loadHeld e.queue then e
  else
    match e.queue.find? fun j => isLoad j && decide (j.st = .queued) with
    | none => e
    | some j =>
      match loadOf j.insn with
      | none => e
      | some (af, wf, _, kext, ncol) =>
        { e with clocked := true
                 shadow := { st := .loading, wFmt := some wf, aFmt := af, kext := kext, ncol := ncol, elems := [] }
                 queue := modFirst (fun x => isLoad x && decide (x.st = .queued)) (fun x => { x with st := .started }) e.queue }

/-- The first stream that has not started. -/
def waitingStream (e : Engine) : Option Job := e.queue.find? fun j => isStream j && decide (j.st = .queued)
/-- Whether a stream is in the grid. -/
def streaming (e : Engine) : Bool := e.queue.any fun j => isStream j && decide (j.st = .started)

/-- Start the first waiting stream with the tile of the active plane. -/
def startOnActive (e : Engine) : Engine :=
  { e with clocked := true
           queue := modFirst (fun j => isStream j && decide (j.st = .queued))
                      (fun j => { j with st := .started, tile := some e.active }) e.queue }

/-- Exchange the planes and start the first waiting stream with the new tile (R81, R82); a load held for the swap may then
start (R84). -/
def swapPlanes (e : Engine) : Engine :=
  startLoad (startOnActive { e with active := e.shadow, shadow := {} })

/-- Whether the tile of the waiting SWAP stream is READY: the load issued for it has ended, so no load stands before it in
the queue that has not. -/
def tileReady (e : Engine) : Bool :=
  decide (e.shadow.st = .ready) && (loadsDone e.queue)
where
  /-- No load that has not ended stands before the first waiting stream. -/
  loadsDone : List Job → Bool
    | [] => false
    | j :: l =>
      if isStream j && decide (j.st = .queued) then true
      else if isLoad j && decide (j.st ≠ .done) then false else loadsDone l

/-- Start the waiting streams that need not wait: KEEP uses the active plane (R83), SWAP a READY tile (R82); `swaps` is
false where the swap is an event of its own (FE_SWAP). A stream behind one in the grid waits for it to retire. -/
def startStream (swaps : Bool) (e : Engine) : Engine :=
  match waitingStream e with
  | none => e
  | some j =>
    if streaming e then e
    else match streamSwap j.insn with
      | some true => if swaps && tileReady e then swapPlanes e else e
      | _ => startOnActive e

/-! ## Arithmetic (R61 to R66, R94 to R98, R128) -/

/-- Group sums of one output: products of the pairs in groups of 32 (R62). The products outside the extents are zero (R94), and
are taken as +0 (DESIGN CHOICE, log entry 38). -/
def groupSums (F : Nat) (down : Bool) (groups : Nat) (ps : List Product) : List Val :=
  let padded := ps ++ List.replicate (32 * groups - ps.length) ⟨vzero false, 0⟩
  (chunks 32 groups padded).map (groupSum F down)

/-- Accumulate group sums from an initial value: the accumulator and how often it was beyond range (R66, R97). -/
def accumulateAll (acc : Fmt) (mode : RoundMode) : Val → List Val → Val × Nat
  | v, [] => (v, 0)
  | v, g :: t =>
    let (r, o) := accumulate acc mode v g
    let (r2, n) := accumulateAll acc mode r t
    (r2, n + b01 o)

/-- Products suppressed by zero gating (R105, R106). -/
def zeroGated (xs ws : List Val) : Nat :=
  (List.zipWith (fun a b => b01 ((vIsZero a && vIsFinite b) || (vIsZero b && vIsFinite a))) xs ws).foldl (· + ·) 0

/-- One output of a grid: its value before conversion, beyond-range accumulations, gated products. -/
structure GridOut where
  val   : Val
  ovf  : Nat
  gated : Nat
deriving DecidableEq, Repr

def gridOut (F : Nat) (acc : Fmt) (mode : RoundMode) (groups : Nat) (init : Val) (xs ws : List Val) : GridOut :=
  let (v, n) := accumulateAll acc mode init
    (groupSums F (decide (accMode mode = .down)) groups (List.zipWith mkProduct xs ws))
  ⟨v, n, zeroGated xs ws⟩

/-- One row that a grid instruction writes: its writes, its outputs, beyond-range accumulations, gated products, and whether an operand
held a non-finite value. -/
structure GridRow where
  writes : List Writes
  outs   : List Output
  ovf    : Nat
  gated  : Nat
  bad    : Bool
deriving DecidableEq, Repr

/-- Convert the outputs of row `r` to the destination (R98): the draw number of a lane is the row. -/
def gridRow (core lane0 period : Nat) (nc : NumCtrl) (o : Tensor) (bad : Bool) (r : Nat) (outs : List GridOut) : GridRow :=
  let rs := (outs.mapIdx fun j g => (j, g)).map fun ((j, g) : Nat × GridOut) =>
    let (v, ovf) := roundVal (scalarFmt o.fmt) (laneCtx nc core (lane0 + j) r) g.val false
    let n := fmtBits o.fmt / 8
    (([(planeAddr o.d.base (offsetOf o.d [j, r] * (n : Int)), leBytes n (encodeScalar (scalarFmt o.fmt) v))] : Writes),
     ({ val := v, ovf := ovf, cycle := period * r + j, lane := j, elem := globalIndex o.d [j, r], row := r } : Output))
  { writes := rs.map (·.1), outs := rs.map (·.2), ovf := (outs.map (·.ovf)).foldl (· + ·) 0
    gated := (outs.map (·.gated)).foldl (· + ·) 0, bad := bad }

/-- The numeric block of rows (R69, R70). -/
def rowsNum (core : Nat) (rows : List GridRow) : NumBlock :=
  numBlockOf core (rows.flatMap (·.outs)) ((rows.map (·.ovf)).foldl (· + ·) 0) (rows.any (·.bad))

/-- The cycle of the first non-finite output of rows, counted from the instruction's first (R70). -/
def rowsCycle (rows : List GridRow) : Nat := ((firstNonfinite (rows.flatMap (·.outs))).map (·.cycle)).getD 0

/-- Products gated in rows (R106). -/
def rowsGated (rows : List GridRow) : Nat := (rows.map (·.gated)).foldl (· + ·) 0

/-- Values of a rows × columns region, by rows; +0 everywhere when there is no tensor (R97). -/
def readRegion (s : State) (t : Option Tensor) (rows cols : Nat) : Except Err (List (List Val)) :=
  match t with
  | none => .ok (List.replicate rows (List.replicate cols (vzero false)))
  | some t => collect (fun r => readVals s t ((upto 0 cols).map fun j => [j, r])) (upto 0 rows)

/-- The results of a list up to its first error, and that error. -/
def untilError {α β : Type} (f : α → Except Err β) : List α → List β × Option Err
  | [] => ([], none)
  | a :: t =>
    match f a with
    | .error e => ([], some e)
    | .ok b => let (bs, e) := untilError f t; (b :: bs, e)

/-- Row r of FE_STREAM or BE_DX (R94 to R99, R124): the row of A, and of the partial, times the tile. -/
def streamRow (s : State) (core lane0 : Nat) (nc : NumCtrl) (tile : Plane) (a o : Tensor) (p : Option Tensor) (kext ncol r : Nat) :
    Except Err GridRow :=
  let af := tile.aFmt.getD .g16
  let cls := (rateClass af (tile.wFmt.getD .g16)).getD ⟨1, 1⟩
  match readVals s a ((upto 0 kext).map fun k => [k, r]) with
  | .error e => .error e
  | .ok xs =>
    match (match p with | none => Except.ok (List.replicate ncol (vzero false)) | some p => readVals s p ((upto 0 ncol).map fun j => [j, r])) with
    | .error e => .error e
    | .ok ps =>
      let cols := (upto 0 ncol).map fun j => (upto 0 kext).map fun k => weightAt tile k j
      let outs := (upto 0 ncol).map fun j =>
        gridOut (adderF af) (accFmt af) nc.mode (max cls.p 1) (ps.getD j (vzero false)) xs (cols.getD j [])
      .ok (gridRow core lane0 cls.period nc o ((xs ++ ps ++ cols.flatten).any fun v => !vIsFinite v) r outs)

/-- The rows of a stream up to the first that cannot be read. -/
def streamRows (s : State) (core lane0 : Nat) (nc : NumCtrl) (tile : Plane) (a o : Tensor) (p : Option Tensor) (m kext ncol : Nat) :
    List GridRow × Option Err :=
  untilError (streamRow s core lane0 nc tile a o p kext ncol) (upto 0 m)

/-- BE_DW (R127, R128): output (i, j) sums X[t][i] × G[t][j] over the tokens t; row i of the tile leaves the unload plane in order
(R129). -/
def dwRows (s : State) (core : Nat) (nc : NumCtrl) (x g o : Tensor) (p : Option Tensor) (m xext ncol : Nat) :
    Except Err (List GridRow) :=
  match readRegion s (some x) m xext, readRegion s (some g) m ncol, readRegion s p xext ncol with
  | .ok xs, .ok gs, .ok ps =>
    let bad := (xs ++ gs ++ ps).any fun l => l.any fun v => !vIsFinite v
    .ok ((upto 0 xext).map fun i => gridRow core 64 32 nc o bad i ((upto 0 ncol).map fun j =>
      gridOut (adderF .g16) .f32 nc.mode ((m + 31) / 32) ((ps.getD i []).getD j (vzero false))
        (xs.map fun l => l.getD i (vzero false)) (gs.map fun l => l.getD j (vzero false))))
  | .error e, _, _ => .error e
  | _, .error e, _ => .error e
  | _, _, .error e => .error e

end Sys2Proof.Machine
end

