-- ==== Sys2Proof/Machine/VectorOps.lean ====
section
/-! DEFINITION. The vector unit (spec/06, R203 to R207): operations on exact values, checks at issue, and the writes of
one vector instruction. -/
namespace Sys2Proof.Machine

/-- The vector operations (R205). -/
inductive VecOp where
  | add | sub | mul | fma | max | min | abs | neg | scl | sel | copy | exp2 | log2 | rcp | rsqrt | sqrt | rsum | rmax
deriving DecidableEq, Repr

/-- Sources that an operation reads: A, then B, then C; VSCL reads a register in place of C. -/
def vecSources : VecOp → Nat
  | .fma | .sel => 3
  | .add | .sub | .mul | .max | .min => 2
  | _ => 1

def vecReduces : VecOp → Bool
  | .rsum | .rmax => true
  | _ => false

/-- Whether the operation has an F64 rate (R205). -/
def vecHasF64 : VecOp → Bool
  | .exp2 | .log2 | .rcp | .rsqrt => false
  | _ => true

/-- Elements per cycle (R205). -/
def vecRate : VecOp → Bool → Nat
  | .exp2, _ | .log2, _ | .rcp, _ | .rsqrt, _ => 16
  | .sqrt, f64 => if f64 then 4 else 16
  | _, f64 => if f64 then 16 else 64

/-! ## Functions of one argument (R205): an exact or sticky value to be rounded once -/

/-- Integer square root, bit by bit. -/
def isqrtBits (n : Nat) : Nat → Nat → Nat
  | 0, r => r
  | k + 1, r => isqrtBits n k (let c := r + 2 ^ k; if c * c ≤ n then c else r)

def isqrt (n : Nat) : Nat := isqrtBits n (Nat.log2 n / 2 + 1) 0

/-- 1 ÷ v with 128 quotient bits and a sticky bit; ±0 gives the infinity of its sign, an infinity a zero (IEEE 754). -/
def vrcpVal : Val → Val × Bool
  | .nan => (.nan, false)
  | .inf n => (vzero n, false)
  | .fin n m e =>
    if m = 0 then (.inf n, false)
    else
      let k := Nat.log2 m + 128
      (.fin n (2 ^ k / m) (-(k : Int) - e), decide (2 ^ k % m ≠ 0))

/-- √v with 128 bits and a sticky bit; negative values give NaN, −0 stays (IEEE 754). -/
def vsqrtVal : Val → Val × Bool
  | .nan => (.nan, false)
  | .inf n => (if n then .nan else .inf false, false)
  | .fin n m e =>
    if m = 0 then (vzero n, false)
    else if n then (.nan, false)
    else
      let (m, e) := if e % 2 = 0 then (m, e) else (2 * m, e - 1)
      let x := m * 2 ^ 256
      let r := isqrt x
      (.fin false r (e / 2 - 128), decide (r * r ≠ x))

/-- 1 ÷ √v with a sticky bit; ±0 gives the infinity of its sign, +∞ gives +0, other negatives NaN (IEEE 754). -/
def vrsqrtVal : Val → Val × Bool
  | .nan => (.nan, false)
  | .inf n => (if n then .nan else vzero false, false)
  | .fin n m e =>
    if m = 0 then (.inf n, false)
    else if n then (.nan, false)
    else
      let (m, e) := if e % 2 = 0 then (m, e) else (2 * m, e - 1)
      let k := Nat.log2 m + 128
      let r := isqrt (2 ^ (2 * k) / m)
      (.fin false r (-(k : Int) - e / 2), decide (r * r * m ≠ 2 ^ (2 * k)))

/-- 2 to the power f ÷ 2^128, as a number times 2^128: the product of the roots 2^(2^−i) whose bits f has; `root` is the
root of the bit at hand (UNVERIFIED, log entry 10). -/
def pow2Bits (f : Nat) : Nat → Nat → Nat → Nat
  | 0, _, acc => acc
  | k + 1, root, acc =>
    pow2Bits f k (isqrt (root * 2 ^ 128)) (if f.testBit k then acc * root / 2 ^ 128 else acc)

/-- 2^v (UNVERIFIED, log entry 10): integer powers exactly, others from 128 bits of the fraction. -/
def vexp2Val : Val → Val × Bool
  | .nan => (.nan, false)
  | .inf n => (if n then vzero false else .inf false, false)
  | .fin n m e =>
    -- beyond these bounds every result is beyond range or below half the least subnormal number
    if m = 0 then (.fin false 1 0, false)
    else if magExp m e ≥ 12 then (if n then .fin false 1 (-4096) else .fin false 1 4096, true)
    else
      let k := if e ≥ -128 then m * 2 ^ (e + 128).toNat else m / 2 ^ (-128 - e).toNat
      let lost := decide (e < -128) && decide (m % 2 ^ (-128 - e).toNat ≠ 0)
      -- floor of the signed exponent in units of 2^−128
      let z : Int := if n then -(k : Int) - (if lost then 1 else 0) else k
      let f := (z % 2 ^ 128).toNat
      let i := z / 2 ^ 128
      if f = 0 ∧ !lost then (.fin false 1 i, false)
      else (.fin false (pow2Bits f 128 (isqrt (2 * 2 ^ 256)) (2 ^ 128)) (i - 128), true)

/-- Bits of the base-2 logarithm of y ÷ 2^256 in [1, 2), by squaring. -/
def log2Bits : Nat → Nat → Nat → Nat
  | 0, _, acc => acc
  | k + 1, y, acc =>
    let q := y * y / 2 ^ 256
    if q ≥ 2 ^ 257 then log2Bits k (q / 2) (2 * acc + 1) else log2Bits k q (2 * acc)

/-- log2 v (UNVERIFIED, log entry 10): powers of two exactly, others with 110 bits after the point; ±0 gives −∞, negatives NaN. -/
def vlog2Val : Val → Val × Bool
  | .nan => (.nan, false)
  | .inf n => (if n then .nan else .inf false, false)
  | .fin n m e =>
    if m = 0 then (.inf true, false)
    else if n then (.nan, false)
    else
      let k := Nat.log2 m
      let ip : Int := (k : Int) + e
      if m = 2 ^ k then (if ip = 0 then vzero false else .fin (decide (ip < 0)) ip.natAbs 0, false)
      else
        let y := if k ≤ 256 then m * 2 ^ (256 - k) else m / 2 ^ (k - 256)
        let z : Int := ip * 2 ^ 110 + (log2Bits 110 y 0 : Nat)
        (if z ≥ 0 then .fin false z.toNat (-110) else .fin true (z.natAbs - 1) (-110), true)

/-! ## Operations on values -/

/-- Larger of two values: NaN if either is NaN, −0 below +0 (R205). -/
def vmaxVal (a b : Val) : Val :=
  if vIsNan a || vIsNan b then .nan
  else if vIsZero a && vIsZero b then vzero (vSign a && vSign b)
  else if vlt a b then b else a

def vminVal (a b : Val) : Val :=
  if vIsNan a || vIsNan b then .nan
  else if vIsZero a && vIsZero b then vzero (vSign a || vSign b)
  else if vlt b a then b else a

/-- One element of an elementwise operation before rounding: the value and its sticky bit (R205). `down` is rounding
toward −∞ (R41); x is the scalar of VSCL. -/
def vecVal (op : VecOp) (down : Bool) (x a b c : Val) : Val × Bool :=
  match op with
  | .add => (vadd down a b, false)
  | .sub => (vadd down a (vnegate b), false)
  | .mul => (vmul a b, false)
  | .fma => (vadd down (vmul a b) c, false)
  | .max => (vmaxVal a b, false)
  | .min => (vminVal a b, false)
  | .abs => (vabs a, false)
  | .neg => (vnegate a, false)
  | .scl => (vmul a x, false)
  | .sel => (if vIsNan c || vlt c (vzero false) then b else a, false)
  | .copy => (a, false)
  | .exp2 => vexp2Val a
  | .log2 => vlog2Val a
  | .rcp => vrcpVal a
  | .rsqrt => vrsqrtVal a
  | .sqrt => vsqrtVal a
  | .rsum | .rmax => (a, false)

/-! ## Reductions (R207) -/

/-- A value with how often its roundings were beyond range. -/
abbrev Counted := Val × Nat

/-- One addition rounded into the compute format under R52. -/
def addRound (cf : Fmt) (mode : RoundMode) (a b : Counted) : Counted :=
  let (v, o) := accumulate cf mode a.1 b.1
  (v, a.2 + b.2 + b01 o)

/-- Add lanes in pairs (l, l + w) for w = 32, 16, … 1. -/
def pairLanes (cf : Fmt) (mode : RoundMode) : Nat → List Counted → List Counted
  | 0, ls => ls
  | k + 1, ls =>
    let w := 2 ^ k
    pairLanes cf mode k (List.zipWith (addRound cf mode) (ls.take w) (ls.drop w))

/-- Every 64th element from l. -/
def laneElems (l : Nat) (vs : List Val) : List Val :=
  (vs.mapIdx fun i v => (i, v)).filterMap fun (p : Nat × Val) => if p.1 % 64 = l then some p.2 else none

/-- The sum of R207. Every lane starts from +0, and one without elements adds +0: the rule gives no starting value (DESIGN CHOICE, log
entry 38). -/
def vecSum (cf : Fmt) (mode : RoundMode) (vs : List Val) : Counted :=
  let lanes := (upto 0 64).map fun l =>
    (laneElems l vs).foldl (fun acc v => addRound cf mode acc (v, 0)) ((vzero false, 0) : Counted)
  (pairLanes cf mode 6 lanes).headD (vzero false, 0)

def vecMax : List Val → Val
  | [] => .inf true
  | [v] => v
  | v :: t => vmaxVal v (vecMax t)

/-! ## One instruction -/

/-- Destination formats of the vector unit (R204). -/
def vecDstFormats : List Fmt := [.f64, .f32, .g16, .h16, .g8, .k8]

/-- The compute format of a CFMT code (R203). -/
def vecFmt (c : BitVec 4) : Option Fmt := if c = 0 then some .f64 else if c = 1 then some .f32 else none

/-- Checks of a vector instruction at issue: descriptors in operand order (R653), formats (R203 to R205), numeric control
word (R51), sizes (R204), zero-stride destination (R160). -/
def vecFault (core : Nat) (op : VecOp) (d : Desc) (srcs : List Desc) (cfmt : BitVec 4) (num : Word64) : Option Status :=
  let src : Use := { engine := true, formats := engineFormats }
  firstStatus ([descFault core { engine := true, formats := vecDstFormats } d] ++ srcs.map (descFault core src) ++
    [firstFail [
      (match vecFmt cfmt with | none => false | some f => decide (f = .f32) || vecHasF64 op, .formatBad),
      ((numCtrl num).isSome, .numCtrlBad),
      (srcs.all fun a => if vecReduces op then decide (shape d = (shape a).set 0 1) else decide (shape d = shape a), .descShapeBad),
      (!destBroadcast d, .descDestBroadcast)]])

/-- A source element converted to the compute format (R60, R204). -/
def vecIn (cf : Fmt) (mode : RoundMode) (v : Val) : Val × Nat :=
  let (r, o) := roundVal (scalarFmt cf) (ctxOf (accMode mode)) v false
  (r, b01 o)

/-- Lane and draw number of the element at a position: at 64 elements per cycle, position modulo 64, as R207 places the elements of
VRSUM; at lower rates a free lane (DESIGN CHOICE, log entry 13 for both). -/
def vecLane (rate pos : Nat) : Nat × Nat := if rate = 64 then (pos % 64, pos / 64) else laneDraw rate 64 pos

/-- What a vector instruction writes and reports. -/
structure VecWork where
  writes : List Writes
  num    : NumBlock
deriving DecidableEq, Repr

/-- Writes and flags of a vector instruction. -/
def vecWork (s : State) (core : Nat) (op : VecOp) (cf : Fmt) (nc : NumCtrl) (x : Val) (d : Tensor) (srcs : List Tensor) :
    Except Err VecWork :=
  let down := decide (accMode nc.mode = .down)
  let rate := if vecReduces op then 1 else vecRate op (decide (cf = .f64))
  match collect (fun t => readVals s t (indices t.d)) srcs with
  | .error e => .error e
  | .ok vals =>
    let n := elemCount d.d
    let n0 := dimSize (srcs.headD d).d 0
    let ins := vals.map fun l => l.map (vecIn cf nc.mode)
    let arg (k i : Nat) : Val × Nat := (ins.getD k []).getD i (vzero false, 0)
    let outs : List ((Nat × List Nat) × Val × Nat) := ((indices d.d).mapIdx fun i v => (i, v)).map fun p =>
      if vecReduces op then
        let xs := ((ins.getD 0 []).drop (p.1 * n0)).take n0
        let c := if op = .rsum then vecSum cf nc.mode (xs.map (·.1)) else (vecMax (xs.map (·.1)), 0)
        (p, c.1, c.2)
      else
        let (v, sticky) := vecVal op down x (arg 0 p.1).1 (arg 1 p.1).1 (arg 2 p.1).1
        let (r, o) := roundVal (scalarFmt cf) (ctxOf (accMode nc.mode)) v sticky
        (p, r, b01 o)
    let rs := outs.map fun (p, v, _) =>
      let (lane, k) := vecLane rate p.1
      let (r, o) := roundVal (scalarFmt d.fmt) (laneCtx nc core (96 + lane) k) v false
      let w := fmtBits d.fmt / 8
      (([(planeAddr d.d.base (offsetOf d.d p.2 * (w : Int)), leBytes w (encodeScalar (scalarFmt d.fmt) r))] : Writes),
       ({ val := r, ovf := o, cycle := p.1 / rate, lane := lane, elem := globalIndex d.d p.2, row := 0xFFFFFF } : Output))
    let ovf := (ins.map fun l => (l.map (·.2)).foldl (· + ·) 0).foldl (· + ·) 0 + (outs.map fun o => o.2.2).foldl (· + ·) 0
    let bad := (vals.any fun l => l.any fun v => !vIsFinite v) || (decide (op = .scl) && !vIsFinite x)
    if n = 0 ∨ (srcs.any fun t => decide (elemCount t.d = 0)) then .ok ⟨[], {}⟩
    else .ok { writes := rs.map (·.1), num := numBlockOf core (rs.map (·.2)) ovf bad }

/-- The operation, operand slots and compute format of a vector instruction: D, A, B, C or SC, NUM, CFMT (R203, R205). -/
def vecOf : Instr → Option (VecOp × BitVec 5 × BitVec 5 × BitVec 5 × BitVec 5 × BitVec 5 × BitVec 4)
  | .vadd _ d a b c n f => some (.add, d, a, b, c, n, f)
  | .vsub _ d a b c n f => some (.sub, d, a, b, c, n, f)
  | .vmul _ d a b c n f => some (.mul, d, a, b, c, n, f)
  | .vfma _ d a b c n f => some (.fma, d, a, b, c, n, f)
  | .vmax _ d a b c n f => some (.max, d, a, b, c, n, f)
  | .vmin _ d a b c n f => some (.min, d, a, b, c, n, f)
  | .vabs _ d a b c n f => some (.abs, d, a, b, c, n, f)
  | .vneg _ d a b c n f => some (.neg, d, a, b, c, n, f)
  | .vscl _ d a b c n f => some (.scl, d, a, b, c, n, f)
  | .vsel _ d a b c n f => some (.sel, d, a, b, c, n, f)
  | .vcopy _ d a b c n f => some (.copy, d, a, b, c, n, f)
  | .vexp2 _ d a b c n f => some (.exp2, d, a, b, c, n, f)
  | .vlog2 _ d a b c n f => some (.log2, d, a, b, c, n, f)
  | .vrcp _ d a b c n f => some (.rcp, d, a, b, c, n, f)
  | .vrsqrt _ d a b c n f => some (.rsqrt, d, a, b, c, n, f)
  | .vsqrt _ d a b c n f => some (.sqrt, d, a, b, c, n, f)
  | .vrsum _ d a b c n f => some (.rsum, d, a, b, c, n, f)
  | .vrmax _ d a b c n f => some (.rmax, d, a, b, c, n, f)
  | _ => none

end Sys2Proof.Machine
end

