-- ==== Sys2Proof/Machine/LoadOps.lean ====
section
/-! DEFINITION. Copies, gathers and scatters as a load unit or a copy unit runs them (spec/05, R167 to R184): checks of
the operands, overlap method, staging area, and the movement itself. -/
namespace Sys2Proof.Machine

/-- What a movement does (R167, R171). -/
inductive MoveKind where
  | copy
  | gather (dim : BitVec 3) (mode : BitVec 2)
  | scatter (dim : BitVec 3) (mode : BitVec 2) (accum : Bool)
deriving DecidableEq, Repr

/-- The formats that operand k of a movement accepts (R171, R177): 0 source or TABLE, 1 destination or DENSE, 2 INDEX. -/
def moveUse (kind : MoveKind) (own : Bool) (k : Nat) (d : Desc) : Use :=
  let all : List Fmt := engineFormats ++ [.m8]
  match kind, k with
  -- a DLOAD is the copy whose destination is the core's own scratchpad
  | .copy, 1 => { own := own, plain := own }
  | .copy, _ => { own := own }
  | _, 2 => { own := own, formats := [.f32] }
  | .gather _ _, 1 => { own := own, plain := true, formats := all }
  | .scatter _ _ true, 0 =>
    { own := own, plain := true
      formats := if d.space = 3 then [] else if d.space = 2 then [.f32, .g16] else [.f32, .g16, .f64] }
  | .scatter _ _ true, _ => { own := own, formats := engineFormats }
  | _, _ => { own := own, formats := all }

/-- Dimension that the indices select. -/
def moveDim : MoveKind → Nat
  | .copy => 0
  | .gather d _ => d.toNat
  | .scatter d _ _ => d.toNat

def moveAccum : MoveKind → Bool
  | .scatter _ _ a => a
  | _ => false

/-- Checks of one operand in the order of R653; an INDEX with another NDIM than 1 is a structural fault (R171). -/
def moveDescFault (core : Option Nat) (kind : MoveKind) (own : Bool) (k : Nat) (d : Desc) : Option Status :=
  if k = 2 ∧ d.ndim ≠ 1 then some .descBad
  else match checkDesc core (moveUse kind own k d) d with | .error e => some e | .ok _ => none

/-- The tensor of a checked descriptor. -/
def tensorOf (core : Option Nat) (d : Desc) : Tensor :=
  { d := d, fmt := descFmt d, unit := (match resolveUnit core d with | .ok u => u | .error _ => 0) }

/-- Source tensors and destination tensor of a movement. -/
def moveEnds (kind : MoveKind) (ts : List Tensor) : List Tensor × Option Tensor :=
  match kind, ts with
  | .copy, [a, b] => ([a], some b)
  | .gather _ _, [t, d, i] => ([t, i], some d)
  | .scatter _ _ _, [t, d, i] => ([d, i], some t)
  | _, _ => ([], none)

/-- The overlap method of a movement (R180, R181). -/
def moveOvl (kind : MoveKind) (ts : List Tensor) : OvlMethod :=
  match moveEnds kind ts with
  | (a :: rest, some b) => ovlMethod a b rest
  | _ => .apart

/-- Sizes of the operands of a movement agree (R167, R171). -/
def moveShapes (kind : MoveKind) (ds : List Desc) : Bool :=
  match kind, ds with
  | .copy, [a, b] => decide (shape a = shape b)
  | _, [t, d, i] => decide (moveDim kind < t.ndim) && denseOk t d (moveDim kind) (elemCount i)
  | _, _ => false

/-- All checks of a movement at issue or start, in the order of R653 with the numeric control word before the comparisons
(R51, R655): `own k` says that operand k must lie in the core's own scratchpad. -/
def moveFault (core : Option Nat) (kind : MoveKind) (own : Nat → Bool) (num : Word64) (ds : List Desc) : Option Status :=
  let ts := ds.map (tensorOf core)
  firstStatus (ds.mapIdx (fun k d => moveDescFault core kind (own k) k d) ++
    [firstFail [
      ((numCtrl num).isSome, .numCtrlBad),
      (moveShapes kind ds, .descShapeBad),
      (moveAccum kind || (match (moveEnds kind ts).2 with | some t => !destBroadcast t.d | none => true), .descDestBroadcast),
      (decide (moveOvl kind ts ≠ .tooLarge), .copyOverlapLarge)]])

/-- Whether a movement moves no element because a descriptor is empty, and so completes at once (R166): of a gather only an
empty destination makes it so. -/
def moveEmpty (kind : MoveKind) (ts : List Tensor) : Bool :=
  match kind, ts with
  | .gather _ _, [_, d, _] => decide (elemCount d.d = 0)
  | .gather _ _, _ => false
  | _, ts => ts.any fun t => decide (elemCount t.d = 0)

/-- Run a movement on checked operands (R166, R167, R172, R176, R181). -/
def moveRun (mask : Option Nat) (s : State) (u : Converter) (nc : NumCtrl) (kind : MoveKind) (ts : List Tensor) : MoveResult :=
  if moveEmpty kind ts then { st := s }
  else
    let s := match kind, ts with
      | .copy, _ => s
      | _, [_, _, i] => settleElems s i (indices i.d)
      | _, _ => s
    match kind, ts with
  | .copy, [a, b] => copyTensor mask s u nc a b
  | .gather dim mode, [t, d, i] =>
    (match readIndices s i with
     | .error e => { st := s, err := some e }
     | .ok ix => gatherTensor mask s u nc t d dim.toNat (idxModeOf mode) ix)
  | .scatter dim mode accum, [t, d, i] =>
    (match readIndices s i with
     | .error e => { st := s, err := some e }
     | .ok ix => scatterTensor mask s u nc t d dim.toNat (idxModeOf mode) accum ix)
  | _, _ => { st := s }

/-- Count the overlap method of a movement (R184). -/
def countOvl (s : State) (cl : Nat) (m : OvlMethod) : State :=
  match m with
  | .direct => rbump s (.cluCopyCtr cl 1) 1
  | .transpose => rbump s (.cluCopyCtr cl 2) 1
  | .staged => rbump s (.cluCopyCtr cl 3) 1
  | _ => s

/-! ## Staging area (R183) -/

/-- Ask for the staging area of a cluster: at once when it is free and nobody waits. -/
def stageRequest (s : State) (cl : Nat) (x : Stager) : State :=
  let k := clusterOf s cl
  if k.stageHold = some x ∨ k.stageWait.contains x then s
  else if k.stageHold = none ∧ k.stageWait = [] then setCluster s cl { k with stageHold := some x }
  else setCluster s cl { k with stageWait := k.stageWait ++ [x] }

/-- Give the staging area back, or leave its queue. -/
def stageRelease (s : State) (cl : Nat) (x : Stager) : State :=
  let k := clusterOf s cl
  setCluster s cl { k with stageHold := if k.stageHold = some x then none else k.stageHold
                           stageWait := k.stageWait.filter fun y => decide (y ≠ x) }

def stageHeld (s : State) (cl : Nat) (x : Stager) : Bool := decide ((clusterOf s cl).stageHold = some x)

/-! ## The load unit (R190, R200) -/

/-- The movement of a load-unit instruction and which of its operands lie in the core's own scratchpad (R200). -/
def moveOf : Instr → Option (MoveKind × (Nat → Bool))
  | .dload _ _ _ _ => some (.copy, fun k => decide (k = 1))
  | .dstore _ _ _ _ => some (.copy, fun k => decide (k = 0))
  | .dgather _ _ _ _ dim mode _ => some (.gather dim mode, fun k => decide (k ≠ 0))
  | .dscatter _ _ _ _ dim mode acc _ => some (.scatter dim mode acc, fun k => decide (k ≠ 0))
  | _ => none

/-- Tensors of a load-unit job. -/
def moveTensors (core : Nat) (j : Job) : List Tensor := j.descs.map fun r => tensorOf (some core) (parseDesc r)

def jobStaged (core : Nat) (j : Job) : Bool :=
  match moveOf j.insn with
  | none => false
  | some (kind, _) => !moveEmpty kind (moveTensors core j) && decide (moveOvl kind (moveTensors core j) = .staged)

/-- Once a load-unit job is the one running, it asks for the staging area when its method needs it. -/
def loadHeadRequest (s : State) (core p : Nat) : State :=
  match (coreOf s p).lq with
  | [] => s
  | j :: _ => if jobStaged core j then stageRequest s (core / 64) (.core p j.order) else s

end Sys2Proof.Machine
end

