-- ==== Sys2Proof/Machine/AtomicOps.lean ====
section
/-! DEFINITION. The atomic port (spec/06, R210, R211, with R177, R240, R244 and R278). -/
namespace Sys2Proof.Machine

/-- An address word (R210). -/
structure AtomAddr where
  space : Nat
  unit  : Nat
  off   : Nat
deriving DecidableEq, Repr

def atomAddr (w : Word64) : AtomAddr := ⟨nfld w.toNat 61 3, nfld w.toNat 49 12, nfld w.toNat 0 49⟩

/-- Operation, SD, SA, SB, SC and WIDTH of an atomic instruction. -/
def atomOf : Instr → Option (AtomOp × BitVec 5 × BitVec 5 × BitVec 5 × BitVec 5 × BitVec 3)
  | .aadd _ d a b c w => some (.add, d, a, b, c, w)
  | .afadd _ d a b c w => some (.fadd, d, a, b, c, w)
  | .aswap _ d a b c w => some (.swap, d, a, b, c, w)
  | .acas _ d a b c w => some (.cas, d, a, b, c, w)
  | .amax _ d a b c w => some (.max, d, a, b, c, w)
  | .amin _ d a b c w => some (.min, d, a, b, c, w)
  | _ => none

/-- Bytes of a WIDTH, and its format for the floating-point add; none where the operation does not have it (R210). -/
def atomWidth (op : AtomOp) (w : BitVec 3) : Option (Nat × Fmt) :=
  match op, w.toNat with
  | .fadd, 2 => some (4, .f32)
  | .fadd, 3 => some (8, .f64)
  | .fadd, 4 => some (2, .g16)
  | .fadd, _ => none
  | _, 0 => some (4, .f32)
  | _, 1 => some (8, .f64)
  | _, _ => none

/-- First address beyond what an atomic reaches: the plain windows (R240) and device memory. -/
def atomEnd (space : Nat) : Nat := match space with | 0 => 0x80000 | 1 => 0x800000 | _ => 2 ^ 41

/-- Unit of an address word for the issuing core. -/
def atomUnit (core : Nat) (a : AtomAddr) : Nat :=
  match a.space with
  | 0 => core
  | 1 => if a.unit = 0xFFF then core / 64 else a.unit
  | _ => 0

/-- Checks of an atomic at issue (R210, R177, R240). -/
def atomFault (core : Nat) (op : AtomOp) (w : BitVec 3) (addr : Word64) : Option Status :=
  let a := atomAddr addr
  match atomWidth op w with
  | none => some .illegalInsn
  | some (n, _) =>
    firstFail [
      (decide (a.space ≤ 2) && decide (a.off % n = 0) && decide (a.off + n ≤ atomEnd a.space)
        && (decide (a.space ≠ 0) || decide (a.unit = 0xFFF) || decide (a.unit = core))
        && (decide (a.space ≠ 1) || decide (a.unit = 0xFFF) || decide (a.unit < 64)), .atomicAddrBad),
      (decide (op ≠ .fadd) || decide (a.space ≠ 2) || decide (w ≠ 3), .formatBad)]

/-- The integer that an atomic stores at a location of n bytes (R210). -/
def atomNew (op : AtomOp) (n old b c : Nat) : Nat :=
  let m := 2 ^ (8 * n)
  match op with
  | .add => (old + b) % m
  | .swap => b % m
  | .cas => if old = c % m then b % m else old
  | .max => if signed old (8 * n) < signed (b % m) (8 * n) then b % m else old
  | .min => if signed (b % m) (8 * n) < signed old (8 * n) then b % m else old
  | .fadd => old

/-- The numeric block of one floating-point atomic: it names no tensor, so the place of a non-finite result is a free
value (DESIGN CHOICE, log entry 5). -/
def atomBlock (s : State) (core : Nat) (r : Val) (ovf bad : Bool) : NumBlock :=
  let b := numBlockOf core [{ val := r, ovf := ovf, cycle := 0, lane := 0, elem := 0, row := 0xFFFFFF }] 0 bad
  if b.nonfinite then { b with firstElement := freeWord s, firstLane := (freeWord s).extractLsb' 0 8 } else b

/-- What one atomic leaves: state, old value, numeric block, error. -/
structure AtomResult where
  st  : State
  old : Word64 := 0
  num : NumBlock := {}
  err : Option Err := none
deriving DecidableEq, Repr

/-- Run an atomic (R210): read, combine, write back in one step; on a parked block it fails (R278), and where it cannot write it changes
nothing (R261). -/
def atomRun (s : State) (core : Nat) (op : AtomOp) (w : BitVec 3) (addr b c : Word64) : AtomResult :=
  let a := atomAddr addr
  let (n, f) := (atomWidth op w).getD (4, .f32)
  let unit := atomUnit core a
  if a.space = 2 ∧ devParked s a.off then { st := s, err := some { status := .atomicAddrBad } }
  else match spaceFault s a.space unit a.off n with
  | some e => { st := s, err := some e }
  | none =>
    let s := settle s a.space a.off n
    match memRead s a.space unit a.off n with
    | .error e => { st := s, err := some e }
    | .ok bs =>
      let old := BitVec.ofNat 64 (leNat bs)
      if op = .fadd then
        let v := decodeScalar (scalarFmt f) (b.toNat % 2 ^ (8 * n))
        let (s', r, ovf, e) := addElem s .nearest f a.space unit a.off v
        { st := tickFree s', old := old, num := atomBlock s core r ovf (!vIsFinite v), err := e }
      else
        let (s', e) := memWrite s a.space unit a.off (leBytes n (atomNew op n (leNat bs) b.toNat c.toNat))
        { st := s', old := old, err := e }

end Sys2Proof.Machine
end

