-- ==== Sys2Proof/Machine/FabricOps.lean ====
section
/-! DEFINITION. The fabric interface of a core (spec/06, R208, R209; spec/11, R363 to R370): packets, transfers, and the
requests that its instructions send. -/
namespace Sys2Proof.Machine

/-! ## Packets -/

/-- The package's own node number (R383). -/
def ownNode (s : State) : Half := BitVec.ofNat 16 (rfld s .fabNodeId 0 16)

/-- Hand a packet that the package originates to the switch (R374: HOPS 15). -/
def sendPacket (s : State) (p : Packet) : State :=
  { s with fab := { s.fab with sw := s.fab.sw ++ [{ pkt := { p with srcNode := ownNode s, hops := 15 }, port := none }] } }

/-- Hand a packet of a join's sum to the switch, by the cumulus port (R373, R401). -/
def sendSum (s : State) (p : Packet) : State :=
  { s with fab := { s.fab with sw := s.fab.sw ++ [{ pkt := { p with srcNode := ownNode s, hops := 15 }, port := none, join := true }] } }

/-- Packet types (R364). -/
def ptReadReq : Byte := 0x01
def ptReadResp : Byte := 0x02
def ptWrite : Byte := 0x03
def ptAccWrite : Byte := 0x04
def ptResp : Byte := 0x05
def ptCts : Byte := 0x06
def ptSend : Byte := 0x07
def ptChunk : Byte := 0x08
def ptWithdraw : Byte := 0x09
def ptMsg : Byte := 0x0A
def ptTime : Byte := 0x0B
def ptTaint : Byte := 0x0C
def ptMgmt : Byte := 0x0D

/-- Payload slots of a packet (R363). -/
def payloadSlots (p : Packet) : Nat := (p.payload.length + 15) / 16

/-- Types whose packets keep their order (R364). -/
def ptOrdered (t : Byte) : Bool := [ptReadReq, ptResp, ptCts, ptWithdraw, ptMsg, ptTime, ptTaint, ptMgmt].contains t

/-- An endpoint word (R208): node, with 0xFFFF meaning this package, and unit. -/
def endpointNode (s : State) (w : Word64) : Half :=
  let n := w.extractLsb' 48 16
  if n = 0xFFFF then ownNode s else n
def endpointUnit (w : Word64) : BitVec 12 := w.extractLsb' 36 12

/-! ## The bytes of a transfer (DEDUCED, log entry 18) -/

/-- The byte ranges of a tensor in transfer order: elements in index order; of a block format the element records, then
the scale bytes or headers, then the side bytes, in block order. -/
def streamSpans (t : Tensor) : List (Nat × Nat) :=
  if fmtIsBlock t.fmt then
    let B : Int := fmtBlock t.fmt
    let ks := (blockRuns t.d (fmtBlock t.fmt)).map fun run => offsetOf t.d (run.headD (0, [])).2 / B
    let n := fmtBlock t.fmt * fmtBits t.fmt / 8
    (ks.map fun k => (planeAddr t.d.base (k * (n : Int)), n))
    ++ (ks.map fun k => if t.fmt = .m8 then (planeAddr t.d.scaleBase (8 * k), 8) else (planeAddr t.d.scaleBase k, 1))
    ++ (if t.fmt = .t2 then ks.map fun k => (planeAddr t.d.sideBase k, 1) else [])
  else
    let n := fmtBits t.fmt / 8
    (indices t.d).map fun i => (planeAddr t.d.base (offsetOf t.d i * (n : Int)), n)

/-- Bytes of a transfer. -/
def streamSize (t : Tensor) : Nat := ((streamSpans t).map (·.2)).foldl (· + ·) 0

/-- Read the bytes of a transfer. -/
def readStream (s : State) (t : Tensor) : Except Err (List Byte) :=
  match collect (fun (a : Nat × Nat) => memRead s t.d.space t.unit a.1 a.2) (streamSpans t) with
  | .error e => .error e
  | .ok bs => .ok bs.flatten

/-- The block of a receive or remote read that stored a whole tensor (R69), from what stands there when it retires; none where it cannot
be read. -/
def storedBlock (s : State) (core : Nat) (t : Tensor) : NumBlock :=
  match readVals s t (indices t.d) with
  | .error _ => {}
  | .ok vs => fabricBlock core t vs

/-- The writes of bytes from an offset of a list of ranges, one group per range. -/
def spanWrites : List (Nat × Nat) → Nat → List Byte → List Writes
  | [], _, _ => []
  | _, _, [] => []
  | (a, n) :: t, off, bs =>
    if n ≤ off then spanWrites t (off - n) bs
    else [(a + off, bs.take (n - off))] :: spanWrites t 0 (bs.drop (n - off))

/-- Store bytes at an offset of a transfer, in the window the tensor names (R240). -/
def writeStream (s : State) (t : Tensor) (off : Nat) (bs : List Byte) : Acc :=
  tensorWrites none t (spanWrites (streamSpans t) off bs) s

/-- Add the elements of a transfer at an offset to their places (R176, R208 MODE 1), with their outputs. -/
def addStream (s : State) (mode : RoundMode) (t : Tensor) (off : Nat) (bs : List Byte) : State × List Output × Option Err :=
  let n := fmtBits t.fmt / 8
  let ix := ((indices t.d).drop (off / n)).take (bs.length / n)
  let vals := (chunks n bs.length bs).map fun b => decodeScalar (scalarFmt t.fmt) (leNat b)
  addsOf mode t.fmt t.d.space t.unit (List.zipWith (fun (p : Nat × List Nat) v =>
    (planeAddr t.d.base (offsetOf t.d p.2 * (n : Int)), v,
     ({ val := v, ovf := false, cycle := off / n + p.1, lane := (laneDraw 0 256 (off / n + p.1)).1, elem := globalIndex t.d p.2
        row := 0xFFFFFF } : Output))) (ix.mapIdx fun i v => (i, v)) vals) s

/-- A transfer cut into the payloads of its packets with their offsets (R365). -/
def packetCuts (bs : List Byte) : List (Nat × List Byte) := (chunks 4096 bs.length bs).mapIdx fun i c => (4096 * i, c)

/-! ## Instructions (R208) -/

/-- The fabric instructions. -/
inductive FabOp where
  | send | recv | csend | crecv | put | get | acc | msg
deriving DecidableEq, Repr

/-- Operation and operands of a fabric instruction: DESC, EPREG, AUXREG, VC, TAG, MODE, NUM. -/
def fabOf : Instr → Option (FabOp × BitVec 5 × BitVec 5 × BitVec 5 × BitVec 3 × Half × BitVec 2 × BitVec 5)
  | .fsend _ d e a v t m n => some (.send, d, e, a, v, t, m, n)
  | .frecv _ d e a v t m n => some (.recv, d, e, a, v, t, m, n)
  | .fcsend _ d e a v t m n => some (.csend, d, e, a, v, t, m, n)
  | .fcrecv _ d e a v t m n => some (.crecv, d, e, a, v, t, m, n)
  | .fput _ d e a v t m n => some (.put, d, e, a, v, t, m, n)
  | .fget _ d e a v t m n => some (.get, d, e, a, v, t, m, n)
  | .facc _ d e a v t m n => some (.acc, d, e, a, v, t, m, n)
  | .fmsg _ d e a v t m n => some (.msg, d, e, a, v, t, m, n)
  | _ => none

/-- MODE values that the table assigns; 0 is the value of an instruction for which it names none (R208). -/
def fabModeOk (op : FabOp) (m : BitVec 2) : Bool :=
  match op with
  | .recv | .crecv => decide (m = 0) || decide (m = 1)
  | .csend => decide (m = 0) || decide (m = 2)
  | _ => decide (m = 0)

/-- How the local operand is used (R38, R155, R177, R208, R240): M8 is for copies, stack controllers and update units alone. -/
def fabUse (op : FabOp) (m : BitVec 2) : Use :=
  match op with
  | .acc => { own := true, formats := [.g16, .f32] }
  | .recv | .crecv =>
    if m = 1 then { own := true, plain := true, formats := [.f32, .g16, .f64] } else { own := true, formats := engineFormats }
  | .get => { own := true, plain := true, formats := engineFormats }
  | _ => { own := true, formats := engineFormats }

def fabWrites : FabOp → Bool
  | .recv | .crecv | .get => true
  | _ => false

/-- Checks of a fabric instruction at issue: MODE, VC (R209), operand (R653), numeric control word (R51), zero-stride
destination (R160); FMSG has no local operand. -/
def fabFault (core : Nat) (op : FabOp) (d : Desc) (vc : BitVec 3) (m : BitVec 2) (num : Word64) : Option Status :=
  firstStatus [
    firstFail [(fabModeOk op m, .illegalInsn), (decide (vc ≠ 0) && decide (vc ≠ 7), .fabVcBad)],
    if op = .msg then none else descFault core (fabUse op m) d,
    firstFail [((numCtrl num).isSome, .numCtrlBad),
      (!fabWrites op || m = 1 || !destBroadcast d, .descDestBroadcast)]]

/-- Endpoint, VC and TAG of a fabric job; its scalars are EPREG and AUXREG. -/
def jobVc (j : Job) : BitVec 3 := match fabOf j.insn with | some (_, _, _, _, v, _) => v | none => 1
def jobTag (j : Job) : Half := match fabOf j.insn with | some (_, _, _, _, _, t, _) => t | none => 0
def jobOp (j : Job) : Option FabOp := match fabOf j.insn with | some (o, _) => some o | none => none
def jobMode (j : Job) : BitVec 2 := match fabOf j.insn with | some (_, _, _, _, _, _, m, _) => m | none => 0
def jobSize (core : Nat) (j : Job) : Nat := streamSize (jobTensor core j 0)

/-- Post a receive (R366): an RXN of the core and a CTS to the sender. -/
def postReceive (s : State) (core p : Nat) (j : Job) (chunk : Option Word32) : State :=
  let c := coreOf s p
  let size := jobSize core j
  if size = 0 then s
  else
    let node := endpointNode s (jobArg j 0)
    let unit := endpointUnit (jobArg j 0)
    let post : Posted := { order := j.order, rxn := c.rxn, node := node, unit := unit, tag := jobTag j, vc := jobVc j, size := size, chunk := chunk }
    let s := setCore s p { c with rxn := c.rxn + 1, posted := c.posted ++ [post] }
    sendPacket s { destNode := node, destUnit := unit, srcUnit := BitVec.ofNat 12 core, vc := jobVc j, ptype := ptCts,
                   tag := jobTag j, rxn := c.rxn, aux := BitVec.ofNat 64 size }

/-- The first CTS that matches a send (R366). -/
def matchCts (s : State) (c : Core) (j : Job) : Option HeldCts :=
  c.cts.find? fun x => decide (x.tag = jobTag j) && decide (x.node = endpointNode s (jobArg j 0))
    && decide (x.unit = endpointUnit (jobArg j 0))

/-- Send the data of a transfer under a receive number (R365, R366); a chunk carries its CRC-32C and its number (R398). -/
def sendData (s : State) (core : Nat) (j : Job) (rxn : Half) (chunk : Option Word32) (cum : Bool) (bs : List Byte)
    (packets : Option Nat) : State :=
  let cuts := packetCuts bs
  let n := cuts.length
  let aux : Word64 := match chunk with
    | none => 0
    | some k => BitVec.ofNat 64 (k.toNat * 2 ^ 32 + crc32c bs)
  (cuts.take (packets.getD n)).foldl (fun s (c : Nat × List Byte) =>
    sendPacket s { destNode := endpointNode s (jobArg j 0), destUnit := endpointUnit (jobArg j 0),
                   srcUnit := BitVec.ofNat 12 core, vc := jobVc j, ptype := if chunk.isSome then ptChunk else ptSend,
                   last := decide (c.1 + 4096 ≥ bs.length), cum := cum, tag := jobTag j, rxn := rxn,
                   addr := BitVec.ofNat 64 c.1, aux := aux, payload := c.2 }) s

/-- Send WITHDRAW for a transfer (R367, R368). -/
def sendWithdraw (s : State) (core : Nat) (node : Half) (unit : BitVec 12) (vc : BitVec 3) (tag rxn : Half) (st : Status) :
    State :=
  sendPacket s { destNode := node, destUnit := unit, srcUnit := BitVec.ofNat 12 core, vc := vc, ptype := ptWithdraw,
                 tag := tag, rxn := rxn, aux := (statusCode st).setWidth 64 }

/-! ## Remote requests (R369, R370) -/

/-- The rounding mode that an accumulating write carries in AUX [6:4] (R270: a directed mode reaches the controller; R364 gives it no
place; DESIGN CHOICE, log entry 44): 0 to nearest. -/
def accModeCode : RoundMode → Nat
  | .nearest => 0 | .stochastic => 0 | .zero => 1 | .up => 2 | .down => 3
def accModeOf (aux : Word64) : RoundMode :=
  match (aux.extractLsb' 4 3).toNat with | 1 => .zero | 2 => .up | 3 => .down | _ => .nearest

/-- Request packets of at most 4,096 bytes for a remote job while fewer than 64 requests of the core are outstanding. -/
def pumpJob (fuel : Nat) (s : State) (core p : Nat) (j : Job) (bs : List Byte) (size : Nat) : State × Job :=
  match fuel with
  | 0 => (s, j)
  | fuel + 1 =>
    let c := coreOf s p
    if j.pos ≥ size ∨ c.outst.length ≥ 64 then (s, j)
    else
      let n := min 4096 (size - j.pos)
      let op := jobOp j
      let pt := if op = some .get then ptReadReq else if op = some .acc then ptAccWrite else ptWrite
      let f := descFmt (jobDesc j 0)
      let bad := decide (op = some .acc) && (chunks (fmtBits f / 8) n ((bs.drop j.pos).take n)).any fun b => !vIsFinite (decodeScalar (scalarFmt f) (leNat b))
      let c := if bad then addNum c .fs { nonfiniteIn := true } else c
      let s := setCore s p { c with txn := c.txn + 1
                                    outst := c.outst ++ [{ txn := c.txn, order := j.order, sentNs := s.localNs, pos := j.pos, len := n }] }
      let s := sendPacket s {
        destNode := endpointNode s (jobArg j 0), destUnit := endpointUnit (jobArg j 0), srcUnit := BitVec.ofNat 12 core, vc := jobVc j
        ptype := pt, last := decide (j.pos + n ≥ size), tag := c.txn, addr := jobArg j 1 + BitVec.ofNat 64 j.pos
        aux := if op = some .get then BitVec.ofNat 64 n
               else if op = some .acc then BitVec.ofNat 64 ((fmtCode (descFmt (jobDesc j 0))).toNat + 16 * accModeCode (jobNum j).mode) else 0
        payload := if op = some .get then [] else (bs.drop j.pos).take n }
      pumpJob fuel s core p { j with pos := j.pos + n } bs size

/-- Let the head of an outbound or inbound queue send the requests that it can (R191: in order). A source that cannot be
read leaves the requests unsent: the job fails when it retires. -/
def pumpHead (s : State) (core p : Nat) (u : CUnit) : State :=
  match unitJobs (coreOf s p) u with
  | [] => s
  | j :: rest =>
    let size := jobSize core j
    match jobOp j with
    | some .get =>
      let (s, j) := pumpJob 64 s core p j [] size
      setCore s p (setUnitJobs (coreOf s p) u (j :: rest))
    | some .put | some .acc =>
      (match readStream s (jobTensor core j 0) with
       | .error _ => s
       | .ok bs =>
         let (s, j) := pumpJob 64 s core p j bs size
         setCore s p (setUnitJobs (coreOf s p) u (j :: rest)))
    | _ => s

/-- Whether a remote job has every answer it waits for. -/
def remoteDone (c : Core) (core : Nat) (j : Job) : Bool :=
  decide (j.pos ≥ jobSize core j) && c.outst.all fun o => decide (o.order ≠ j.order)

end Sys2Proof.Machine
end

