-- ==== Sys2Proof/Machine/Paths.lean ====
section
/-! DEFINITION. The paths of the die links (spec/01, R20, R23; spec/14, R446 to R450, R461): which dies a requester reaches over the
lanes that the streams hold. A stream without lanes or credit holds its words at its sender port, so what needs it waits. Which kind each
requester uses, and that a request needs the way there and the way back, is the model's reading (DEDUCED, log entry 47). -/
namespace Sys2Proof.Machine

def bundleOf (x : LinkDir) (b : Nat) : Bundle := tget (fun _ => {}) x.bundles b
def laneAt (k : Bundle) (i : Nat) : LinkLane := tget (fun _ => {}) k.lanes i

/-- Lanes of a bundle by its mode (R454). -/
def bundleLanes (k : Bundle) : Nat := match k.mode with | .full => 8 | .half => 4 | _ => 0

/-- The lanes of a direction, in order. -/
def lanesOf (x : LinkDir) : List (Nat × Nat) := (upto 0 4).flatMap fun b => (upto 0 (bundleLanes (bundleOf x b))).map fun i => (b, i)

/-- The lanes that a stream holds: the streams take theirs in order (DESIGN CHOICE, log entry 47). -/
def streamHolds (x : LinkDir) (i : Nat) : List (Nat × Nat) :=
  let before := ((upto 0 i).map fun j => tget (fun _ => 0) x.granted j).foldl (· + ·) 0
  ((lanesOf x).drop before).take (tget (fun _ => 0) x.granted i)

/-- Whether a lane is in diagnosis: it has replayed four times within 1 µs (R456). -/
def laneDiag (k : Bundle) (i : Nat) : Bool :=
  let r := (laneAt k i).replays
  decide (r.length = 4) && decide (r.getD 0 0 ≤ r.getD 3 0 + 1000)
def bundleDiag (k : Bundle) : Bool := (upto 0 (bundleLanes k)).any (laneDiag k)

/-- Whether a diagnosis or a remap pauses the streams of a direction (R456, R457). -/
def dirRemaps (x : LinkDir) : Bool := (upto 0 4).any fun b => !(bundleOf x b).due.isEmpty
def dirPaused (x : LinkDir) : Bool := dirRemaps x || (upto 0 4).any fun b => bundleDiag (bundleOf x b)

/-- Whether a stream has credit: one of its lanes takes another word (R444, R449). -/
def streamCredit (x : LinkDir) (i : Nat) : Bool :=
  !dirPaused x && (streamHolds x i).any fun p => decide ((laneAt (bundleOf x p.1) p.2).unacked.length < 32)

/-- Port kinds (R447). -/
def kindMem : Nat := 1
def kindCopy : Nat := 2
def kindFab : Nat := 4
def kindPass : Nat := 5
def kindRelay : Nat := 6

/-- The stream register of a direction (R470): kind, valid, protected. -/
def streamKind (s : State) (l d i : Nat) : Nat := rfld s (.dlkStream l d i) 24 8
def streamValid (s : State) (l d i : Nat) : Bool := rbit s (.dlkStream l d i) 63
def streamProtected (s : State) (l d i : Nat) : Bool := rbit s (.dlkStream l d i) 62
def streamRelayTo (s : State) (l d i : Nat) : Nat := rfld s (.dlkStream l d i) 46 3

/-- The link and direction from one die to the next, 4 being the welkin die (R19, R441). -/
def linkFrom (x y : Nat) : Option (Nat × Nat) :=
  match (upto 0 8).find? fun l => decide (linkEnds l = (x, y)) || decide (linkEnds l = (y, x)) with
  | some l => some (l, if linkEnds l = (x, y) then 0 else 1)
  | none => none

/-- Whether a stream of a kind holds lanes from one die to the next and has credit (R449, R450); a relay stream is the one for a die. -/
def hop (s : State) (x y kind : Nat) (relay : Option Nat) : Bool :=
  match linkFrom x y with
  | none => false
  | some (l, d) => (upto 0 16).any fun i =>
      streamValid s l d i && decide (streamKind s l d i = kind) && streamCredit (linkOf s l d) i
        && (match relay with | some t => decide (streamRelayTo s l d i = t) | none => true)

/-- The ways around the ring of dies that pass through other dies (R20, R461). -/
def ringWays (x y : Nat) : List (List Nat) :=
  [[0, 1, 3, 2], [0, 2, 3, 1]].filterMap fun r =>
    let r := r ++ r
    let w := r.dropWhile fun n => decide (n ≠ x)
    let way := w.takeWhile fun n => decide (n ≠ y)
    if way.length ≥ 2 ∧ x ≠ y then some (way ++ [y]) else none

/-- The path of a request from one die to another (R449): the direct stream, the relay of the welkin die, or pass streams. -/
inductive Path where
  | direct | relay
  | pass (way : List Nat)
deriving DecidableEq, Repr

/-- Whether every step of a way has pass lanes with credit. -/
def passOpen (s : State) : List Nat → Bool
  | a :: b :: t => hop s a b kindPass none && passOpen s (b :: t)
  | _ => true

/-- The path that a request of a kind takes, with all its words (R449): the direct stream when it has credit, else the relay, whose stream
away from the welkin die names the die it relays from (R448, log entry 23), else pass streams. The order of the last two is the model's
(DESIGN CHOICE, log entry 47). -/
def pathOf (s : State) (x y kind : Nat) : Option Path :=
  if hop s x y kind none then some .direct
  else if x ≥ 4 ∨ y ≥ 4 then none
  else if hop s x 4 kindRelay (some y) && hop s 4 y kindRelay (some x) then some .relay
  else ((ringWays x y).find? (passOpen s)).map .pass

/-- Whether words of a kind go from one die to another. -/
def wayOpen (s : State) (x y kind : Nat) : Bool := (pathOf s x y kind).isSome

/-- Whether a requester on die x is served by die y, so far as the streams go: its own die needs none, and a die out of service answers
with DIE_LOST. -/
def reaches (s : State) (x y kind : Nat) : Bool :=
  decide (x = y) || (decide (y < 4) && !dieServes s y) || (wayOpen s x y kind && wayOpen s y x kind)

/-- The dies that hold bytes of a range of a space: a scratchpad is its core's (R154), the host is behind the welkin die. -/
def rangeDies (space unit a n : Nat) : List Nat :=
  match space with
  | 0 => [clusterDie (unit / 64)]
  | 1 => [clusterDie unit]
  | 2 => if n = 0 then [] else setAdd (devStack a / 8) [devStack (a + n - 1) / 8]
  | _ => [4]

/-- The dies that hold bytes of a tensor. -/
def tensorDies (t : Tensor) : List Nat :=
  match t.d.space with
  | 2 => ((streamSpans t).flatMap fun x => rangeDies 2 t.unit x.1 x.2).foldl (fun l d => setAdd d l) []
  | sp => rangeDies sp t.unit 0 1

/-- Whether a die reaches everything that tensors lie in. -/
def reachesAll (s : State) (die kind : Nat) (ts : List Tensor) : Bool := ts.all fun t => (tensorDies t).all fun y => reaches s die y kind

/-- Whether the core reaches the location of an atomic over the die links (R20, R211). -/
def atomReaches (s : State) (core : Nat) (j : Job) : Bool :=
  let a := atomAddr (jobArg j 0)
  (rangeDies a.space (atomUnit core a) a.off 1).all fun y => reaches s (clusterDie (core / 64)) y kindMem

end Sys2Proof.Machine
end

