-- ==== Sys2Proof/Machine/UnitRun.lean ====
section
/-! DEFINITION. Running the work of a unit's instruction: the writes, the flags and the counters of one job, whole at its
retirement or in part when a fault interrupts it (DESIGN CHOICE, log entry 7). -/
namespace Sys2Proof.Machine

/-- ROWS of a stream or BE_DW: bits [23:0] of its register, plus one (R202). -/
def jobRows (j : Job) : Nat := nfld (jobArg j 0).toNat 0 24 + 1

/-- KEXT, NCOL and ACC of a stream. -/
def streamParams : Instr → Nat × Nat × Bool
  | .feStream _ _ _ _ _ kext ncol _ acc _ _ => (kext.toNat, ncol.toNat, acc)
  | .beDx _ _ _ _ _ kext ncol _ acc _ _ => (kext.toNat, ncol.toNat, acc)
  | _ => (0, 0, false)

/-- XEXT, NCOL, ACC and DWC of a BE_DW. -/
def dwParams : Instr → Nat × Nat × Bool × Nat
  | .beDw _ _ _ _ _ _ _ xext ncol _ acc _ dwc => (xext.toNat, ncol.toNat, acc, dwc.toNat)
  | _ => (0, 0, false, 0)

/-- Update the core's record of a state. -/
def modCore (s : State) (p : Nat) (f : Core → Core) : State := setCore s p (f (coreOf s p))

/-- Whether interrupted work has its flags reported: not said, so a free value decides (DESIGN CHOICE, log entry 7). -/
def flagsOf (s : State) (mask : Option Nat) (b : NumBlock) : NumBlock :=
  match mask with
  | none => b
  | some _ => if (freeWord s).getLsbD 0 then b else {}

/-- Whether an engine instruction has a descriptor of extent zero: it computes no element (R166). -/
def jobEmpty (j : Job) (ks : List Nat) : Bool := ks.any fun k => decide (elemCount (jobDesc j k) = 0)

/-- Add the numeric block of the rows of one grid instruction of class `cls`, `period` cycles a row (R70, R135); the cycles that pass
before its first one are free. -/
def addRows (s : State) (core p : Nat) (u : CUnit) (cls period : Nat) (rows : List GridRow) : State :=
  modCore (tickFree s) p fun c => addEngine c u cls (freeNat s) (period * rows.length) (rowsCycle rows) (rowsNum core rows)

/-- Write the rows of a grid instruction one after the other: the state, how many rows were taken, and the error of the row that ends
it. Where elements of several rows share an address the order is free (R161). -/
def writeRows (o : Tensor) (rows : List GridRow) (s : State) : State × Nat × Option Err :=
  if writesClash (rows.flatMap (·.writes)) then
    let (s, e) := tensorWrites none o (rows.flatMap (·.writes)) s
    (s, rows.length, e)
  else go rows s
where
  /-- Rows in order. -/
  go : List GridRow → State → State × Nat × Option Err
    | [], s => (s, 0, none)
    | r :: t, s =>
      let (s, e) := tensorWrites none o r.writes s
      match e with
      | some e => (s, 1, some e)
      | none => let (s, n, e) := go t s; (s, n + 1, e)

/-- Add to an engine's row and gating counters for a stream of which `n` of `m` rows were taken: all of them where it is whole; else at
least those, and a free number of the rows that had entered the grid behind them (R112, R115, R151). -/
def countRows (s : State) (core : Nat) (be : Bool) (rows : List GridRow) (m n : Nat) : State :=
  let more := if n < m then freeNat s % (m - n + 1) else 0
  let gated := rowsGated (rows.take n) + (if n < m then Config.freeNat (s.freeCtr + 1) % (rowsGated ((rows.drop n).take more) + 1) else 0)
  let s := if n < m then tickFree (tickFree s) else s
  if be then rbump s (.coreBeCtr core 7) gated
  else rbump (rbump s (.coreFeCtr core 2) gated) (.coreFeCtr core 1) (n + more)

/-- FE_STREAM and BE_DX of a started job (R94 to R99, R111, R112, R124), row by row: all rows, or those before the one that `stop`
names. It ends at a row that cannot be read or written; the rows before it keep what was written. Flags and counts are those of the rows
taken, also of an interrupted one, of which the spec does not say what it reports (DESIGN CHOICE, log entry 7). With an empty operand
it does nothing (R166). -/
def streamRun (stop : Option Nat) (s : State) (core p : Nat) (be : Bool) (j : Job) : State × Option Err :=
  let (kext, ncol, acc) := streamParams j.insn
  let m := jobRows j
  let o := jobTensor core j 1
  if jobEmpty j ([0, 1] ++ (if acc then [2] else [])) then (s, none) else
  let (rows, re) := streamRows s core (if be then 32 else 0) (jobNum j) (j.tile.getD {}) (jobTensor core j 0) o
    (if acc then some (jobTensor core j 2) else none) m kext ncol
  let k := stop.getD m
  let (s, n, we) := writeRows o (rows.take k) s
  let s := countRows s core be rows m n
  let s := if be then rbumpFree (rbumpFree s (.coreBeCtr core 0)) (.coreBeCtr core 3)
           else rbumpFree (rbumpFree s (.coreFeCtr core 0)) (.coreFeCtr core 3)
  let cls := (j.tile.bind planeClass).getD ⟨1, 1⟩
  (addRows s core p (if be then .dx else .fe) (32 * cls.p + cls.period) cls.period (rows.take n),
   orErr we (if rows.length < k then re else none))

/-- A BE_DW entry (R127 to R131, R135); `be0` names the engine for the counters (R151) and the flags (R70). With an empty operand it
does nothing (R166). -/
def dwRun (s : State) (core p : Nat) (be0 : Bool) (j : Job) : State × Option Err :=
  let (xext, ncol, acc, _) := dwParams j.insn
  let o := jobTensor core j 2
  if jobEmpty j ([0, 1, 2] ++ (if acc then [3] else [])) then (s, none) else
  let s := if be0 then rbumpFree (rbumpFree (rbumpFree s (.coreBeCtr core 0)) (.coreBeCtr core 2)) (.coreBeCtr core 3)
           else rbumpFree (rbumpFree s (.coreBeCtr core 1)) (.coreBeCtr core 4)
  match dwRows s core (jobNum j) (jobTensor core j 0) (jobTensor core j 1) o
      (if acc then some (jobTensor core j 3) else none) (jobRows j) xext ncol with
  | .error e => (rbumpFree s (.coreBeCtr core 7), some e)
  | .ok rows =>
    let s := rbump s (.coreBeCtr core 7) (rowsGated rows)
    let (s, n, e) := writeRows o rows s
    (addRows s core p (if be0 then .dx else .dw) 1 32 (rows.take n), e)

/-- Mark a job that its unit failed as ended, so that the fault sequence finds it no longer in progress and those behind it not started
(R111, R112, R221); a failed deferral-list entry or atomic leaves its list. -/
def dropJob (s : State) (core p : Nat) (u : CUnit) (j : Job) : State :=
  let rest (l : List Job) : List Job := l.filter fun x => decide (x.order ≠ j.order)
  let mark (l : List Job) : List Job := l.map fun x => if x.order = j.order then { x with st := .done } else x
  let s := if u = .lu then stageRelease s (core / 64) (.core p j.order) else s
  modCore s p fun c =>
    match u with
    | .fe => { c with fe := { c.fe with queue := mark c.fe.queue } }
    | .dx => { c with be0 := { c.be0 with queue := mark c.be0.queue } }
    | .dw => { c with run0 := rest c.run0, run1 := rest c.run1 }
    | .at => { c with atq := rest c.atq }
    | u => setUnitJobs c u (mark (unitJobs c u))

/-- The weights of a started load (R87, R121): the values of its region; none of an empty operand (R166), so that the tile holds +0. -/
def loadWeights (s : State) (core : Nat) (j : Job) : Except Err (List Val) :=
  match loadOf j.insn with
  | none => .ok []
  | some (_, _, trn, kext, ncol) => if jobEmpty j [0] then .ok [] else readVals s (jobTensor core j 0) (loadIndices trn kext ncol)

/-- A vector instruction (R203 to R207); its descriptors are D and the sources, its scalar SC. -/
def vecRun (mask : Option Nat) (s : State) (core p : Nat) (j : Job) : State × Option Err :=
  match vecOf j.insn with
  | none => (s, none)
  | some (op, _, _, _, _, _, cfmt) =>
    let cf := (vecFmt cfmt).getD .f32
    let x := decodeScalar (scalarFmt cf) ((jobArg j 0).toNat % 2 ^ fmtBits cf)
    let ts := (upto 0 j.descs.length).map (jobTensor core j)
    match vecWork s core op cf (jobNum j) x (jobTensor core j 0) ts.tail with
    | .error e => (s, some e)
    | .ok w =>
      let b := flagsOf s mask w.num
      let (s, e) := tensorWrites mask (jobTensor core j 0) w.writes s
      (modCore s p fun c => addNum c .vu b, e)

/-- A movement of the load unit (R167 to R183). -/
def loadRun (mask : Option Nat) (s : State) (core p : Nat) (j : Job) : State × Option Err :=
  match moveOf j.insn with
  | none => (s, none)
  | some (kind, _) =>
    let ts := moveTensors core j
    let r := moveRun mask s (loadUnit core) (jobNum j) kind ts
    let b := flagsOf r.st mask r.num
    let s := countOvl r.st (core / 64) (moveOvl kind ts)
    (modCore s p fun c => addNum c .lu b, r.err)

/-- An atomic: SD receives the old value and is ready again (R210). -/
def atomJobRun (s : State) (core p : Nat) (j : Job) : State × Option Err :=
  match atomOf j.insn with
  | none => (s, none)
  | some (op, sd, _, _, _, w) =>
    let r := atomRun s core op w (jobArg j 0) (jobArg j 1) (jobArg j 2)
    (modCore r.st p fun c =>
      let c := if r.err.isNone then addNum (setSreg c sd r.old) .at r.num else c
      { c with busy := dropFirst (fun x => decide (x = sd)) c.busy }, r.err)

/-- A finished BE_DW advances its counter (R138, R143). -/
def bumpDwc (c : Core) (j : Job) : Core :=
  let k := (dwParams j.insn).2.2.2
  { c with dwc := tset (fun _ => 0) c.dwc k (tget (fun _ => 0) c.dwc k + 1) }

end Sys2Proof.Machine
end

