-- ==== Sys2Proof/Machine/ProgramEnd.lean ====
section
/-! DEFINITION. The end of a tile program (spec/06, R219 to R221; spec/04, R146): the ordered fault sequence, shared by
every fault of a program, and the report to the steward. -/
namespace Sys2Proof.Machine

/-- Change the in-flight record of a command. -/
def modFlight (s : State) (q : Nat) (seq : Word32) (f : Flight → Flight) : State :=
  let k := queueOf s q
  setQueue s q { k with flight := k.flight.map fun x => if x.cmd.seq = seq then f x else x }

/-- Step 7 of R221, and the end of R219: status, PC and flags go to the command; a failing core of lower index replaces
one of higher index (R326). The core is idle again, with nothing queued. -/
def endReport (s : State) (core p : Nat) (st : Status) (pc : BitVec 12) : State :=
  let c := coreOf s p
  let num := mergeTable c.numCmd
  let s := parkForget s fun o => decide (o.1 = core)
  let s := setCore s p { c with
    phase := .idle, stall := none, wait := 0, lastStatus := st, faulted := decide (st ≠ .success), pc := pc, endPc := pc,
    ended := true, busy := [], defer := [], run0 := [], run1 := [], vq := [], lq := [], fsq := [], frq := [], atq := [],
    evq := [], posted := [], outst := [], adapterOnly := false, fault := none,
    fe := { c.fe with queue := [] }, be0 := { c.be0 with queue := [] } }
  modFlight s c.cmdQueue c.cmdSeq fun f =>
    { f with num := mergeUnits f.num num
             launched := f.launched.filter fun x => decide (x.1 ≠ core)
             done := f.done || (f.begun && (f.launched.filter fun x => decide (x.1 ≠ core)).isEmpty)
             failCore := if st = .success then f.failCore
               else match f.failCore with
                 | some (k, x) => if k ≤ core then some (k, x) else some (core, st, pc)
                 | none => some (core, st, pc) }

/-- A further fault in the sequence has its other effects only (R221). -/
def furtherFault (p : Nat) (r : State × Option Err) : State := match r.2 with | none => r.1 | some e => if e.wait then r.1 else coreReport r.1 p e

/-- Run a list of jobs one after the other. -/
def runJobs (f : State → Job → State) (s : State) (js : List Job) : State := js.foldl f s

/-- Work in progress that stops at the end of the cycle (R112, R221 step 3): a free choice of its writes is made. -/
def interruptJob (p : Nat) (f : Option Nat → State → Job → State × Option Err) (s : State) (j : Job) : State :=
  furtherFault p (f (some (freeNat s)) (tickFree s) j)

/-- The head of a queue that is in progress. -/
def headRunning (q : List Job) : List Job := (q.take 1).filter fun j => decide (j.st ≠ .done)

/-- Step 4 of R221: an FSEND or FCSEND in progress that holds its CTS completes the packet it is sending and withdraws, one whose size
differs sends no data (R367); posted receives are withdrawn (R368). -/
def withdrawAll (s : State) (core p : Nat) : State :=
  let c := coreOf s p
  let s := match (headRunning c.fsq).filter fun j => decide (jobOp j = some .send) || decide (jobOp j = some .csend) with
    | [] => s
    | j :: _ =>
      match matchCts s c j with
      | none => s
      | some x =>
        let k := freeNat s
        let s := tickFree s
        if x.size ≠ jobSize core j then sendWithdraw s core x.node x.unit (jobVc j) x.tag x.rxn .fabSizeMismatch else
        let s := match readStream s (jobTensor core j 0) with
          | .error _ => s
          | .ok bs => sendData s core j x.rxn (if jobOp j = some .csend then some ((jobArg j 1).extractLsb' 0 32) else none)
                        (decide (jobMode j = 2)) bs (some (k % ((bs.length + 4095) / 4096 + 1)))
        sendWithdraw s core x.node x.unit (jobVc j) x.tag x.rxn .fabPeerWithdrawn
  (coreOf s p).posted.foldl (fun s (x : Posted) => sendWithdraw s core x.node x.unit x.vc x.tag x.rxn .fabPeerWithdrawn) s

/-- Streams in the grid stop at the end of the cycle (R112, R221 step 3): a free number of the rows of the first is written; a later
one writes rows only once the earlier ones are whole (R111). -/
def stopStreams (core p : Nat) (be : Bool) : Bool → List Job → State → State
  | _, [], s => s
  | whole, j :: t, s =>
    let k := if whole then freeNat s % (jobRows j + 1) else 0
    let r := streamRun (some k) (tickFree s) core p be j
    stopStreams core p be (whole && decide (k = jobRows j) && r.2.isNone) t (furtherFault p r)

/-- The cycles of a weight load that ends: those of the load, those held under R110, and those that a stream with SWAP waited for the
LOADING tile (R115, R125, R151), free amounts (DESIGN CHOICE, log entry 11). -/
def loadCycles (s : State) (core : Nat) (be : Bool) (e : Engine) : State :=
  let waits := ((waitingStream e).bind fun x => streamSwap x.insn) = some true
  if be then
    let s := rbumpFree (rbumpFree s (.coreBeCtr core 0)) (.coreBeCtr core 3)
    if waits then rbumpFree s (.coreBeCtr core 6) else s
  else
    let s := rbumpFree (rbumpFree s (.coreFeCtr core 0)) (.coreFeCtr core 3)
    if waits then rbumpFree s (.coreFeCtr core 4) else s

/-- A weight load in progress when its program ends on a fault ends within the sequence: its tile becomes READY, or the plane EMPTY
where its source cannot be read (DEDUCED, log entry 37). -/
def endLoad (core p : Nat) (be : Bool) (s : State) : State :=
  let e := if be then (coreOf s p).be0 else (coreOf s p).fe
  let put (s : State) (x : Plane) : State := modCore (loadCycles s core be e) p fun c =>
    if be then { c with be0 := { c.be0 with shadow := x } } else { c with fe := { c.fe with shadow := x } }
  if e.shadow.st ≠ .loading then s
  else match e.queue.find? fun j => isLoad j && decide (j.st = .started) with
    | none => put s {}
    | some j => match loadWeights s core j with
      | .error er => put (furtherFault p (s, some er)) {}
      | .ok vs => put s { e.shadow with st := .ready, elems := vs }

/-- Started streams of a queue, and whether none before them has failed. -/
def startedStreams (q : List Job) : Bool × List Job :=
  (!(q.any fun j => isStream j && decide (j.st = .done)), q.filter fun j => isStream j && decide (j.st = .started))

/-- Complete a job of step 5 of R221; what counts it is added when it ends without error. -/
def finishJob (p : Nat) (count : Core → Core) (r : State × Option Err) : State :=
  let s := furtherFault p r
  if r.2.isNone then modCore s p count else s

/-- Step 5 of R221 for atomics: each completes in order, up to one that does not reach its location or has to wait there (R23): it and
those behind it stay issued. -/
def finishAtomics (core p : Nat) : List Job → State → State
  | [], s => modCore s p fun c => { c with atq := [] }
  | j :: t, s =>
    let r := atomJobRun s core p j
    if !atomReaches s core j || (match r.2 with | some e => e.wait | none => false) then modCore s p fun c => { c with atq := j :: t }
    else finishAtomics core p t (finishJob p (fun c => bumpRet c .at) r)

/-- Steps 6 and 7 of R221, once the atomics issued have completed; the sequence waits for them. -/
def endFault (s : State) (core p : Nat) (st : Status) (pc : BitVec 12) : State :=
  if (coreOf s p).atq = [] then endReport s core p st pc
  else modCore s p fun c => { c with
    phase := .ending, stall := none, fault := some (st, pc), defer := [], run0 := [], run1 := [], vq := [], lq := [], fsq := [], frq := [], evq := []
    posted := [], outst := [], fe := { c.fe with queue := [] }, be0 := { c.be0 with queue := [] } }

/-- The ordered fault sequence of R221 for a program of a core, with the status and the PC of the first fault; a fault that arises while
the sequence runs changes neither. A movement in progress whose memories are not reached over the die links has written nothing yet
(R23). -/
def programFault (s : State) (core p : Nat) (st : Status) (pc : BitVec 12) : State :=
  let c := coreOf s p
  if c.phase = .idle ∨ c.fault.isSome then s
  else
    -- steps 1 and 2: nothing issues; what has not started and every PENDING entry is discarded (R146)
    let s := rbump s (.coreBeCtr core 8) c.defer.length
    -- step 3
    let s := stopStreams core p false (startedStreams c.fe.queue).1 (startedStreams c.fe.queue).2 s
    let s := stopStreams core p true (startedStreams c.be0.queue).1 (startedStreams c.be0.queue).2 s
    let s := endLoad core p true (endLoad core p false s)
    let s := runJobs (interruptJob p fun m s j => vecRun m s core p j) s (headRunning c.vq)
    let s := runJobs (interruptJob p fun m s j => loadRun m s core p j) s
      ((headRunning c.lq).filter fun j => reachesAll s (clusterDie (core / 64)) kindCopy (moveTensors core j))
    let s := (c.lq.take 1).foldl (fun s j => stageRelease s (core / 64) (.core p j.order)) s
    -- step 4
    let s := withdrawAll s core p
    -- step 5
    let s := runJobs (fun s j => finishJob p (fun c => bumpDwc c j) (dwRun s core p true j)) s c.run0
    let s := runJobs (fun s j => finishJob p (fun c => bumpDwc c j) (dwRun s core p false j)) s c.run1
    let s := finishAtomics core p (coreOf s p).atq s
    -- steps 6 and 7
    endFault s core p st pc

/-- A unit failed an instruction after issue: its record and the fault sequence with the instruction's PC (R221). -/
def unitFault (s : State) (core p : Nat) (e : Err) (pc : BitVec 12) : State :=
  programFault (coreReport s p e) core p e.status pc

end Sys2Proof.Machine
end

