-- ==== Sys2Proof/Machine/Issue.lean ====
section
/-! DEFINITION. Issue of a tile instruction (spec/06, R186 to R199): when one can issue, what makes it wait, and how the
PC moves; shared by every instruction. -/
namespace Sys2Proof.Machine

/-- The physical core that can issue instruction i now: its program runs, nothing stalls or halts it, its clock runs, and
the code word at its PC is i (R186, R189). -/
def canIssue (s : State) (core : Fin 4096) (i : Instr) : Option Nat :=
  match physOf s core.val with
  | none => none
  | some p =>
    let c := coreOf s p
    if clusterRuns s (core.val / 64) && decide (c.phase = .running) && !c.inColl && c.stall.isNone && (!c.halted || c.stepping)
        && decide (decodeInsn core (codeWord c) = some i) then some p else none

/-- The next instruction, or TP_PC_RANGE when the last one did not reach END (R199): the PC reported is that of the last
instruction. -/
def advance (s : State) (core p : Nat) : State :=
  let c := coreOf s p
  if c.pc.toNat + 1 < c.codeLen then setCore s p { c with pc := c.pc + 1 }
  else programFault s core p .tpPcRange c.pc

/-- A branch: the next instruction is PC + IMM, or TP_PC_RANGE with the PC of the branch (R196, R199). -/
def branch (s : State) (core p : Nat) (imm : BitVec 40) : State :=
  let c := coreOf s p
  let t : Int := (c.pc.toNat : Int) + imm.toInt
  if 0 ≤ t ∧ t < c.codeLen then setCore s p { c with pc := BitVec.ofNat 12 t.toNat }
  else programFault s core p .tpPcRange c.pc

/-- One cycle in which the instruction at the PC waits, with the WAIT value (R189, R223, R224). -/
def waitCycle (s : State) (core p : Nat) (w : BitVec 3) : State :=
  modCore (rbump s (.coreTpWait core) 1) p fun c => { c with wait := w }

/-- Whether a register has a result outstanding (R189). -/
def regBusy (c : Core) (r : BitVec 5) : Bool := c.busy.contains r

/-- Issue an instruction (R189): it waits for its registers and for room in its unit's queue; a check that fails ends the
program with its status (R93, R182, R221); otherwise it has its effect. -/
def issue (core : Fin 4096) (i : Instr) (reads : List (BitVec 5)) (full : Core → Bool)
    (fault : State → Core → Option Status) (eff : State → Nat → State) (s : State) : Out :=
  match canIssue s core i with
  | none => .next s
  | some p =>
    let c := coreOf s p
    if reads.any (regBusy c) then .next (waitCycle s core.val p 5)
    else if full c then .next (waitCycle s core.val p 4)
    else match fault s c with
      | some st => .next (programFault s core.val p st c.pc)
      | none => .next (eff (setCore s p { c with wait := 0, stepping := false }) p)

def never (_ : Core) : Bool := false
def noFault (_ : State) (_ : Core) : Option Status := none

/-- A scalar instruction with a result (R196): SD takes the value and the PC moves on. -/
def scalarOp (core : Fin 4096) (i : Instr) (sd : BitVec 5) (reads : List (BitVec 5)) (val : Core → Word64) (s : State) : Out :=
  issue core i reads never noFault
    (fun s p => advance (setCore s p (setSreg (coreOf s p) sd (val (coreOf s p)))) core.val p) s

/-- A result that comes after more than one cycle (R196): the cycles that an instruction reading it waits are counted here, as a free
number (R189; DESIGN CHOICE, log entry 11). -/
def lateResult (s : State) (core : Nat) : State := rbumpFree s (.coreTpWait core)

/-- Hand a job to a unit's queue: its order number is the next of the program (R191). -/
def enqueue (s : State) (p : Nat) (u : CUnit) (j : Job) : State :=
  modCore s p fun c => { setUnitJobs c u (unitJobs c u ++ [j]) with issued := c.issued + 1 }

/-- Queued instructions of one kind that have not started (R103). -/
def queuedCount (t : Job → Bool) (q : List Job) : Nat := (q.filter fun j => t j && decide (j.st = .queued)).length

/-! ## Engines -/

/-- Change FE or BE0 of a core. -/
def modEngine (s : State) (p : Nat) (be : Bool) (f : Engine → Engine) : State :=
  modCore s p fun c => if be then { c with be0 := f c.be0 } else { c with fe := f c.fe }

/-- Start what can start on FE or BE0: the next load, and the waiting stream; BE0 takes no BE_DX while it runs an entry
(R140). `swaps` as for startStream. -/
def engineStart (s : State) (p : Nat) (be swaps : Bool) : State :=
  let s := modEngine s p be startLoad
  if be && !(coreOf s p).run0.isEmpty then s else modEngine s p be (startStream swaps)

/-- The formats of the tile that the order of issue gives a stream (R83, R84, R93). -/
def tileOf (e : Engine) (swap : Bool) : Option (Fmt × Fmt) := if swap then e.loaded else e.swapped

/-- A stream with SWAP that issues without fault takes the tile of the last load (R84, R93). -/
def noteSwap (e : Engine) (swap : Bool) : Engine := if swap then { e with swapped := e.loaded, loaded := none } else e

end Sys2Proof.Machine
end

