-- ==== Sys2Proof/Machine/AtomicClass.lean ====
section
/-! DEFINITION. The atomic class (spec/06, R210): one meaning per instruction. -/
namespace Sys2Proof.Machine

/-- The atomic port has at most eight outstanding (R190). -/
def atFull (c : Core) : Bool := decide (c.atq.length ≥ 8)

/-- Issue of an atomic: width and address are checked, SD has its result outstanding until the atomic retires (R189,
R210). -/
def atomIssue (core : Fin 4096) (i : Instr) (op : AtomOp) (sd sa sb sc : BitVec 5) (width : BitVec 3) (s : State) : Out :=
  issue core i (if op = .cas then [sa, sb, sc] else [sa, sb]) atFull
    (fun _ c => atomFault core.val op width (sreg c sa))
    (fun s p =>
      let c := coreOf s p
      let s := enqueue s p .at (mkJob c i [] 0 [sreg c sa, sreg c sb, sreg c sc])
      let s := modCore s p fun c => if sd = 0 then c else { c with busy := c.busy ++ [sd] }
      advance s core.val p) s

/-- AADD: integer add at the location (R210). -/
def execAadd (core : Fin 4096) (sd sa sb sc : BitVec 5) (width : BitVec 3) (s : State) : Out :=
  atomIssue core (.aadd core sd sa sb sc width) .add sd sa sb sc width s
/-- AFADD: floating-point add at the location (R210). -/
def execAfadd (core : Fin 4096) (sd sa sb sc : BitVec 5) (width : BitVec 3) (s : State) : Out :=
  atomIssue core (.afadd core sd sa sb sc width) .fadd sd sa sb sc width s
/-- ASWAP: swap at the location (R210). -/
def execAswap (core : Fin 4096) (sd sa sb sc : BitVec 5) (width : BitVec 3) (s : State) : Out :=
  atomIssue core (.aswap core sd sa sb sc width) .swap sd sa sb sc width s
/-- ACAS: compare and swap at the location (R210). -/
def execAcas (core : Fin 4096) (sd sa sb sc : BitVec 5) (width : BitVec 3) (s : State) : Out :=
  atomIssue core (.acas core sd sa sb sc width) .cas sd sa sb sc width s
/-- AMAX: signed maximum at the location (R210). -/
def execAmax (core : Fin 4096) (sd sa sb sc : BitVec 5) (width : BitVec 3) (s : State) : Out :=
  atomIssue core (.amax core sd sa sb sc width) .max sd sa sb sc width s
/-- AMIN: signed minimum at the location (R210). -/
def execAmin (core : Fin 4096) (sd sa sb sc : BitVec 5) (width : BitVec 3) (s : State) : Out :=
  atomIssue core (.amin core sd sa sb sc width) .min sd sa sb sc width s

end Sys2Proof.Machine
end

