-- ==== Sys2Proof/Machine/EventClass.lean ====
section
/-! DEFINITION. The event and drain classes (spec/06, R212 to R214, R219). -/
namespace Sys2Proof.Machine

/-- Whether a stall is over (R212, R214, R219). -/
def stallOver (s : State) (c : Core) : Stall → Bool
  | .ewait ctr v => decide (v.toNat ≤ (evtOf s ctr.toNat).toNat)
  | .lwait k t => match localCounter c k with | some x => reached x t | none => true
  | .twait t => decide (t.toNat ≤ s.time.now.toNat)
  | .drain m => scopesClear c m c.issued
  | .endp => scopesClear c 0xFF c.issued && c.evq.isEmpty

/-- WAIT value of a stall (R223). -/
def stallWait : Stall → BitVec 3
  | .ewait _ _ => 1 | .lwait _ _ => 2 | .twait _ => 6 | .drain _ => 3 | .endp => 3

/-- Whether a stalled EWAIT meets a fault mark (R334): the status its program ends with. -/
def stallMark (s : State) : Stall → Option Status
  | .ewait ctr _ => (evtMark s ctr.toNat).map markStatus
  | _ => none

/-- What follows a stall that is over: END ends the program with success (R219), the others let the PC move on; a TWAIT fires at its
instant (R342, R343). -/
def stallDone (s : State) (core p : Nat) : Stall → State
  | .endp => endReport (modCore s p fun c => { c with stall := none }) core p .success (coreOf s p).pc
  | .twait t => advance (modCore (fireFlags s t.toNat).1 p fun c => { c with stall := none, wait := 0 }) core p
  | _ => advance (modCore s p fun c => { c with stall := none, wait := 0 }) core p

/-- Begin a stall, or pass at once (R212). -/
def stallOn (s : State) (core p : Nat) (st : Stall) : State :=
  if stallOver s (coreOf s p) st then stallDone s core p st
  else match stallMark s st with
    | some e => programFault s core p e (coreOf s p).pc
    | none => modCore s p fun c => { c with stall := some st, wait := stallWait st }

/-- EVT_DENIED for a counter that the program's partition does not own (R213). -/
def evtFaultOf (sa : BitVec 5) (s : State) (c : Core) : Option Status :=
  if evtAllowed s c.partition.toNat ((sreg c sa).extractLsb' 0 16).toNat then none else some .evtDenied

/-- EWAIT (R212, R213). -/
def execEwait (core : Fin 4096) (sa sb : BitVec 5) (s : State) : Out :=
  issue core (.ewait core sa sb) [sa, sb] never (evtFaultOf sa)
    (fun s p => let c := coreOf s p; stallOn s core.val p (.ewait ((sreg c sa).extractLsb' 0 16) (sreg c sb))) s

/-- ESIGNAL (R213): into the event port, which holds eight behind the one it works on (R190). -/
def execEsignal (core : Fin 4096) (sa sb : BitVec 5) (mask : BitVec 8) (s : State) : Out :=
  issue core (.esignal core sa sb mask) [sa, sb] (fun c => decide (c.evq.length ≥ 9)) (evtFaultOf sa)
    (fun s p =>
      let c := coreOf s p
      let j := mkJob c (.esignal core sa sb mask) [] 0 [sreg c sa, sreg c sb]
      advance (setCore s p { c with evq := c.evq ++ [j], issued := c.issued + 1 }) core.val p) s

/-- LWAIT (R194, R212, R214): the target is SB + IMM in 32 bits. -/
def execLwait (core : Fin 4096) (ctr sb : BitVec 5) (imm : BitVec 32) (s : State) : Out :=
  issue core (.lwait core ctr sb imm) [sb] never
    (fun _ c => if (localCounter c ctr.toNat).isSome then none else some .illegalInsn)
    (fun s p => stallOn s core.val p (.lwait ctr.toNat ((sreg (coreOf s p) sb).setWidth 32 + imm))) s

/-- TWAIT (R212). -/
def execTwait (core : Fin 4096) (sb : BitVec 5) (s : State) : Out :=
  issue core (.twait core sb) [sb] never noFault
    (fun s p => stallOn s core.val p (.twait (sreg (coreOf s p) sb))) s

/-- DRAIN (R144, R212, R214). -/
def execDrain (core : Fin 4096) (mask : BitVec 8) (s : State) : Out :=
  issue core (.drain core mask) [] never noFault (fun s p => stallOn s core.val p (.drain mask)) s

/-- END (R145, R212, R219): the program is ending; entries of the deferral list make the drain an implicit one. -/
def execEndp (core : Fin 4096) (s : State) : Out :=
  issue core (.endp core) [] never noFault
    (fun s p => stallOn (modCore s p fun c =>
      { c with phase := .ending, implicitDrain := c.implicitDrain || !(unitJobs c .dw).isEmpty }) core.val p .endp) s

end Sys2Proof.Machine
end

