-- ==== Sys2Proof/Machine/CoreEvents.lean ====
section
/-! DEFINITION. What the units of a core do (spec/03, spec/04, spec/06): retirement, tiles, swaps, the deferral list,
signals, stalls that end, program start and program faults. -/
namespace Sys2Proof.Machine

/-- The physical core that serves a number, with a program on it and its clock running. -/
def liveCore (s : State) (core : Fin 4096) : Option Nat :=
  match physOf s core.val with
  | none => none
  | some p =>
    if clusterRuns s (core.val / 64)
        && !(coreOf s p).inColl && (decide ((coreOf s p).phase = .running) || decide ((coreOf s p).phase = .ending)) then some p else none

/-- WAIT_RELEASE (R212, R334, R335): a stalled EWAIT, LWAIT, TWAIT, DRAIN or END goes on once what it waits for has come;
an EWAIT on a marked counter ends its program. The cycles waited are counted (R189). -/
def execWaitRelease (core : Fin 4096) (s : State) : Out :=
  match liveCore s core with
  | none => .next s
  | some p =>
    let c := coreOf s p
    match c.stall with
    | none => .next s
    | some st =>
      if c.halted then .next s
      else if stallOver s c st then
        .next (stallDone (rbumpFree s (.coreTpWait core.val)) core.val p st)
      else match stallMark s st with
        | some e => .next (programFault (rbumpFree s (.coreTpWait core.val)) core.val p e c.pc)
        | none => .next s

/-- ESIGNAL_SEND (R213): the oldest signal is sent once its scopes have retired. -/
def execEsignalSend (core : Fin 4096) (s : State) : Out :=
  match liveCore s core with
  | none => .next s
  | some p =>
    let c := coreOf s p
    match c.evq with
    | [] => .next s
    | j :: rest =>
      let mask : Byte := match j.insn with | .esignal _ _ _ m => m | _ => 0
      if scopesClear c mask j.order then
        .next (evtAdd (setCore s p { c with evq := rest }) ((jobArg j 0).extractLsb' 0 16).toNat (jobArg j 1))
      else .next s

/-! ## Retirement (R191) -/

/-- A unit's head job has ended: it leaves the queue and its counter advances. -/
def retireHead (s : State) (p : Nat) (u : CUnit) : State :=
  modCore s p fun c => bumpRet (setUnitJobs c u (unitJobs c u).tail) u

/-- An instruction's request waits in the park queue of its stack (R279), once. -/
def parkWait (s : State) (core order addr : Nat) : State :=
  let n := devStack addr
  let k := stackOf s n
  if k.parkQ.length ≥ 64 || k.parkQ.any (fun r => decide (r.origin = some (core, order))) then s
  else setStack s n { k with parkQ := k.parkQ ++ [{ addr := addr / 32, accFmt := none, mask := 0, data := [],
                                                    sinceNs := s.localNs, origin := some (core, order) }] }

/-- The end of a job's work: an error fails the instruction (R221); an access that must wait leaves all as it was, its
request in the park queue where it waits for a slot. -/
def jobEnd (s0 : State) (core p : Nat) (u : CUnit) (j : Job) (r : State × Option Err) (done : State → State) : State :=
  match r.2 with
  | none => done (parkForget r.1 fun o => decide (o = (core, j.order)))
  | some e =>
    if e.wait then (match e.park with | some a => parkWait s0 core j.order a | none => s0)
    else unitFault (dropJob r.1 core p u j) core p e j.pc

/-- Retire the head of FE or BE0: a load whose tile is READY, or a started stream whose rows are written. -/
def retireEngine (s : State) (core p : Nat) (be : Bool) : State :=
  let u := if be then CUnit.dx else .fe
  match unitJobs (coreOf s p) u with
  | [] => s
  | j :: _ =>
    if isLoad j then (if j.st = .done then engineStart (retireHead s p u) p be be else s)
    else if j.st = .started then
      jobEnd s core p u j (streamRun none s core p be j) fun s => engineStart (retireHead s p u) p be be
    else s

/-- Retire the head of the vector unit (R206). -/
def retireVector (s : State) (core p : Nat) : State :=
  match (coreOf s p).vq with
  | [] => s
  | j :: _ => jobEnd s core p .vu j (vecRun none s core p j) fun s => retireHead s p .vu

/-- Retire the head of the load unit; a staged movement needs the staging area (R183). -/
def retireLoad (s : State) (core p : Nat) : State :=
  match (coreOf s p).lq with
  | [] => s
  | j :: _ =>
    let empty := (match moveOf j.insn with | some (kind, _) => moveEmpty kind (moveTensors core j) | none => false)
    if jobStaged core j && !stageHeld s (core / 64) (.core p j.order) then s
    else if !empty && !reachesAll s (clusterDie (core / 64)) kindCopy (moveTensors core j) then s
    else jobEnd s core p .lu j (loadRun none s core p j) fun s =>
      loadHeadRequest (retireHead (stageRelease s (core / 64) (.core p j.order)) p .lu) core p

/-- An FSEND or FCSEND that holds its CTS sends its data, or fails on a size that differs (R366, R367). -/
def retireSend (s : State) (core p : Nat) (j : Job) : State :=
  let c := coreOf s p
  let size := jobSize core j
  if size = 0 then retireHead s p .fs
  else match matchCts s c j with
    | none => s
    | some x =>
      let s1 := setCore s p { c with cts := dropFirst (fun y => decide (y = x)) c.cts }
      if x.size ≠ size then
        programFault (sendWithdraw s1 core x.node x.unit (jobVc j) x.tag x.rxn .fabSizeMismatch) core p .fabSizeMismatch j.pc
      else match readStream s1 (jobTensor core j 0) with
        | .error e =>
          -- a send stopped by R221 withdraws (R368)
          if e.wait then s
          else unitFault (dropJob (sendWithdraw s1 core x.node x.unit (jobVc j) x.tag x.rxn .fabPeerWithdrawn) core p .fs j) core p e j.pc
        | .ok bs =>
          let chunk := if jobOp j = some .csend then some ((jobArg j 1).extractLsb' 0 32) else none
          retireHead (sendData s1 core j x.rxn chunk (decide (jobMode j = 2)) bs none) p .fs

/-- Retire the head of the outbound fabric queue (R208, R370). -/
def retireOut (s : State) (core p : Nat) : State :=
  match (coreOf s p).fsq with
  | [] => s
  | j :: _ =>
    let s' := match jobOp j with
      | some .send | some .csend => retireSend s core p j
      | some .msg =>
        retireHead (sendPacket s { destNode := endpointNode s (jobArg j 0), destUnit := endpointUnit (jobArg j 0),
                                   srcUnit := BitVec.ofNat 12 core, vc := jobVc j, ptype := ptMsg, tag := jobTag j,
                                   aux := jobArg j 1 }) p .fs
      | _ =>
        if remoteDone (coreOf s p) core j then retireHead s p .fs
        else match readStream s (jobTensor core j 0) with
          | .error e => if e.wait then s else unitFault (dropJob s core p .fs j) core p e j.pc
          | .ok _ => s
    if (coreOf s' p).fsq.length < (coreOf s p).fsq.length then pumpHead s' core p .fs else s'

/-- Retire the head of the inbound fabric queue: a receive whose bytes are all written, a chunk that is checked too, or a
read that is answered (R208). -/
def retireIn (s : State) (core p : Nat) : State :=
  let c := coreOf s p
  match c.frq with
  | [] => s
  | j :: _ =>
    let done := match jobOp j with
      | some .get => remoteDone c core j
      | _ => decide (jobSize core j = 0) || c.posted.any fun x => decide (x.order = j.order) && decide (x.got ≥ x.size)
               && (x.chunk.isNone || x.checked)
    if done then
      -- what a receive or read stored whole is reported as it retires (R69); the adds of MODE 1 report as they are made
      let c := if (jobOp j = some .get ∨ jobMode j = 0) ∧ jobSize core j ≠ 0 then addNum c .fr (storedBlock s core (jobTensor core j 0)) else c
      pumpHead (retireHead (setCore s p { c with posted := c.posted.filter fun x => decide (x.order ≠ j.order) }) p .fr) core p .fr
    else s

/-- Retire the oldest atomic (R210); where a fault sequence waits for the atomics, it goes on (R221). -/
def retireAtomic (s : State) (core p : Nat) : State :=
  match (coreOf s p).atq with
  | [] => s
  | j :: _ =>
    if !atomReaches s core j then s
    else match (coreOf s p).fault with
    | some (st, pc) => endFault (finishAtomics core p (coreOf s p).atq s) core p st pc
    | none => jobEnd s core p .at j (atomJobRun s core p j) fun s => retireHead s p .at

/-- INSN_RETIRE (R191): the unit of a MASK bit (R214) retires its oldest instruction when that has ended. BE_DW entries
retire by DW_ENTRY_DONE. -/
def execInsnRetire (core : Fin 4096) (unit : BitVec 3) (s : State) : Out :=
  match liveCore s core with
  | none => .next s
  | some p =>
    match scopeUnit unit.toNat with
    | .fe => .next (retireEngine s core.val p false)
    | .dx => .next (retireEngine s core.val p true)
    | .dw => .next s
    | .vu => .next (retireVector s core.val p)
    | .lu => .next (retireLoad s core.val p)
    | .fs => .next (retireOut s core.val p)
    | .fr => .next (retireIn s core.val p)
    | .at => .next (retireAtomic s core.val p)

/-! ## Tiles and swaps (R80 to R84, R123) -/

/-- Whether an earlier stream of the engine still has to write what a load reads: the load holds until it has (R110,
R111). -/
def loadWaits (q : List Job) (load : Job) : Bool :=
  q.any fun j => isStream j && decide (j.order < load.order) && descMeets (jobDesc j 1) (jobDesc load 0)

/-- The last step of a weight load (R82): the tile is READY with the values of its source; the next load may then start
and replace it. -/
def tileLoaded (s : State) (core p : Nat) (be : Bool) : State :=
  let e := if be then (coreOf s p).be0 else (coreOf s p).fe
  if e.shadow.st ≠ .loading then s
  else match e.queue.find? fun j => isLoad j && decide (j.st = .started) with
    | none => s
    | some j =>
      if loadWaits e.queue j then s
      else match loadWeights s core j with
        | .error er =>
          if er.wait then s
          else unitFault (modEngine (loadCycles s core be e) p be fun e => { e with shadow := {}, queue := e.queue.filter fun x => decide (x.order ≠ j.order) })
            core p er j.pc
        | .ok vs =>
          let s := modEngine (loadCycles s core be e) p be fun e =>
            { e with shadow := { e.shadow with st := .ready, elems := vs }
                     queue := e.queue.map fun x => if x.order = j.order then { x with st := .done } else x }
          engineStart s p be be

/-- FE_TILE_READY (R82). -/
def execFeTileReady (core : Fin 4096) (s : State) : Out :=
  match liveCore s core with
  | none => .next s
  | some p => .next (tileLoaded s core.val p false)

/-- BE_TILE_READY (R123); a BE_DX that waited for the tile swaps and starts. -/
def execBeTileReady (core : Fin 4096) (s : State) : Out :=
  match liveCore s core with
  | none => .next s
  | some p => .next (tileLoaded s core.val p true)

/-- FE_SWAP (R81, R82): the waiting FE_STREAM with SWAP exchanges the planes once its tile is READY. A stream that follows one in the grid swaps while that one's rows leave it, when its tile has the same rate class; of
another class it waits until the earlier one has completed (R103). -/
def execFeSwap (core : Fin 4096) (s : State) : Out :=
  match liveCore s core with
  | none => .next s
  | some p =>
    let e := (coreOf s p).fe
    match waitingStream e with
    | none => .next s
    | some j =>
      if streamSwap j.insn = some true ∧ tileReady e = true ∧ (streaming e = false ∨ planeClass e.active = planeClass e.shadow) then
        .next (modEngine s p false swapPlanes)
      else .next s

/-- GRID_CLOCK_STOP (R108, R136): an engine without work stops its clock; 0 is FE, 1 BE0, 2 BE1. The 64 idle cycles are
timing (DESIGN CHOICE, log entry 11). -/
def execGridClockStop (core : Fin 4096) (k : BitVec 2) (s : State) : Out :=
  match physOf s core.val with
  | none => .next s
  | some p =>
    let c := coreOf s p
    if k = 0 then
      (if c.fe.queue.isEmpty && decide (c.fe.shadow.st ≠ .loading) then .next (setCore s p { c with fe := { c.fe with clocked := false } })
       else .next s)
    else if k = 1 then
      (if c.be0.queue.isEmpty && c.run0.isEmpty && decide (c.be0.shadow.st ≠ .loading) then
         .next (setCore s p { c with be0 := { c.be0 with clocked := false } })
       else .next s)
    else if c.run1.isEmpty then .next (setCore s p { c with be1Clocked := false })
    else .next s

/-! ## The deferral list (R137 to R143) -/

/-- The descriptors of a BE_DW entry with its destination. -/
def dwRanges (j : Job) : List Desc × Desc :=
  let (_, _, acc, _) := dwParams j.insn
  ([jobDesc j 0, jobDesc j 1, jobDesc j 2] ++ (if acc then [jobDesc j 3] else []), jobDesc j 2)

/-- held(e, other) of R139. -/
def dwHeld (e : Job) (others : List Job) : Bool :=
  let (rs, o) := dwRanges e
  others.any fun x =>
    let (xs, xo) := dwRanges x
    (xs.any fun d => descMeets o d) || rs.any fun d => descMeets d xo

/-- DEFERRAL_DISPATCH (R139): the head goes to BE1 when that can accept it, and the next head to BE0 when BE0 is idle; an
engine whose entry has entered its last token accepts another (`be1Last`, `be0Last`). -/
def execDeferralDispatch (core : Fin 4096) (be1Last be0Last : Bool) (s : State) : Out :=
  match liveCore s core with
  | none => .next s
  | some p =>
    let c := coreOf s p
    let room (run : List Job) (last : Bool) : Bool := run.isEmpty || last
    let c := match c.defer with
      | [] => c
      | e :: t =>
        if room c.run1 be1Last && !dwHeld e c.run0 then
          { c with defer := t, run1 := c.run1 ++ [{ e with st := .started }], be1Clocked := true }
        else c
    let c := match c.defer with
      | [] => c
      | e :: t =>
        if room c.run0 be0Last && !(c.be0.queue.any isStream) && !c.adapterOnly && !dwHeld e c.run1 then
          { c with defer := t, run0 := c.run0 ++ [{ e with st := .started }], be0 := { c.be0 with clocked := true } }
        else c
    .next (setCore s p c)

/-- DW_ENTRY_DONE (R138, R140, R143): the oldest entry of BE1, or of BE0, writes its tile and advances its counter; a BE_DX
that waited for BE0 may start. -/
def execDwEntryDone (core : Fin 4096) (be1 : Bool) (s : State) : Out :=
  match liveCore s core with
  | none => .next s
  | some p =>
    match (if be1 then (coreOf s p).run1 else (coreOf s p).run0) with
    | [] => .next s
    | j :: _ =>
      .next (jobEnd s core.val p .dw j (dwRun s core.val p (!be1) j) fun s =>
        let s := modCore s p fun c =>
          let c := bumpDwc c j
          if be1 then { c with run1 := c.run1.tail } else { c with run0 := c.run0.tail }
        engineStart s p true true)

/-! ## Program start, timeout and fault (R215 to R221) -/

/-- Read n bytes at a launch address (R216). -/
def launchRead (s : State) (a : Word64) (n : Nat) : Except Err (List Byte) :=
  let v := a.toNat
  if nbit v 63 then memRead s 3 0 (nfld v 0 57) n
  else memRead s (nfld v 61 2) (nfld v 49 12) (nfld v 0 49) n

/-- Whether a die reaches what a launch address names (R20, R216). -/
def launchReaches (s : State) (die : Nat) (a : Word64) (n : Nat) : Bool :=
  let v := a.toNat
  (if nbit v 63 then [4] else rangeDies (nfld v 61 2) (nfld v 49 12) (nfld v 0 49) n).all fun y => reaches s die y kindMem

def launchSettle (s : State) (a : Word64) (n : Nat) : State :=
  let v := a.toNat
  if nbit v 63 then s else settle s (nfld v 61 2) (nfld v 0 49) n

/-- The state before the first instruction (R217); the scratchpad keeps its contents but for the argument block. CTS held
by the core are discarded (R366). -/
def startState (c : Core) (core : Nat) (code : List Byte) (now : Nat) : Core :=
  let c0 : Core := { c with
    phase := .running, pc := 0, wait := 0, stall := none, sregs := [], busy := [], slots := [],
    code := ((chunks 8 c.codeLen code).mapIdx fun i b => (i, BitVec.ofNat 64 (leNat b))).foldl
              (fun t (x : Nat × Word64) => tset (fun _ => 0) t x.1 x.2) [],
    fe := {}, be0 := {}, be1Clocked := false, defer := [], run0 := [], run1 := [], dxHold := false, implicitDrain := false,
    dwc := [], rets := [], issued := 0, vq := [], lq := [], fsq := [], frq := [], atq := [], evq := [],
    numProg := [], numCmd := [], cycProg := [], cycCmd := [], engCyc := [], engClass := [], fault := none, cts := [], posted := [], outst := [], startNs := now, ended := false, faulted := c.faulted }
  setSreg (setSreg (setSreg (setSreg c0 1 (BitVec.ofNat 64 c.argOffset)) 2 (BitVec.ofNat 64 c.rank)) 3
    (BitVec.ofNat 64 c.setSize)) 4 (BitVec.ofNat 64 core)

/-- PROGRAM_START (R217, R218): the loads have ended and the first instruction issues next, while the cluster's clock runs (R29). A word that cannot be read
fails the program before its first instruction. -/
def execProgramStart (core : Fin 4096) (s : State) : Out :=
  match physOf s core.val with
  | none => .next s
  | some p =>
    let c := coreOf s p
    let die := clusterDie (core.val / 64)
    if c.phase ≠ .loading ∨ !clusterRuns s (core.val / 64) ∨ !launchReaches s die c.codeAddr (8 * c.codeLen)
        ∨ (c.argLen ≠ 0 ∧ !launchReaches s die c.argAddr c.argLen) then .next s
    else
      let s := launchSettle (launchSettle s c.codeAddr (8 * c.codeLen)) c.argAddr c.argLen
      match launchRead s c.codeAddr (8 * c.codeLen),
            (if c.argLen = 0 then .ok [] else launchRead s c.argAddr c.argLen) with
      | .error e, _ => .next (if e.wait then s else endReport (coreReport s p e) core.val p e.status 0)
      | _, .error e => .next (if e.wait then s else endReport (coreReport s p e) core.val p e.status 0)
      | .ok code, .ok args =>
        let (s1, e) := spadWrite s p c.argOffset args
        match e with
        | some e => .next (if e.wait then s else endReport (coreReport s1 p e) core.val p e.status 0)
        | none => .next (setCore s1 p (startState (coreOf s1 p) core.val code s.localNs))

/-- The physical core that serves a number, with a program on it, whether or not its clock runs. -/
def progCore (s : State) (core : Fin 4096) : Option Nat :=
  match physOf s core.val with
  | none => none
  | some p =>
    if dieServes s (clusterDie (core.val / 64))
        && !(coreOf s p).inColl && (decide ((coreOf s p).phase = .running) || decide ((coreOf s p).phase = .ending)) then some p else none

/-- TP_TIMEOUT (R220): the program has run for TIME_LIMIT µs. A halted sequencer's limit does not count (R607); it counts while the cluster's clock is stopped (R494). -/
def execTpTimeout (core : Fin 4096) (s : State) : Out :=
  match progCore s core with
  | none => .next s
  | some p =>
    let c := coreOf s p
    if c.timeLimit ≠ 0 ∧ !c.halted ∧ c.startNs + 1000 * c.timeLimit.toNat ≤ s.localNs then
      .next (programFault s core.val p .tpTimeout c.pc)
    else .next s

/-- PROGRAM_FAULT (R187, R221): the word at the PC is no instruction, and the program ends with ILLEGAL_INSN. The faults
that an instruction or a unit raises run the same sequence where they arise. -/
def execProgramFault (core : Fin 4096) (s : State) : Out :=
  match liveCore s core with
  | none => .next s
  | some p =>
    let c := coreOf s p
    if c.phase = .running ∧ c.stall = none ∧ !c.halted ∧ decodeInsn core (codeWord c) = none then
      .next (programFault s core.val p .illegalInsn c.pc)
    else .next s

/-- STAGING_GRANT (R183): the free staging area goes to the request that has waited longest; the wait is counted (R184). -/
def execStagingGrant (cluster : BitVec 6) (s : State) : Out :=
  let k := clusterOf s cluster.toNat
  match k.stageHold, k.stageWait with
  | none, x :: rest =>
    .next (rbumpFree (setCluster s cluster.toNat { k with stageHold := some x, stageWait := rest }) (.cluCopyCtr cluster.toNat 4))
  | _, _ => .next s

end Sys2Proof.Machine
end

