-- ==== Sys2Proof/Machine/CoreRegs.lean ====
section
/-! DEFINITION. The read-only registers of the core register page that mirror the core's state (R114, R150, R152, R223,
R224, R254), and RDREG (R196, R198). -/
namespace Sys2Proof.Machine

def fmtField (f : Option Fmt) : Nat := match f with | some f => (fmtCode f).toNat | none => 0xF

def planeCode : PlaneSt → Nat
  | .empty => 0 | .loading => 1 | .ready => 2

def phaseCode : Phase → Nat
  | .idle => 0 | .loading => 1 | .running => 2 | .ending => 3

/-- CORE_FE_STATE (R114). -/
def feState (e : Engine) : Nat :=
  fields [(20, fmtField e.shadow.wFmt), (16, fmtField e.shadow.aFmt), (12, fmtField e.active.wFmt), (8, fmtField e.active.aFmt),
    (5, queuedCount isStream e.queue), (4, b01 (streaming e)), (2, planeCode e.shadow.st), (1, b01 e.clocked),
    (0, b01 (decide (e.active.st = .ready)))]

/-- Whether a drain waits on the deferral list (R150). -/
def draining (c : Core) : Bool :=
  (match c.stall with | some (.drain m) => m.getLsbD 2 | some .endp => true | _ => false)
    && !(unitJobs c .dw).isEmpty

/-- CORE_BE_STATE (R150). -/
def beState (c : Core) : Nat :=
  fields [(26, b01 c.adapterOnly), (25, b01 c.implicitDrain), (24, b01 (decide (c.be0.active.st = .ready))),
    (20, fmtField c.be0.shadow.wFmt), (16, fmtField c.be0.active.wFmt), (9, c.defer.length), (8, b01 (draining c)),
    (5, queuedCount isStream c.be0.queue), (4, b01 (!c.run1.isEmpty)), (3, b01 (!c.run0.isEmpty)), (2, b01 (streaming c.be0)),
    (0, planeCode c.be0.shadow.st)]

/-- CORE_TP_STATE (R223). -/
def tpState (c : Core) : Nat :=
  fields [(32, c.pc.toNat), (16, (statusCode c.lastStatus).toNat), (3, c.wait.toNat), (1, phaseCode c.phase), (0, b01 c.faulted)]

/-- CORE_SPAD_STATE (R254). -/
def spadState (s : State) (cl : Nat) (c : Core) : Nat :=
  fields [(16, min c.spadPoison.length 0xFFFF), (4, c.retireBank.toNat), (2, b01 c.retirePending),
    (1, b01 c.dmaWaiting), (0, b01 (clusterOf s cl).clearing)]

/-- The core that serves a logical number; a fresh one where it is absent. -/
def coreAt (s : State) (core : Nat) : Core := match physOf s core with | some p => coreOf s p | none => {}

/-- The value of a register of the core register page (R517): state registers mirror the core, the rest are stored. -/
def readCoreReg (s : State) (r : Reg) : Word64 :=
  match r with
  | .coreFeState c => BitVec.ofNat 64 (feState (coreAt s c).fe)
  | .coreBeState c => BitVec.ofNat 64 (beState (coreAt s c))
  | .coreDwc c i => (tget (fun _ => (0 : Word32)) (coreAt s c).dwc i).setWidth 64
  | .coreTpState c => BitVec.ofNat 64 (tpState (coreAt s c))
  | .coreRet c i => (tget (fun _ => (0 : Word32)) (coreAt s c).rets i).setWidth 64
  | .coreNum c i => BitVec.ofNat 64 ((numWords (mergeTable (coreAt s c).numProg)).getD i 0)
  | .coreSpadState c => BitVec.ofNat 64 (spadState s (c / 64) (coreAt s c))
  | r => rget s r

/-- RDREG (R196, R198): the 64-bit register at offset IMM of the core's own page; a reserved offset reads zero (R16), and
a register of access RC is cleared by the read (R15). -/
def execRdreg (core : Fin 4096) (sd : BitVec 5) (imm : BitVec 40) (s : State) : Out :=
  issue core (.rdreg core sd imm) [] never
    (fun _ _ => if 0 ≤ imm.toInt ∧ imm.toInt ≤ 0x3F8 ∧ imm.toNat % 8 = 0 then none else some .scalarAddrBad)
    (fun s p =>
      match regCore core.val imm.toNat with
      | none => lateResult (advance (modCore s p fun c => setSreg c sd 0) core.val p) core.val
      | some r =>
        let v := readCoreReg s r
        let s := if (regInfo r).rc then rset s r 0 else s
        lateResult (advance (modCore s p fun c => setSreg c sd v) core.val p) core.val) s

end Sys2Proof.Machine
end

