-- ==== Sys2Proof/Machine/Scalar.lean ====
section
/-! DEFINITION. The scalar class (spec/06, R195 to R199): one meaning per instruction. -/
namespace Sys2Proof.Machine

/-- NOP (R196). -/
def execNop (core : Fin 4096) (s : State) : Out :=
  issue core (.nop core) [] never noFault (fun s p => advance s core.val p) s

/-- ADD (R196). -/
def execAdd (core : Fin 4096) (sd sa sb : BitVec 5) (s : State) : Out :=
  scalarOp core (.add core sd sa sb) sd [sa, sb] (fun c => sreg c sa + sreg c sb) s
/-- SUB (R196). -/
def execSub (core : Fin 4096) (sd sa sb : BitVec 5) (s : State) : Out :=
  scalarOp core (.sub core sd sa sb) sd [sa, sb] (fun c => sreg c sa - sreg c sb) s
/-- AND (R196). -/
def execAnd (core : Fin 4096) (sd sa sb : BitVec 5) (s : State) : Out :=
  scalarOp core (.and core sd sa sb) sd [sa, sb] (fun c => sreg c sa &&& sreg c sb) s
/-- OR (R196). -/
def execOr (core : Fin 4096) (sd sa sb : BitVec 5) (s : State) : Out :=
  scalarOp core (.or core sd sa sb) sd [sa, sb] (fun c => sreg c sa ||| sreg c sb) s
/-- XOR (R196). -/
def execXor (core : Fin 4096) (sd sa sb : BitVec 5) (s : State) : Out :=
  scalarOp core (.xor core sd sa sb) sd [sa, sb] (fun c => sreg c sa ^^^ sreg c sb) s

/-- Shift amount: SB[5:0] (R196). -/
def shamt (v : Word64) : Nat := nfld v.toNat 0 6

/-- SHL (R196). -/
def execShl (core : Fin 4096) (sd sa sb : BitVec 5) (s : State) : Out :=
  scalarOp core (.shl core sd sa sb) sd [sa, sb] (fun c => sreg c sa <<< shamt (sreg c sb)) s
/-- SHR (R196). -/
def execShr (core : Fin 4096) (sd sa sb : BitVec 5) (s : State) : Out :=
  scalarOp core (.shr core sd sa sb) sd [sa, sb] (fun c => sreg c sa >>> shamt (sreg c sb)) s
/-- SRA (R196). -/
def execSra (core : Fin 4096) (sd sa sb : BitVec 5) (s : State) : Out :=
  scalarOp core (.sra core sd sa sb) sd [sa, sb] (fun c => (sreg c sa).sshiftRight (shamt (sreg c sb))) s
/-- MUL: the low 64 bits of the product (R196). -/
def execMul (core : Fin 4096) (sd sa sb : BitVec 5) (s : State) : Out :=
  issue core (.mul core sd sa sb) [sa, sb] never noFault
    (fun s p => lateResult (advance (modCore s p fun c => setSreg c sd (sreg c sa * sreg c sb)) core.val p) core.val) s
/-- MIN, signed (R196). -/
def execMin (core : Fin 4096) (sd sa sb : BitVec 5) (s : State) : Out :=
  scalarOp core (.min core sd sa sb) sd [sa, sb] (fun c => if (sreg c sa).slt (sreg c sb) then sreg c sa else sreg c sb) s
/-- MAX, signed (R196). -/
def execMax (core : Fin 4096) (sd sa sb : BitVec 5) (s : State) : Out :=
  scalarOp core (.max core sd sa sb) sd [sa, sb] (fun c => if (sreg c sa).slt (sreg c sb) then sreg c sb else sreg c sa) s
/-- ADDI (R196). -/
def execAddi (core : Fin 4096) (sd sa : BitVec 5) (imm : BitVec 40) (s : State) : Out :=
  scalarOp core (.addi core sd sa imm) sd [sa] (fun c => sreg c sa + immWord imm) s
/-- ANDI (R196). -/
def execAndi (core : Fin 4096) (sd sa : BitVec 5) (imm : BitVec 40) (s : State) : Out :=
  scalarOp core (.andi core sd sa imm) sd [sa] (fun c => sreg c sa &&& immWord imm) s
/-- LI (R196). -/
def execLi (core : Fin 4096) (sd : BitVec 5) (imm : BitVec 40) (s : State) : Out :=
  scalarOp core (.li core sd imm) sd [] (fun _ => immWord imm) s
/-- LUI (R196). -/
def execLui (core : Fin 4096) (sd sa : BitVec 5) (imm : BitVec 24) (s : State) : Out :=
  scalarOp core (.lui core sd sa imm) sd [sa] (fun c => (sreg c sa &&& 0xFFFFFFFFFF) ||| (imm.setWidth 64 <<< 40)) s

/-- The address SA + IMM of a scratchpad access, none where it breaks R198 or R240: aligned to n bytes and within
512 KiB. -/
def spadAddr (n : Nat) (base : Word64) (imm : BitVec 40) : Option Nat :=
  let a := (base + immWord imm).toNat
  if a % n = 0 ∧ a + n ≤ 0x80000 then some a else none

/-- SCALAR_ADDR_BAD for an access of n bytes (R198, R200). -/
def spadAddrFault (n : Nat) (sa : BitVec 5) (imm : BitVec 40) (_ : State) (c : Core) : Option Status :=
  if (spadAddr n (sreg c sa) imm).isSome then none else some .scalarAddrBad

/-- A scratchpad access of a scalar instruction failed (R221, R243); while the memory is being cleared the instruction waits (R250). -/
def spadFail (s0 s : State) (core p : Nat) (e : Err) (pc : BitVec 12) : State := if e.wait then s0 else unitFault s core p e pc

/-- LDS (R196, R198): a poisoned word fails the program (R243). -/
def execLds (core : Fin 4096) (sd sa : BitVec 5) (imm : BitVec 40) (s : State) : Out :=
  issue core (.lds core sd sa imm) [sa] never (spadAddrFault 8 sa imm)
    (fun t p =>
      let c := coreOf t p
      match spadRead t p ((spadAddr 8 (sreg c sa) imm).getD 0) 8 with
      | .error e => spadFail s t core.val p e c.pc
      | .ok bs => lateResult (advance (setCore t p (setSreg c sd (BitVec.ofNat 64 (leNat bs)))) core.val p) core.val) s

/-- STS (R193, R196, R198): the store completes as it issues. -/
def execSts (core : Fin 4096) (sa sb : BitVec 5) (imm : BitVec 40) (s : State) : Out :=
  issue core (.sts core sa sb imm) [sa, sb] never (spadAddrFault 8 sa imm)
    (fun t p =>
      let c := coreOf t p
      let (t, e) := spadWrite t p ((spadAddr 8 (sreg c sa) imm).getD 0) (leBytes 8 (sreg c sb).toNat)
      match e with
      | some e => spadFail s t core.val p e c.pc
      | none => advance t core.val p) s

/-- A conditional branch (R196, R199). -/
def branchOp (core : Fin 4096) (i : Instr) (reads : List (BitVec 5)) (imm : BitVec 40) (taken : Core → Bool) (s : State) : Out :=
  issue core i reads never noFault
    (fun s p => if taken (coreOf s p) then branch s core.val p imm else advance s core.val p) s

/-- BEQ (R196). -/
def execBeq (core : Fin 4096) (sa sb : BitVec 5) (imm : BitVec 40) (s : State) : Out :=
  branchOp core (.beq core sa sb imm) [sa, sb] imm (fun c => decide (sreg c sa = sreg c sb)) s
/-- BNE (R196). -/
def execBne (core : Fin 4096) (sa sb : BitVec 5) (imm : BitVec 40) (s : State) : Out :=
  branchOp core (.bne core sa sb imm) [sa, sb] imm (fun c => decide (sreg c sa ≠ sreg c sb)) s
/-- BLT, signed (R196). -/
def execBlt (core : Fin 4096) (sa sb : BitVec 5) (imm : BitVec 40) (s : State) : Out :=
  branchOp core (.blt core sa sb imm) [sa, sb] imm (fun c => (sreg c sa).slt (sreg c sb)) s
/-- BGE, signed (R196). -/
def execBge (core : Fin 4096) (sa sb : BitVec 5) (imm : BitVec 40) (s : State) : Out :=
  branchOp core (.bge core sa sb imm) [sa, sb] imm (fun c => !(sreg c sa).slt (sreg c sb)) s
/-- JMP (R196). -/
def execJmp (core : Fin 4096) (imm : BitVec 40) (s : State) : Out :=
  branchOp core (.jmp core imm) [] imm (fun _ => true) s

/-- CLRNUM: only the program copy of the flags (R225). -/
def execClrnum (core : Fin 4096) (s : State) : Out :=
  issue core (.clrnum core) [] never noFault
    (fun s p => advance (modCore s p fun c => { c with numProg := [] }) core.val p) s

/-- RDTIME: cluster time in nanoseconds (R196). -/
def execRdtime (core : Fin 4096) (sd : BitVec 5) (s : State) : Out :=
  issue core (.rdtime core sd) [] never noFault
    (fun s p => lateResult (advance (modCore s p fun c => setSreg c sd s.time.now) core.val p) core.val) s

end Sys2Proof.Machine
end

