-- ==== Sys2Proof/Machine/DescClass.lean ====
section
/-! DEFINITION. The descriptor load and store class (spec/06, R200): slot operations and load-unit instructions. -/
namespace Sys2Proof.Machine

/-- The second cycle of DSET and DGET, in which the next instruction does not issue (R189, R200). -/
def secondCycle (s : State) (core : Nat) : State := rbump s (.coreTpWait core) 1

/-- DSET (R200). -/
def execDset (core : Fin 4096) (slot sa : BitVec 5) (imm : BitVec 40) (s : State) : Out :=
  issue core (.dset core slot sa imm) [sa] never (spadAddrFault 128 sa imm)
    (fun t p =>
      let c := coreOf t p
      match spadRead t p ((spadAddr 128 (sreg c sa) imm).getD 0) 128 with
      | .error e => spadFail s t core.val p e c.pc
      | .ok bs => secondCycle (advance (setCore t p (setSlot c slot (BitVec.ofNat 1024 (leNat bs)))) core.val p) core.val) s

/-- DGET (R200). -/
def execDget (core : Fin 4096) (slot sa : BitVec 5) (imm : BitVec 40) (s : State) : Out :=
  issue core (.dget core slot sa imm) [sa] never (spadAddrFault 128 sa imm)
    (fun t p =>
      let c := coreOf t p
      let (t, e) := spadWrite t p ((spadAddr 128 (sreg c sa) imm).getD 0) (leBytes 128 (slotRaw c slot).toNat)
      match e with
      | some e => spadFail s t core.val p e c.pc
      | none => secondCycle (advance t core.val p) core.val) s

/-- Replace 64 bits of a descriptor from bit lo. -/
def slotPut (v : BitVec 1024) (lo : Nat) (w : Word64) : BitVec 1024 :=
  (v &&& ~~~((0xFFFFFFFFFFFFFFFF : BitVec 1024) <<< lo)) ||| (w.setWidth 1024 <<< lo)

/-- DBASE (R200): PLANE 0 BASE, 1 SCALE_BASE, 2 SIDE_BASE; 3 fails. -/
def execDbase (core : Fin 4096) (slot sa : BitVec 5) (plane : BitVec 2) (s : State) : Out :=
  issue core (.dbase core slot sa plane) [sa] never
    (fun _ _ => if plane = 3 then some .illegalInsn else none)
    (fun s p => advance (modCore s p fun c => setSlot c slot (slotPut (slotRaw c slot) (64 * plane.toNat) (sreg c sa))) core.val p) s

/-- DPART (R200): PART_X and PART_Y, at bytes 0x74 and 0x78 of the descriptor. -/
def execDpart (core : Fin 4096) (slot sa : BitVec 5) (s : State) : Out :=
  issue core (.dpart core slot sa) [sa] never noFault
    (fun s p => advance (modCore s p fun c => setSlot c slot (slotPut (slotRaw c slot) (8 * 0x74) (sreg c sa))) core.val p) s

/-- The load unit holds eight instructions behind the one running (R190). -/
def luFull (c : Core) : Bool := decide (c.lq.length ≥ 9)

/-- Issue of a load-unit instruction: its operands are checked (R182) and it is queued; as the one running it asks for the
staging area when it needs it (R183). -/
def loadIssue (core : Fin 4096) (i : Instr) (slots : List (BitVec 5)) (num : BitVec 5) (s : State) : Out :=
  issue core i [num] luFull
    (fun _ c =>
      match moveOf i with
      | none => none
      | some (kind, own) => moveFault (some core.val) kind own (sreg c num) (slots.map (slotDesc c)))
    (fun s p =>
      let s := enqueue s p .lu (mkJob (coreOf s p) i slots num [])
      advance (loadHeadRequest s core.val p) core.val p) s

/-- DLOAD (R200). -/
def execDload (core : Fin 4096) (src dst num : BitVec 5) (s : State) : Out :=
  loadIssue core (.dload core src dst num) [src, dst] num s
/-- DSTORE (R200). -/
def execDstore (core : Fin 4096) (src dst num : BitVec 5) (s : State) : Out :=
  loadIssue core (.dstore core src dst num) [src, dst] num s
/-- DGATHER (R171 to R175, R200). -/
def execDgather (core : Fin 4096) (table dense index : BitVec 5) (dim : BitVec 3) (mode : BitVec 2) (num : BitVec 5) (s : State) : Out :=
  loadIssue core (.dgather core table dense index dim mode num) [table, dense, index] num s
/-- DSCATTER (R171 to R179, R200). -/
def execDscatter (core : Fin 4096) (table dense index : BitVec 5) (dim : BitVec 3) (mode : BitVec 2) (accum : Bool) (num : BitVec 5)
    (s : State) : Out :=
  loadIssue core (.dscatter core table dense index dim mode accum num) [table, dense, index] num s

end Sys2Proof.Machine
end

