-- ==== Sys2Proof/Machine/EngineClass.lean ====
section
/-! DEFINITION. The engine-issue class (spec/06, R201, R202; spec/03; spec/04): issue of FE_WLOAD, FE_STREAM, BE_WLOAD,
BE_DX and BE_DW. Their work follows in Machine/CoreEvents.lean. -/
namespace Sys2Proof.Machine

/-- FE_WLOAD (R80, R84, R86, R87): checked and queued; it starts when the shadow plane takes it. -/
def execFeWload (core : Fin 4096) (wdesc : BitVec 5) (wFmt aFmt : BitVec 4) (kext : BitVec 9) (ncol : BitVec 6) (s : State) : Out :=
  let i := Instr.feWload core wdesc wFmt aFmt kext ncol
  issue core i [] (fun c => decide (queuedCount isLoad c.fe.queue ≥ 4))
    (fun _ c => feLoadFault core.val (slotDesc c wdesc) wFmt aFmt kext.toNat ncol.toNat)
    (fun s p =>
      let s := enqueue s p .fe (mkJob (coreOf s p) i [wdesc] 0 [])
      let s := modEngine s p false fun e =>
        { e with loaded := some ((fmtOfCode aFmt).getD .g16, (fmtOfCode wFmt).getD .g16) }
      advance (engineStart s p false false) core.val p) s

/-- FE_STREAM (R83, R84, R88 to R93): checked and queued with copies of its descriptors, ROWS register and numeric control
word (R188). -/
def execFeStream (core : Fin 4096) (adesc odesc pdesc rowsreg : BitVec 5) (kext : BitVec 9) (ncol : BitVec 6) (oFmt : BitVec 4)
    (acc plane : Bool) (num : BitVec 5) (s : State) : Out :=
  let i := Instr.feStream core adesc odesc pdesc rowsreg kext ncol oFmt acc plane num
  issue core i [rowsreg, num] (fun c => decide (queuedCount isStream c.fe.queue ≥ 4))
    (fun _ c => streamFault false core.val (tileOf c.fe plane) (slotDesc c adesc) (slotDesc c odesc) (slotDesc c pdesc)
      (nfld (sreg c rowsreg).toNat 0 24 + 1) kext.toNat ncol.toNat oFmt acc (sreg c num))
    (fun s p =>
      let s := enqueue s p .fe (mkJob (coreOf s p) i [adesc, odesc, pdesc] num [sreg (coreOf s p) rowsreg])
      let s := modEngine s p false fun e => noteSwap e plane
      advance (engineStart s p false true) core.val p) s

/-- BE_WLOAD (R120 to R123). -/
def execBeWload (core : Fin 4096) (wdesc : BitVec 5) (wFmt : BitVec 4) (trn : Bool) (kext ncol : BitVec 6) (s : State) : Out :=
  let i := Instr.beWload core wdesc wFmt trn kext ncol
  issue core i [] (fun c => decide (queuedCount isLoad c.be0.queue ≥ 4))
    (fun _ c => beLoadFault core.val (slotDesc c wdesc) wFmt trn kext.toNat ncol.toNat)
    (fun s p =>
      let s := enqueue s p .dx (mkJob (coreOf s p) i [wdesc] 0 [])
      let s := modEngine s p true fun e => { e with loaded := some (.g16, (fmtOfCode wFmt).getD .g16) }
      advance (engineStart s p true true) core.val p) s

/-- A BE_DX that meets a full deferral list waits until the list is at 48 entries or lower (R141). -/
def dxHeld (c : Core) : Bool := decide (c.defer.length ≥ 64) || (c.dxHold && decide (c.defer.length > 48))

/-- One cycle of the wait of R141, counted in CORE_BE_LIST_FULL_CYCLES. -/
def listWait (s : State) (core p : Nat) (dx : Bool) : State :=
  modCore (rbump (waitCycle s core p 4) (.coreBeCtr core 5) 1) p fun c => { c with dxHold := c.dxHold || dx }

/-- BE_DX (R124, R140, R141). -/
def execBeDx (core : Fin 4096) (gdesc odesc pdesc rowsreg : BitVec 5) (kext : BitVec 9) (ncol : BitVec 6) (oFmt : BitVec 4)
    (acc plane : Bool) (num : BitVec 5) (s : State) : Out :=
  let i := Instr.beDx core gdesc odesc pdesc rowsreg kext ncol oFmt acc plane num
  match canIssue s core i with
  | none => .next s
  | some p =>
    if dxHeld (coreOf s p) then .next (listWait s core.val p true)
    else
      issue core i [rowsreg, num] (fun c => decide (queuedCount isStream c.be0.queue ≥ 4))
        (fun _ c => streamFault true core.val (tileOf c.be0 plane) (slotDesc c gdesc) (slotDesc c odesc) (slotDesc c pdesc)
          (nfld (sreg c rowsreg).toNat 0 24 + 1) kext.toNat ncol.toNat oFmt acc (sreg c num))
        (fun s p =>
          let s := enqueue s p .dx (mkJob (coreOf s p) i [gdesc, odesc, pdesc] num [sreg (coreOf s p) rowsreg])
          let s := modCore s p fun c => { c with dxHold := false, be0 := noteSwap c.be0 plane }
          advance (engineStart s p true true) core.val p) s

/-- BE_DW (R126, R132, R137, R138, R141): a PENDING entry of the deferral list. -/
def execBeDw (core : Fin 4096) (xdesc : BitVec 5) (xFmt : BitVec 4) (gdesc odesc pdesc rowsreg : BitVec 5) (xext ncol : BitVec 6)
    (oFmt : BitVec 4) (acc : Bool) (num : BitVec 5) (dwc : BitVec 4) (s : State) : Out :=
  let i := Instr.beDw core xdesc xFmt gdesc odesc pdesc rowsreg xext ncol oFmt acc num dwc
  match canIssue s core i with
  | none => .next s
  | some p =>
    if (coreOf s p).defer.length ≥ 64 then .next (listWait s core.val p false)
    else
      issue core i [rowsreg, num] never
        (fun _ c => dwFault core.val (slotDesc c xdesc) (slotDesc c gdesc) (slotDesc c odesc) (slotDesc c pdesc) xFmt oFmt
          (nfld (sreg c rowsreg).toNat 0 24 + 1) xext.toNat ncol.toNat acc (sreg c num))
        (fun s p =>
          let c := coreOf s p
          let j := mkJob c i [xdesc, gdesc, odesc, pdesc] num [sreg c rowsreg]
          advance (setCore s p { c with defer := c.defer ++ [j], issued := c.issued + 1 }) core.val p) s

end Sys2Proof.Machine
end

