-- ==== Sys2Proof/Machine/FabricClass.lean ====
section
/-! DEFINITION. The fabric class (spec/06, R208, R209): one meaning per instruction. -/
namespace Sys2Proof.Machine

/-- The fabric interface holds sixteen instructions behind the one running, each way (R190). -/
def fabFull (u : CUnit) (c : Core) : Bool := decide ((unitJobs c u).length ≥ 17)

/-- Issue of a fabric instruction: its operands are checked and it is queued outbound or inbound; a receive is posted
(R366), and the requests that its unit can send go out (R370). -/
def fabIssue (core : Fin 4096) (i : Instr) (op : FabOp) (desc epreg auxreg : BitVec 5) (vc : BitVec 3) (mode : BitVec 2)
    (num : BitVec 5) (s : State) : Out :=
  let u := if fabWrites op then CUnit.fr else .fs
  issue core i [epreg, auxreg, num] (fabFull u)
    (fun _ c => fabFault core.val op (slotDesc c desc) vc mode (sreg c num))
    (fun s p =>
      let c := coreOf s p
      let j := mkJob c i [desc] num [sreg c epreg, sreg c auxreg]
      let s := enqueue s p u j
      let s := match op with
        | .recv => postReceive s core.val p j none
        | .crecv => postReceive s core.val p j (some ((sreg c auxreg).extractLsb' 0 32))
        | _ => s
      advance (pumpHead s core.val p u) core.val p) s

/-- FSEND: sends a tensor to a posted receive (R208). -/
def execFsend (core : Fin 4096) (desc epreg auxreg : BitVec 5) (vc : BitVec 3) (tag : BitVec 16) (mode : BitVec 2) (num : BitVec 5)
    (s : State) : Out :=
  fabIssue core (.fsend core desc epreg auxreg vc tag mode num) .send desc epreg auxreg vc mode num s
/-- FRECV: posts a receive (R208). -/
def execFrecv (core : Fin 4096) (desc epreg auxreg : BitVec 5) (vc : BitVec 3) (tag : BitVec 16) (mode : BitVec 2) (num : BitVec 5)
    (s : State) : Out :=
  fabIssue core (.frecv core desc epreg auxreg vc tag mode num) .recv desc epreg auxreg vc mode num s
/-- FCSEND: sends a collective chunk (R208). -/
def execFcsend (core : Fin 4096) (desc epreg auxreg : BitVec 5) (vc : BitVec 3) (tag : BitVec 16) (mode : BitVec 2) (num : BitVec 5)
    (s : State) : Out :=
  fabIssue core (.fcsend core desc epreg auxreg vc tag mode num) .csend desc epreg auxreg vc mode num s
/-- FCRECV: receives a collective chunk (R208). -/
def execFcrecv (core : Fin 4096) (desc epreg auxreg : BitVec 5) (vc : BitVec 3) (tag : BitVec 16) (mode : BitVec 2) (num : BitVec 5)
    (s : State) : Out :=
  fabIssue core (.fcrecv core desc epreg auxreg vc tag mode num) .crecv desc epreg auxreg vc mode num s
/-- FPUT: writes remote device memory (R208). -/
def execFput (core : Fin 4096) (desc epreg auxreg : BitVec 5) (vc : BitVec 3) (tag : BitVec 16) (mode : BitVec 2) (num : BitVec 5)
    (s : State) : Out :=
  fabIssue core (.fput core desc epreg auxreg vc tag mode num) .put desc epreg auxreg vc mode num s
/-- FGET: reads remote device memory (R208). -/
def execFget (core : Fin 4096) (desc epreg auxreg : BitVec 5) (vc : BitVec 3) (tag : BitVec 16) (mode : BitVec 2) (num : BitVec 5)
    (s : State) : Out :=
  fabIssue core (.fget core desc epreg auxreg vc tag mode num) .get desc epreg auxreg vc mode num s
/-- FACC: accumulating write into remote device memory (R208). -/
def execFacc (core : Fin 4096) (desc epreg auxreg : BitVec 5) (vc : BitVec 3) (tag : BitVec 16) (mode : BitVec 2) (num : BitVec 5)
    (s : State) : Out :=
  fabIssue core (.facc core desc epreg auxreg vc tag mode num) .acc desc epreg auxreg vc mode num s
/-- FMSG: sends a message (R208). -/
def execFmsg (core : Fin 4096) (desc epreg auxreg : BitVec 5) (vc : BitVec 3) (tag : BitVec 16) (mode : BitVec 2) (num : BitVec 5)
    (s : State) : Out :=
  fabIssue core (.fmsg core desc epreg auxreg vc tag mode num) .msg desc epreg auxreg vc mode num s

end Sys2Proof.Machine
end

