-- ==== Sys2Proof/Machine/OnChip.lean ====
section
/-! DEFINITION. The banks of scratchpads and cluster memories (spec/07): arbitration, error protection, bank retirement,
clearing, steward accesses. -/
namespace Sys2Proof.Machine

/-! ## Arbitration (R232 to R237) -/

/-- The place of a requester in the order of grants at one bank (R232, R234), none where it asks for nothing there. Core-class
requests come below 1000: of a scratchpad in their fixed order, of a cluster memory round-robin after the one granted last; the
DMA class comes after them, in order of arrival. -/
def grantRank (spad : Bool) (last : Nat) (u : BankUnit) : Option Nat :=
  let turn (i : Nat) : Option Nat := if spad then none else some ((i + 64 - last) % 65)
  let fixed (i : Nat) : Option Nat := if spad then some i else none
  match u with
  | .sequencer => fixed 0 | .atomicPort => fixed 1 | .fe => fixed 2 | .be0 => fixed 3 | .be1 => fixed 4 | .vector => fixed 5
  | .loadUnit => fixed 6 | .fabric => fixed 7
  | .core k => turn k.val
  | .steward => turn 64
  | .dma _ => some 1000 | .patrol => some 1000

/-- Whether a request belongs to the core class (R232). -/
def coreClass (r : BankReq) : Bool := match r.unit with | .dma _ => false | .patrol => false | _ => true

/-- Requests in the order of grants, equal ranks in the order given, which is that of their arrival (R233, R234). -/
def putRanked (rank : BankReq → Nat) (r : BankReq) : List BankReq → List BankReq
  | [] => [r]
  | x :: t => if rank x ≤ rank r then x :: putRanked rank r t else r :: x :: t
def grantOrder (spad : Bool) (last : Nat) (rs : List BankReq) : List BankReq :=
  (rs.filter fun r => (grantRank spad last r.unit).isSome).foldl (fun l r => putRanked (fun x => (grantRank spad last x.unit).getD 0) r l) []

/-- What one bank cycle grants of the requests to a bank, in grant order (R231, R237): every read of the first request's line, and the
first write of it; true where a request is granted. R233 orders requests for different lines; requests for one line are combined across
the classes (R237). -/
def bankCycle (rs : List BankReq) : List (BankReq × Bool) :=
  match rs with
  | [] => []
  | first :: _ =>
    (rs.foldl (fun (acc : List (BankReq × Bool) × Bool) r =>
      if r.line ≠ first.line then (acc.1 ++ [(r, false)], acc.2)
      else if r.write then (acc.1 ++ [(r, !acc.2)], true)
      else (acc.1 ++ [(r, true)], acc.2)) ([], false)).1

/-- The longest wait register takes the length of the wait so far (R256). -/
def noteMax (s : State) (r : Reg) (n : Nat) : State := if (rget s r).toNat < n then rset s r (BitVec.ofNat 64 n) else s

/-- How long each DMA-class request has waited, after a bank cycle of `cycles` cycles (R256): the patrol's wait is not counted (R245). -/
def dmaWaitsNext (cycles : Nat) (outcome : List (BankReq × Bool)) (waits : Table Nat) : Table Nat :=
  outcome.foldl (fun t (x : BankReq × Bool) =>
    match x.1.unit with
    | .dma id => if x.2 then tset (fun _ => 0) t id 0 else tmod (fun _ => 0) t id (· + cycles)
    | _ => t) waits

/-- The unit that a bank granted last among the core class of a cluster memory (R234). -/
def rrNext (last : Nat) (outcome : List (BankReq × Bool)) : Nat :=
  match outcome.find? fun x => x.2 && coreClass x.1 with
  | some ({ unit := .core k, .. }, _) => k.val
  | some ({ unit := .steward, .. }, _) => 64
  | _ => last

/-- Whether a memory's requests are granted: its cluster is not being cleared and its arithmetic clock runs (R250, R29). -/
def sramServes (s : State) (spad : Bool) (unit : Nat) : Bool :=
  let cl := if spad then unit / 66 else unit
  decide (cl < 64) && !(clusterOf s cl).clearing && clusterRuns s cl

/-- BANK_GRANT (R231 to R237): one bank cycle of every bank of a scratchpad (of a physical core) or of a cluster memory, for the
requests of the two classes that are asked in it, each in order of arrival (R232). Refused core-class requests, waiting DMA-class requests and grids held under R110 are
counted, each once in a cycle (R235); a cluster memory's bank cycle is two cycles (R230). Nothing is granted while the memory is being
cleared (R250). -/
def execBankGrant (spad : Bool) (unit : BitVec 13) (core dma : List BankReq) (s : State) : Out :=
  let reqs := core ++ dma
  let u := unit.toNat
  let cl := if spad then u / 66 else u
  if decide (cl ≥ 64) || !clusterRuns s cl then .next s
  else
    let k := clusterOf s cl
    let banks := if spad then 16 else if k.half then 32 else 64
    let last (b : Nat) : Nat := tget (fun _ => 64) k.rr b
    let cycleOf (b : Nat) : List (BankReq × Bool) :=
      let rs := grantOrder spad (last b) (reqs.filter fun r => decide (r.line % banks = b))
      if k.clearing then rs.map fun r => (r, false) else bankCycle rs
    let used := (reqs.map fun r => r.line % banks).eraseDups
    let outcome := used.flatMap cycleOf
    let refused (t : BankReq → Bool) : Bool := outcome.any fun x => !x.2 && t x.1
    let dmaRefused := refused fun r => match r.unit with | .dma _ => true | _ => false
    if spad then
      let c := coreOf s u
      let waits := dmaWaitsNext 1 outcome c.dmaWaits
      let longest := (waits.map (·.2)).foldl max 0
      let s := setCore s u { c with dmaWaits := waits, dmaWaiting := refused fun r => !coreClass r }
      match logicalOf s u with
      | none => .next s
      | some l =>
        let bumpIf (b : Bool) (r : Reg) (s : State) : State := if b then rbump s r 1 else s
        let s := bumpIf (refused coreClass) (.coreSpadConflict l) s
        let s := bumpIf (refused fun r => decide (r.unit = .fe)) (.coreFeCtr l 3) s
        let s := bumpIf (refused fun r => decide (r.unit = .be0)) (.coreBeCtr l 3) s
        let s := bumpIf (refused fun r => decide (r.unit = .be1)) (.coreBeCtr l 4) s
        .next (noteMax (bumpIf dmaRefused (.coreSpadDmaWait l) s) (.coreSpadDmaMax l) longest)
    else
      let waits := dmaWaitsNext 2 outcome k.dmaWaits
      let rr := used.foldl (fun t b => tset (fun _ => 64) t b (rrNext (last b) (cycleOf b))) k.rr
      let s := setCluster s u { k with dmaWaits := waits, rr := rr }
      .next (noteMax (if dmaRefused then rbump s (.cluCmemDmaWait u) 2 else s) (.cluCmemDmaMax u) ((waits.map (·.2)).foldl max 0))

/-! ## Corrections and uncorrectable words (R242 to R246) -/

/-- Spare banks of a cluster memory that remain: physical 64 and 65 unless in use or retired (R247). -/
def cmemSpares (k : Cluster) : List Nat :=
  [64, 65].filter fun b => !(k.bankMap.any fun x => decide (x.2 = b)) && !setHas b k.retired

/-- A read or patrol finds one bad bit in 8-byte word w of a memory (R242): the correction is counted, and its bank may become due
for retirement (R246). -/
def sramCorrected (s : State) (spad : Bool) (unit w : Nat) : State :=
  let now := s.time.now.toNat
  if spad then
    let k := coreOf s unit
    let (l, due) := noteCorr k.corr now (spadBank w) 1000000000 64
    let k := { k with corr := l }
    let s := setCore s unit (if due then coreBankDue k (spadBank w) else k)
    match logicalOf s unit with | some c => rbump s (.coreSpadEcc c) 1 | none => s
  else
    let k := clusterOf s unit
    let bank := cmemBank k.half w
    let (l, due) := noteCorr k.corr now (physBank k bank) 1000000000 64
    let k := { k with corr := l }
    rbump (setCluster s unit (if due then bankDue k bank false else k)) (.cluCmemEcc unit) 1

/-- The error of an uncorrectable or poisoned word of a memory (R243). -/
def sramErr (s : State) (spad : Bool) (unit w : Nat) : Err := if spad then spadErr s unit w else cmemErr s unit w

/-- Marks of a memory: poisoned words, and words that no read has yet found uncorrectable. -/
def sramPoison (s : State) (spad : Bool) (unit : Nat) : List Nat := if spad then (coreOf s unit).spadPoison else (clusterOf s unit).cmemPoison
def sramBad (s : State) (spad : Bool) (unit : Nat) : List Nat := if spad then (coreOf s unit).spadBad else (clusterOf s unit).cmemBad

def sramSize (spad : Bool) : Nat := if spad then 0x80000 else 0x800000

/-- ECC_WRITEBACK (R242): a read of 8-byte word w found one bad bit; the corrected word is written back and counted. A
poisoned or uncorrectable word is no corrected one. -/
def execEccWriteback (spad : Bool) (unit : BitVec 13) (word : BitVec 20) (s : State) : Out :=
  let w := word.toNat
  if !sramServes s spad unit.toNat || setHas w (sramPoison s spad unit.toNat) || setHas w (sramBad s spad unit.toNat)
      || decide (w * 8 ≥ sramSize spad) then .next s
  else .next (sramCorrected s spad unit.toNat w)

/-- Bits of a memory's words go bad beyond what the code corrects: words that the next read of them finds uncorrectable (R243). -/
def sramUpset (s : State) (spad : Bool) (unit : Nat) (ws : List Nat) : State :=
  let ws := ws.filter fun w => decide (w * 8 < sramSize spad) && !setHas w (sramPoison s spad unit)
  let all := ws.foldl (fun l w => setAdd w l) (sramBad s spad unit)
  if spad then setCore s unit { coreOf s unit with spadBad := all } else setCluster s unit { clusterOf s unit with cmemBad := all }

/-- The patrol reads one word (R245): a poisoned one is noted again (DESIGN CHOICE, log entry 41), an uncorrectable one is poisoned and
reported, a corrected one is counted. -/
def patrolWord (s : State) (spad : Bool) (unit w : Nat) (bad : Option Bool) : State :=
  if setHas w (sramPoison s spad unit) then noteErr s (sramErr s spad unit w)
  else if decide (bad = some true) || setHas w (sramBad s spad unit) then reportErr s (sramErr s spad unit w)
  else if bad = some false then sramCorrected s spad unit w
  else s

/-- SRAM_PATROL (R245): the patrol reads one 64-byte line. What it finds bad, and what has gone bad since, is an operand (log entry 41). -/
def execSramPatrol (spad : Bool) (unit : BitVec 13) (line : BitVec 17) (found : PatrolFound) (s : State) : Out :=
  if !sramServes s spad unit.toNat || decide (line.toNat * 64 ≥ sramSize spad) then .next s
  else
    let s := sramUpset s spad unit.toNat (found.upsets.map (·.toNat))
    .next ((upto 0 8).foldl (fun s k =>
      patrolWord s spad unit.toNat (8 * line.toNat + k) ((found.bad.find? fun x => decide (x.1.toNat = k)).map (·.2))) s)

/-- CMEM_BANK_MIGRATE (R247): the copy of the first bank that is due starts, while a spare remains. -/
def execCmemBankMigrate (cluster : BitVec 6) (s : State) : Out :=
  let k := clusterOf s cluster.toNat
  match k.dues, k.migrating, cmemSpares k with
  | b :: _, none, sp :: _ =>
    if sramServes s false cluster.toNat && !k.half then .next (setCluster s cluster.toNat { k with migrating := some (b.1, sp) }) else .next s
  | _, _, _ => .next s

/-- CMEM_BANK_MIGRATED (R247): the spare serves the logical number; poisoned words stay poisoned, and words that the copy found
uncorrectable are (R243); a degraded event. -/
def execCmemBankMigrated (cluster : BitVec 6) (s : State) : Out :=
  let c := cluster.toNat
  let k := clusterOf s c
  match k.migrating with
  | none => .next s
  | some (b, sp) =>
    if !sramServes s false c then .next s
    else
      let s := ((k.cmemBad.filter fun w => decide (cmemBank k.half w = b))).foldl (fun s w => reportErr s (cmemErr s c w)) s
      let k := clusterOf s c
      let old := physBank k b
      let follow := k.dues.any fun x => decide (x.1 = b) && x.2
      let s := setCluster s c { k with bankMap := tset (fun x => x) k.bankMap b sp, retired := setAdd old k.retired
                                       migrating := none, dues := k.dues.filter fun x => decide (x.1 ≠ b) }
      .next (report s .cmemBankRetired (resource 0x03 (66 * c + old)) 0 (BitVec.ofNat 64 b) follow)

/-! ## Clearing (R250 to R252) -/

/-- Banks that are due without a spare stay out of service from a die reset or a wake on (R248): the first of them halves the memory. -/
def halveBanks (s : State) (c : Nat) : State :=
  let k := clusterOf s c
  if k.dues.isEmpty || !((cmemSpares k).isEmpty || k.half) then s
  else
    let olds := k.dues.map fun x => physBank k x.1
    let s' := setCluster s c { k with half := true, retired := olds.foldl (fun l b => setAdd b l) k.retired, dues := [] }
    if k.half then s'
    else match k.dues with
      | (b, follow) :: _ => report s' .cmemHalf (resource 0x03 (66 * c + physBank k b)) 0 (BitVec.ofNat 64 b) follow
      | [] => s'

/-- Begin the clearing of all memories of a cluster (R250): scratchpads, code buffers, cluster memory, staging area, every
poison bit. -/
def startClear (s : State) (c : Nat) : State :=
  let k := clusterOf s c
  let s := setCluster s c { k with
    clearing := true, cmem := [], cmemPoison := [], cmemBad := [], stageHold := none, stageWait := [], migrating := none }
  (upto (66 * c) 66).foldl (fun s p => modCore s p fun x => { x with spad := [], spadPoison := [], spadBad := [], code := [] }) s

/-- The clearing of a die reset or of a wake from the off state (R248, R250). -/
def resetClear (s : State) (c : Nat) : State := startClear (halveBanks s c) c

/-! ## Steward accesses (R253, R624) -/

/-- The value an AMO stores (R231). -/
def amoNew (fn : AmoFn) (bits old b : Nat) : Nat :=
  let m := 2 ^ bits
  let b := b % m
  match fn with
  | .swap => b
  | .add => (old + b) % m
  | .xor => old ^^^ b
  | .and => old &&& b
  | .or => old ||| b
  | .min => if signed old bits ≤ signed b bits then old else b
  | .max => if signed old bits ≥ signed b bits then old else b
  | .minu => min old b
  | .maxu => max old b

/-- RISC-V cause numbers of a load and of a store/AMO access fault. -/
def loadAccessFault : Nat := 5
def storeAccessFault : Nat := 7

/-- A steward access to the memory of cluster `mem` by the steward of cluster c (R253): the data it reads, or the access
fault it takes. A bad word faults the access and is noted under R243. -/
def stewardAccess (s : State) (c mem : Nat) (off : Nat) (a : StewardAcc) : State :=
  let fault (s : State) (n : Nat) : State := setCluster s c { clusterOf s c with lastFault := some n }
  let got (s : State) (v : Nat) : State :=
    setCluster s c { clusterOf s c with stewardData := BitVec.ofNat 64 v, lastFault := none }
  let fail (s : State) (e : Err) (n : Nat) : State := if e.wait then s else fault (reportErr s e) n
  let ok (n : Nat) : Bool := decide (off % n = 0) && decide (off + n ≤ 3 * 0x800000)
  match a with
  | .lr => fault s loadAccessFault
  | .sc => fault s storeAccessFault
  | .load k =>
    let n := 2 ^ k.toNat
    if !ok n then fault s loadAccessFault
    else match cmemRead s mem off n with
      | .error e => fail s e loadAccessFault
      | .ok bs => got s (leNat bs)
  | .store k v =>
    let n := 2 ^ k.toNat
    if !ok n then fault s storeAccessFault
    else
      let (s', e) := cmemWrite s mem off (leBytes n v.toNat)
      (match e with
       | some e => if e.wait then s else fail s' e storeAccessFault
       | none => setCluster s' c { clusterOf s' c with lastFault := none })
  | .amo fn wide v =>
    let n := if wide then 8 else 4
    if !ok n || decide (off ≥ 0x800000) then fault s storeAccessFault
    else match cmemRead s mem off n with
      | .error e => fail s e storeAccessFault
      | .ok bs =>
        let (s', e) := cmemWrite s mem off (leBytes n (amoNew fn (8 * n) (leNat bs) v.toNat))
        (match e with
         | some e => fail s' e storeAccessFault
         | none => got s' (leNat bs))

/-- STEWARD_CMEM_ACCESS (R253): the steward of a cluster reaches its own cluster memory. A steward out of service makes no
access (R581). -/
def execStewardCmemAccess (cluster : BitVec 6) (off : BitVec 25) (a : StewardAcc) (s : State) : Out :=
  let c := cluster.toNat
  if (clusterOf s c).stewardOut || !dieServes s (clusterDie c) then .next s
  else .next (stewardAccess s c c off.toNat a)

/-- The partner of a cluster's steward (R581): the other of the pair C(2n), C(2n+1). -/
def partnerOf (c : Nat) : Nat := if c % 2 = 0 then c + 1 else c - 1

end Sys2Proof.Machine
end

