-- ==== Sys2Proof/Machine/StackOps.lean ====
section
/-! DEFINITION. The stack controllers (spec/08): word requests, accumulating writes and the merge buffer, patrol, the spare
channel, self-refresh, holding slots and the park queue. -/
namespace Sys2Proof.Machine

/-! ## Word requests -/

/-- A request waits in the park queue of a stack of 64 (R279). -/
def parkPut (s : State) (n : Nat) (r : ParkReq) : State :=
  let k := stackOf s n
  if k.parkQ.length < 64 then setStack s n { k with parkQ := k.parkQ ++ [r] } else s

/-- The end of a word request that is written or added: it fails (R263), waits for a holding slot (R279), or is not taken yet while the
host holds its line (R510). -/
def requestEnd (s0 s : State) (w : Nat) (r : ParkReq) (e : Option Err) : State :=
  match e with
  | none => s
  | some e =>
    if e.wait then (if e.park.isSome then parkPut s0 (devStack (32 * w)) r else s0)
    else reportErr s e

/-- The requester's answer of a word request: the controller's data, or the failure noted (R243). -/
def stackServe (s : State) (w : Nat) (r : StackReq) : State :=
  let n := devStack (32 * w)
  let put (s : State) (v : Nat) : State := setStack s n { stackOf s n with lastRead := BitVec.ofNat 256 v }
  match r with
  | .read =>
    let s := devSettle s (32 * w) 32
    (match devRead s (32 * w) 32 with | .ok bs => put s (leNat bs) | .error e => if e.wait then s else reportErr s e)
  | .write mask data =>
    let bs := leBytes 32 data.toNat
    let runs := joinRuns (((upto (32 * w) 32).zip bs).filter fun x => mask.getLsbD (x.1 - 32 * w))
    let (s', e) := memWrites 2 0 runs s
    requestEnd s s' w { addr := w, accFmt := none, mask := mask.toNat, data := bs, sinceNs := s.localNs } e
  | .atomic op width off b c =>
    let addr : Word64 := BitVec.ofNat 64 (2 * 2 ^ 61 + 32 * w + off.toNat)
    match atomFault 0 op width addr with
    | some _ => s
    | none =>
      let r := atomRun s 0 op width addr b c
      (match r.err with | none => put r.st r.old.toNat | some e => if e.wait then s else reportErr r.st e)

/-- STACK_REQUEST (R271): a read, write or atomic of one 32-byte word at the word number `word`. -/
def execStackRequest (word : BitVec 36) (r : StackReq) (s : State) : Out := .next (stackServe s word.toNat r)

/-- ACCUMULATING_WRITE (R270 to R273): one word request; a parked block without a slot makes it wait (R279). -/
def execAccumulatingWrite (word : BitVec 36) (f32 : Bool) (mask : BitVec 16) (data : BitVec 256) (mode : RoundMode) (s : State) : Out :=
  let w := word.toNat
  let f := if f32 then Fmt.f32 else .g16
  let m := if f32 then mask.toNat % 256 else mask.toNat
  let bs := leBytes 32 data.toNat
  let r := accWord s mode f w (maskVals f m bs)
  .next (requestEnd s r.st w { addr := w, accFmt := some f, mode := mode, mask := m, data := bs, sinceNs := s.localNs } r.err)

/-- MERGE_WRITEBACK (R272): the entry least recently added to is written back 2 µs after its last add. -/
def execMergeWriteback (stack : BitVec 5) (s : State) : Out :=
  let n := stack.toNat
  let k := stackOf s n
  let oldest := k.merge.foldl (fun a e => if e.lastNs < a then e.lastNs else a) s.localNs
  if k.merge.isEmpty || decide (s.localNs < oldest + 2000) then .next s
  else .next (setStack s n { k with merge := dropFirst (fun e => decide (e.lastNs = oldest)) k.merge })

/-- FLUSH (R272, R282): every entry is written back. -/
def execFlush (stack : BitVec 5) (s : State) : Out :=
  .next (setStack s stack.toNat { stackOf s stack.toNat with merge := [] })

/-- Word number of the i-th word of a logical channel (R259, R268). -/
def chanWord (n : Nat) (half : Bool) (ch i : Nat) : Nat :=
  let off := 32 * i
  let loc := off / 256 * (if half then 4096 else 8192) + ch * 256 + off % 256
  devAddr n loc / 32

/-- Whether a word of storage is held in the merge buffer of its channel (R272). -/
def inMerge (s : State) (h : Nat) : Bool := (stackOf s (devStack (32 * h))).merge.any fun e => decide (e.word = h)

/-- Bits of stored words go bad: the patterns join those that stand there (R262). What a merge buffer holds is written back over them. -/
def devUpset (s : State) (n : Nat) (l : List (BitVec 36 × BitVec 288)) : State :=
  l.foldl (fun s x =>
    let h := x.1.toNat
    if devStack (32 * h) ≠ n ∨ inMerge s h then s
    else { s with devErrs := tmod (fun _ => 0) s.devErrs h (· ^^^ x.2) }) s

/-- A patrol read of a word of storage (R263, R264): a poisoned one is noted again (DESIGN CHOICE, log entry 41), an uncorrectable one is
poisoned and reported, a bad symbol is corrected. The storage behind a parked block is not read (R277). -/
def patrolRead (s : State) (h : Nat) : State :=
  if inMerge s h || devParked s (32 * h) || devDead s h then s
  else if devPoisoned s h then noteErr s (devErr s h)
  else if devBad s h then reportErr s (devErr s h)
  else devFix s h

/-- STACK_PATROL (R264): the patrol of a channel reads its next word; a word in the merge buffer is skipped; a whole pass is
counted. INTERVAL 0 stops it; a word of a line that the host holds waits for its back-invalidate (R510). `upsets` are bits of the stack's words that have gone bad since (log entry 41). -/
def execStackPatrol (stack : BitVec 5) (ch : BitVec 5) (upsets : List (BitVec 36 × BitVec 288)) (s : State) : Out :=
  let n := stack.toNat
  let k := stackOf s n
  if !k.ready || !dieServes s (n / 8) || decide (rfld s (.memPatrol n) 0 20 = 0) || (k.half && decide (ch.toNat ≥ 16)) then .next s
  else
    let i := tget (fun _ => 0) k.patrolPos ch.toNat
    let last := decide (i + 1 ≥ 67108864)
    let s := devUpset s n upsets
    if s.host.snoop.contains (chanWord n k.half ch.toNat i / 2) then .next s
    else
    let s := setStack s n { stackOf s n with patrolPos := tset (fun _ => 0) k.patrolPos ch.toNat (if last then 0 else i + 1) }
    let s := if last then rbump s (.memPatrolPasses n) 1 else s
    .next (patrolRead s (chanWord n k.half ch.toNat i))

/-- CHANNEL_SPARE_COPY (R266): the copy of a due channel to CH32 starts. -/
def execChannelSpareCopy (stack : BitVec 5) (s : State) : Out :=
  let n := stack.toNat
  let k := stackOf s n
  match k.due with
  | none => .next s
  | some ch => if k.ready && spareFree k && k.migrating.isNone then .next (setStack s n { k with migrating := some ch }) else .next s

/-- The copy of a channel reads a word (R263, R266): an uncorrectable one is poisoned and reported, a bad symbol is corrected. -/
def copyRead (s : State) (h : Nat) : State :=
  if devPoisoned s h then s else if devBad s h then reportErr s (devErr s h) else devFix s h

/-- CHANNEL_SPARED (R266): CH32 serves the logical number, its words as the copy read them; a degraded event. -/
def execChannelSpared (stack : BitVec 5) (s : State) : Out :=
  let n := stack.toNat
  let k := stackOf s n
  match k.migrating with
  | none => .next s
  | some ch =>
    if !k.ready then .next s
    else
      let s := (s.devErrs.filter fun x => decide (devStack (32 * x.1) = n) && decide (devChan k.half (32 * x.1) = ch)).foldl (fun s x => copyRead s x.1) s
      let s := setStack s n { stackOf s n with migrating := none, due := none, spareUsed := true, spareFor := ch, failedCh := setAdd ch k.failedCh }
      .next (report s .memChannelSpared (resource 0x04 (33 * n + ch)) 0 (BitVec.ofNat 64 ch) k.dueFollow)

/-- A channel that was due, and for which CH32 can no longer come, waits for half mode (R268). -/
def dueDisplaced (s : State) (n : Nat) : State :=
  let k := stackOf s n
  match k.due with
  | none => s
  | some ch => channelDue (setStack s n { k with due := none, migrating := none }) n ch k.dueFollow

/-- The interface of physical channel c of a stack fails (R265, R267, R268): while CH32 is not in service it takes the number at once,
a copy to it or not; otherwise the channel is dead. -/
def chanFail (s : State) (n c : Nat) : State :=
  let k := stackOf s n
  if c > 32 ∨ setHas c k.failedCh then s
  else
    let failed := setAdd c k.failedCh
    match logicalChan k c with
    | none =>
      let s := setStack s n { k with failedCh := failed }
      if c = 32 then dueDisplaced s n else s
    | some l =>
      if spareFree k then
        let mine (w : Nat) : Bool := decide (devStack (32 * w) = n) && decide (devChan k.half (32 * w) = l)
        let s := { s with devPoison := s.devPoison.filter fun w => !mine w, devErrs := s.devErrs.filter fun x => !mine x.1 }
        let s := setStack s n { k with spareUsed := true, spareFor := l, failedCh := failed, migrating := none,
                                       due := (if k.due = some l then none else k.due), poisonCh := setAdd l k.poisonCh }
        dueDisplaced (report s .memChannelSpared (resource 0x04 (33 * n + c)) 0 (BitVec.ofNat 64 l) false) n
      else
        let s := setStack s n { (chanPending k l).1 with failedCh := failed, deadCh := setAdd l k.deadCh }
        report s .memChannelDead (resource 0x04 (33 * n + c)) 0 (BitVec.ofNat 64 l) false

/-- CHANNEL_INTERFACE_FAIL (R265, R267): a physical channel's interface fails. With the spare unused CH32 takes its number
at once with every word poisoned; otherwise every access to it fails until package reset, at which half mode begins. -/
def execChannelInterfaceFail (stack : BitVec 5) (chan : BitVec 6) (s : State) : Out := .next (chanFail s stack.toNat chan.toNat)

/-- A stack enters self-refresh (R275): every merge-buffer entry is written back and the contents are kept. -/
def enterSelfRefresh (s : State) (n : Nat) : State :=
  setStack s n { stackOf s n with merge := [], ready := false, selfRefresh := true, kept := true }

/-- SELF_REFRESH_ENTRY (R275): on the loss of its die a trained stack goes into self-refresh. -/
def execSelfRefreshEntry (stack : BitVec 5) (s : State) : Out :=
  let n := stack.toNat
  if (stackOf s n).ready && decide ((dieOf s (n / 8)).st = .out) then .next (enterSelfRefresh s n) else .next s

/-! ## Holding slots (R277 to R281) -/

/-- PARK_SLOT_FILL (R278): a write to a parked block that has no slot takes a FREE one, set to +0, and its state fetch is
asked for. -/
def execParkSlotFill (word : BitVec 36) (mask : BitVec 32) (data : BitVec 256) (s : State) : Out :=
  let a := 32 * word.toNat
  if devParked s a && (slotOf s a).isNone && decide ((stackOf s (devStack a)).slots.length < 65536)
      && (devFault s true word.toNat).isNone then
    .next (stackServe s word.toNat (.write mask data))
  else .next s

/-- A write of the host, which waits for no snoop of its own line (R510). -/
def pastSnoop (s : State) (f : State → Acc) : Acc :=
  let (s', e) := f { s with host := { s.host with snoop := [] } }
  ({ s' with host := { s'.host with snoop := s.host.snoop } }, e)

/-- Apply a request that waited in the park queue. -/
def parkApply (s : State) (r : ParkReq) : State × Option Err :=
  match r.accFmt with
  | some f => let x := accWord s r.mode f r.addr (maskVals f r.mask r.data); (x.st, x.err)
  | none =>
    let put := memWrites 2 0 (joinRuns (((upto (32 * r.addr) 32).zip r.data).filter fun x => r.mask.testBit (x.1 - 32 * r.addr)))
    if r.host then pastSnoop s put else put s

/-- PARK_QUEUE_GRANT (R279): the request at the head of the park queue takes a slot that became FREE. An instruction's
request leaves the queue, its block has the slot, and the instruction makes its accesses again. -/
def execParkQueueGrant (stack : BitVec 5) (s : State) : Out :=
  let n := stack.toNat
  let k := stackOf s n
  match k.parkQ with
  | [] => .next s
  | r :: rest =>
    let s1 := setStack s n { k with parkQ := rest }
    match r.origin with
    | some _ =>
      (match parkReady (setStack s n { k with parkQ := [] }) r.addr with
       | some s2 => .next (setStack s2 n { stackOf s2 n with parkQ := rest })
       | none => .next s)
    | none =>
      let (s2, e) := parkApply (setStack s n { k with parkQ := [] }) r
      match e with
      | none => .next (setStack s2 n { stackOf s2 n with parkQ := rest })
      | some e => if e.wait then .next s else .next (reportErr s1 e)

/-- The job of a core with an order number. -/
def jobOfOrder (c : Core) (order : Nat) : Option Job :=
  (c.lq ++ c.atq ++ c.frq ++ c.fsq).find? fun j => decide (j.order = order)

/-- How the park queue names a remote write (R279): 4,096 + source node, and source unit and transaction number. -/
def packetOrigin (pk : Packet) : Nat × Nat := (4096 + pk.srcNode.toNat, pk.srcUnit.toNat * 65536 + pk.tag.toNat)

end Sys2Proof.Machine
end

