-- ==== Sys2Proof/Machine/UpdOps.lean ====
section
/-! DEFINITION. The optimizer update unit (spec/09): group records and their checks, the update rules, the journal. -/
namespace Sys2Proof.Machine

/-! ## Group records (R285 to R289) -/

/-- A group record (R288), its F32 coefficients decoded; `omb1` and `omb2` are formed once per command (R293). -/
structure Group where
  rule   : Nat
  wFmt   : Option Fmt
  clear  : Bool
  stamp  : Bool
  tier   : Bool
  num    : Word64
  bases  : List Nat
  coef   : List Val
  nblocks : Nat
  reserved : Bool
deriving DecidableEq, Repr

/-- The F32 steps of the update rules (R293): one operation rounded once to nearest. -/
def r32 (x : Val × Bool) : Val := (roundVal (scalarFmt .f32) (ctxOf .nearest) x.1 x.2).1
def f32mul (a b : Val) : Val := r32 (vmul a b, false)
def f32add (a b : Val) : Val := r32 (vadd false a b, false)
def f32sub (a b : Val) : Val := r32 (vadd false a (vnegate b), false)
def f32fma (a b c : Val) : Val := r32 (vadd false (vmul a b) c, false)
def f32sqrt (a : Val) : Val := r32 (vsqrtVal a)

/-- a ÷ b with 64 quotient bits and a sticky bit, as IEEE 754 has the special cases. -/
def vdivVal : Val → Val → Val × Bool
  | .nan, _ => (.nan, false)
  | _, .nan => (.nan, false)
  | .inf _, .inf _ => (.nan, false)
  | .inf a, .fin n _ _ => (.inf (a ^^ n), false)
  | .fin n _ _, .inf b => (vzero (n ^^ b), false)
  | .fin n1 m1 e1, .fin n2 m2 e2 =>
    if m2 = 0 then (if m1 = 0 then .nan else .inf (n1 ^^ n2), false)
    else
      let k := Nat.log2 m2 + 64
      (.fin (n1 ^^ n2) (m1 * 2 ^ k / m2) (e1 - e2 - k), decide (m1 * 2 ^ k % m2 ≠ 0))

def f32div (a b : Val) : Val := r32 (vdivVal a b)

/-- Words of a group record. -/
def groupWord (g : BitVec 1024) (k : Nat) : Nat := (g.extractLsb' (64 * k) 64).toNat

/-- Decode a group record (R288). The bases are those of the pieces G, W, M1, M1H, M2, M2H, STAMP in turn; the
coefficients LR, WD, B1, B2, EPS, GSCALE, C1, C2, GMAX. -/
def groupOf (g : BitVec 1024) : Group :=
  let w0 := groupWord g 0
  let f (k h : Nat) : Val := decodeScalar (scalarFmt .f32) (nfld (groupWord g k) (32 * h) 32)
  { rule := nfld w0 0 2
    wFmt := match nfld w0 2 4 with | 1 => some .f32 | 2 => some .g16 | _ => none
    clear := nbit w0 6, stamp := nbit w0 7, tier := nbit w0 8
    num := BitVec.ofNat 64 (groupWord g 1)
    bases := (upto 2 7).map (groupWord g)
    coef := [f 9 0, f 9 1, f 10 0, f 10 1, f 11 0, f 11 1, f 12 0, f 12 1, f 13 0]
    nblocks := nfld (groupWord g 13) 32 32
    reserved := decide (w0 / 2 ^ 9 ≠ 0) || decide (groupWord g 14 ≠ 0) || decide (groupWord g 15 ≠ 0) }

/-- Bytes of a piece of a block, its stride too (R285). -/
def pieceLen (g : Group) (k : Nat) : Nat :=
  match k with
  | 0 => 4096 | 1 => if g.wFmt = some .f32 then 8192 else 4096
  | 2 | 4 => 2048 | 3 | 5 => 64 | _ => 4

/-- Pieces beside the gradient that the group carries, in the payload's order (R285, R298). -/
def pieces (g : Group) : List Nat :=
  [1] ++ (if g.rule ≤ 1 then [2, 3] else []) ++ (if g.rule = 0 then [4, 5] else []) ++ (if g.stamp then [6] else [])

/-- Address of a piece of block i. -/
def pieceAddr (g : Group) (k i : Nat) : Nat := g.bases.getD k 0 + pieceLen g k * i

/-- Whether a device range lies on a die and keeps out of reserved and absent ranges of every stack (R286, R289). -/
def rangeOk (s : State) (die lo len : Nat) : Bool :=
  let hi := lo + len - 1
  decide (len = 0) ||
  (decide (hi < 2 ^ 41) && decide (lo / 2 ^ 39 = die) && decide (hi / 2 ^ 39 = die)
   && (upto 0 8).all fun n =>
     -- the highest block of stack n at or below the range's last
     let b := hi / 4096
     let top := b - (b + 8 - n) % 8
     decide (top < lo / 4096) || decide (b < (b + 8 - n) % 8)
       || decide (devLocal (4096 * top) < journalBase (stackOf s (8 * die + n)).half))

/-- Whether a block of gradients is parked. -/
def gradParked (s : State) (g : Group) (i : Nat) : Bool :=
  decide (pieceAddr g 0 i < 2 ^ 41) && devParked s (pieceAddr g 0 i)

/-- The checks of R289 and R51; `count` blocks from `first`. -/
def groupFault (s : State) (g : Group) (first count : Nat) : Option Status :=
  let ps := 0 :: pieces g
  let die := g.bases.getD 0 0 / 2 ^ 39
  firstFail [
    (decide (g.rule ≠ 3) && g.wFmt.isSome && !g.reserved && ps.all (fun k => decide (g.bases.getD k 0 % pieceLen g k = 0)),
      .updGroupBad),
    (g.tier || ps.all (fun k => rangeOk s die (g.bases.getD k 0) (pieceLen g k * g.nblocks)), .updGroupBad),
    ((upto first count).all (fun i => decide (gradParked s g i = g.tier)), .updGroupBad),
    (decide (first + count ≤ g.nblocks), .updGroupBad),
    ((numCtrl g.num).isSome, .numCtrlBad)]

/-! ## Update of one block (R293 to R297) -/

/-- The new state of one parameter: first moment, second moment and weight. -/
def updRule (g : Group) (grad w m1 v : Val) : Val × Val × Val × Val :=
  let c (k : Nat) : Val := g.coef.getD k .nan
  let lr := c 0
  let wd := c 1
  let b1 := c 2
  let b2 := c 3
  let one : Val := .fin false 1 0
  let x := f32mul grad (c 5)
  let fin (d : Val) : Val := f32sub w (f32mul lr (f32fma wd w d))
  match g.rule with
  | 0 =>
    let m1' := f32fma b1 m1 (f32mul (f32sub one b1) x)
    let v' := f32fma b2 v (f32mul (f32sub one b2) (f32mul x x))
    let sq := f32add (f32sqrt (f32mul v' (c 7))) (c 4)
    (x, m1', v', fin (f32div (f32mul m1' (c 6)) sq))
  | 1 => let m1' := f32fma b1 m1 x; (x, m1', v, fin m1')
  | _ => (x, m1, v, fin x)

/-- A gradient counted in LARGE_COUNT (R296); a GMAX of +∞ disables counting, of NaN too (R288). -/
def isLarge (g : Group) (x : Val) : Bool :=
  decide (g.coef.getD 8 .nan ≠ .inf false) && (vIsNan x || vlt (g.coef.getD 8 .nan) (vabs x))

/-- Decode the 2,048 elements of a moment: F32 values and how many were beyond range (R46, R60, R293). -/
def decodeMoment (elems headers : List Byte) : List (Val × Bool) :=
  ((chunks 256 8 elems).zip (chunks 8 8 headers)).flatMap fun (es, h) =>
    let hd := leNat h
    es.map fun b =>
      if nfld hd 8 8 ≠ 8 then (.nan, false)
      else
        let v := scaled (nfld hd 0 8) (decodeScalar (scalarFmt .m8) b.toNat)
        match v with
        | .inf n => (.inf n, false)
        | v => roundVal (scalarFmt .f32) (ctxOf .nearest) v false

/-- The rounding of the p-th draw of parameter k of block i on stack n, of `per` draws a parameter (R295). -/
def updCtx (nc : NumCtrl) (n i per p k : Nat) : RoundCtx :=
  laneCtx { nc with seed := nc.seed + BitVec.ofNat 32 (32 * i) } (4160 + n) (k % 32) (k / 32 * per + p)

/-- Write a moment as M8 blocks (R295): element bytes, header bytes, decoded values, beyond-range count. -/
def encodeMoment (nc : NumCtrl) (n i per p : Nat) (vs : List Val) : List Byte × List Byte × List Val × Nat :=
  let bs := (chunks 256 8 vs).mapIdx fun b l => writeM8 (fun j => updCtx nc n i per p (256 * b + j)) l
  (bs.flatMap fun b => b.codes.map (BitVec.ofNat 8),
   bs.flatMap fun b => leBytes 8 (m8Header b.scale b.codes).toNat,
   bs.flatMap fun b => b.codes.map fun c => scaled b.scale (decodeScalar (scalarFmt .m8) c),
   (bs.map (·.ovf)).foldl (· + ·) 0)

/-- What the update of one block gives: new bytes of each carried piece, numeric block, large parameters. -/
structure BlockNew where
  out   : List (Nat × List Byte)
  num   : NumBlock
  large : List Nat
deriving DecidableEq, Repr

/-- Compute the new state of block i (R293 to R297) from the bytes of its pieces; `old k` are those of piece k. -/
def updBlock (g : Group) (n i : Nat) (step : Word32) (grad : List Byte) (old : Nat → List Byte) : BlockNew :=
  let nc := (numCtrl g.num).getD ⟨0, .nearest, 1⟩
  let wf := g.wFmt.getD .g16
  let wn := fmtBits wf / 8
  let per := if g.rule = 0 then 3 else if g.rule = 1 then 2 else 1
  let gs := (chunks 2 2048 grad).map fun b => decodeScalar (scalarFmt .g16) (leNat b)
  let ws := (chunks wn 2048 (old 1)).map fun b => decodeScalar (scalarFmt wf) (leNat b)
  let m1 := if g.rule ≤ 1 then decodeMoment (old 2) (old 3) else []
  let m2 := if g.rule = 0 then decodeMoment (old 4) (old 5) else []
  let rs := (upto 0 2048).map fun k =>
    updRule g (gs.getD k .nan) (ws.getD k .nan) (m1.getD k (.nan, false)).1 (m2.getD k (.nan, false)).1
  let (e1, h1, d1, o1) := if g.rule ≤ 1 then encodeMoment nc n i per 0 (rs.map (·.2.1)) else ([], [], [], 0)
  let (e2, h2, d2, o2) := if g.rule = 0 then encodeMoment nc n i per 1 (rs.map (·.2.2.1)) else ([], [], [], 0)
  let wo := (rs.map (·.2.2.2)).mapIdx fun k v => roundVal (scalarFmt wf) (updCtx nc n i per (per - 1) k) v false
  let outputs (vs : List (Val × Bool)) : List Output := vs.mapIdx fun k v =>
    { val := v.1, ovf := v.2, cycle := k, lane := n, elem := 2048 * i + k, row := i }
  let sat := o1 + o2 + ((m1 ++ m2).filter (·.2)).length
  let bad := gs.any (fun v => !vIsFinite v) || ws.any (fun v => !vIsFinite v) || (m1 ++ m2).any fun v => !vIsFinite v.1 && !v.2
  { out := [(1, wo.flatMap fun v => leBytes wn (encodeScalar (scalarFmt wf) v.1))]
        ++ (if g.rule ≤ 1 then [(2, e1), (3, h1)] else []) ++ (if g.rule = 0 then [(4, e2), (5, h2)] else [])
        ++ (if g.stamp then [(6, leBytes 4 step.toNat)] else [])
    num := numBlockOf 0xFFF (outputs (d1.map fun v => (v, false)) ++ outputs (d2.map fun v => (v, false)) ++ outputs wo) sat bad
    large := ((upto 0 2048).zip rs).filterMap fun (k, r) => if isLarge g r.1 then some (2048 * i + k) else none }

/-! ## The journal (R298 to R302) -/

/-- Bytes of a stack's storage at a local offset, as the unit reads them. -/
def localRead (s : State) (n loc len : Nat) : List Byte := (upto loc len).map fun l => homeByte s (devAddr n l)

/-- Whether a word of a stack's storage can be read (R263, R267). -/
def wordReadable (s : State) (h : Nat) : Bool := !devBad s h && !devDead s h

/-- The whole words that bytes at a stack's local offset fill. -/
def localWords (n loc : Nat) (bs : List Byte) : List (Nat × List Byte) :=
  let pad := bs ++ List.replicate ((32 - bs.length % 32) % 32) 0
  (chunks 32 pad.length pad).mapIdx fun i w => (devAddr n (loc + 32 * i), w)

/-- Store whole words at a stack's local offset, as recovery does; a whole word clears its poison. -/
def localWrite (s : State) (n loc : Nat) (bs : List Byte) : State :=
  (localWords n loc bs).foldl (fun s (x : Nat × List Byte) => devWriteUnit s x.1 x.2) s

/-- Whether the host holds a line of the words from a device address, so that an access to them waits (R510). -/
def lineHeldAt (s : State) (a n : Nat) : Bool :=
  !s.host.snoop.isEmpty && (wordsOf 64 a n).any fun l => s.host.snoop.contains l

/-- The words of a step of R299 at a stack's local offset: each is applied, or the error says why the step has no acknowledgement. -/
def localPut (s : State) (n loc : Nat) (bs : List Byte) : Acc :=
  let ws := localWords n loc bs
  if ws.any fun x => lineHeldAt s x.1 32 then (s, some waitErr)
  else ws.foldl (fun (x : Acc) w =>
    let (s1, e) := putDev (wordChunks 32 w.1 w.2) x.1
    (s1, orErr x.2 e)) (s, none)

/-- Local offset of record r. -/
def recBase (s : State) (n r : Nat) : Nat := journalBase (stackOf s n).half + 0x4000 * r

/-- STATE of a record's first word; 0 for FREE (R298). -/
def recState (w : Nat) : Nat := if nfld w 0 8 = 0xA5 ∧ (nfld w 8 8 = 1 ∨ nfld w 8 8 = 2) then nfld w 8 8 else 0

def recWord (s : State) (n r k : Nat) : Nat := leNat (localRead s n (recBase s n r + 8 * k) 8)

def recStateOf (s : State) (n r : Nat) : Nat := recState (recWord s n r 0)

/-- The commit word of a block's record in a state (R298): 32 bytes replaced whole. -/
def commitWord (b : UpdBlock) (st crc : Nat) : List Byte :=
  leBytes 8 (fields [(0, 0xA5), (8, st), (16, b.flags), (32, b.cmdStep.toNat)]) ++ leBytes 8 b.recSeq
  ++ leBytes 8 (fields [(0, crc), (32, b.payload.length)]) ++ leBytes 8 0

/-- Bytes 0x20 to 0x7F of a record's header. -/
def headerTail (b : UpdBlock) : List Byte := b.addrs.flatMap (leBytes 8) ++ List.replicate 40 0

def recCrc (b : UpdBlock) : Nat := crc32c (headerTail b ++ b.payload)

/-- Write the commit word of a block's record. -/
def setCommit (s : State) (n : Nat) (b : UpdBlock) (st : Nat) : Acc :=
  match b.journalRec with
  | none => (s, none)
  | some r => localPut s n (recBase s n r) (commitWord b st (recCrc b))

/-- Write a record's commit word whole as FREE. -/
def freeRec (s : State) (n r : Nat) : State :=
  localWrite s n (recBase s n r) (leBytes 8 0xA5 ++ leBytes 8 (recWord s n r 1) ++ List.replicate 16 0)

/-- The first FREE record at or after the ring's position. -/
def freeRecord (s : State) (n : Nat) : Option Nat :=
  ((upto 0 4096).map fun k => ((updOf s n).ringPos + k) % 4096).find? fun r => decide (recStateOf s n r = 0)

/-- The pieces a committed record's payload holds (R298): header slot and bytes, none when LEN fits no layout. -/
def recLayout (w0 len : Nat) : Option (List (Nat × Nat)) :=
  let wl := if nfld w0 16 4 = 1 then 8192 else 4096
  let st := if nbit w0 22 then [(6, 4)] else []
  let rest := len - wl - (if nbit w0 22 then 4 else 0)
  if nfld w0 16 4 ≠ 1 ∧ nfld w0 16 4 ≠ 2 then none
  else if len ≠ wl + rest + (if nbit w0 22 then 4 else 0) then none
  else if rest = 0 then some ([(1, wl)] ++ st)
  else if rest = 2112 then some ([(1, wl), (2, 2048), (3, 64)] ++ st)
  else if rest = 4224 then some ([(1, wl), (2, 2048), (3, 64), (4, 2048), (5, 64)] ++ st)
  else none

/-- Cut a payload into the pieces of a layout. -/
def cutPayload : List (Nat × Nat) → List Byte → List (Nat × List Byte)
  | [], _ => []
  | (k, n) :: t, bs => (k, bs.take n) :: cutPayload t (bs.drop n)

/-- Write device pieces without the checks of an ordinary requester: recovery runs before the die serves (R300, R467). -/
def unitWrites (s : State) (ws : List (Nat × List Byte)) : State := ws.foldl (fun s (w : Nat × List Byte) => devWriteUnit s w.1 w.2) s

/-- The words of a piece of a device plane. -/
def pieceWords (a n : Nat) : List Nat := wordsOf 32 a n

/-- Bytes of the pieces that a record's address fields name (R300). -/
def namedLens (w0 : Nat) : List Nat := [4096, if nfld w0 16 4 = 1 then 8192 else 4096, 2048, 64, 2048, 64, 4]

/-- Whether a record's commit word and header can be read, as far as recovery needs them (R300): the rest of the header of a record
whose commit word reads FREE it does not need, so that a record freed on the last branch is not met again. -/
def headerReadable (s : State) (n r : Nat) : Bool :=
  let ok (k : Nat) : Bool := wordReadable s (devAddr n (recBase s n r + 32 * k) / 32)
  ok 0 && (decide (recStateOf s n r = 0) || (ok 1 && ok 2 && ok 3))

/-- What recovery does with one record (R300): the state and whether the die becomes fatal (R308). -/
def recoverRecord (s : State) (n r : Nat) : State × Bool :=
  let w0 := recWord s n r 0
  let res := resource 0x05 n
  let addr : Word64 := BitVec.ofNat 64 (devAddr n (recBase s n r))
  let lost (s : State) : State × Bool :=
    (addDue (report (freeRec s n r) .updJournalLost res addr 0 false) (.dieFatal (n / 8) causeReset), true)
  if !headerReadable s n r then lost s
  else if recState w0 = 0 then (s, false)
  else if recState w0 = 1 then (rbump (freeRec s n r) (.updCtr n 3) 1, false)
  else
    let lw := recWord s n r 2
    let len := lw / 2 ^ 32
    let base := recBase s n r
    let addrs := (upto 4 7).map (recWord s n r)
    let payload := localRead s n (base + 128) len
    let readable := (upto 0 ((len + 31) / 32)).all fun k => wordReadable s (devAddr n (base + 128 + 32 * k) / 32)
    let good := decide (len ≤ 0x4000 - 128) && readable && decide (crc32c (localRead s n (base + 32) 96 ++ payload) = lw % 2 ^ 32)
    match (if good then recLayout w0 len else none) with
    | some lay =>
      let ws := (cutPayload lay payload).map fun (k, bs) => (addrs.getD k 0, bs)
      if nbit w0 20 then
        -- a slow-tier record is replayed once the host link is up (R302)
        (setUpd s n { updOf s n with slowReplay := setAdd r (updOf s n).slowReplay }, false)
      else
        let s := unitWrites s (ws ++ (if nbit w0 21 then [(addrs.getD 0 0, List.replicate 4096 0)] else []))
        (rbump (freeRec s n r) (.updCtr n 2) 1, false)
    | none =>
      let named := ((addrs.zip (namedLens w0)).filter fun x => decide (x.1 ≠ 0))
      let ok := !nbit w0 20 && named.all fun (a, l) =>
        rangeOk s (n / 8) a l && (pieceWords a l).all (wordReadable s)
      if ok then
        let s := (named.flatMap fun (a, l) => pieceWords a l).foldl (fun s w => setDevPoison s w true) s
        (report (freeRec s n r) .updJournalBad res addr 0 false, false)
      else lost s

/-- Run all the records in the given order, and whether one of them makes the die fatal. -/
def recoverAll (n : Nat) (rs : List Nat) (s : State) : State × Bool :=
  rs.foldl (fun (x : State × Bool) r =>
    let (s, bad) := recoverRecord x.1 n r
    (s, x.2 || bad)) (s, false)

/-- Sort record numbers by a key, stable. -/
def insertBy (key : Nat → Nat) (r : Nat) : List Nat → List Nat
  | [] => [r]
  | a :: t => if key r < key a then r :: a :: t else a :: insertBy key r t
def sortBy (key : Nat → Nat) (l : List Nat) : List Nat := l.foldr (insertBy key) []

/-- Records in the order of recovery (R300): those whose header cannot be read first, then by increasing SEQ. -/
def recoveryOrder (s : State) (n : Nat) : List Nat :=
  let rs := upto 0 4096
  rs.filter (fun r => !headerReadable s n r)
  ++ sortBy (fun r => recWord s n r 1) (rs.filter fun r => headerReadable s n r && decide (recStateOf s n r ≠ 0))

/-- A stack's storage serves again (R300, R301). -/
def stackBack (s : State) (n : Nat) : State :=
  let s := setStack s n { stackOf s n with ready := true, selfRefresh := false, kept := false }
  setUpd s n { updOf s n with ready := true, recovering := false, journalInit := false }

/-- The next record number of a stack that kept its journal: above every SEQ that its records hold, since none is used again (R298). -/
def seqAfter (s : State) (n : Nat) : Nat :=
  (upto 0 4096).foldl (fun m r => if wordReadable s (devAddr n (recBase s n r) / 32) then max m (recWord s n r 1 + 1) else m) (updOf s n).nextSeq

/-- Words of a stack's journal are corrected as recovery reads them (R263). -/
def journalFix (s : State) (n : Nat) : State :=
  (s.devErrs.map (·.1)).foldl (fun s h =>
    let loc := devLocal (32 * h)
    let j := journalBase (stackOf s n).half
    if devStack (32 * h) = n ∧ j ≤ loc ∧ loc < j + 0x4000000 then devFix s h else s) s

/-- Whether the host holds a line that the recovery of a stack reads or changes (R510): one of its journal, or of a piece that a committed
record names. -/
def recoveryHeld (s : State) (n : Nat) : Bool :=
  !s.host.snoop.isEmpty &&
    (let j := journalBase (stackOf s n).half
     (s.host.snoop.any fun l => decide (devStack (64 * l) = n) && decide (j ≤ devLocal (64 * l)) && decide (devLocal (64 * l) < j + 0x4000000))
     || (upto 0 4096).any fun r => decide (recStateOf s n r = 2) && headerReadable s n r &&
          (((upto 4 7).map (recWord s n r)).zip (namedLens (recWord s n r 0))).any fun x => decide (x.1 ≠ 0) && lineHeldAt s x.1 x.2)

/-- Journal recovery of a stack (R300). -/
def recoverStack (s : State) (n : Nat) : State :=
  let s := journalFix s n
  let s := setUpd s n { updOf s n with nextSeq := seqAfter s n }
  let (s, bad) := recoverAll n (recoveryOrder s n) s
  if bad then s else stackBack s n

/-- Start of a stack without its contents (R301): the start is recorded. Memory then reads as if
nothing had been written (DESIGN CHOICE, log entry 4), so that every commit word reads as FREE. -/
def initJournal (s : State) (n : Nat) : State :=
  let s := { s with dev := s.dev.filter fun c => decide (devStack c.1 ≠ n)
                    devPoison := s.devPoison.filter fun w => decide (devStack (32 * w) ≠ n)
                    devErrs := s.devErrs.filter fun x => decide (devStack (32 * x.1) ≠ n) }
  let s := setStack s n { stackOf s n with poisonCh := [], slots := [], parkQ := [], merge := [] }
  let s := setUpd s n { updOf s n with slowReplay := [] }
  report (stackBack s n) .stackContentsLost (resource 0x05 n) 0 0 false

end Sys2Proof.Machine
end

