-- ==== Sys2Proof/Machine/UpdRows.lean ====
section
/-! DEFINITION. The commands of the update units (spec/09): dispatch, journal steps, recovery, slow-tier fetches. -/
namespace Sys2Proof.Machine

/-! ## Commands in the units (R291, R308) -/

def flightOf (s : State) (q : Nat) (seq : Word32) : Option Flight := (queueOf s q).flight.find? fun f => decide (f.cmd.seq = seq)

/-- Fields of a command record: n bits at bit `lo` of the 8-byte word at an offset (R317, R320). -/
def cmdFld (c : CmdRec) (off lo n : Nat) : Nat := nfld (c.raw.extractLsb' (8 * off) 64).toNat lo n
def cmdKind (c : CmdRec) : Nat := cmdFld c 0 0 8
def cmdWord (c : CmdRec) (off : Nat) : Word64 := c.raw.extractLsb' (8 * off) 64

/-- Blocks of an UPDATE were finished; with the last of them the command is done (R291). -/
def updDone (s : State) (q : Nat) (seq : Word32) (blocks : Nat) : State :=
  modFlight s q seq fun f =>
    let n := f.progress + blocks
    { f with progress := n, done := f.done || decide (n ≥ cmdFld f.cmd 0x50 32 32) }

/-- Give an UPDATE the status of its first failure. -/
def updStatus (s : State) (q : Nat) (seq : Word32) (st : Status) : State :=
  modFlight s q seq fun f => if f.status = .success then { f with status := st } else f

/-- First block index at or after `next`, below `last`, whose gradient block lies in stack n (R286). -/
def nextOwn (g : Group) (n next last : Nat) : Option Nat :=
  let g0 := g.bases.getD 0 0 / 4096
  let j0 := max (g0 + next) (n / 8 * 2 ^ 27)
  let j := j0 + (n % 8 + 8 - j0 % 8) % 8
  if j / 2 ^ 27 = n / 8 ∧ j < g0 + last then some (j - g0) else none

/-- How many blocks of next … last − 1 lie in stack n. -/
def ownCount (g : Group) (n next last : Nat) : Nat :=
  match nextOwn g n next last with
  | none => 0
  | some i =>
    let g0 := g.bases.getD 0 0 / 4096
    let hi := min (g0 + last) ((n / 8 + 1) * 2 ^ 27)
    (hi - 1 - (g0 + i)) / 8 + 1

/-- Put a task behind those whose seal or start came no later (R291). -/
def putTask (t : UpdTask) : List UpdTask → List UpdTask
  | [] => [t]
  | a :: r => if t.key < a.key then t :: a :: r else a :: putTask t r

/-- Whether a holding slot is for one of the blocks first … first + count − 1 of a group. -/
def slotFor (g : Group) (first count : Nat) (x : HoldSlot) : Bool :=
  decide (g.bases.getD 0 0 / 4096 + first ≤ x.tag) && decide (x.tag < g.bases.getD 0 0 / 4096 + first + count)

/-- Slots of the slow tier that an earlier command's fetch failed for are fetched again for an UPDATE that starts (R305). -/
def refetch (s : State) (g : Group) (first count : Nat) : State :=
  if !g.tier then s
  else (upto 0 32).foldl (fun s n =>
    let k := stackOf s n
    if k.slots.any (fun x => decide (x.fetch = .failed) && slotFor g first count x) then
      setStack s n { k with slots := k.slots.map fun x => if x.fetch = .failed ∧ slotFor g first count x then { x with fetch := .queued } else x }
    else s) s

/-- A block could not be read: it and every block of its command that is not committed stay unchanged, and the command
ends with the status once the committed ones are retired (R308). A record that was written for one is FREE again at UPD_RETIRE. -/
def updFail (s : State) (q : Nat) (seq : Word32) (st : Status) : State :=
  let s := updStatus s q seq st
  (upto 0 32).foldl (fun s n =>
    let u := updOf s n
    let mine (b : UpdBlock) : Bool := decide (b.q = q) && decide (b.seq = seq)
    let early (b : UpdBlock) : Bool := mine b && (decide (b.step = .dispatched) || decide (b.step = .written))
    let drop (b : UpdBlock) : Option UpdBlock := if early b then (if b.journalRec.isSome then some { b with step := .dropped } else none) else some b
    let left := (u.tasks.filter fun t => decide (t.q = q) && decide (t.seq = seq)).map fun t =>
      if (groupOf t.group).tier then ownCount (groupOf t.group) n (nfld (((flightOf s q seq).map fun f => cmdFld f.cmd 0x50 0 32).getD 0) 0 32) t.last - t.taken.length
      else ownCount (groupOf t.group) n t.next t.last
    let dropped := u.blocks.filter early
    let s := setUpd s n { u with
      tasks := u.tasks.filter fun t => !(decide (t.q = q) && decide (t.seq = seq)), blocks := u.blocks.filterMap drop }
    let s := updDone s q seq (left.foldl (· + ·) 0 + dropped.length)
    -- slots of dropped slow-tier blocks keep their gradients
    let kept := (stackOf s n).slots.map fun x =>
      if dropped.any (fun b => b.slow && decide (b.gAddr / 4096 = x.tag)) then { x with updating := false } else x
    setStack s n { stackOf s n with slots := kept }) s

/-- Read a piece of a device-tier block. -/
def readPieces (s : State) (g : Group) (i : Nat) (ks : List Nat) : Except Err (List (Nat × List Byte)) :=
  match ks with
  | [] => .ok []
  | k :: t =>
    match devRead s (pieceAddr g k i) (pieceLen g k) with
    | .error e => .error e
    | .ok bs => match readPieces s g i t with | .error e => .error e | .ok l => .ok ((k, bs) :: l)

/-- Words of the pieces of a block are corrected as they are read (R263). -/
def settlePieces (s : State) (g : Group) (i : Nat) (ks : List Nat) : State :=
  ks.foldl (fun s k => devSettle s (pieceAddr g k i) (pieceLen g k)) s

def pieceOf (l : List (Nat × List Byte)) (k : Nat) : List Byte := ((l.find? fun x => decide (x.1 = k)).map (·.2)).getD []

/-- FLAGS of a record's first word: STAMP_EN, GRAD_CLEAR, TIER and W_FMT, from bit 16 (R298). -/
def recFlags (g : Group) : Nat :=
  (if g.wFmt = some .f32 then 1 else 2) + b01 g.tier * 16 + b01 g.clear * 32 + b01 g.stamp * 64

/-- What a retired or skipped block adds to its command's completion record (R297). -/
def updReport (s : State) (b : UpdBlock) : State :=
  modFlight s b.q b.seq fun f =>
    let first := f.kindBlk.extractLsb' 0 64
    let new := match b.large with | [] => first | i :: _ => if i < first.toNat then BitVec.ofNat 64 i else first
    let cnt := satAdd32 (f.kindBlk.extractLsb' 64 32) b.large.length
    let skips := f.kindBlk.extractLsb' 96 32 + (if b.skip then 1 else 0)
    { f with num := mergeUnits f.num b.num, kindBlk := BitVec.ofNat 128 (fields [(0, new.toNat), (64, cnt.toNat), (96, skips.toNat)]) }

/-- A block that leaves the unit, retired or skipped: it is counted, there and for its command (R291, R294, R307). -/
def blockDone (s : State) (n : Nat) (b : UpdBlock) : State :=
  let s := rbump s (if b.skip then .updCtr n 1 else .updCtr n 0) 1
  let s := rbump s (.updCtr n 7) b.large.length
  updDone (updReport s b) b.q b.seq 1

/-- The slot of a slow-tier block that the unit took becomes FREE (R278). -/
def freeSlot (s : State) (n : Nat) (b : UpdBlock) : State :=
  if b.slow then setSlots s n ((stackOf s n).slots.filter fun x => !(decide (x.tag = b.gAddr / 4096) && x.updating)) else s

/-- Take a block (R291, R294, R299 step 1) whose pieces, the gradient among them as piece 0, have been read. A block that its stamp skips
keeps a place only for the clear of its gradients; the slot of a skipped slow-tier block is freed. -/
def takeBlock (s : State) (n : Nat) (t : UpdTask) (i : Nat) (ps : List (Nat × List Byte)) : State :=
  let g := groupOf t.group
  let u := updOf s n
  let base : UpdBlock := { q := t.q, seq := t.seq, index := i, gAddr := pieceAddr g 0 i, cmdStep := t.step, slow := g.tier,
                           gradClear := g.clear && !g.tier }
  if g.stamp && decide ((BitVec.ofNat 32 (leNat (pieceOf ps 6)) - t.step).toNat < 2 ^ 31) then
    let b : UpdBlock := { base with skip := true, step := .committed }
    if b.gradClear then setUpd s n { u with blocks := u.blocks ++ [b] } else blockDone (freeSlot s n b) n b
  else
    let new := updBlock g n i t.step (pieceOf ps 0) (pieceOf ps)
    let b : UpdBlock :=
      { base with flags := recFlags g, payload := new.out.flatMap (·.2)
                  addrs := (upto 0 7).map fun k => if k = 0 ∨ (pieces g).contains k then pieceAddr g k i else 0
                  writes := new.out.map fun x => (pieceAddr g x.1 i, x.2), num := new.num, large := new.large }
    setUpd s n { u with blocks := u.blocks ++ [b] }

/-- Change the unit's tasks of a command. -/
def modTask (s : State) (n : Nat) (t : UpdTask) (f : UpdTask → UpdTask) : State :=
  setUpd s n { updOf s n with tasks := (updOf s n).tasks.map fun x => if x.q = t.q ∧ x.seq = t.seq then f x else x }

/-- A task without blocks left to take leaves the unit. -/
def dropTask (s : State) (n : Nat) (t : UpdTask) : State :=
  setUpd s n { updOf s n with tasks := (updOf s n).tasks.filter fun x => !(decide (x.q = t.q) && decide (x.seq = t.seq)) }

/-- The block of a task that a holding slot is for. -/
def slotIndex (t : UpdTask) (x : HoldSlot) : Nat := x.tag - (groupOf t.group).bases.getD 0 0 / 4096

/-- Whether a task names the block of a slot and has not taken it. -/
def slotMine (first : Nat) (t : UpdTask) (x : HoldSlot) : Bool :=
  let g0 := (groupOf t.group).bases.getD 0 0 / 4096
  decide (g0 + first ≤ x.tag) && decide (x.tag < g0 + t.last) && !t.taken.contains (slotIndex t x)

def taskFirst (s : State) (t : UpdTask) : Nat := ((flightOf s t.q t.seq).map fun f => cmdFld f.cmd 0x50 0 32).getD 0

/-- Lowest of a list by a key. -/
def lowest {α : Type} (key : α → Nat) : List α → Option α
  | [] => none
  | a :: t => match lowest key t with | none => some a | some b => if key b < key a then some b else some a

/-- The bytes that a fetch brings, cut into the pieces the group carries (R304). -/
def fetchedPieces (g : Group) (bs : List Byte) : List (Nat × List Byte) :=
  cutPayload ((pieces g).map fun k => (k, pieceLen g k)) bs

/-- The gradient that a slot holds (R304): the 128 words of its place in the holding region. -/
def slotRead (s : State) (x : HoldSlot) : Except Err (List Byte) :=
  if lineHeldAt s (32 * slotWord s x (128 * x.tag)) 4096 then .error waitErr
  else match (upto (slotWord s x (128 * x.tag)) 128).find? fun h => !wordReadable s h with
  | some h => .error (devErr s h)
  | none => .ok (if s.devErrs.isEmpty then mread x.data 0 4096 else (upto (32 * slotWord s x (128 * x.tag)) 4096).map (homeByte s))

/-- Whether a block's gradients have a journal record that is not retired: nothing of the same gradient block is dispatched (R291). A
committed slow-tier record that waits for the host link is one (R302). -/
def recordOpen (s : State) (n gAddr : Nat) : Bool :=
  ((updOf s n).blocks.any fun b => decide (b.gAddr = gAddr)) || (updOf s n).slowReplay.any fun r => decide (recWord s n r 4 = gAddr)

/-- The command of a block that cannot be read ends (R308). -/
def blockUnread (s : State) (t : UpdTask) (e : Err) : State :=
  updDone (updFail (forCommand t.q t.seq s (reportErr s e)) t.q t.seq e.status) t.q t.seq 1

/-- A slow-tier task takes a block whose state has arrived: its slot becomes UPDATING (R304). A block that no write has
filled gets a slot of +0, whose fetch is queued. -/
def dispatchSlow (s : State) (n : Nat) (t : UpdTask) : State :=
  let g := groupOf t.group
  let first := taskFirst s t
  let k := stackOf s n
  let isArrived (x : HoldSlot) : Bool := match x.fetch with | .arrived _ => !x.updating | _ => false
  match lowest (·.tag) (k.slots.filter fun x => slotMine first t x && isArrived x && !recordOpen s n (4096 * x.tag)) with
  | some x =>
    let i := slotIndex t x
    let bs := match x.fetch with | .arrived bs => bs | _ => []
    let s0 := s
    let s := modTask s n t fun y => { y with taken := i :: y.taken }
    let s := devSettle s (32 * slotWord s x (128 * x.tag)) 4096
    (match slotRead s x with
     | .error e => if e.wait then s0 else blockUnread s t e
     | .ok grad =>
       let s := setStack s n { stackOf s n with slots := (stackOf s n).slots.map fun y => if y.tag = x.tag ∧ isArrived y then { y with updating := true } else y }
       takeBlock s n t i ((0, grad) :: fetchedPieces g bs))
  | none =>
    match nextOwn g n t.next t.last with
    | none => s
    | some i =>
      if (k.slots.any fun x => decide (x.tag = pieceAddr g 0 i / 4096) && !x.updating) || t.taken.contains i then
        modTask s n t fun y => { y with next := i + 8 }
      else if k.slots.length < 65536 then fillSlot s n (pieceAddr g 0 i / 4096)
      else s

/-- UPD_BLOCK_DISPATCH (R291, R294, R299): the unit of a stack takes the next block of its first command, while fewer than 64
are dispatched, none of the same gradient block is unretired, and a journal record is FREE (R303). -/
def execUpdBlockDispatch (stack : BitVec 5) (s : State) : Out :=
  let n := stack.toNat
  let u := updOf s n
  match u.tasks with
  | [] => .next s
  | t :: _ =>
    let g := groupOf t.group
    if !u.ready || !dieServes s (n / 8) || (freeRecord s n).isNone then .next s
    else if g.tier then
      if t.taken.length ≥ ownCount g n (taskFirst s t) t.last then .next (dropTask s n t) else .next (dispatchSlow s n t)
    else match nextOwn g n t.next t.last with
      | none => .next (dropTask s n t)
      | some i =>
        if (u.blocks.filter fun b => !b.slow).length ≥ 64 ∨ recordOpen s n (pieceAddr g 0 i) then .next s
        else
          let s1 := settlePieces (modTask s n t fun y => { y with next := i + 8 }) g i (if g.stamp then [6] else [])
          match readPieces s1 g i (if g.stamp then [6] else []) with
          | .error e => if e.wait then .next s else .next (blockUnread s1 t e)
          | .ok st =>
            if g.stamp && decide ((BitVec.ofNat 32 (leNat (pieceOf st 6)) - t.step).toNat < 2 ^ 31) then .next (takeBlock s1 n t i st)
            else
              let s2 := settlePieces s1 g i (0 :: pieces g)
              match readPieces s2 g i (0 :: pieces g) with
              | .error e => if e.wait then .next s else .next (blockUnread s2 t e)
              | .ok ps => .next (takeBlock s2 n t i ps)

/-- The oldest block of a unit at a step. -/
def blockAt (u : UpdUnit) (st : UpdStep) : Option UpdBlock := u.blocks.find? fun b => decide (b.step = st)

/-- Replace the oldest block at a step. -/
def modBlock (st : UpdStep) (f : UpdBlock → UpdBlock) : List UpdBlock → List UpdBlock
  | [] => []
  | b :: t => if b.step = st then f b :: t else b :: modBlock st f t

def unitServes (s : State) (n : Nat) : Bool := (updOf s n).ready && dieServes s (n / 8)

/-- A write of step 2 or 3 is not applied (R299): no later step starts, the old state stands, and the command fails as for a block that
cannot be read (R308; DESIGN CHOICE, log entry 50). -/
def stepFails (s0 s : State) (b : UpdBlock) (e : Err) : State := updFail (forCommand b.q b.seq s0 (reportErr s e)) b.q b.seq e.status

/-- A write of step 4 or 5 is not applied (R299): the command has the status, and the block waits behind the others for an acknowledgement
that comes at no time before the next package reset (R267; DESIGN CHOICE, log entry 50). -/
def stepHangs (s0 s : State) (n : Nat) (b : UpdBlock) (e : Err) : State :=
  let s := updStatus (forCommand b.q b.seq s0 (reportErr s e)) b.q b.seq e.status
  let u := updOf s n
  setUpd s n { u with blocks := dropFirst (fun x => decide (x.step = b.step)) u.blocks ++ [b] }

/-- UPD_JOURNAL_WRITE (R298, R299 step 2): header and payload with STATE WRITTEN go to a FREE record. -/
def execUpdJournalWrite (stack : BitVec 5) (s : State) : Out :=
  let n := stack.toNat
  let u := updOf s n
  match blockAt u .dispatched, freeRecord s n with
  | some b, some r =>
    if !unitServes s n then .next s
    else
      let b' := { b with step := .written, journalRec := some r, recSeq := u.nextSeq }
      let (s1, e) := localPut s n (recBase s n r) (commitWord b' 1 (recCrc b') ++ headerTail b' ++ b'.payload)
      let s2 := setUpd s1 n { updOf s1 n with
        nextSeq := u.nextSeq + 1, ringPos := (r + 1) % 4096, blocks := modBlock .dispatched (fun _ => b') u.blocks }
      match e with
      | none => .next s2
      | some e => .next (if e.wait then s else stepFails s s2 b e)
  | _, _ => .next s

/-- UPD_COMMIT (R299 step 3): the commit word becomes COMMITTED; the slot of a slow-tier block is FREE (R278). -/
def execUpdCommit (stack : BitVec 5) (s : State) : Out :=
  let n := stack.toNat
  let u := updOf s n
  match blockAt u .written with
  | none => .next s
  | some b =>
    if !unitServes s n then .next s
    else
      let (s1, e) := setCommit s n b 2
      match e with
      | some e => .next (if e.wait then s else stepFails s s1 b e)
      | none =>
        let s := freeSlot s1 n b
        .next (setUpd s n { updOf s n with blocks := modBlock .written (fun x => { x with step := .committed }) u.blocks })

/-- Step 4 of R299: the new state in place, and +0 to the gradient block under GRAD_CLEAR; a slow-tier write waits for the
host link. -/
def inPlace (s : State) (b : UpdBlock) : Acc :=
  let ws := b.writes ++ (if b.gradClear then [(b.gAddr, List.replicate 4096 0)] else [])
  memWrites (if b.slow then 3 else 2) 0 ws s

/-- UPD_IN_PLACE (R299 step 4): the block's writes are made and acknowledged; while one of them waits, so does the step. A skipped block's
clear is its last step (R294). -/
def execUpdInPlace (stack : BitVec 5) (s : State) : Out :=
  let n := stack.toNat
  let u := updOf s n
  match blockAt u .committed with
  | none => .next s
  | some b =>
    if !unitServes s n || (b.slow && !hostServes s) then .next s
    else
      let (s1, e) := inPlace s b
      let go (s : State) : State :=
        if b.skip then blockDone (setUpd s n { updOf s n with blocks := dropFirst (fun x => decide (x.step = .committed)) (updOf s n).blocks }) n b
        else setUpd s n { updOf s n with blocks := modBlock .committed (fun x => { x with step := .inPlace }) (updOf s n).blocks }
      match e with
      | none => .next (go s1)
      | some e => .next (if e.wait then s else stepHangs s s1 n b e)

/-- UPD_RETIRE (R299 step 5): the commit word becomes FREE and the block is retired; a dropped block only leaves its record (R308). -/
def execUpdRetire (stack : BitVec 5) (s : State) : Out :=
  let n := stack.toNat
  let u := updOf s n
  match (match blockAt u .inPlace with | some b => some b | none => blockAt u .dropped) with
  | none => .next s
  | some b =>
    if !unitServes s n then .next s
    else
      let (s1, e) := setCommit s n b 0
      match e with
      | some e => .next (if e.wait then s else if b.step = .inPlace then stepHangs s s1 n b e else s)
      | none =>
        let s := setUpd s1 n { updOf s1 n with blocks := dropFirst (fun x => decide (x.step = b.step)) u.blocks }
        .next (if b.step = .inPlace then blockDone s n b else s)

/-- JOURNAL_RECOVERY (R300): a stack that returns with its contents. -/
def execJournalRecovery (stack : BitVec 5) (s : State) : Out :=
  let n := stack.toNat
  if (updOf s n).recovering && !dieCalled s (n / 8) && !recoveryHeld s n then .next (recoverStack s n) else .next s

/-- JOURNAL_INIT (R301): a stack that starts without its contents. -/
def execJournalInit (stack : BitVec 5) (s : State) : Out :=
  if (updOf s stack.toNat).journalInit then .next (initJournal s stack.toNat) else .next s

/-- SLOW_REPLAY (R302): a committed slow-tier record is replayed once the host link is up. -/
def execSlowReplay (stack : BitVec 5) (s : State) : Out :=
  let n := stack.toNat
  let u := updOf s n
  match u.slowReplay with
  | [] => .next s
  | r :: rest =>
    if !unitServes s n || !hostServes s then .next s
    else
      let w0 := recWord s n r 0
      let len := recWord s n r 2 / 2 ^ 32
      if lineHeldAt s (devAddr n (recBase s n r)) 32 || (localWords n (recBase s n r + 128) (List.replicate len 0)).any (fun x => lineHeldAt s x.1 32) then .next s
      else
      let ws := match recLayout w0 len with
        | none => []
        | some lay => (cutPayload lay (localRead s n (recBase s n r + 128) len)).map fun (k, bs) => (recWord s n r (4 + k), bs)
      let (s1, e) := memWrites 3 0 ws s
      if e.isSome then .next s
      else
        let s := rbump (freeRec s1 n r) (.updCtr n 2) 1
        .next (setUpd s n { updOf s n with slowReplay := rest })

/-- A started UPDATE of the slow tier, sealed or not, whose blocks include a gradient block: its group (R304). -/
def slowGroup (s : State) (g4k : Nat) : Option Group :=
  ((s.queues.flatMap fun x => x.2.flight).findSome? fun f =>
    match f.descs with
    | [raw] =>
      let g := groupOf raw
      let g0 := g.bases.getD 0 0 / 4096
      if cmdKind f.cmd = 0x06 ∧ !f.done ∧ g.tier ∧ g0 + cmdFld f.cmd 0x50 0 32 ≤ g4k
        ∧ g4k < g0 + cmdFld f.cmd 0x50 0 32 + cmdFld f.cmd 0x50 32 32 then some g else none
    | _ => none)

/-- State buffers in use (R304): fetches under way or arrived, and slow-tier blocks not retired. -/
def buffersUsed (s : State) (n : Nat) : Nat :=
  ((stackOf s n).slots.filter fun x => !x.updating && (match x.fetch with | .active _ => true | .arrived _ => true | _ => false)).length
  + ((updOf s n).blocks.filter fun b => b.slow).length

/-- Change the first slot that a test accepts. -/
def modSlot (t : HoldSlot → Bool) (f : HoldSlot → HoldSlot) : List HoldSlot → List HoldSlot
  | [] => []
  | x :: l => if t x then f x :: l else x :: modSlot t f l

/-- SLOW_FETCH (R304): the oldest queued fetch whose group a started UPDATE names takes a free state buffer. -/
def execSlowFetch (stack : BitVec 5) (s : State) : Out :=
  let n := stack.toNat
  let k := stackOf s n
  if !unitServes s n || decide (buffersUsed s n ≥ 64) then .next s
  else
    let slots := modSlot (fun x => !x.updating && decide (x.fetch = .queued) && (slowGroup s x.tag).isSome)
      (fun x => { x with fetch := .active s.localNs }) k.slots
    .next (setStack s n { k with slots := slots })

/-- The index of a gradient block in a group. -/
def groupIndex (g : Group) (g4k : Nat) : Nat := g4k - g.bases.getD 0 0 / 4096

/-- Read the slow-tier pieces of a block. -/
def slowPieces (s : State) (g : Group) (i : Nat) : List Nat → Except Err (List Byte)
  | [] => .ok []
  | k :: t =>
    match hostRead s (pieceAddr g k i) (pieceLen g k), slowPieces s g i t with
    | .ok a, .ok b => .ok (a ++ b)
    | .error e, _ => .error e
    | _, .error e => .error e

def slotActive (x : HoldSlot) : Bool := match x.fetch with | .active _ => true | _ => false

/-- Whether a fetch has passed UPD_FETCH_CTRL.TIMEOUT (R305). -/
def fetchLate (s : State) (n : Nat) (x : HoldSlot) : Bool :=
  match x.fetch with
  | .active t => decide (rfld s (.updFetch n) 0 32 ≠ 0) && decide (t + 1000 * rfld s (.updFetch n) 0 32 < s.localNs)
  | _ => false

/-- SLOW_FETCH_DONE (R304): the oldest fetch under way arrives; after the seal its slot becomes UPDATING. -/
def execSlowFetchDone (stack : BitVec 5) (s : State) : Out :=
  let n := stack.toNat
  let k := stackOf s n
  match k.slots.find? slotActive with
  | none => .next s
  | some x =>
    match slowGroup s x.tag with
    | none => .next s
    | some g =>
      if !unitServes s n || fetchLate s n x then .next s
      else match slowPieces s g (groupIndex g x.tag) (pieces g) with
        | .error _ => .next s
        | .ok bs =>
          let s := rbump (setStack s n { k with slots := modSlot slotActive (fun x => { x with fetch := .arrived bs }) k.slots }) (.updCtr n 4) 1
          match (updOf s n).tasks with
          | t :: _ => if slotMine (taskFirst s t) t { x with fetch := .arrived bs } && (freeRecord s n).isSome then .next (dispatchSlow s n t) else .next s
          | [] => .next s

/-- A block of a task will not be updated, as its fetch failed (R305). -/
def failTask (s : State) (n : Nat) (x : HoldSlot) (t : UpdTask) : State :=
  let s := modTask s n t fun y => { y with taken := slotIndex t x :: y.taken }
  updDone (updStatus s t.q t.seq .updSlowFail) t.q t.seq 1

/-- A fetch failed: the slot keeps its gradient in FILLING, and the command of the block ends with UPD_SLOW_FAIL once its
other blocks are done (R305). -/
def fetchFailed (s : State) (n : Nat) (x : HoldSlot) : State :=
  let s := rbump s (.updCtr n 5) 1
  (updOf s n).tasks.foldl (fun s t =>
    if slotMine (taskFirst s t) t x then failTask s n x t else s) s

/-- The units whose stacks hold blocks of an UPDATE take it (R291). A slot whose fetch failed while the command waited for its seal fails it
(R305); a unit that is out of service with its die, or whose stack is, can read none of its blocks, and the command ends (R308, R268). -/
def updEnter (s : State) (q : Nat) (seq : Word32) (raw : BitVec 1024) (step : Word32) (first count key : Nat) : State :=
  let g := groupOf raw
  let mine := (upto 0 32).filter fun n => (nextOwn g n first (first + count)).isSome
  let s := mine.foldl (fun s n =>
    let u := updOf s n
    let t : UpdTask := { q := q, seq := seq, step := step, group := raw, next := (nextOwn g n first (first + count)).getD 0, last := first + count, key := key }
    let s := setUpd s n { u with tasks := putTask t u.tasks }
    if !g.tier then s
    else ((stackOf s n).slots.filter fun x => decide (x.fetch = .failed) && slotFor g first count x).foldl (fun s x => failTask s n x t) s) s
  match mine.find? fun n => !unitServes s n with
  | none => s
  | some n => updFail s q seq (if dieServes s (n / 8) then .memAbsent else .dieLost)

/-- The oldest fetch under way of a stack fails (R305). -/
def failFetch (s : State) (n : Nat) : State :=
  let k := stackOf s n
  match k.slots.find? slotActive with
  | none => s
  | some x => fetchFailed (setStack s n { k with slots := modSlot slotActive (fun x => { x with fetch := .failed }) k.slots }) n x

/-- SLOW_FETCH_FAIL (R305): the oldest fetch under way fails: it has passed TIMEOUT, the host link is down, or the host answers it with poison
or an error or does not answer (R514), which this row's occurrence says. -/
def execSlowFetchFail (stack : BitVec 5) (s : State) : Out :=
  if unitServes s stack.toNat then .next (failFetch s stack.toNat) else .next s

/-- RELEASE_FAILED (R305): slots kept after failed fetches become FREE, their gradients lost. -/
def execReleaseFailed (stack : BitVec 5) (s : State) : Out :=
  let n := stack.toNat
  .next (setSlots s n ((stackOf s n).slots.filter fun x => decide (x.fetch ≠ .failed)))

end Sys2Proof.Machine
end

