-- ==== Sys2Proof/Machine/CollOps.lean ====
section
/-! DEFINITION. The ring, cumulus joins, the seal table and taint of collectives (spec/12, R389 to R419): the operations
that the commands of the fabric and of the queues share. The supplied program of a member is modelled by its receives and
sends in ring order (DEDUCED, log entry 20). -/
namespace Sys2Proof.Machine

/-! ## Shares and chunks (R391, R394) -/

/-- First element and length of share i of n elements among P (R163). -/
def shareStart (n P i : Nat) : Nat := i * (n / P) + min i (n % P)
def shareLen (n P i : Nat) : Nat := n / P + b01 (decide (i < n % P))

/-- Elements and number of the chunks of a share (R394). -/
def chunkElems (f : Fmt) : Nat := 16384 / (fmtBits f / 8)
def chunkCount (f : Fmt) (len : Nat) : Nat := (len + chunkElems f - 1) / chunkElems f

/-- Number of the first chunk of share i. -/
def firstChunk (f : Fmt) (n P i : Nat) : Nat :=
  let r := n % P
  min i r * chunkCount f (n / P + 1) + (i - min i r) * chunkCount f (n / P)

def Coll.size (cl : Coll) : Nat := cl.members.length
def Coll.tag (cl : Coll) : Half := cl.ref.extractLsb' 0 16

/-- The chunks of a share: chunk number, first element within the share, elements. -/
def shareChunks (cl : Coll) (i : Nat) : List (Nat × Nat × Nat) :=
  let len := shareLen cl.elems cl.size i
  (upto 0 (chunkCount cl.fmt len)).map fun k =>
    (firstChunk cl.fmt cl.elems cl.size i + k, k * chunkElems cl.fmt, min (chunkElems cl.fmt) (len - k * chunkElems cl.fmt))

/-! ## Tensors of members (R390, R391) -/

def memberTensor (raw : BitVec 1024) : Tensor := tensorOf none (parseDesc raw)

/-- Byte addresses of elements lo … lo + n − 1 of a tensor, in element order. -/
def elemSpans (t : Tensor) (lo n : Nat) : List (Nat × Nat) :=
  let b := fmtBits t.fmt / 8
  ((upto lo n).map fun k => (planeAddr t.d.base (offsetOf t.d (idxOfLinear (shape t.d) k) * (b : Int)), b))

/-- Read elements lo … lo + n − 1. -/
def readElems (s : State) (t : Tensor) (lo n : Nat) : Except Err (List Byte) :=
  match collect (fun (a : Nat × Nat) => memRead s t.d.space t.unit a.1 a.2) (elemSpans t lo n) with
  | .error e => .error e
  | .ok bs => .ok bs.flatten

/-- Elements read from device memory are corrected as they are read (R263). -/
def settleSpan (s : State) (t : Tensor) (lo n : Nat) : State :=
  if t.d.space = 2 then (elemSpans t lo n).foldl (fun s a => settle s t.d.space a.1 a.2) s else s

/-- Write elements from lo on. -/
def writeElems (s : State) (t : Tensor) (lo : Nat) (bs : List Byte) : Acc :=
  let b := fmtBits t.fmt / 8
  let addrs := (elemSpans t lo (bs.length / b)).flatMap fun a => upto a.1 a.2
  memWrites t.d.space t.unit (joinRuns (addrs.zip bs)) s

/-! ## Hops (R395, R396) -/

/-- A chunk on its way from a member to the next: phase 0 adds, phase 1 only moves; the source member of an ALL_TO_ALL,
the share and the chunk; whether the sender begins and the receiver ends the chain. -/
structure Hop where
  phase : Nat
  src   : Nat
  share : Nat
  chunk : Nat
  first : Bool
  final : Bool
deriving DecidableEq, Repr

def hopKey (h : Hop) : Nat := h.phase * 2 ^ 60 + h.src * 2 ^ 40 + h.chunk

def isReduction (op : Nat) : Bool := decide (op ≤ 1)
/-- Whether joins serve the collective; one of a single member has no chain (R393). -/
def claims (cl : Coll) : Bool := decide (cl.slots ≠ 0) && decide (cl.members.length ≠ 1)

/-- The hops of phase 0, of member m to the next. -/
def reduceHops (cl : Coll) (m : Nat) : List Hop :=
  let P := cl.size
  (upto 0 (P - 1)).flatMap fun t =>
    (shareChunks cl ((m + P - 1 - t) % P)).map fun c =>
      { phase := 0, src := 0, share := (m + P - 1 - t) % P, chunk := c.1, first := decide (t = 0), final := decide (t = P - 2) }

/-- The hops of an all-gather. -/
def gatherHops (cl : Coll) (m : Nat) : List Hop :=
  let P := cl.size
  (upto 0 (P - 1)).flatMap fun t =>
    (shareChunks cl ((m + P - t) % P)).map fun c =>
      { phase := 1, src := 0, share := (m + P - t) % P, chunk := c.1, first := decide (t = 0), final := decide (t = P - 2) }

/-- The hops of an all-to-all: what member i has for share j is relayed (j − i) mod P hops. -/
def allToAllHops (cl : Coll) (m : Nat) : List Hop :=
  let P := cl.size
  (upto 0 (P - 1)).flatMap fun t =>
    let i := (m + P - t) % P
    (upto (t + 1) (P - 1 - t)).flatMap fun d =>
      (shareChunks cl ((i + d) % P)).map fun c =>
        { phase := 1, src := i, share := (i + d) % P, chunk := c.1, first := decide (t = 0), final := decide (d = t + 1) }

/-- The hops of a broadcast. -/
def broadcastHops (cl : Coll) (m : Nat) : List Hop :=
  let P := cl.size
  if (m + 1) % P = cl.root then []
  else (upto 0 P).flatMap fun i => (shareChunks cl i).map fun c =>
    { phase := 1, src := 0, share := i, chunk := c.1, first := decide (m = cl.root), final := decide ((m + 2) % P = cl.root) }

/-- All hops of member m to the next, in the order in which it sends them (R395). -/
def hopsOut (cl : Coll) (m : Nat) : List Hop :=
  match cl.op with
  | 0 => reduceHops cl m ++ gatherHops cl m
  | 1 => reduceHops cl m
  | 2 => gatherHops cl m
  | 3 => allToAllHops cl m
  | _ => broadcastHops cl m

/-- The sends of member m as FCSENDs of its own: under a claim the joins take the place of phase 0 (R401). -/
def sendPlan (cl : Coll) (m : Nat) : List Hop :=
  if claims cl then (hopsOut cl m).filter fun h => decide (h.phase ≠ 0) else hopsOut cl m

/-- The receives of member m: under a claim only the sum of its own share in phase 0 (R401). -/
def recvPlan (cl : Coll) (m : Nat) : List Hop :=
  let inn := hopsOut cl ((m + cl.size - 1) % cl.size)
  if claims cl then
    ((shareChunks cl m).map fun c => { phase := 0, src := 0, share := m, chunk := c.1, first := false, final := true })
    ++ inn.filter fun h => decide (h.phase ≠ 0)
  else inn

/-- The elements of a chunk within its share. -/
def chunkRange (cl : Coll) (h : Hop) : Nat × Nat :=
  match (shareChunks cl h.share).find? fun c => decide (c.1 = h.chunk) with
  | some c => (c.2.1, c.2.2)
  | none => (0, 0)

def hopBytes (cl : Coll) (h : Hop) : Nat := (chunkRange cl h).2 * (fmtBits cl.fmt / 8)

/-! ## The collectives of the package -/

def collOf (s : State) (q : Nat) (seq : Word32) : Option Coll := s.coll.colls.find? fun c => decide (c.q = q) && decide (c.seq = seq)
def putColl (s : State) (cl : Coll) : State :=
  { s with coll := { s.coll with colls := s.coll.colls.map fun c => if c.q = cl.q ∧ c.seq = cl.seq then cl else c } }
def entryOf (s : State) (ref : Word64) : Option SealEntry := s.coll.entries.find? fun e => decide (e.ref = ref)
def modEntry (s : State) (ref : Word64) (f : SealEntry → SealEntry) : State :=
  { s with coll := { s.coll with entries := s.coll.entries.map fun e => if e.ref = ref then f e else e } }

def isLocal (s : State) (m : Member) : Bool := decide (m.node = ownNode s)
def memberAt (cl : Coll) (m : Nat) : Member := cl.members.getD m { node := 0, unit := 0 }
def modMember (cl : Coll) (m : Nat) (f : Member → Member) : Coll := { cl with members := cl.members.mapIdx fun i x => if i = m then f x else x }

/-- Indices of the package's own members. -/
def ownMembers (s : State) (cl : Coll) : List Nat := (upto 0 cl.size).filter fun i => isLocal s (memberAt cl i)

/-- The runs of the package (R401): first member and length, over the member list taken cyclically. -/
def runsOf (s : State) (cl : Coll) : List (Nat × Nat) :=
  let P := cl.size
  let loc (i : Nat) : Bool := isLocal s (memberAt cl (i % P))
  if (upto 0 P).all loc then [(0, P)]
  else ((upto 0 P).filter fun i => loc i && !loc (i + P - 1)).map fun f =>
    (f, ((upto 0 P).takeWhile fun k => loc (f + k)).length)

/-- Slots free for claims (R402, R405, R420). -/
def freeSlots (s : State) : Nat :=
  4096 - (s.coll.retired.length - 64) - (s.coll.colls.map (·.slots)).foldl (· + ·) 0

/-! ## Room in the seal table (R408) -/

/-- Whether an UPDATE waits on a reference. -/
def sealWaited (s : State) (ref : Word64) : Bool :=
  s.queues.any fun (x : Nat × Queue) => x.2.flight.any fun f =>
    decide (cmdKind f.cmd = 0x06) && !f.begun && !f.done && decide (cmdWord f.cmd 0x58 = ref)

/-- The references of collectives that started and have still to open their entry: their place is kept (DESIGN CHOICE, log entry 20). -/
def sealDue (s : State) : List Word64 :=
  s.queues.flatMap fun (x : Nat × Queue) => (x.2.flight.filter fun f => decide (cmdKind f.cmd = 0x05) && !f.begun && !f.done).map fun f => cmdWord f.cmd 0x48

/-- Entries in use, with the places that are kept. -/
def sealUsed (s : State) : Nat := s.coll.entries.length + ((sealDue s).filter fun r => (entryOf s r).isNone).length

/-- Whether an entry may be replaced. -/
def replaceable (s : State) (e : SealEntry) : Bool := decide (e.st ≠ .opened) && !sealWaited s e.ref && !(sealDue s).contains e.ref

/-- Places that a new reference can take, and whether a collective has one: its own, a free one, or that of an ended collective. -/
def sealFree (s : State) : Nat := 1024 - sealUsed s + (s.coll.entries.filter (replaceable s)).length
def sealRoom (s : State) (ref : Word64) : Bool := (entryOf s ref).isSome || decide (sealFree s ≠ 0)

/-- Make room in the seal table: the oldest entry that may be replaced goes when the table is full, and with it what the unit keeps of its
collective. -/
def sealEvict (s : State) (ref : Word64) : State :=
  if sealUsed s < 1024 ∨ (entryOf s ref).isSome ∨ (sealDue s).contains ref then s
  else match lowest (·.endNs) (s.coll.entries.filter (replaceable s)) with
    | none => s
    | some e =>
      let ended (c : Coll) : Bool := decide (c.ref = e.ref) && decide (c.slots = 0)
      { s with coll := { s.coll with entries := s.coll.entries.filter fun x => decide (x.ref ≠ e.ref), colls := s.coll.colls.filter fun c => !ended c } }

/-! ## Taint (R411 to R415) -/

/-- How the park queue names a member's request (R279): this number plus the command's queue, and its sequence number, the member, and
which of its accesses it is. -/
def collOrigin : Nat := 2 ^ 21
def memberOrder (cl : Coll) (m k : Nat) : Nat := cl.seq.toNat * 2 ^ 20 + m * 4 + k

/-- A member's access was made: nothing of it waits (R281). -/
def memberServed (s : State) (cl : Coll) (m k : Nat) : State := parkForget s fun o => decide (o = (collOrigin + cl.q, memberOrder cl m k))

/-- State and command status that a reason gives an entry (R411, R413); `own` says that the cause lies on this package. -/
def taintEffect (reason : Half) (own : Bool) : SealSt × Status :=
  if reason = statusCode .collTimeout then (.failed, .collTimeout)
  else if reason = statusCode .dieLost then (.failed, if own then .dieLost else .collMemberLost)
  else if reason = statusCode .cumUncorrectable then (.failed, .tainted)
  else (.tainted, .tainted)

/-- The 16 payload bytes of a TAINT (R412). -/
def taintPayload (ref : Word64) (chunk : Word32) (reason : Half) (attempt : Byte) : List Byte :=
  leBytes 8 ref.toNat ++ leBytes 4 chunk.toNat ++ leBytes 2 reason.toNat ++ [attempt, 0]

/-- A collective core is idle again, with the status that its program ended with. -/
def freeMemberCore (s : State) (m : Member) (st : Status) : State :=
  match physOf s m.unit.toNat with
  | none => s
  | some p =>
    let c := coreOf s p
    if c.inColl then setCore s p { c with inColl := false, phase := .idle, posted := [], outst := [], lastStatus := st, faulted := decide (st ≠ .success), ended := true }
    else s

/-- Every local member's program ends at its chunk boundary, posted receives are withdrawn and joins abandoned (R413); one whose cluster
clock is stopped ends once it runs again (R603). The programs end with the command's status (DESIGN CHOICE, log entry 20). -/
def stopMembers (s : State) (cl : Coll) (st : Status) : State :=
  let ends := (ownMembers s cl).filter fun i =>
    let u := (memberAt cl i).unit.toNat
    !(memberAt cl i).ended && (clusterRuns s (u / 64) || !dieServes s (u / 1024))
  let s := ends.foldl (fun s i =>
    let m := memberAt cl i
    let s := parkForget s fun o => decide (o.1 = collOrigin + cl.q) && decide (o.2 / 4 = memberOrder cl i 0 / 4)
    let s := match physOf s m.unit.toNat with
      | none => s
      | some p => if (coreOf s p).inColl then (coreOf s p).posted.foldl (fun s (x : Posted) =>
          sendWithdraw s m.unit.toNat x.node x.unit x.vc x.tag x.rxn .fabPeerWithdrawn) s else s
    freeMemberCore s m st) s
  let longest := ends.foldl (fun w i => max w (s.localNs - (memberAt cl i).sinceNs)) cl.waitNs
  putColl s { cl with joins := [], waitNs := longest, members := cl.members.mapIdx fun i m => if ends.contains i then { m with ended := true } else m }

/-- Whether the command of a collective still runs. -/
def collOpen (s : State) (cl : Coll) : Bool := (queueOf s cl.q).flight.any fun f => decide (f.cmd.seq = cl.seq) && !f.done

/-- The status of a collective whose entry is TAINTED or FAILED: its work is over once every local program has ended (R409). -/
def collFailed (s : State) (cl : Coll) (st : Status) : State :=
  let st := cl.failing.getD st
  let s := stopMembers s { cl with failing := some st } st
  match collOf s cl.q cl.seq with
  | none => s
  | some cl =>
    if (ownMembers s cl).all fun i => (memberAt cl i).ended then
      modFlight s cl.q cl.seq fun f => { f with done := true, status := if f.status = .success ∨ f.status = .shardNewer then st else f.status }
    else s

/-- Put a taint on the seal table, end the collective (R413), and keep the first taint (R420). A new entry takes the place of an old one; with
none that may go, none is made (DESIGN CHOICE, log entry 20). -/
def applyTaint (s : State) (ref : Word64) (attempt : Byte) (chunk : Word32) (reason : Half) (own : Bool) : State :=
  let (st, status) := taintEffect reason own
  let s := if rbit s .cumTaint1 63 then s else
    rset (rset s .cumTaint0 ref) .cumTaint1
      (BitVec.ofNat 64 (fields [(63, 1), (48, attempt.toNat), (32, reason.toNat), (0, chunk.toNat)]))
  let new : SealEntry := { ref := ref, attempt := attempt, st := st, reason := reason, status := status, openNs := s.localNs, endNs := s.localNs }
  let s : State := match entryOf s ref with
    | none =>
      let s := sealEvict s ref
      if sealUsed s < 1024 ∨ (sealDue s).contains ref then { s with coll := { s.coll with entries := s.coll.entries ++ [new] } } else s
    | some e => if e.st = .opened ∨ e.attempt.toNat < attempt.toNat then modEntry s ref fun e => { new with openNs := e.openNs } else s
  (s.coll.colls.filter fun c => decide (c.ref = ref) && decide (c.attempt.toNat ≤ attempt.toNat) && collOpen s c).foldl (fun s cl => collFailed s cl status) s

/-- A further cause of taint is counted (R411); no register shows the count (DESIGN CHOICE, log entry 20). -/
def furtherCause (s : State) : State := { s with coll := { s.coll with further := s.coll.further + 1 } }

/-- Send TAINT along broadcast tree 1, once for a reference and attempt (R411). -/
def sendTaint (s : State) (ref : Word64) (attempt : Byte) (chunk : Word32) (reason : Half) : State :=
  if s.coll.tainted.contains (ref, attempt) then furtherCause s
  else
    let s := { s with coll := { s.coll with tainted := s.coll.tainted ++ [(ref, attempt)] } }
    let s := rbump s (.cumCtr 4) 1
    sendPacket s { destNode := ownNode s, destUnit := 0xFFF, srcUnit := 0xFFF, vc := 7, ptype := ptTaint, last := true, bcast := true,
                   btree := 1, payload := taintPayload ref chunk reason attempt }

/-- A cause of R411 arises on this package. -/
def raiseTaint (s : State) (cl : Coll) (chunk : Word32) (reason : Status) : State :=
  match entryOf s cl.ref with
  | none => s
  | some e =>
    if e.attempt ≠ cl.attempt then s
    else if e.st ≠ .opened then furtherCause s
    else applyTaint (sendTaint s cl.ref cl.attempt chunk (statusCode reason)) cl.ref cl.attempt chunk (statusCode reason) true

def noChunk : Word32 := 0xFFFFFFFF

/-- A TAINT packet reaches the package (R413, R414). -/
def receiveTaint (s : State) (payload : List Byte) : State :=
  let v := leNat payload
  let ref := BitVec.ofNat 64 v
  let chunk := BitVec.ofNat 32 (nfld v 64 32)
  let reason := BitVec.ofNat 16 (nfld v 96 16)
  let attempt := BitVec.ofNat 8 (nfld v 112 8)
  let s := rbump s (.cumCtr 5) 1
  match entryOf s ref with
  | some e =>
    if attempt.toNat < e.attempt.toNat ∨ (attempt = e.attempt ∧ e.st = .sealedOk) then rbump s (.cumCtr 6) 1
    else applyTaint s ref attempt chunk reason false
  | none => applyTaint s ref attempt chunk reason false

/-! ## Data of members -/

def progress (cl : Coll) (s : State) : Coll := { cl with progressNs := s.localNs }

/-- A member reaches a chunk boundary: the time since its last one is what it waited for its predecessor or its successor (R416; DEDUCED, log
entry 11: the work itself takes no time here). -/
def boundary (s : State) (cl : Coll) (m : Nat) : Coll :=
  { modMember cl m (fun x => { x with sinceNs := s.localNs }) with waitNs := max cl.waitNs (s.localNs - (memberAt cl m).sinceNs) }

/-- Rounding of the adds (R397). -/
def collMode (cl : Coll) : RoundMode := match numCtrl cl.num with | some nc => nc.mode | none => .nearest

/-- Add two chunks element by element (R397): bytes, and outputs with the element's index in the tensor. -/
def addChunks (cl : Coll) (base : Nat) (a b : List Byte) : List Byte × List Output :=
  let f := cl.fmt
  let n := fmtBits f / 8
  let mode := collMode cl
  let rs := ((chunks n a.length a).zip (chunks n b.length b)).map fun (x, y) =>
    roundVal (scalarFmt f) (ctxOf (accMode mode))
      (vadd (decide (accMode mode = RoundMode.down)) (decodeScalar (scalarFmt f) (leNat x)) (decodeScalar (scalarFmt f) (leNat y))) false
  (rs.flatMap fun r => leBytes n (encodeScalar (scalarFmt f) r.1),
   rs.mapIdx fun i r => { val := r.1, ovf := r.2, cycle := i, lane := (laneDraw 0 256 i).1, elem := base + i, row := 0xFFFFFF })

/-- Elements that are stored as they came, with their places from `base` on (R69); their lanes are free (DESIGN CHOICE, log entry 13). -/
def movedOuts (f : Fmt) (base : Nat) (bs : List Byte) : List Output :=
  (chunks (fmtBits f / 8) bs.length bs).mapIdx fun i b =>
    { val := decodeScalar (scalarFmt f) (leNat b), ovf := false, cycle := i, lane := (laneDraw 0 256 i).1, elem := base + i, row := 0xFFFFFF }

def collNum (s : State) (cl : Coll) (core : Nat) (outs : List Output) (nonfiniteIn : Bool) : State :=
  modFlight s cl.q cl.seq fun f => { f with num := mergeUnits f.num (numBlockOf core outs 0 nonfiniteIn) }

def anyNonfinite (f : Fmt) (bs : List Byte) : Bool :=
  (chunks (fmtBits f / 8) bs.length bs).any fun b => !vIsFinite (decodeScalar (scalarFmt f) (leNat b))

/-- First element of a chunk within the whole tensor. -/
def chunkBase (cl : Coll) (h : Hop) : Nat := shareStart cl.elems cl.size h.share + (chunkRange cl h).1

/-- Whether a member's core works: the arithmetic clock of its cluster runs (R29, R494), and the core reaches the tensors that it uses (R20). -/
def memberRuns (s : State) (cl : Coll) (m : Nat) : Bool :=
  let x := memberAt cl m
  clusterRuns s (x.unit.toNat / 64)
    && reachesAll s (x.unit.toNat / 1024) kindMem (memberTensor x.dst :: if cl.op = 4 ∧ m ≠ cl.root then [] else [memberTensor x.src])

/-- The member's own source data of a chunk: SRC holds its share only in an ALL_GATHER (R391). -/
def sourceBase (cl : Coll) (h : Hop) : Nat := if cl.op = 2 then (chunkRange cl h).1 else chunkBase cl h
def sourceChunk (s : State) (cl : Coll) (m : Nat) (h : Hop) : Except Err (List Byte) :=
  readElems s (memberTensor (memberAt cl m).src) (sourceBase cl h) (chunkRange cl h).2
def sourceSettle (s : State) (cl : Coll) (m : Nat) (h : Hop) : State :=
  settleSpan s (memberTensor (memberAt cl m).src) (sourceBase cl h) (chunkRange cl h).2

/-- Write a chunk into the member's DST (R391): DST holds the own share only in a REDUCE_SCATTER; in an ALL_TO_ALL share i of
member j's source goes to share j, as far as share j reaches, and what share j has beyond it is free. -/
def writeChunk (s : State) (cl : Coll) (m : Nat) (h : Hop) (bs : List Byte) : Acc :=
  let t := memberTensor (memberAt cl m).dst
  let (off, n) := chunkRange cl h
  let b := fmtBits cl.fmt / 8
  match cl.op with
  | 1 => writeElems s t off bs
  | 3 =>
    let room := shareLen cl.elems cl.size h.src
    let own := shareLen cl.elems cl.size h.share
    let base := shareStart cl.elems cl.size h.src
    let (s1, e1) := writeElems s t (base + off) (bs.take ((min room (off + n) - off) * b))
    if off + n = own ∧ own < room then
      let (s2, e2) := writeElems (tickFree s1) t (base + own) ((List.replicate ((room - own) * b) (0 : Byte)).mapIdx fun i _ =>
        (freeWord s1).extractLsb' (8 * (i % 8)) 8)
      (s2, orErr e1 e2)
    else (s1, e1)
  | _ => writeElems s t (chunkBase cl h) bs

/-- A member's program fails (R411). -/
def memberFail (s : State) (cl : Coll) (e : Err) (chunk : Word32) : State :=
  raiseTaint (forCommand cl.q cl.seq s (reportErr s e)) cl chunk e.status

/-- A member's access could not be made: one that waits is made again, and stands in the park queue where it needs a holding slot (R279);
any other fails the member's program. `k` tells its accesses apart: 0 of a chunk taken, 1 of one sent, 2 of its own part, 3 for a join. -/
def memberErr (s : State) (cl : Coll) (m k : Nat) (e : Err) (chunk : Word32) : State :=
  if e.wait then (match e.park with | some a => parkWait s (collOrigin + cl.q) (memberOrder cl m k) a | none => s)
  else memberFail s cl e chunk

/-- HOLD_OVERRUN of a member's request (R281, R411): its program fails. -/
def memberOverrun (s : State) (q order : Nat) : State :=
  match collOf s q (BitVec.ofNat 32 (order / 2 ^ 20)) with
  | none => s
  | some cl =>
    let m := order % 2 ^ 20 / 4
    let chunk := match (recvPlan cl m)[(memberAt cl m).taken]? with | some h => BitVec.ofNat 32 h.chunk | none => noChunk
    raiseTaint s cl chunk .holdOverrun

/-- Send a chunk under a receive number (R365, R398); `join` marks the sum of a join. -/
def sendChunk (join : Bool) (s : State) (cl : Coll) (core : Nat) (node : Half) (unit : BitVec 12) (rxn : Half) (chunk : Nat) (cum : Bool)
    (bs : List Byte) : State :=
  (packetCuts bs).foldl (fun s (c : Nat × List Byte) =>
    (if join then sendSum else sendPacket) s {
                   destNode := node, destUnit := unit, srcUnit := BitVec.ofNat 12 core, vc := 2, ptype := ptChunk
                   last := decide (c.1 + 4096 ≥ bs.length), cum := cum, tag := cl.tag, rxn := rxn, addr := BitVec.ofNat 64 c.1,
                   aux := BitVec.ofNat 64 (chunk * 2 ^ 32 + crc32c bs), payload := c.2 }) s

/-- Post a receive of a member: its number, and a CTS to the sender unless a join sends the sum (R366, R401). -/
def postMember (s : State) (cl : Coll) (m : Nat) (h : Hop) (index : Nat) : State :=
  let me := memberAt cl m
  let prev := memberAt cl ((m + cl.size - 1) % cl.size)
  match physOf s me.unit.toNat with
  | none => s
  | some p =>
    let c := coreOf s p
    let joined := claims cl && decide (h.phase = 0)
    let post : Posted := { order := index, rxn := c.rxn, node := prev.node, unit := prev.unit, tag := cl.tag, vc := 2,
                           size := hopBytes cl h, chunk := some (BitVec.ofNat 32 h.chunk) }
    let s := setCore s p { c with rxn := c.rxn + 1, posted := c.posted ++ [post] }
    if joined then s
    else sendPacket s { destNode := prev.node, destUnit := prev.unit, srcUnit := me.unit, vc := 2, ptype := ptCts, tag := cl.tag,
                        rxn := c.rxn, aux := BitVec.ofNat 64 (hopBytes cl h) }

/-- A member posts receives while its window has room (R396). -/
def postAll (q : Nat) (seq : Word32) (m : Nat) : Nat → State → State
  | 0, s => s
  | fuel + 1, s =>
    match collOf s q seq with
    | none => s
    | some cl =>
      let me := memberAt cl m
      match (recvPlan cl m)[me.posted]? with
      | none => s
      | some h =>
        if me.posted ≥ me.taken + cl.width ∨ me.ended ∨ !memberRuns s cl m then s
        else
          let s := postMember s cl m h me.posted
          postAll q seq m fuel (putColl s (modMember cl m fun x => { x with posted := x.posted + 1 }))

/-- The first CTS of a core from an endpoint with a tag. -/
def ctsFrom (c : Core) (tag node : Half) (unit : BitVec 12) : Option HeldCts :=
  c.cts.find? fun x => decide (x.tag = tag) && decide (x.node = node) && decide (x.unit = unit)

/-- The FCSENDs of phase 0 whose chunks member m's joins emit to another node (R401), in order. -/
def emitPlan (s : State) (cl : Coll) (m : Nat) : List Hop :=
  if claims cl && !isLocal s (memberAt cl ((m + 1) % cl.size)) then (hopsOut cl m).filter fun h => decide (h.phase = 0) else []

/-- Those FCSENDs take their CTS in order (R366), each for the join of its chunk once that is open. -/
def bindCts (q : Nat) (seq : Word32) (m : Nat) : Nat → State → State
  | 0, s => s
  | fuel + 1, s =>
    match collOf s q seq with
    | none => s
    | some cl =>
      let me := memberAt cl m
      let next := memberAt cl ((m + 1) % cl.size)
      match (emitPlan s cl m)[me.bound]?, physOf s me.unit.toNat with
      | some h, some p =>
        let mine (j : Join) : Bool := decide (j.chunk = h.chunk) && decide (j.seg.getLast? = some m) && j.succ.isSome
        (match (ctsFrom (coreOf s p) cl.tag next.node next.unit).filter fun _ => cl.joins.any mine with
         | none => s
         | some x =>
           let c := coreOf s p
           let s := setCore s p { c with cts := dropFirst (fun y => decide (y = x)) c.cts }
           if x.size ≠ hopBytes cl h then
             raiseTaint (sendWithdraw s me.unit.toNat next.node next.unit 2 cl.tag x.rxn .fabSizeMismatch) cl (BitVec.ofNat 32 h.chunk) .fabSizeMismatch
           else
             let cl := modMember cl m fun y => { y with bound := y.bound + 1 }
             bindCts q seq m fuel (putColl s { cl with joins := cl.joins.map fun j => if mine j then { j with cts := some x } else j }))
      | _, _ => s

/-- A member sends the chunks whose data it has and whose CTS it holds, in order (R395, R396). -/
def sendAll (q : Nat) (seq : Word32) (m : Nat) : Nat → State → State
  | 0, s => s
  | fuel + 1, s =>
    match collOf s q seq with
    | none => s
    | some cl =>
      let me := memberAt cl m
      let next := memberAt cl ((m + 1) % cl.size)
      match (sendPlan cl m)[me.sent]?, physOf s me.unit.toNat with
      | some h, some p =>
        if me.ended || !memberRuns s cl m || decide (me.bound < (emitPlan s cl m).length) then s
        else match ctsFrom (coreOf s p) cl.tag next.node next.unit with
          | none => s
          | some x =>
            let src := h.first && !(decide (cl.op = 0) && decide (h.phase = 1))
            let data : Option (Except Err (List Byte)) :=
              if src then some (sourceChunk s cl m h)
              else (me.held.find? fun k => decide (k.1 = hopKey h)).map fun k => .ok k.2
            match data with
            | none => s
            | some (.error e) => memberErr s cl m 1 e (BitVec.ofNat 32 h.chunk)
            | some (.ok bs) =>
              let s := if src then collNum (sourceSettle s cl m h) cl me.unit.toNat [] (anyNonfinite cl.fmt bs) else s
              let c := coreOf s p
              let s := setCore s p { c with cts := dropFirst (fun y => decide (y = x)) c.cts }
              if x.size ≠ bs.length then
                raiseTaint (sendWithdraw s me.unit.toNat next.node next.unit 2 cl.tag x.rxn .fabSizeMismatch) cl
                  (BitVec.ofNat 32 h.chunk) .fabSizeMismatch
              else
                let s := sendChunk false (memberServed s cl m 1) cl me.unit.toNat next.node next.unit x.rxn h.chunk false bs
                let s := putColl s (modMember (boundary s cl m) m fun y =>
                  { y with sent := y.sent + 1, held := y.held.filter fun k => decide (k.1 ≠ hopKey h) })
                sendAll q seq m fuel s
      | _, _ => s

/-! ## Joins (R401, R402) -/

/-- The joins of a run in the order they open: lane 0 the segments that pass through or start in the run, lane 1 those that
end a chain which the run also starts. Each is a share with its segment, predecessor and successor. -/
def laneJoins (cl : Coll) (f L lane : Nat) : List (Nat × List Nat × Option Nat × Option Nat) :=
  let P := cl.size
  let l := f + L - 1
  if L = P then
    (if lane = 0 then (upto 0 P).map fun c => (c, (upto (c + 1) P).map (· % P), none, none) else [])
  else if lane = 0 then
    (upto 0 P).map fun t =>
      let c := (l + 2 * P - 1 - t) % P
      let succ := if c = l % P then none else some ((l + 1) % P)
      if t < L then (c, (upto (c + 1) (t + 1)).map (· % P), none, succ)
      else (c, (upto f L).map (· % P), some ((f + P - 1) % P), succ)
  else
    (upto 1 (L - 1)).map fun t =>
      let c := (l + P - t) % P
      (c, (upto f (L - t)).map (· % P), some ((f + P - 1) % P), none)

/-- The n-th chunk join of a lane. -/
def laneJoin (cl : Coll) (f L lane n : Nat) : Option (Nat × Nat × List Nat × Option Nat × Option Nat) :=
  ((laneJoins cl f L lane).flatMap fun (c, rest) => (shareChunks cl c).map fun k => (k.1, c, rest))[n]?

/-- Hop of a join's chunk. -/
def joinHop (j : Join) : Hop := { phase := 0, src := 0, share := j.share, chunk := j.chunk, first := false, final := false }

/-- A join opens: the segment's predecessor gets a CTS on behalf of its first member, and every member of the segment has its
contribution to send (R401). -/
def openJoin (s : State) (cl : Coll) (chunk share : Nat) (seg : List Nat) (pred succ : Option Nat) : State :=
  let j0 : Join := { chunk := chunk, share := share, seg := seg, pred := pred, succ := succ,
                     inputs := (seg ++ pred.toList).map (fun i => { from_ := i }), due := seg }
  let h := joinHop j0
  let first := memberAt cl (seg.headD 0)
  let zero := (List.replicate (chunkRange cl h).2 (vzero false))
  let (s, j) := match pred, physOf s first.unit.toNat with
    | some pi, some p =>
      let c := coreOf s p
      let pm := memberAt cl pi
      (sendPacket (setCore s p { c with rxn := c.rxn + 1 })
        { destNode := pm.node, destUnit := pm.unit, srcUnit := first.unit, vc := 2, ptype := ptCts, tag := cl.tag, rxn := c.rxn
          aux := BitVec.ofNat 64 (hopBytes cl h) }, { j0 with rxn := c.rxn, sum := zero })
    | _, _ => (s, { j0 with sum := zero })
  putColl s { cl with joins := cl.joins ++ [j] }

/-- The members of a join's segment send the contributions that they can read (R401). -/
def feedJoin (s : State) (q : Nat) (seq : Word32) (j : Join) : State :=
  j.due.foldl (fun s i =>
    match collOf s q seq with
    | none => s
    | some cl =>
      let me := memberAt cl i
      let next := memberAt cl ((i + 1) % cl.size)
      if !memberRuns s cl i || !(cl.joins.any fun k => decide (k.chunk = j.chunk) && k.due.contains i) then s
      else match sourceChunk s cl i (joinHop j) with
        | .error e => memberErr s cl i 3 e (BitVec.ofNat 32 j.chunk)
        | .ok bs =>
          let s := sendChunk false (memberServed (sourceSettle s cl i (joinHop j)) cl i 3) cl me.unit.toNat next.node next.unit 0 j.chunk true bs
          putColl s { boundary s cl i with joins := cl.joins.map fun k => if k.chunk = j.chunk then { k with due := k.due.filter fun x => decide (x ≠ i) } else k }) s

/-- What a member keeps of its own source goes into its destination (R391, R393): its own share in an ALL_GATHER and an ALL_TO_ALL, the
whole of ROOT's source in a BROADCAST, and everything in a collective of one member; from, to and count of the elements. -/
def ownPart (cl : Coll) (m : Nat) : Option (Nat × Nat × Nat) :=
  let x := memberAt cl m
  let own := shareLen cl.elems cl.size m
  let at_ := shareStart cl.elems cl.size m
  if x.src = x.dst ∨ cl.elems = 0 then none
  else if cl.size = 1 then some (0, 0, cl.elems)
  else match cl.op with
    | 2 => some (0, at_, own)
    | 3 => some (at_, at_, own)
    | 4 => if m = cl.root then some (0, 0, cl.elems) else none
    | _ => none

/-- Copy it; an access that waits is made again. -/
def ownCopy (s : State) (cl : Coll) (m : Nat) : State :=
  let x := memberAt cl m
  let done (s : State) : State := putColl s (modMember ((collOf s cl.q cl.seq).getD cl) m fun y => { y with copied := true })
  match ownPart cl m with
  | none => done s
  | some (a, b, n) =>
    if !memberRuns s cl m then s
    else
      match readElems s (memberTensor x.src) a n with
      | .error e => memberErr s cl m 2 e noChunk
      | .ok bs =>
        let (s1, e) := writeElems (settleSpan s (memberTensor x.src) a n) (memberTensor x.dst) b bs
        match e with
        | some e => memberErr (if e.wait then s else s1) cl m 2 e noChunk
        | none => done (collNum (memberServed s1 cl m 2) cl x.unit.toNat (movedOuts cl.fmt b bs) (anyNonfinite cl.fmt bs))

def laneOf (f lane : Nat) : Nat := 2 * f + lane

/-- Open joins while slots are free for them: W of each run's first lane, W of all second lanes together (R402). -/
def openJoins (q : Nat) (seq : Word32) (f L lane : Nat) : Nat → State → State
  | 0, s => s
  | fuel + 1, s =>
    match collOf s q seq with
    | none => s
    | some cl =>
      let n := ((cl.opened.find? fun x => decide (x.1 = laneOf f lane)).map (·.2)).getD 0
      match laneJoin cl f L lane n with
      | none => s
      | some (chunk, share, seg, pred, succ) =>
        let ends (j : Join) : Bool := j.pred.isSome && j.succ.isNone && !decide (j.seg.length = L)
        let inRun (j : Join) : Bool := j.seg.any fun i => decide ((i + cl.size - f) % cl.size < L)
        let used := (cl.joins.filter fun j => if lane = 1 then ends j else inRun j && !ends j).length
        let early := decide (lane = 1) && (laneJoin cl f L 0 (((cl.opened.find? fun x => decide (x.1 = laneOf f 0)).map (·.2)).getD 0)).isSome
        if used ≥ cl.width ∨ cl.joins.length ≥ cl.slots ∨ early then s
        else
          let cl' := { cl with opened := (laneOf f lane, n + 1) :: cl.opened.filter fun x => decide (x.1 ≠ laneOf f lane) }
          openJoins q seq f L lane fuel (openJoin (putColl s cl') cl' chunk share seg pred succ)

/-- All joins of the collective have opened and emitted. -/
def joinsDone (s : State) (cl : Coll) : Bool :=
  !claims cl || (cl.joins.isEmpty && (runsOf s cl).all fun (f, L) => (upto 0 2).all fun lane =>
    (laneJoin cl f L lane (((cl.opened.find? fun x => decide (x.1 = laneOf f lane)).map (·.2)).getD 0)).isNone)

/-! ## Progress, tokens and the seal (R406 to R409) -/

/-- Packages of the collective in the order of their first member (R406). -/
def packagesOf (cl : Coll) : List Half := (cl.members.map (·.node)).foldl (fun l n => if l.contains n then l else l ++ [n]) []

/-- Send a token to the next package (R406). -/
def sendToken (s : State) (cl : Coll) (isSeal : Bool) : State :=
  let ps := packagesOf cl
  let i := ((ps.mapIdx fun i n => (i, n)).find? fun x => decide (x.2 = ownNode s)).map (·.1)
  sendPacket s { destNode := ps.getD ((i.getD 0 + 1) % ps.length) 0, destUnit := 0xFFF, srcUnit := 0xFFF, vc := 1, ptype := ptChunk
                 last := true, tag := cl.tag, rxn := cl.attempt.setWidth 16 <<< 8, addr := cl.ref
                 aux := if isSeal then 0xFFFFFFFF00000000 else 0xFFFFFFFE00000000 }

/-- Whether the package is that of member 0. -/
def isFirst (s : State) (cl : Coll) : Bool := decide ((memberAt cl 0).node = ownNode s)

/-- Every consumer of the package has confirmed every chunk it consumes, and the members' programs have ended. -/
def allConfirmed (s : State) (cl : Coll) : Bool :=
  (ownMembers s cl).all (fun i => (memberAt cl i).ended && (memberAt cl i).copied) && joinsDone s cl

/-- The package is sealed (R406, R409): the command is done with SUCCESS or CUM_FALLBACK. -/
def sealPackage (s : State) (cl : Coll) : State :=
  match entryOf s cl.ref with
  | none => s
  | some e =>
    if e.st ≠ .opened ∨ e.attempt ≠ cl.attempt then s
    else
      let s := modEntry s cl.ref fun e => { e with st := .sealedOk, endNs := s.localNs }
      let s := rbump s (.cumCtr 7) 1
      modFlight s cl.q cl.seq fun f => { f with done := true, status := if cl.fallback then .cumFallback else f.status }

/-- What the package does once its own consumers have confirmed everything (R406): a lone package seals, the first sends
the confirm token, a later one that holds the token forwards it. -/
def confirmStep (s : State) (cl : Coll) : State :=
  if !allConfirmed s cl || cl.confirmSent then s
  else if (packagesOf cl).length ≤ 1 then sealPackage (putColl s { cl with confirmSent := true, passEnded := true }) cl
  else if isFirst s cl || cl.confirmAt then
    sendToken (putColl s { cl with confirmSent := true, tokenNs := s.localNs }) cl false
  else s

/-- A member whose receives and sends are all done ends its program. -/
def endMembers (s : State) (cl : Coll) : State :=
  let done (m : Nat) (x : Member) : Bool :=
    !x.ended && x.copied && decide (x.taken ≥ (recvPlan cl m).length) && decide (x.sent ≥ (sendPlan cl m).length) && joinsDone s cl
  let s := (ownMembers s cl).foldl (fun s i => if done i (memberAt cl i) then freeMemberCore s (memberAt cl i) .success else s) s
  putColl s { cl with members := cl.members.mapIdx fun i m => if done i m && isLocal s m then { m with ended := true } else m }

/-- Everything that a collective can do now: post, send, open joins, end members, confirm; a failed one ends the members that can end. -/
def collAdvance (s : State) (q : Nat) (seq : Word32) : State :=
  match collOf s q seq with
  | none => s
  | some cl =>
    match entryOf s cl.ref with
    | none => s
    | some e =>
      if cl.failing.isSome then (if collOpen s cl then collFailed s cl .tainted else s)
      else if e.st ≠ .opened ∨ e.attempt ≠ cl.attempt then s
      else
        let s := (ownMembers s cl).foldl (fun s m =>
          match collOf s q seq with | some cl => if (memberAt cl m).copied then s else ownCopy s cl m | none => s) s
        let s := (ownMembers s cl).foldl (fun s m => sendAll q seq m 64 (postAll q seq m 16 s)) s
        let s := if claims cl then (runsOf s cl).foldl (fun s (x : Nat × Nat) =>
          openJoins q seq x.1 x.2 1 16 (openJoins q seq x.1 x.2 0 16 s)) s else s
        let s := if claims cl then (ownMembers s cl).foldl (fun s m => bindCts q seq m 64 s) s else s
        let s := match collOf s q seq with | some cl => cl.joins.foldl (fun s j => feedJoin s q seq j) s | none => s
        match collOf s q seq with
        | none => s
        | some cl =>
          let s := endMembers s cl
          match collOf s q seq with
          | none => s
          | some cl => confirmStep s cl

/-! ## Receiving (R399, R401) -/

/-- The collective and member whose core it is. -/
def memberOfCore (s : State) (core : Nat) : Option (Coll × Nat) :=
  s.coll.colls.findSome? fun cl =>
    ((ownMembers s cl).find? fun i => decide ((memberAt cl i).unit.toNat = core) && !(memberAt cl i).ended).map fun i => (cl, i)

/-- Whether the packets of a chunk agree with its check (R399). -/
def chunkGood (aux : List Word64) (chunk : Nat) (data : List Byte) : Bool :=
  match aux with
  | [a] => decide (a.toNat / 2 ^ 32 = chunk) && decide (a.toNat % 2 ^ 32 = crc32c data)
  | _ => false

/-- First element in DST of a chunk that a member stores (R391). -/
def storeBase (cl : Coll) (h : Hop) : Nat := if cl.op = 3 then shareStart cl.elems cl.size h.src + (chunkRange cl h).1 else chunkBase cl h

/-- A member takes a checked chunk (R397, R401): adds its own source in phase 0, stores what ends at it, and holds what it
sends on. Where an access waits the chunk is not taken: `s0` is left, and its check is made again. -/
def memberTake (s0 s : State) (cl : Coll) (m : Nat) (h : Hop) (bs : List Byte) : State :=
  let me := memberAt cl m
  if !memberRuns s cl m then s0
  else
  let adds := decide (h.phase = 0) && !claims cl
  let stores := if h.phase = 0 then h.final else if cl.op = 3 then h.final else true
  let sum : Except Err (List Byte × List Output × Bool) :=
    if adds then (match sourceChunk s cl m h with
      | .error e => .error e
      | .ok own => let (d, outs) := addChunks cl (chunkBase cl h) bs own; .ok (d, outs, anyNonfinite cl.fmt own || anyNonfinite cl.fmt bs))
    else
      let kept := if cl.op = 3 then bs.take ((shareLen cl.elems cl.size h.src - (chunkRange cl h).1) * (fmtBits cl.fmt / 8)) else bs
      .ok (bs, (if stores then movedOuts cl.fmt (storeBase cl h) kept else []), anyNonfinite cl.fmt bs)
  match sum with
  | .error e => memberErr (if e.wait then s0 else s) cl m 0 e (BitVec.ofNat 32 h.chunk)
  | .ok (data, outs, bad) =>
    let s := if adds then sourceSettle s cl m h else s
    let (s, e) := if stores then writeChunk s cl m h data else (s, none)
    match e with
    | some e => memberErr (if e.wait then s0 else s) cl m 0 e (BitVec.ofNat 32 h.chunk)
    | none =>
      let s := collNum (memberServed s cl m 0) cl me.unit.toNat outs bad
      let next : Option Hop := (sendPlan cl m).find? fun g => decide (hopKey g = hopKey { h with phase := if h.phase = 0 ∧ h.final then 1 else h.phase })
      let held := match next with
        | some g => me.held ++ [(hopKey g, data)]
        | none => me.held
      let cl := progress (modMember (boundary s cl m) m fun x => { x with taken := x.taken + 1, held := held }) s
      collAdvance (putColl s { cl with checked := cl.checked + 1 }) cl.q cl.seq

/-- Feed a packet into the input of a join that it belongs to, if any (R401). -/
def joinFeed (s : State) (cl : Coll) (pk : Packet) : Option State :=
  let chunk := pk.aux.toNat / 2 ^ 32
  let own := decide (pk.srcNode = ownNode s)
  let inputFor (j : Join) : Option JoinIn :=
    if own && pk.cum && decide (j.chunk = chunk) then
      j.inputs.find? fun x => j.seg.contains x.from_ && decide ((memberAt cl x.from_).unit = pk.srcUnit) && !x.added
    else if !own then
      match j.pred with
      | some pi => if j.rxn = pk.rxn ∧ (memberAt cl (j.seg.headD 0)).unit = pk.destUnit ∧ (memberAt cl pi).node = pk.srcNode
                     then j.inputs.find? fun x => decide (x.from_ = pi) else none
      | none => none
    else none
  match cl.joins.find? fun j => (inputFor j).isSome with
  | none => none
  | some j =>
    match inputFor j with
    | none => none
    | some x =>
      let x' : JoinIn := { x with got := x.got + pk.payload.length, data := mwrite x.data pk.addr.toNat pk.payload
                                  auxSeen := if x.auxSeen.contains pk.aux then x.auxSeen else x.auxSeen ++ [pk.aux] }
      let j' := { j with inputs := j.inputs.map fun y => if y.from_ = x.from_ then x' else y }
      some (putColl s { cl with joins := cl.joins.map fun k => if k = j then j' else k })

/-- Complete inputs of joins that wait for their check. -/
def joinChecks (s : State) : List (Coll × Join × JoinIn) :=
  s.coll.colls.flatMap fun cl => cl.joins.flatMap fun j =>
    (j.inputs.filter fun x => !x.added && decide (x.got ≥ hopBytes cl (joinHop j))).map fun x => (cl, j, x)

/-- Check an input of a join and add it (R397, R399, R401). -/
def joinCheck (s : State) (cl : Coll) (j : Join) (x : JoinIn) : State :=
  let h := joinHop j
  let bs := mread x.data 0 (hopBytes cl h)
  if !chunkGood x.auxSeen j.chunk bs then raiseTaint s cl (BitVec.ofNat 32 j.chunk) .collCrcBad
  else
    let n := fmtBits cl.fmt / 8
    let mode := collMode cl
    let rs := ((chunks n bs.length bs).zip j.sum).map fun (b, a) =>
      roundVal (scalarFmt cl.fmt) (ctxOf (accMode mode)) (vadd (decide (accMode mode = RoundMode.down)) a (decodeScalar (scalarFmt cl.fmt) (leNat b))) false
    let outs : List Output := rs.mapIdx fun i r => { val := r.1, ovf := r.2, cycle := i, lane := 0, elem := chunkBase cl h + i, row := 0xFFFFFF }
    let j' := { j with sum := rs.map (·.1), inputs := j.inputs.map fun y => if y.from_ = x.from_ then { y with added := true, data := [] } else y }
    let s := rbump s (.cumCtr 2) bs.length
    let s := collNum s cl 0xFFF outs (anyNonfinite cl.fmt bs)
    putColl s (progress { cl with checked := cl.checked + 1, joins := cl.joins.map fun k => if k = j then j' else k } s)

/-- Joins whose inputs are all added. -/
def joinsReady (s : State) : List (Coll × Join) :=
  s.coll.colls.flatMap fun cl => (cl.joins.filter fun j => j.inputs.all (·.added)).map fun j => (cl, j)

/-- Emit the sum of a join (R401): to the successor under the CTS that the FCSEND of the segment's last member holds, or to the owner's
posted receive. -/
def joinEmit (s : State) (cl : Coll) (j : Join) : State :=
  let last := memberAt cl (j.seg.getLastD 0)
  let n := fmtBits cl.fmt / 8
  let bs := j.sum.flatMap fun v => leBytes n (encodeScalar (scalarFmt cl.fmt) v)
  match physOf s last.unit.toNat with
  | none => s
  | some p =>
    let fin (s : State) : State :=
      collAdvance (putColl (rbump s (.cumCtr 3) 1) (progress { cl with joins := dropFirst (fun k => decide (k = j)) cl.joins } s)) cl.q cl.seq
    match j.succ with
    | some si =>
      let next := memberAt cl si
      (match j.cts with
       | none => s
       | some x => fin (sendChunk true s cl last.unit.toNat next.node next.unit x.rxn j.chunk false bs))
    | none =>
      match (coreOf s p).posted.find? fun x => decide (x.chunk = some (BitVec.ofNat 32 j.chunk)) && decide (x.tag = cl.tag) && decide (x.got = 0) with
      | none => s
      | some x => fin (sendChunk true s cl last.unit.toNat (ownNode s) last.unit x.rxn j.chunk false bs)

end Sys2Proof.Machine
end

