-- ==== Sys2Proof/Machine/Flits.lean ====
section
/-! DEFINITION. Flits as bytes (spec/11, R357, R358) and their striping over the lanes of a port (R352). -/
namespace Sys2Proof.Machine

/-- CRC-64 of bytes (R357): the ECMA-182 polynomial, reflected; initial value and final xor all ones. -/
def crc64 (bs : List Byte) : Nat := crcBytes 0xC96C5795D7870F42 bs 0xFFFFFFFFFFFFFFFF ^^^ 0xFFFFFFFFFFFFFFFF

/-- The slot map entry of an empty slot (R358). -/
def emptySlot : Nat := 0x1F

/-- The slot map entry of a slot (R358): VC, class, START. The START slot of a VC7 class-1 packet spells the empty entry. -/
def slotEntry (x : Slot) : Nat := fields [(0, x.vc.toNat), (3, x.cls.toNat), (4, b01 x.start)]

/-- A flit's bytes below its CRC (R357). -/
def flitBody (f : Flit) : List Byte :=
  leBytes 8 (fields [(0, f.fseq.toNat), (12, f.ackSeq.toNat), (24, b01 f.nak), (25, f.kind.toNat)])
  ++ (upto 0 8).flatMap (fun v => leBytes 1 (let c := f.creds.getD v (0, 0); fields [(0, c.1.toNat), (7, c.2.toNat)]))
  ++ leBytes 16 (fields ((upto 0 15).map fun i => (5 * i, match f.slots[i]? with | some x => slotEntry x | none => emptySlot)))
  ++ (upto 0 15).flatMap (fun i => leBytes 16 (match f.slots[i]? with | some x => x.data.toNat | none => 0))
  ++ leBytes 8 f.aux.toNat

/-- The 288 bytes of a flit (R357). -/
def flitBytes (f : Flit) : List Byte := flitBody f ++ leBytes 8 (crc64 (flitBody f))

/-- The slot at a place of a flit's bytes, none where the map says that it is empty (R358). -/
def flitSlot (bs : List Byte) (i : Nat) : Option Slot :=
  let e := nfld (leNat ((bs.drop 16).take 16)) (5 * i) 5
  if e = emptySlot then none
  else some { vc := BitVec.ofNat 3 (nfld e 0 3), cls := BitVec.ofNat 1 (nfld e 3 1), start := nbit e 4
              data := BitVec.ofNat 128 (leNat ((bs.drop (32 + 16 * i)).take 16)) }

/-- The flit that 288 bytes hold, if their CRC is good (R357, R358). -/
def parseFlit (bs : List Byte) : Option Flit :=
  if bs.length = 288 ∧ leNat (bs.drop 280) = crc64 (bs.take 280) then
    let w0 := leNat (bs.take 8)
    some { fseq := BitVec.ofNat 12 (nfld w0 0 12), ackSeq := BitVec.ofNat 12 (nfld w0 12 12), nak := nbit w0 24
           kind := BitVec.ofNat 3 (nfld w0 25 3)
           creds := ((bs.drop 8).take 8).map fun b => (b.extractLsb' 0 7, b.extractLsb' 7 1)
           slots := (upto 0 15).filterMap (flitSlot bs)
           aux := BitVec.ofNat 64 (leNat ((bs.drop 272).take 8)) }
  else none

/-- The bytes of a flit that each of w lanes carries, in logical lane order (R352). -/
def stripe (w : Nat) (bs : List Byte) : List (List Byte) :=
  (upto 0 w).map fun j => (upto 0 (288 / w)).map fun i => bs.getD (w * i + j) 0

/-- The bytes of a flit from those of its lanes in logical order, where every lane carried its share (R352). -/
def unstripe (ls : List (List Byte)) : List Byte :=
  let w := ls.length
  if ls.all fun l => decide (l.length = 288 / w) then
    (upto 0 288).filterMap fun i => (ls[i % w]?).bind fun l => l[i / w]?
  else []

end Sys2Proof.Machine
end

