-- ==== Sys2Proof/Machine/FabPorts.lean ====
section
/-! DEFINITION. The fabric ports (spec/11, R349 to R362, R381): training, lane sparing, flits, credits, link retry, and the
arbitration of an output. -/
namespace Sys2Proof.Machine

def portOf (s : State) (p : Nat) : Port := tget (fun _ => {}) s.fab.ports p
def setPort (s : State) (p : Nat) (k : Port) : State := { s with fab := { s.fab with ports := tset (fun _ => {}) s.fab.ports p k } }

/-- Whether a port may be chosen as an output (R373). -/
def portUsable (k : Port) : Bool := decide (k.st = .active) || decide (k.st = .recovery)

/-! ## Lanes and width (R354 to R356) -/

def countBits (b : BitVec 10) : Nat := ((upto 0 10).filter fun i => b.getLsbD i).length
def goodRx (k : Port) : Nat := 10 - countBits k.rxFailed
def goodTx (k : Port) : Nat := 10 - countBits k.txFailed

/-- The width that the good lanes of the weaker direction allow (R356); 0 below x2. -/
def widthFor (good : Nat) : Nat := if good ≥ 8 then 8 else if good ≥ 4 then 4 else if good ≥ 2 then 2 else 0
def portWidth (k : Port) : Nat := widthFor (min (goodRx k) (goodTx k))

/-- The physical lanes of a direction in logical order; a receiver corrects a reversed order (R354). -/
def laneOrder (rev : Bool) : List Nat := if rev then (upto 0 10).reverse else upto 0 10

/-- The first good lanes, as many as the width (R354, R356). -/
def laneMap (rev : Bool) (failed : BitVec 10) (w : Nat) : List Nat := ((laneOrder rev).filter fun i => !failed.getLsbD i).take w

/-- A lane map with a failed lane replaced by the first good unused one (R356). -/
def laneReplace (rev : Bool) (failed : BitVec 10) (l : Nat) (m : List Nat) : List Nat :=
  match (laneOrder rev).find? fun i => !failed.getLsbD i && !m.contains i with
  | some i => m.map fun x => if x = l then i else x
  | none => m

/-- Lane failures in the numbering of the peer's transmitter, which a reversed order turns round (R354). -/
def peerLanes (rev : Bool) (failed : BitVec 10) : BitVec 10 :=
  if rev then (upto 0 10).foldl (fun b i => if failed.getLsbD i then b ||| (1#10 <<< (9 - i)) else b) 0 else failed

/-- LINK_AUX of a port (R355, R356): [9:0] the receive lanes that have failed; with a swap, [10] and its agreed FSEQ in [22:11]
(DESIGN CHOICE, log entry 46). -/
def linkAux (k : Port) (swap : Option (BitVec 12)) : Word64 :=
  BitVec.ofNat 64 (fields ((0, (peerLanes k.rev k.rxFailed).toNat) :: match swap with | some q => [(10, 1), (11, q.toNat)] | none => []))

/-- Class-0 slots of a VC that the port's own allocation gives (R385). -/
def allocOf (s : State) (p v : Nat) : Nat := if v < 4 then rfld s (.fabPortAlloc0 p) (16 * v) 16 else rfld s (.fabPortAlloc1 p) (16 * (v - 4)) 16

/-- The buffer that a peer's allocation gives: its slots in class 0, 64 a VC in class 1 (R360). -/
def creditsFrom (alloc : List Half) : Table Nat :=
  (upto 0 8).foldl (fun t v => tset (fun _ => 0) (tset (fun _ => 0) t v (alloc.getD v 0).toNat) (v + 8) 64) []

/-- The credits held for a VC and class (R360). -/
def creditOf (k : Port) (key : Nat) : Nat := tget (fun _ => 0) k.allocs key - tget (fun _ => 0) k.used key

/-- What a port tells its peer (R354, R385). -/
def tellPeer (s : State) (p : Nat) (k : Port) : Port :=
  { k with told := some { node := BitVec.ofNat 16 (rfld s .fabNodeId 0 16), port := p, alloc := (upto 0 8).map (allocOf s p) } }

/-- The replay buffer and the partial packets of the input buffer go (R362). -/
def portDrop (k : Port) : Port := { k with replay := [], partials := [], orphan := [], nakSeen := false, resends := 0, nakSent := false }

/-- A port enters TRAINING (R353). -/
def enterTraining (s : State) (p : Nat) : State :=
  setPort s p (tellPeer s p { portDrop (portOf s p) with st := .training, sinceNs := s.localNs, width := 0, swapDue := [], curNs := [] })

/-- A port enters RECOVERY (R353): flits held, the replay buffer kept. -/
def enterRecovery (s : State) (p : Nat) : State :=
  rbump (setPort s p (tellPeer s p { portOf s p with st := .recovery, sinceNs := s.localNs, resends := 0, curNs := [] })) (.fabPortCtr p 7) 1

/-! ## Sending (R357 to R361, R381) -/

/-- The 16-byte slots of a packet (R363): header and payload. -/
def packetSlots (pk : Packet) : List Slot :=
  let pad := (16 - pk.payload.length % 16) % 16
  let w0 := fields [(0, pk.destNode.toNat), (16, pk.srcNode.toNat), (32, pk.destUnit.toNat), (44, pk.srcUnit.toNat),
                    (56, pk.hops.toNat), (60, pk.cls.toNat), (61, pk.vc.toNat)]
  let w1 := fields [(0, pk.ptype.toNat), (8, payloadSlots pk), (17, b01 pk.last), (18, b01 pk.cum), (19, b01 pk.bcast),
                    (20, pk.btree.toNat), (22, pad), (32, pk.tag.toNat), (48, pk.rxn.toNat)]
  let mk (start : Bool) (d : Nat) : Slot := { vc := pk.vc, cls := pk.cls, start := start, data := BitVec.ofNat 128 d }
  [mk true (w0 + w1 * 2 ^ 64), mk false (pk.addr.toNat + pk.aux.toNat * 2 ^ 64)]
  ++ (chunks 16 pk.payload.length pk.payload).map fun b => mk false (leNat b)

/-- The packet that a whole list of slots holds (R363), with the slots it should have. -/
def slotLen (header : Slot) : Nat := 2 + (header.data.extractLsb' 72 9).toNat

def packetFrom (ss : List Slot) : Packet :=
  let h0 := (ss.headD { vc := 0, cls := 0, start := false, data := 0 }).data
  let h1 := ((ss.drop 1).headD { vc := 0, cls := 0, start := false, data := 0 }).data
  let bytes := (ss.drop 2).flatMap fun x => leBytes 16 x.data.toNat
  { destNode := h0.extractLsb' 0 16, srcNode := h0.extractLsb' 16 16, destUnit := h0.extractLsb' 32 12
    srcUnit := h0.extractLsb' 44 12, hops := h0.extractLsb' 56 4, cls := h0.extractLsb' 60 1, vc := h0.extractLsb' 61 3
    ptype := h0.extractLsb' 64 8, last := h0.getLsbD 81, cum := h0.getLsbD 82, bcast := h0.getLsbD 83
    btree := h0.extractLsb' 84 2, tag := h0.extractLsb' 96 16, rxn := h0.extractLsb' 112 16
    addr := h1.extractLsb' 0 64, aux := h1.extractLsb' 64 64
    payload := bytes.take (bytes.length - (h0.extractLsb' 86 4).toNat) }

def keyOf (vc : BitVec 3) (cls : BitVec 1) : Nat := vc.toNat + 8 * cls.toNat

/-- The packet that an output sends next on a VC and class: the inputs take turns (R381). -/
def nextPacket (k : Port) (key : Nat) : Option OutPkt :=
  let mine := k.outq.filter fun o => decide (keyOf o.pkt.vc o.pkt.cls = key)
  let last := tget (fun _ => 29) k.lastIn key
  let dist (o : OutPkt) : Nat := (o.inp + 30 - last - 1) % 30
  lowest dist mine

/-- Load the next packet of a VC and class when none is being sent and a credit is there; the packets loaded leave their input
buffers. -/
def loadKey (x : List OutPkt × Port) (key : Nat) : List OutPkt × Port :=
  let k := x.2
  if (tget (fun _ => []) k.cur key).isEmpty && decide (creditOf k key > 0) then
    match nextPacket k key with
    | none => x
    | some o => (x.1 ++ [o], { k with cur := tset (fun _ => []) k.cur key (packetSlots o.pkt), outq := dropFirst (fun x => decide (x = o)) k.outq
                                      lastIn := tset (fun _ => 29) k.lastIn key o.inp })
  else x

/-- Whether a slot of a VC and class is ready with credit. -/
def keyReady (k : Port) (key : Nat) : Bool := !(tget (fun _ => []) k.cur key).isEmpty && decide (creditOf k key > 0)

/-- The class of a VC that sends: class 0 first. -/
def readyKey (k : Port) (v : Nat) : Option Nat := if keyReady k v then some v else if keyReady k (v + 8) then some (v + 8) else none

/-- The VC that takes the next slot (R381): VC7 first, then VC0 to VC6 by deficit round robin. -/
def pickVc (weight : Nat → Nat) : Nat → Port → Option Nat × Port
  | 0, k => (none, k)
  | fuel + 1, k =>
    match readyKey k 7 with
    | some key => (some key, k)
    | none =>
      match readyKey k k.rr with
      | some key =>
        let d := tget (fun _ => 0) k.deficit k.rr
        if d > 0 then (some key, { k with deficit := tset (fun _ => 0) k.deficit k.rr (d - 1) })
        else
          -- the round of this VC is over: the next VC gains its weight
          let r := (k.rr + 1) % 7
          pickVc weight fuel { k with rr := r, deficit := tset (fun _ => 0) k.deficit r (if (readyKey k r).isSome then max 1 (weight r) else 0) }
      | none =>
        let r := (k.rr + 1) % 7
        pickVc weight fuel { k with rr := r, deficit := tset (fun _ => 0) (tset (fun _ => 0) k.deficit k.rr 0) r
                                      (if (readyKey k r).isSome then max 1 (weight r) else 0) }

/-- Fill up to n slots of a flit: the slots, the packets loaded for them, the port after. -/
def fillSlots (weight : Nat → Nat) : Nat → Port → List Slot × List OutPkt × Port
  | 0, k => ([], [], k)
  | n + 1, k =>
    let (ld, k) := (upto 0 16).foldl loadKey ([], k)
    match pickVc weight 16 k with
    | (none, k) => ([], ld, k)
    | (some key, k) =>
      match tget (fun _ => []) k.cur key with
      | [] => ([], ld, k)
      | x :: rest =>
        let k := { k with cur := tset (fun _ => []) k.cur key rest
                          used := tset (fun _ => 0) k.used key (tget (fun _ => 0) k.used key + 1)
                          curNs := tset (fun _ => 0) k.curNs key 0 }
        let (xs, ld', k) := fillSlots weight n k
        (x :: xs, ld ++ ld', k)

/-- The credits that the next flit returns: up to 127 slots a VC, class 0 before class 1 (R357). -/
def takeCredits (k : Port) : List (BitVec 7 × BitVec 1) × Port :=
  (upto 0 8).foldl (fun (acc : List (BitVec 7 × BitVec 1) × Port) v =>
    let c0 := tget (fun _ => 0) acc.2.owed v
    let key := if c0 > 0 then v else v + 8
    let n := min 127 (tget (fun _ => 0) acc.2.owed key)
    (acc.1 ++ [(BitVec.ofNat 7 n, if key ≥ 8 then 1 else 0)],
     { acc.2 with owed := tset (fun _ => 0) acc.2.owed key (tget (fun _ => 0) acc.2.owed key - n) })) ([], k)

/-- A flit's bytes on the physical transmit lanes of its port (R352). -/
def laneBytes (k : Port) (f : Flit) : List (Nat × List Byte) := k.txLanes.zip (stripe k.txLanes.length (flitBytes f))

/-- A flit on the wire: the outbox of the package (DESIGN CHOICE, log entry 12). -/
def putWire (s : State) (p : Nat) (f : Flit) : State :=
  { s with fab := { s.fab with wire := s.fab.wire ++ [(p, laneBytes (portOf s p) f)] } }

/-- An idle flit with credits, acknowledgement and LINK_AUX (R359). -/
def sendIdle (s : State) (p : Nat) (nak : Bool) (swap : Option (BitVec 12)) : State :=
  let (cr, k) := takeCredits (portOf s p)
  putWire (setPort s p k) p { fseq := k.txSeq, ackSeq := k.rxNext - 1, nak := nak, creds := cr, aux := linkAux k swap }

/-- Credits that no data flit carries go back by idle flits (R359, R360); more than 127 slots of a VC take several. -/
def returnCredits (p : Nat) : Nat → State → State
  | 0, s => s
  | fuel + 1, s =>
    let k := portOf s p
    if k.st = .active ∧ !k.owed.isEmpty then returnCredits p fuel (sendIdle s p false none) else s

/-- Slots leave a port's input buffer: they are owed to the peer again (R360). -/
def oweSlots (s : State) (p key n : Nat) : State :=
  let k := portOf s p
  returnCredits p 128 (setPort s p { k with owed := tset (fun _ => 0) k.owed key (tget (fun _ => 0) k.owed key + n) })

/-- A packet that a fabric port's buffer held until it was loaded leaves it (R360). -/
def leaveHeld (s : State) (o : OutPkt) : State :=
  if o.held ∧ o.inp < 24 then oweSlots s o.inp (keyOf o.pkt.vc o.inCls) (2 + payloadSlots o.pkt) else s

/-- Send data flits while slots, credits and the replay buffer allow (R360, R361). -/
def sendFlits (p : Nat) : Nat → State → State
  | 0, s => s
  | fuel + 1, s =>
    let k := portOf s p
    if k.st ≠ .active ∨ k.replay.length ≥ 512 then s
    else
      let (xs, ld, k') := fillSlots (fun v => rfld s (.fabPortWeight p) (8 * v) 8) 15 k
      if xs.isEmpty then setPort s p k'
      else
        let (cr, k') := takeCredits k'
        let f : Flit := { fseq := k'.txSeq, ackSeq := k'.rxNext - 1, kind := 0, creds := cr, slots := xs, aux := linkAux k' none }
        let k' := { k' with txSeq := k'.txSeq + 1, replay := k'.replay ++ [f], ackNs := (if k'.replay.isEmpty then s.localNs else k'.ackNs) }
        sendFlits p fuel (ld.foldl leaveHeld (rbump (putWire (setPort s p k') p f) (.fabPortCtr p 0) 1))

/-- Whether the next slot of a VC and class of an ACTIVE port waits for a credit (R375). -/
def waitsCredit (k : Port) (key : Nat) : Bool :=
  decide (k.st = .active) && decide (creditOf k key = 0) && (!(tget (fun _ => []) k.cur key).isEmpty || (nextPacket k key).isSome)

/-- The waits for credits of a port that begin now, and those that are over (R375). -/
def noteWaits (s : State) (p : Nat) : State :=
  let k := portOf s p
  let at_ (t : Table Nat) (key : Nat) : Table Nat :=
    tset (fun _ => 0) t key (if !waitsCredit k key then 0 else if tget (fun _ => 0) t key = 0 then s.localNs + 1 else tget (fun _ => 0) t key)
  setPort s p { k with curNs := (upto 0 16).foldl at_ k.curNs }

/-- Data flits while they can go, then the credits that are left (R359, R360). -/
def drainPort (s : State) (p : Nat) : State := noteWaits (returnCredits p 128 (sendFlits p 1024 s)) p

/-- A flit of the replay buffer as it is resent (R361): with the acknowledgement and lane status of now. -/
def resent (k : Port) (f : Flit) : Flit := { f with ackSeq := k.rxNext - 1, nak := false, aux := linkAux k none }

/-- Resend the replay buffer (R361): each flit is counted as a replay and as a flit sent, and entered in the field record (R388; its place
there is not stated: DESIGN CHOICE, log entry 46). -/
def resendAll (s : State) (p : Nat) : State :=
  let k := portOf s p
  let s := modLive s fun l => { l with replays := tmod (fun _ => 0) l.replays p fun x => fldAdd 64 x k.replay.length }
  k.replay.foldl (fun s f => rbump (rbump (putWire s p (resent k f)) (.fabPortCtr p 3) 1) (.fabPortCtr p 0) 1) s

/-! ## Commands of a port -/

/-- PORT_ENABLE (R353): ENABLE written. A RETIRED port is left by RETRAIN and package reset alone. -/
def execPortEnable (port : Fin 24) (on : Bool) (s : State) : Out :=
  let p := port.val
  let s := rsetFld s (.fabPortCtrl p) 0 1 (b01 on)
  let k := portOf s p
  if on then
    .next (if k.st = .disabled ∧ rfld s .fabNodeId 0 16 ≠ 0xFFFF then enterTraining s p else s)
  else if k.st = .retired then .next s
  else .next (setPort s p { portDrop k with st := .disabled, width := 0, retrain := false, curNs := [] })

/-- RETRAIN (R353, R385): TRAINING with every lane tested again; also out of RETIRED. A DISABLED port stays so. -/
def execRetrain (port : Fin 24) (s : State) : Out :=
  let p := port.val
  let k := portOf s p
  if k.st = .disabled then .next s
  else .next (enterTraining (setPort s p { k with rxFailed := 0, txFailed := 0, retrain := true }) p)

/-- TRAINING_DONE (R353, R354): a training ends with the failed lanes it found beside those failed before, the receive lanes of inverted
polarity, whether their order is reversed, the peer's numbers and its allocation; without a width of at least x2 it does not end. A port in
RECOVERY is ACTIVE again, with the peer's allocation where a new one came, and resends its replay buffer; its lanes are not tested. -/
def execTrainingDone (port : Fin 24) (rx : RxFound) (txBad : BitVec 10) (peer : Half) (peerPort : BitVec 5) (alloc : List Half)
    (s : State) : Out :=
  let p := port.val
  let k := portOf s p
  match k.st with
  | .training =>
    let k1 := { k with rxFailed := k.rxFailed ||| rx.bad, txFailed := k.txFailed ||| txBad }
    let w := portWidth k1
    if w = 0 then .next s
    else
      let k2 := { k1 with st := .active, width := w, lanes := laneMap rx.rev k1.rxFailed w, txLanes := laneMap false k1.txFailed w
                          inv := rx.inv, rev := rx.rev, peerNode := peer, peerPort := peerPort
                          allocs := creditsFrom alloc, used := [], owed := [], rxNext := 0, txSeq := 0, sinceNs := s.localNs, retrain := false
                          ackNs := s.localNs, symStart := s.localNs, symCount := [] }
      .next (drainPort (setPort s p k2) p)
  | .recovery =>
    let k1 := { k with st := .active, sinceNs := s.localNs, allocs := (if alloc.isEmpty then k.allocs else creditsFrom alloc)
                       ackNs := s.localNs, nakSeen := false, nakSent := false }
    .next (drainPort (resendAll (setPort s p k1) p) p)
  | _ => .next s

/-- TRAINING_RESTART (R353): training that reached no width starts again every second. -/
def execTrainingRestart (port : Fin 24) (s : State) : Out :=
  let k := portOf s port.val
  if k.st = .training ∧ k.sinceNs + 1000000000 ≤ s.localNs then .next (enterTraining s port.val) else .next s

/-- LANE_FAIL (R355): a receive lane loses lock or framing (`lock`), or has corrected more than SER_LIMIT symbols within one
second. The peer is told by LINK_AUX. SER_LIMIT 0 acts as 1 (R619). -/
def execLaneFail (port : Fin 24) (lane : BitVec 4) (lock : Bool) (s : State) : Out :=
  let p := port.val
  let k := portOf s p
  let l := lane.toNat
  let ovf := decide (tget (fun _ => 0) k.symCount l > max 1 (rfld s (.fabPortLane p) 0 32)) && decide (s.localNs ≤ k.symStart + 1000000000)
  if portUsable k && decide (l < 10) && !k.rxFailed.getLsbD l && (lock || ovf) then
    let s := setPort s p { k with rxFailed := k.rxFailed ||| (1#10 <<< l), swapDue := (if k.lanes.contains l then setAdd l k.swapDue else k.swapDue) }
    .next (if k.st = .active then sendIdle s p false none else s)
  else .next s

/-- The degraded event of a lane swap, a narrowing or a retirement (R356): it names the failed lane. -/
def laneEvent (s : State) (p l : Nat) (st : Status) : State := report s st (resource 0x06 (10 * p + l)) 0 0 false

/-- A port tells its peer the FSEQ of a lane change and enters RECOVERY for it (R353, R356). -/
def swapThrough (s : State) (p : Nat) : State :=
  if (portOf s p).st = .active then enterRecovery (sendIdle s p false (some (portOf s p).txSeq)) p else s

/-- LANE_SWAP (R353, R356): a failed lane in use, for which a swap is due, is replaced and the others stay, or the port narrows and
re-stripes, each through RECOVERY, or the port retires below x2. -/
def execLaneSwap (port : Fin 24) (lane : BitVec 4) (s : State) : Out :=
  let p := port.val
  let k := portOf s p
  let l := lane.toNat
  let w := portWidth k
  if !portUsable k || !k.swapDue.contains l then .next s
  else if w = 0 then
    .next (laneEvent (setPort s p { portDrop k with st := .retired, width := 0, lanes := [], txLanes := [], swapDue := [] }) p l .fabPortRetired)
  else
    let s := swapThrough s p
    if w = k.width then
      let s := setPort s p { portOf s p with
        swapDue := k.swapDue.filter (fun x => decide (x ≠ l))
        lanes := (if k.rxFailed.getLsbD l then laneReplace k.rev k.rxFailed l k.lanes else k.lanes)
        txLanes := (if k.txFailed.getLsbD l then laneReplace false k.txFailed l k.txLanes else k.txLanes) }
      .next (laneEvent (rbump s (.fabPortCtr p 6) 1) p l .fabLaneSpared)
    else
      let s := setPort s p { portOf s p with swapDue := [], width := w, lanes := laneMap k.rev k.rxFailed w, txLanes := laneMap false k.txFailed w }
      .next (laneEvent (rbump s (.fabPortCtr p 6) 1) p l .fabPortNarrowed)

/-- Put a slot of a flit into the port's input buffers (R358, R362): packets that are whole go to the switch; a packet without START
is discarded and counted once, and its slots leave the buffer at once, as do those of a packet that another START cuts off. -/
def takeSlot (s : State) (p : Nat) (x : Slot) : State :=
  let k := portOf s p
  let key := keyOf x.vc x.cls
  let had := tget (fun _ => []) k.partials key
  let owe (n : Nat) : Table Nat := tset (fun _ => 0) k.owed key (tget (fun _ => 0) k.owed key + n)
  if !x.start ∧ had.isEmpty then
    let seen := tget (fun _ => 0) k.orphan key
    let s := setPort s p { k with owed := owe 1, orphan := tset (fun _ => 0) k.orphan key 1 }
    if seen = 0 then rbump s (.fabDrop 3) 1 else s
  else
    let part := if x.start then [x] else had ++ [x]
    let k := { k with orphan := tset (fun _ => 0) k.orphan key 0, owed := (if x.start then owe had.length else k.owed) }
    if part.length ≥ slotLen (part.headD x) then
      let s := setPort s p { k with partials := tset (fun _ => []) k.partials key [] }
      { s with fab := { s.fab with sw := s.fab.sw ++ [{ pkt := packetFrom part, port := some p }] } }
    else setPort s p { k with partials := tset (fun _ => []) k.partials key part }

/-- Flits that an acknowledgement covers leave the replay buffer (R361). -/
def freeAcked (k : Port) (ack : BitVec 12) (now : Nat) : Port :=
  match k.replay with
  | [] => k
  | f :: _ =>
    let n := (ack - f.fseq).toNat + 1
    if n ≤ k.replay.length then { k with replay := k.replay.drop n, resends := 0, ackNs := now } else k

/-- Corrected symbols of a receive lane (R355, R386): counted, and within the lane's current second. -/
def noteSymbols (s : State) (p lane n : Nat) : State :=
  let s := rbump (rbump s (.fabPortCtr p 4) n) (.fabLaneSymerr p (lane % 10)) n
  let k := portOf s p
  let k := if k.symStart + 1000000000 < s.localNs then { k with symStart := s.localNs, symCount := [] } else k
  setPort s p { k with symCount := tset (fun _ => 0) k.symCount lane (tget (fun _ => 0) k.symCount lane + n) }

/-- A codeword has up to 15 bad symbols, which it corrects (R351). -/
def codewordGood (x : BitVec 4 × BitVec 10) : Bool := decide (x.2.toNat ≤ 15)

/-- A codeword counts in the flit it is new to (R351, R386): its corrected symbols, or itself where it cannot be corrected. -/
def noteCodeword (s : State) (p : Nat) (x : BitVec 4 × BitVec 10) : State :=
  if codewordGood x then (if x.2 = 0 then s else noteSymbols s p x.1.toNat x.2.toNat)
  else rbump s (.fabPortCtr p 5) 1

/-- The bytes of the receive lanes in use, in logical order, of right polarity (R352, R354). -/
def lanesIn (k : Port) (lanes : List (BitVec 4 × List Byte)) : List (List Byte) :=
  k.lanes.map fun l =>
    match lanes.find? fun x => decide (x.1.toNat = l) with
    | some x => if k.inv.getLsbD l then x.2.map (~~~ ·) else x.2
    | none => []

/-- The flit that the lanes bring, if its CRC and every codeword it touches are good (R351, R352, R358). -/
def flitIn (k : Port) (lanes : List (BitVec 4 × List Byte)) (cws : List (BitVec 4 × BitVec 10)) : Option Flit :=
  if cws.all codewordGood then parseFlit (unstripe (lanesIn k lanes)) else none

/-- A NAK, once for the flits that it discards (R361). -/
def nakOnce (s : State) (p : Nat) : State :=
  let k := portOf s p
  if k.nakSent then s else sendIdle (rbump (setPort s p { k with nakSent := true }) (.fabPortCtr p 2) 1) p true none

/-- Credits that a flit returns (R357, R360). -/
def takeCreds (t : Table Nat) (creds : List (BitVec 7 × BitVec 1)) : Table Nat :=
  (creds.mapIdx fun v x => (v + 8 * x.2.toNat, x.1.toNat)).foldl (fun t x => tset (fun _ => 0) t x.1 (tget (fun _ => 0) t x.1 - x.2)) t

/-- The lanes that the peer's LINK_AUX reports failed (R355): a swap is due for one in use. -/
def takeAux (k : Port) (aux : Word64) : Port :=
  let bad : BitVec 10 := aux.extractLsb' 0 10
  { k with txFailed := k.txFailed ||| bad
           swapDue := k.txLanes.foldl (fun l i => if bad.getLsbD i && !k.txFailed.getLsbD i then setAdd i l else l) k.swapDue }

/-- What a good flit does (R357 to R361): its acknowledgement, NAK and lane status count at once; an idle flit's credits too, a data
flit's when the flit is accepted in order, after which the port acknowledges it. A flit of a reserved KIND is ignored (DESIGN CHOICE, log
entry 46). -/
def flitGood (s : State) (p : Nat) (f : Flit) : State :=
  if f.kind.toNat > 1 then s
  else
    let k := takeAux (freeAcked (portOf s p) f.ackSeq s.localNs) f.aux
    let k := { k with nakSeen := k.nakSeen || f.nak }
    if f.kind = 1 then drainPort (setPort s p { k with used := takeCreds k.used f.creds }) p
    else if f.fseq ≠ k.rxNext then nakOnce (setPort s p k) p
    else
      let s := rbump (setPort s p { k with used := takeCreds k.used f.creds, rxNext := k.rxNext + 1, nakSent := false }) (.fabPortCtr p 1) 1
      let s := f.slots.foldl (fun s x => takeSlot s p x) s
      let sent := s.fab.wire.length
      let s := drainPort s p
      if s.fab.wire.length = sent then sendIdle s p false none else s

/-- FLIT_RECEIVE (R351, R352, R358 to R361): a flit arrives: the physical receive lanes with the bytes of each, and for the codewords that it
touches the lane and the bad symbols: those that it is the first flit to touch, and those that an earlier flit touched. A flit that fails is discarded whole. -/
def execFlitReceive (port : Fin 24) (lanes : List (BitVec 4)) (data : List (List Byte)) (first again : List (BitVec 4 × BitVec 10))
    (s : State) : Out :=
  let p := port.val
  if (portOf s p).st ≠ .active then .next s
  else
    let k := portOf s p
    let s := first.foldl (fun s x => noteCodeword s p x) s
    match flitIn k (lanes.zip data) (first ++ again) with
    | none => .next (nakOnce s p)
    | some f => .next (flitGood s p f)

/-- FLIT_REPLAY (R361): after a NAK, or 2 µs without an acknowledgement, the unacknowledged flits are resent; at RETRY_LIMIT
resends of one flit the port enters RECOVERY. -/
def execFlitReplay (port : Fin 24) (s : State) : Out :=
  let p := port.val
  let k := portOf s p
  if k.st = .active ∧ !k.replay.isEmpty ∧ (k.nakSeen ∨ k.ackNs + 2000 ≤ s.localNs) then
    let limit := max 1 (rfld s (.fabPortCtrl p) 8 8)
    if k.resends ≥ limit then .next (enterRecovery s p)
    else
      .next (resendAll (setPort s p { k with nakSeen := false, resends := k.resends + 1, ackNs := s.localNs }) p)
  else .next s

/-- RECOVERY_TIMEOUT (R353): RECOVERY that does not end within 10 ms goes to TRAINING. -/
def execRecoveryTimeout (port : Fin 24) (s : State) : Out :=
  let k := portOf s port.val
  if k.st = .recovery ∧ k.sinceNs + 10000000 ≤ s.localNs then .next (enterTraining s port.val) else .next s

end Sys2Proof.Machine
end

