-- ==== Sys2Proof/Machine/FabRows.lean ====
section
/-! DEFINITION. The switch and the packets (spec/11, R363 to R379): forwarding, broadcast, drops, and what each packet type
does where it arrives. -/
namespace Sys2Proof.Machine

/-! ## The switch (R373 to R379) -/

/-- Remove the n-th element. -/
def dropNth {α : Type} : Nat → List α → List α
  | _, [] => []
  | 0, _ :: t => t
  | n + 1, a :: t => a :: dropNth n t

def isRequest (t : Byte) : Bool := decide (t = ptReadReq) || decide (t = ptWrite) || decide (t = ptAccWrite)

/-- Answer a request with a status and a saturation count (R364, R369). -/
def respond (s : State) (pk : Packet) (st : Status) (sat : Nat) : State :=
  sendPacket s { destNode := pk.srcNode, destUnit := pk.srcUnit, srcUnit := pk.destUnit, vc := pk.vc, ptype := ptResp, last := true
                 tag := pk.tag, aux := BitVec.ofNat 64 (fields [(0, (statusCode st).toNat), (16, min sat 0xFFFFFFFF)]) }

/-- Answer an accumulating write (R273): beside the saturation count, ADDR is the device address of the first non-finite result, all ones
where there is none, and AUX [48] and [49] say that a result is NaN or infinity; R364 gives them no place (DESIGN CHOICE, log entry 44). -/
def respondAcc (s : State) (pk : Packet) (st : Status) (outs : List (Nat × Val × Bool)) : State :=
  sendPacket s { destNode := pk.srcNode, destUnit := pk.srcUnit, srcUnit := pk.destUnit, vc := pk.vc, ptype := ptResp, last := true
                 tag := pk.tag
                 addr := match outs.find? fun x => !vIsFinite x.2.1 with | some x => BitVec.ofNat 64 x.1 | none => 0xFFFFFFFFFFFFFFFF
                 aux := BitVec.ofNat 64 (fields [(0, (statusCode st).toNat), (16, min (accSat outs) 0xFFFFFFFF),
                   (48, b01 (outs.any fun x => vIsNan x.2.1)), (49, b01 (outs.any fun x => vIsInf x.2.1))]) }

/-- What an acknowledgement adds to the numeric status block of its FACC (R69 to R71, R273). -/
def ackBlock (f : Fmt) (base : Word64) (pk : Packet) : NumBlock :=
  let nan := pk.aux.getLsbD 48
  let inf := pk.aux.getLsbD 49
  let b : NumBlock :=
    if nan || inf then
      { firstElement := BitVec.ofNat 64 ((pk.addr - base).toNat / (fmtBits f / 8)), firstLane := BitVec.ofNat 8 (pk.addr.toNat % 32 / (fmtBits f / 8))
        firstCore := 0xFFF, nonfinite := true, nanOut := nan, infOut := inf }
    else {}
  addSat b (pk.aux.extractLsb' 16 32).toNat

def dropCount (s : State) (i : Nat) : State := rbump s (.fabDrop i) 1

/-- The bytes a hashed route looks at (R373). -/
def hashBytes (pk : Packet) : List Byte :=
  leBytes 2 pk.srcNode.toNat ++ leBytes 2 pk.destNode.toNat ++ leBytes 2 pk.srcUnit.toNat ++ leBytes 2 pk.destUnit.toNat ++ leBytes 1 pk.vc.toNat

/-- Ports that a route entry offers (R373). -/
def routePorts (s : State) (dest : Half) : List Nat :=
  (upto 0 24).filter fun p => rbit s (.fabRoute dest.toNat) p && portUsable (portOf s p)

/-- The output port of a packet (R373). -/
def routeOf (s : State) (pk : Packet) : Option Nat :=
  let ps := routePorts s pk.destNode
  let hash := ps[crc32c (hashBytes pk) % max 1 ps.length]?
  match rfld s (.fabRoute pk.destNode.toNat) 48 2 with
  | 1 => hash
  | 2 =>
    if ptOrdered pk.ptype then hash
    else
      let free (p : Nat) : Nat := creditOf (portOf s p) (keyOf pk.vc pk.cls)
      let best := ps.foldl (fun m p => max m (free p)) 0
      ps.find? fun p => decide (free p = best)
  | _ => ps.head?

/-- The switch input that a packet came by (R373, R381). -/
def inputOf (x : InPkt) : Nat :=
  match x.port with
  | some p => p
  | none => if x.join then 28 else if x.pkt.srcUnit = 0xFFF then 29 else 24 + x.pkt.srcUnit.toNat / 1024

/-- A packet leaves its port's input buffer (R360). -/
def leaveInput (s : State) (x : InPkt) : State :=
  match x.port with
  | none => s
  | some p => oweSlots s p (keyOf x.pkt.vc x.pkt.cls) (2 + payloadSlots x.pkt)

/-- Queue a packet at an output port (R374, R375): HOPS falls by one and a dateline raises CLASS. `held`: it stays in its input buffer until
it is loaded for sending (R360). -/
def toOutput (s : State) (x : InPkt) (p : Nat) (dateline held : Bool) : State :=
  let k := portOf s p
  let pk := { x.pkt with hops := x.pkt.hops - 1, cls := if dateline then 1 else x.pkt.cls }
  drainPort (setPort s p { k with outq := k.outq ++ [{ pkt := pk, sinceNs := s.localNs, inp := inputOf x, inCls := x.pkt.cls, held := held && x.port.isSome }] }) p

def toArrived (s : State) (x : InPkt) : State := { s with fab := { s.fab with arrived := s.fab.arrived ++ [x] } }

/-- Whether a type is one of R364. -/
def knownType (t : Byte) : Bool := decide (1 ≤ t.toNat) && decide (t.toNat ≤ 0x0D)

/-- The die port that a packet for the package takes; none for the management port and for cumulus. -/
def dieOfUnit (u : BitVec 12) : Nat := u.toNat / 1024

/-- The claimed collective whose joins take a chunk of a tag (R401): the latest of that tag, when it holds a claim. -/
def claimOf (s : State) (tag : Half) : Option Coll := (s.coll.colls.reverse.find? fun c => decide (c.tag = tag)).filter claims

/-- Whether the switch hands a packet of the package to cumulus, whatever node it names: a contribution of a member to a join (R401). -/
def toCumulus (s : State) (x : InPkt) : Bool :=
  x.port.isNone && x.pkt.cum && decide (x.pkt.ptype = ptChunk) && (claimOf s x.pkt.tag).isSome

/-- Whether the n-th packet of a list would overtake another of its VC, source and destination that it must not overtake (R376): both are
ordered, or `strict` holds the unordered ones in order too. -/
def overtakes (strict : Bool) (l : List InPkt) (n : Nat) (x : InPkt) : Bool :=
  (l.take n).any fun y => (strict || (ptOrdered x.pkt.ptype && ptOrdered y.pkt.ptype)) && decide (y.pkt.vc = x.pkt.vc)
    && decide (y.pkt.srcNode = x.pkt.srcNode) && decide (y.pkt.srcUnit = x.pkt.srcUnit)
    && decide (y.pkt.destNode = x.pkt.destNode) && decide (y.pkt.destUnit = x.pkt.destUnit)

/-- Whether the switch keeps the unordered packets of a flow in order (R376): all but those that leave by an ADAPTIVE route. -/
def routeStrict (s : State) (x : InPkt) : Bool :=
  x.pkt.bcast || decide (x.pkt.destNode = ownNode s) || decide (rfld s (.fabRoute x.pkt.destNode.toNat) 48 2 ≠ 2)

/-- Whether a packet waits for lanes of the fabric stream of its die's welkin link (R373, R447, R450): one that a core sends, or one for a
unit of a die in service. -/
def fabHeld (s : State) (x : InPkt) : Bool :=
  (x.port.isNone && decide (x.pkt.srcUnit ≠ 0xFFF) && !hop s (dieOfUnit x.pkt.srcUnit) 4 kindFab none)
  || (decide (x.pkt.destNode = ownNode s) && decide (x.pkt.destUnit ≠ 0xFFF) && dieServes s (dieOfUnit x.pkt.destUnit)
      && !hop s 4 (dieOfUnit x.pkt.destUnit) kindFab none)

/-- PACKET_FORWARD (R373 to R379): the n-th packet at the switch that is no broadcast is delivered, forwarded or dropped. A dropped packet
leaves its input buffer; a delivered one stays there until it is taken, a forwarded one until it is sent (R360). -/
def execPacketForward (n : Nat) (s : State) : Out :=
  match s.fab.sw[n]? with
  | none => .next s
  | some x =>
    if x.pkt.bcast || overtakes (routeStrict s x) s.fab.sw n x || fabHeld s x then .next s
    else
      let s := { s with fab := { s.fab with sw := dropNth n s.fab.sw } }
      if !knownType x.pkt.ptype then .next (dropCount (leaveInput s x) 6)
      else if x.pkt.destNode = ownNode s ∨ toCumulus s x then
        let die := dieOfUnit x.pkt.destUnit
        let local_ := decide (x.pkt.destUnit ≠ 0xFFF) && !(x.pkt.cum && decide (x.pkt.ptype = ptChunk) && (claimOf s x.pkt.tag).isSome)
        if local_ && !dieServes s die then .next (if isRequest x.pkt.ptype then respond (leaveInput s x) x.pkt .dieLost 0 else leaveInput s x)
        else .next (toArrived s x)
      else if x.port.isSome ∧ x.pkt.hops = 0 then .next (dropCount (leaveInput s x) 1)
      else match routeOf s x.pkt with
        | some p => .next (toOutput s x p (rbit s (.fabRoute x.pkt.destNode.toNat) (24 + p)) true)
        | none =>
          let s := dropCount (leaveInput s x) 0
          let back := decide (x.pkt.srcNode = ownNode s) || !(routePorts s x.pkt.srcNode).isEmpty
          .next (if isRequest x.pkt.ptype && back then respond s x.pkt .fabNoRoute 0 else s)

/-- BROADCAST_FORWARD (R377): the n-th packet at the switch, a broadcast, is delivered and copied to every port of its tree. The copy delivered
here stays in the input buffer, else the last one whose port is up (R360; DESIGN CHOICE, log entry 46). -/
def execBroadcastForward (n : Nat) (s : State) : Out :=
  match s.fab.sw[n]? with
  | none => .next s
  | some x =>
    if !x.pkt.bcast || overtakes true s.fab.sw n x then .next s
    else
      let s := { s with fab := { s.fab with sw := dropNth n s.fab.sw } }
      let t := x.pkt.btree.toNat
      if !knownType x.pkt.ptype then .next (dropCount (leaveInput s x) 6)
      else
        let inside := match x.port with | some p => rbit s (.fabBcast t) p | none => true
        if !inside then .next (dropCount (leaveInput s x) 4)
        else
          let here := x.port.isSome && rbit s (.fabBcast t) 56
          let outs := (upto 0 24).filter fun p => rbit s (.fabBcast t) (32 + p) && decide (x.port ≠ some p)
          let sends := outs.filter fun p => portUsable (portOf s p)
          let ends := decide (x.port.isSome ∧ x.pkt.hops = 0)
          let s := if here then toArrived s x else if ends || sends.isEmpty then leaveInput s x else s
          if ends then .next (if outs.isEmpty then s else dropCount s 1)
          else .next (outs.foldl (fun s p => toOutput s x p false (!here && decide (sends.getLast? = some p))) s)

/-- A packet that waits at an output (R375): one not begun, or the rest of the one being sent, by its key. -/
inductive Waiter where
  | queued (o : OutPkt)
  | begun (key : Nat)
deriving DecidableEq, Repr

/-- The first packet that has waited for credits for a time at an output (R375). -/
def stalled (k : Port) (now ns : Nat) : Option Waiter :=
  ((upto 0 16).filter fun key => waitsCredit k key && decide (0 < tget (fun _ => 0) k.curNs key ∧ tget (fun _ => 0) k.curNs key - 1 + ns ≤ now)).findSome?
    fun key => if (tget (fun _ => []) k.cur key).isEmpty then (nextPacket k key).map .queued else some (.begun key)

/-- Drop a packet that waits at an output (R375); one that its input buffer holds leaves it, and the next one starts to wait. -/
def dropWaiter (s : State) (p : Nat) (w : Waiter) : State :=
  let k := portOf s p
  let again (k : Port) (key : Nat) : State := noteWaits (setPort s p { k with curNs := tset (fun _ => 0) k.curNs key 0 }) p
  match w with
  | .begun key => again { k with cur := tset (fun _ => []) k.cur key [] } key
  | .queued o => leaveHeld (again { k with outq := dropFirst (fun y => decide (y = o)) k.outq } (keyOf o.pkt.vc o.pkt.cls)) o

/-- FAB_STALL (R375): a packet that has waited STALL_LIMIT µs for credits at an output whose peer is ACTIVE is dropped. -/
def execFabStall (port : Fin 24) (s : State) : Out :=
  let p := port.val
  let k := portOf s p
  let limit := rfld s .fabReqCtrl 32 32
  match stalled k s.localNs (1000 * limit) with
  | none => .next s
  | some w =>
    if k.st ≠ .active ∨ limit = 0 then .next s
    else .next (report (dropCount (dropWaiter s p w) 5) .fabStall (resource 0x07 p) 0 0 false)

/-! ## Arrived packets -/

/-- The n-th packet that has arrived, of a type; an ordered one must be the first of its VC, source and destination
(R376). -/
def arrivedAt (s : State) (n : Nat) (t : Byte) : Option InPkt :=
  match s.fab.arrived[n]? with
  | none => none
  | some x => if x.pkt.ptype = t ∧ !overtakes false s.fab.arrived n x then some x else none

/-- Take the n-th packet that has arrived: it leaves the input buffer that held it (R360). -/
def takeArrived (s : State) (n : Nat) : State :=
  let t := { s with fab := { s.fab with arrived := dropNth n s.fab.arrived } }
  match s.fab.arrived[n]? with
  | some x => leaveInput t x
  | none => t

/-- Whether one of the 16 remote windows admits a request (R369): bit 63 R, 62 W, 61 A. -/
def windowAdmits (s : State) (pk : Packet) (bytes bit : Nat) : Bool :=
  let a := pk.addr.toNat
  (upto 0 16).any fun n =>
    rbit s (.fabWinCtrl n) bit && decide (rfld s (.fabWinBase n) 12 29 * 4096 ≤ a)
      && decide (a + bytes ≤ (rfld s (.fabWinLimit n) 12 29 + 1) * 4096)
      && decide (rfld s (.fabWinCtrl n) 0 16 ≤ pk.srcNode.toNat) && decide (pk.srcNode.toNat ≤ rfld s (.fabWinCtrl n) 16 16)

/-- Whether the unit that takes a remote request reaches the memory that it names (R20, R23). -/
def requestReaches (s : State) (pk : Packet) (bytes : Nat) : Bool :=
  (rangeDies 2 0 pk.addr.toNat bytes).all fun y => reaches s (if pk.destUnit = 0xFFF then 4 else dieOfUnit pk.destUnit) y kindMem

/-- READ_REQ (R369). -/
def execReadReq (n : Nat) (s : State) : Out :=
  match arrivedAt s n ptReadReq with
  | none => .next s
  | some x =>
    let s0 := s
    let s := takeArrived s n
    let bytes := x.pkt.aux.toNat % 8192
    if !windowAdmits s x.pkt bytes 63 then .next (respond (dropCount s 2) x.pkt .fabAccessDenied 0)
    else if !requestReaches s x.pkt bytes then .next s0
    else
      let s := devSettle s x.pkt.addr.toNat bytes
      match devRead s x.pkt.addr.toNat bytes with
      | .error e => .next (if e.wait then s0 else respond (reportErr s e) x.pkt e.status 0)
      | .ok bs =>
        let s := sendPacket s { destNode := x.pkt.srcNode, destUnit := x.pkt.srcUnit, srcUnit := x.pkt.destUnit, vc := x.pkt.vc,
                                ptype := ptReadResp, last := true, tag := x.pkt.tag, payload := bs }
        .next (respond s x.pkt .success 0)

/-- A request that must wait for a holding slot stands in the park queue once (R279). -/
def packetWait (s : State) (x : InPkt) (a : Option Nat) : State :=
  match a with
  | none => s
  | some a => parkWait s (packetOrigin x.pkt).1 (packetOrigin x.pkt).2 a

/-- A remote write that has been served waits for no slot. -/
def packetServed (s : State) (x : InPkt) : State := parkForget s fun o => decide (o = packetOrigin x.pkt)

/-- A remote write that waited too long is answered with HOLD_OVERRUN (R281, R369). -/
def packetOverrun (s : State) (node order : Nat) : State :=
  match s.fab.arrived.find? fun x => (decide (x.pkt.ptype = ptWrite) || decide (x.pkt.ptype = ptAccWrite)) && decide (packetOrigin x.pkt = (node, order)) with
  | none => s
  | some x =>
    sendPacket (leaveInput { s with fab := { s.fab with arrived := dropFirst (fun y => decide (y = x)) s.fab.arrived } } x)
      { destNode := x.pkt.srcNode, destUnit := x.pkt.srcUnit, srcUnit := x.pkt.destUnit, vc := x.pkt.vc, ptype := ptResp, last := true
        tag := x.pkt.tag, aux := (statusCode .holdOverrun).setWidth 64 }

/-- HOLD_OVERRUN (R281): the request at the head of the park queue has waited longer than TIMEOUT and fails; an
instruction's request fails its instruction (R221), a command's its command, and a member's its program (R411). -/
def execHoldOverrun (stack : BitVec 5) (s : State) : Out :=
  let n := stack.toNat
  let k := stackOf s n
  let limit := rfld s (.memPark n) 0 32
  match k.parkQ with
  | [] => .next s
  | r :: rest =>
    if limit = 0 ∨ s.localNs ≤ r.sinceNs + 1000 * limit then .next s
    else
      let s := setStack s n { k with parkQ := rest }
      match r.origin with
      | none => .next s
      | some (core, order) =>
        if core ≥ collOrigin then .next (memberOverrun s (core - collOrigin) order)
        else if core ≥ cmdOrigin then
          .next (modFlight (parkForget s fun o => decide (o = (core, order))) (core - cmdOrigin) (BitVec.ofNat 32 order) fun f =>
            { f with begun := true, done := true, status := .holdOverrun })
        else if core ≥ 4096 then .next (packetOverrun s core order)
        else match physOf s core with
        | none => .next s
        | some p =>
          match jobOfOrder (coreOf s p) order with
          | none => .next s
          | some j => .next (programFault s core p .holdOverrun j.pc)

/-- WRITE (R369). -/
def execWrite (n : Nat) (s : State) : Out :=
  match arrivedAt s n ptWrite with
  | none => .next s
  | some x =>
    let s1 := takeArrived s n
    if !windowAdmits s x.pkt x.pkt.payload.length 62 then .next (respond (dropCount s1 2) x.pkt .fabAccessDenied 0)
    else if !requestReaches s x.pkt x.pkt.payload.length then .next s
    else
      let (s2, e) := devWrite s1 x.pkt.addr.toNat x.pkt.payload
      match e with
      | none => .next (respond (packetServed s2 x) x.pkt .success 0)
      | some e => .next (if e.wait then packetWait s x e.park else respond (reportErr (packetServed s2 x) e) x.pkt e.status 0)

/-- ACC_WRITE (R270, R369): in the directed mode that comes with it, else to nearest. -/
def execAccWrite (n : Nat) (s : State) : Out :=
  match arrivedAt s n ptAccWrite with
  | none => .next s
  | some x =>
    let s1 := takeArrived s n
    if !windowAdmits s x.pkt x.pkt.payload.length 61 then .next (respond (dropCount s1 2) x.pkt .fabAccessDenied 0)
    else if !requestReaches s x.pkt x.pkt.payload.length then .next s
    else match fmtOfCode (x.pkt.aux.extractLsb' 0 4) with
      | some .g16 | some .f32 =>
        let f := (fmtOfCode (x.pkt.aux.extractLsb' 0 4)).getD .f32
        let r := accAll (accModeOf x.pkt.aux) f (accRequests f x.pkt.addr.toNat x.pkt.payload) s1
        (match r.err with
         | none => .next (respondAcc (packetServed r.st x) x.pkt .success r.outs)
         | some e => .next (if e.wait then packetWait s x e.park else respondAcc (reportErr (packetServed r.st x) e) x.pkt e.status r.outs))
      | _ => .next (respond s1 x.pkt .formatBad 0)

/-- The physical core of a packet's DEST_UNIT. -/
def destCore (s : State) (pk : Packet) : Option Nat := physOf s pk.destUnit.toNat

/-- Requests that have their response, and for a read their data, are no longer outstanding (R370). -/
def settleOutst (c : Core) (isGet : Nat → Bool) : Core :=
  { c with outst := c.outst.filter fun o => !(o.resp && (o.got || !isGet o.order)) }

def isGetJob (c : Core) (order : Nat) : Bool := c.frq.any fun j => decide (j.order = order) && decide (jobOp j = some .get)

/-- The core and the outstanding request that a response names (R370). -/
def outstOf (s : State) (pk : Packet) : Option (Nat × Outst) :=
  match destCore s pk with
  | none => none
  | some p => ((coreOf s p).outst.find? fun o => decide (o.txn = pk.tag)).map fun o => (p, o)

/-- Once a request is answered, the heads of the fabric queues send the requests that fit (R370). -/
def pumpWaiting (s : State) (core p : Nat) : State := pumpHead (pumpHead s core p .fs) core p .fr

/-- READ_RESP (R370): the data of a read is written at its place in the destination. -/
def execReadResp (n : Nat) (s : State) : Out :=
  match arrivedAt s n ptReadResp with
  | none => .next s
  | some x =>
    let s1 := takeArrived s n
    match outstOf s x.pkt with
    | none => .next (dropCount s1 8)
    | some (p, o) =>
      let core := x.pkt.destUnit.toNat
      match (coreOf s p).frq.find? fun j => decide (j.order = o.order) with
      | none => .next (dropCount s1 8)
      | some j =>
        let (s2, e) := writeStream s1 (jobTensor core j 0) o.pos x.pkt.payload
        match e with
        | some e => .next (if e.wait then s else unitFault s2 core p e j.pc)
        | none =>
          .next (pumpWaiting (modCore s2 p fun c =>
            settleOutst { c with outst := c.outst.map fun y => if y.txn = o.txn then { y with got := true } else y } (isGetJob c)) core p)

/-- RESP (R370): a response completes an outstanding request or fails its instruction. -/
def execResp (n : Nat) (s : State) : Out :=
  match arrivedAt s n ptResp with
  | none => .next s
  | some x =>
    let s1 := takeArrived s n
    match outstOf s x.pkt with
    | none => .next (dropCount s1 8)
    | some (p, o) =>
      let core := x.pkt.destUnit.toNat
      let c := coreOf s p
      let code := x.pkt.aux.extractLsb' 0 16
      match (c.fsq ++ c.frq).find? fun j => decide (j.order = o.order) with
      | none => .next (dropCount s1 8)
      | some j =>
        -- the counts and the non-finite result of the words applied come back whatever the status (R273)
        let s1 := if jobOp j = some .acc then modCore s1 p fun c => addRemote c .fs (ackBlock (descFmt (jobDesc j 0)) (jobArg j 1) x.pkt) else s1
        if code = 0 then
          .next (pumpWaiting (modCore s1 p fun c =>
            settleOutst { c with outst := c.outst.map fun y => if y.txn = o.txn then { y with resp := true } else y } (isGetJob c)) core p)
        else .next (programFault s1 core p (statusOfCode code) j.pc)

/-- CTS (R366): held by the sending core, up to 64. -/
def execCts (n : Nat) (s : State) : Out :=
  match arrivedAt s n ptCts with
  | none => .next s
  | some x =>
    match destCore s x.pkt with
    | none => .next (takeArrived s n)
    | some p =>
      let c := coreOf s p
      if c.cts.length ≥ 64 then .next s
      else
        let s := setCore (takeArrived s n) p { c with cts := c.cts ++
          [{ node := x.pkt.srcNode, unit := x.pkt.srcUnit, tag := x.pkt.tag, rxn := x.pkt.rxn, size := x.pkt.aux.toNat % 2 ^ 40 }] }
        match memberOfCore s x.pkt.destUnit.toNat with
        | some (cl, _) => .next (collAdvance s cl.q cl.seq)
        | none => .next s

/-- Bytes of a packet land in a posted receive (R366): counted, the packets' check word kept (R398). -/
def postedGot (s : State) (p : Nat) (rxn : Half) (pk : Packet) (keep : Bool) : State :=
  modCore s p fun c => { c with posted := c.posted.map fun (y : Posted) =>
    if y.rxn = rxn then { y with
      got := y.got + pk.payload.length
      auxSeen := if y.auxSeen.contains pk.aux then y.auxSeen else y.auxSeen ++ [pk.aux]
      data := if keep then mwrite y.data pk.addr.toNat pk.payload else y.data } else y }

/-- Data for a receive of a tile program: stored, or added under MODE 1 (R208). A chunk's bytes are kept for its check. -/
def receiveData (s : State) (n : Nat) (x : InPkt) (p : Nat) (post : Posted) : State :=
  let core := x.pkt.destUnit.toNat
  let c := coreOf s p
  match c.frq.find? fun j => decide (j.order = post.order) with
  | none => dropCount (takeArrived s n) 3
  | some j =>
    let t := jobTensor core j 0
    let bs := x.pkt.payload.take (post.size - x.pkt.addr.toNat)
    let s1 := takeArrived s n
    if jobMode j = 1 then
      let (s2, outs, e) := addStream s1 (jobNum j).mode t x.pkt.addr.toNat bs
      match e with
      | some e => if e.wait then s else unitFault s2 core p e j.pc
      | none =>
        let bad := (chunks (fmtBits t.fmt / 8) bs.length bs).any fun b => !vIsFinite (decodeScalar (scalarFmt t.fmt) (leNat b))
        modCore (postedGot s2 p post.rxn x.pkt post.chunk.isSome) p fun c => addNum c .fr (numBlockOf core outs 0 bad)
    else
      let (s2, e) := writeStream s1 t x.pkt.addr.toNat bs
      match e with
      | some e => if e.wait then s else unitFault s2 core p e j.pc
      | none => postedGot s2 p post.rxn x.pkt post.chunk.isSome

/-- The posted receive of a core that a packet's RXN names. -/
def postedOf (s : State) (pk : Packet) : Option (Nat × Posted) :=
  match destCore s pk with
  | none => none
  | some p => ((coreOf s p).posted.find? fun y => decide (y.rxn = pk.rxn) && (decide (y.node = pk.srcNode) || (coreOf s p).inColl)).map fun y => (p, y)

/-- SEND_DATA (R366, R368). -/
def execSendData (n : Nat) (s : State) : Out :=
  match arrivedAt s n ptSend with
  | none => .next s
  | some x =>
    match postedOf s x.pkt with
    | none => .next (dropCount (takeArrived s n) 3)
    | some (p, post) => .next (receiveData s n x p post)

/-- Whether a CHUNK_DATA packet is a token (R406). -/
def isToken (pk : Packet) : Bool :=
  decide (pk.ptype = ptChunk) && decide (pk.destUnit = 0xFFF) && decide (pk.payload.length = 0)

/-- CHUNK_DATA (R401, R398): data of a chunk goes to a join, to a member, or to a receive of a tile program. -/
def execChunkData (n : Nat) (s : State) : Out :=
  match arrivedAt s n ptChunk with
  | none => .next s
  | some x =>
    if isToken x.pkt then .next s
    else match (claimOf s x.pkt.tag).bind fun cl => joinFeed (takeArrived s n) cl x.pkt with
      | some s' => .next s'
      | none =>
        match postedOf s x.pkt with
        | none => .next (dropCount (takeArrived s n) 3)
        | some (p, post) =>
          if (coreOf s p).inColl then .next (postedGot (takeArrived s n) p post.rxn x.pkt true)
          else .next (receiveData s n x p post)

/-- A CTS is withdrawn (R368): a sender that holds it discards it. A program's send at the head of its queue that this CTS matches may be part
way through the transfer: a free number of its packets, fewer than all, has gone out, and after them the instruction fails with
FAB_PEER_WITHDRAWN (DESIGN CHOICE, log entry 46). -/
def ctsWithdrawn (s : State) (core p : Nat) (y : HeldCts) : State :=
  let c := coreOf s p
  let s := setCore s p { c with cts := dropFirst (fun z => decide (z = y)) c.cts }
  match c.fsq.head?.filter fun j => decide (jobOp j = some .send) && decide (j.st = .started) && decide (matchCts s c j = some y)
      && decide (y.size = jobSize core j) && !c.inColl with
  | none => s
  | some j => match readStream s (jobTensor core j 0) with
    | .error _ => s
    | .ok bs =>
      let k := freeNat s % max 1 ((bs.length + 4095) / 4096)
      let s := tickFree s
      if k = 0 then s
      else programFault (sendData s core j y.rxn none (decide (jobMode j = 2)) bs (some k)) core p .fabPeerWithdrawn j.pc

/-- WITHDRAW (R367, R368): the receiver takes back a CTS, or the sender ends a transfer and the receive fails. One that names a posted
receive is the sender's (DESIGN CHOICE, log entry 46). -/
def execWithdraw (n : Nat) (s : State) : Out :=
  match arrivedAt s n ptWithdraw with
  | none => .next s
  | some x =>
    let s1 := takeArrived s n
    let st := statusOfCode (x.pkt.aux.extractLsb' 0 16)
    match (postedOf s x.pkt).filter fun r => decide (r.2.tag = x.pkt.tag) with
    | some (p, post) =>
      if (coreOf s p).inColl then
        (match memberOfCore s x.pkt.destUnit.toNat with
         | some (cl, _) => .next (raiseTaint s1 cl (post.chunk.getD noChunk) st)
         | none => .next s1)
      else match (coreOf s p).frq.find? fun j => decide (j.order = post.order) with
        | none => .next s1
        | some j => .next (programFault s1 x.pkt.destUnit.toNat p st j.pc)
    | none =>
      match destCore s x.pkt with
      | none => .next s1
      | some p =>
        match (coreOf s1 p).cts.find? fun y =>
          decide (y.rxn = x.pkt.rxn) && decide (y.tag = x.pkt.tag) && decide (y.node = x.pkt.srcNode) && decide (y.unit = x.pkt.srcUnit) with
        | none =>
          -- one that the FCSEND of a join's chunk holds is discarded too (R401)
          let held (j : Join) : Bool := match j.cts with
            | some y => decide (y.rxn = x.pkt.rxn) && decide (y.tag = x.pkt.tag) && decide (y.node = x.pkt.srcNode) && decide (y.unit = x.pkt.srcUnit)
            | none => false
          .next { s1 with coll := { s1.coll with colls := s1.coll.colls.map fun cl =>
            { cl with joins := cl.joins.map fun j => if held j then { j with cts := none } else j } } }
        | some y => .next (ctsWithdrawn s1 x.pkt.destUnit.toNat p y)

/-- MSG (R371): an event advance, or a message for a steward, which is interrupted. -/
def execMsg (n : Nat) (s : State) : Out :=
  match arrivedAt s n ptMsg with
  | none => .next s
  | some x =>
    let s := takeArrived s n
    let v := x.pkt.aux
    if x.pkt.destUnit = 0xFFF then
      let c := (v.extractLsb' 0 16).toNat
      let val : Word64 := (v.extractLsb' 32 32).setWidth 64
      if !rbit s (.fabRevt (c / 256 / 64)) (c / 256 % 64) then .next (dropCount s 2)
      else .next (if v.getLsbD 16 then evtRaise s c val else evtAdd s c val)
    else
      let cl := x.pkt.destUnit.toNat / 64
      let k := clusterOf s cl
      if k.mailbox.length ≥ 64 then .next (dropCount s 7)
      else .next (setCluster s cl { k with stewardIrq := true, mailbox := k.mailbox ++ [{ value := v, node := x.pkt.srcNode, unit := x.pkt.srcUnit }] })

/-- TAINT (R413, R414). -/
def execTaint (n : Nat) (s : State) : Out :=
  match arrivedAt s n ptTaint with
  | none => .next s
  | some x => .next (receiveTaint (takeArrived s n) x.pkt.payload)

/-- MGMT (R364): a management packet reaches the service cores. -/
def execMgmt (n : Nat) (s : State) : Out :=
  match arrivedAt s n ptMgmt with
  | none => .next s
  | some x => let s := takeArrived s n; .next { s with fab := { s.fab with mgmt := s.fab.mgmt ++ [x.pkt] } }

/-- FAB_TIMEOUT (R370): a request of a core without a response within TIMEOUT µs fails its instruction. -/
def execFabTimeout (core : Fin 4096) (s : State) : Out :=
  match liveCore s core with
  | none => .next s
  | some p =>
    let c := coreOf s p
    let limit := rfld s .fabReqCtrl 0 32
    match c.outst.find? fun o => decide (o.sentNs + 1000 * limit ≤ s.localNs) with
    | none => .next s
    | some o =>
      if limit = 0 then .next s
      else match (c.fsq ++ c.frq).find? fun j => decide (j.order = o.order) with
        | none => .next s
        | some j => .next (programFault s core.val p .fabTimeout j.pc)

/-! ## Collectives on the fabric (R399 to R407) -/

/-- CHUNK_CHECK (R399): a consumer checks a complete chunk: the n-th complete input of a join, or the first complete receive
of core n. A chunk that passes is confirmed, one that fails leads to taint. -/
def execChunkCheck (join : Bool) (n : Nat) (s : State) : Out :=
  if join then
    match (joinChecks s)[n]? with
    | none => .next s
    | some (cl, j, x) => .next (joinCheck s cl j x)
  else
    match physOf s n with
    | none => .next s
    | some p =>
      let c := coreOf s p
      if !clusterRuns s (n / 64) then .next s
      else match c.posted.find? fun y => y.chunk.isSome && !y.checked && decide (y.got ≥ y.size) with
      | none => .next s
      | some y =>
        let bs := mread y.data 0 y.size
        let good := chunkGood y.auxSeen ((y.chunk.getD 0).toNat) bs
        match memberOfCore s n with
        | some (cl, m) =>
          if cl.failing.isSome then .next (collAdvance s cl.q cl.seq)
          else if !good then .next (raiseTaint s cl (y.chunk.getD 0) .collCrcBad)
          else match (recvPlan cl m)[y.order]? with
            | none => .next s
            | some h => .next (memberTake s (setCore s p { c with posted := dropFirst (fun z => decide (z = y)) c.posted }) cl m h bs)
        | none =>
          if good then .next (setCore s p { c with posted := c.posted.map fun (z : Posted) => if z.rxn = y.rxn then { z with checked := true } else z })
          else
            match c.frq.find? fun j => decide (j.order = y.order) with
            | none => .next s
            | some j => .next (programFault s n p .collCrcBad j.pc)

/-- JOIN_EMIT (R401): a join whose inputs are all added sends its sum. The words of its slot that were corrected on the way are each written
back and counted (R405). -/
def execJoinEmit (done : JoinDone) (s : State) : Out :=
  match (joinsReady s)[done.n]? with
  | none => .next s
  | some (cl, j) => .next (joinEmit (rbump s (.cumCtr 8) done.corrected.toNat) cl j)

/-- The collective that a token names, while its entry is of that attempt (R406). -/
def tokenColl (s : State) (pk : Packet) : Option (Coll × SealEntry) :=
  match entryOf s pk.addr, s.coll.colls.find? fun c => decide (c.ref = pk.addr) && decide (c.attempt = (pk.rxn.extractLsb' 8 8)) with
  | some e, some cl => if e.attempt = cl.attempt then some (cl, e) else none
  | _, _ => none

/-- CONFIRM_TOKEN (R406, R407): a confirm token reaches the package. -/
def execConfirmToken (n : Nat) (s : State) : Out :=
  match arrivedAt s n ptChunk with
  | none => .next s
  | some x =>
    if !isToken x.pkt ∨ x.pkt.aux ≠ 0xFFFFFFFE00000000 then .next s
    else
      let s := takeArrived s n
      match tokenColl s x.pkt with
      | none => .next s
      | some (cl, e) =>
        let cl := progress cl s
        let s := putColl s cl
        if isFirst s cl then
          -- the token has come round: seal, and send or send again the seal token
          (if e.st = .opened ∧ cl.confirmSent then
             .next (sendToken (sealPackage (putColl s { cl with tokenNs := s.localNs }) cl) cl true)
           else if e.st = .sealedOk then .next (sendToken s cl true)
           else .next s)
        else if e.st = .opened ∨ e.st = .sealedOk then
          let s := putColl s { cl with confirmAt := true, confirmSent := false }
          .next (confirmStep s { cl with confirmAt := true, confirmSent := false })
        else .next s

/-- SEAL_TOKEN (R406, R407): a seal token reaches the package, which is sealed and forwards it; at the first package it ends
the pass. -/
def execSealToken (n : Nat) (s : State) : Out :=
  match arrivedAt s n ptChunk with
  | none => .next s
  | some x =>
    if !isToken x.pkt ∨ x.pkt.aux ≠ 0xFFFFFFFF00000000 then .next s
    else
      let s := takeArrived s n
      match tokenColl s x.pkt with
      | none => .next s
      | some (cl, e) =>
        let s := putColl s (progress cl s)
        if isFirst s cl then .next (putColl s { progress cl s with passEnded := true })
        else if e.st = .opened then .next (sendToken (sealPackage s cl) cl true)
        else if e.st = .sealedOk then .next (sendToken s cl true)
        else .next s

/-- TOKEN_RESEND (R407): member 0's package sends its latest token again every 100 µs until its pass ends. -/
def execTokenResend (q : Fin 4096) (seq : Word32) (s : State) : Out :=
  match collOf s q.val seq with
  | none => .next s
  | some cl =>
    match entryOf s cl.ref with
    | none => .next s
    | some e =>
      if isFirst s cl && cl.confirmSent && !cl.passEnded && decide (e.attempt = cl.attempt)
          && (decide (e.st = .opened) || decide (e.st = .sealedOk)) && decide (cl.tokenNs + 100000 ≤ s.localNs) then
        .next (sendToken (putColl s { cl with tokenNs := s.localNs }) cl (decide (e.st = .sealedOk)))
      else .next s

/-- COLL_TIMEOUT (R407, R411): no progress at the package for TIMEOUT µs; 1 to 499 act as 500, 0 is none. -/
def execCollTimeout (q : Fin 4096) (seq : Word32) (s : State) : Out :=
  match collOf s q.val seq with
  | none => .next s
  | some cl =>
    if cl.timeoutUs ≠ 0 ∧ cl.progressNs + 1000 * max 500 cl.timeoutUs ≤ s.localNs then .next (raiseTaint s cl noChunk .collTimeout)
    else .next s

/-- CUM_UNCORRECTABLE (R405): an uncorrectable word in the slot of a join taints its chunk; the slot is retired at the end of
its claim. `slot` is the physical slot that serves it: a good one (R596), and due for retirement only once. -/
def execCumUncorrectable (q : Fin 4096) (seq : Word32) (chunk : Word32) (slot : BitVec 13) (s : State) : Out :=
  match collOf s q.val seq with
  | none => .next s
  | some cl =>
    match cl.joins.find? fun j => decide (j.chunk = chunk.toNat) with
    | none => .next s
    | some _ =>
      if slot.toNat ≥ 4160 ∨ s.coll.retired.contains slot.toNat ∨ (s.coll.colls.any fun c => c.retire.contains slot.toNat) then .next s else
      let cl := { cl with retire := setAdd slot.toNat cl.retire }
      .next (raiseTaint (report (putColl s cl) .cumUncorrectable (resource 0x09 slot.toNat) 0 0 false) cl chunk .cumUncorrectable)

end Sys2Proof.Machine
end

