-- ==== Sys2Proof/Machine/QueueOps.lean ====
section
/-! DEFINITION. The queue engine (spec/10): rings, tail lines, the checks of a command, the conditions of its start, and its
finish; shared by the queue commands. -/
namespace Sys2Proof.Machine

/-! ## Rings and tail lines (R309 to R316) -/

def qSize (s : State) (q : Nat) : Nat := 2 ^ rfld s (.cqCfg q) 10 5
def qPart (s : State) (q : Nat) : Nat := rfld s (.cqCfg q) 15 8
def qCopy (s : State) (q : Nat) : Nat := rfld s (.cqCfg q) 23 6
def qVector (s : State) (q : Nat) : Nat := rfld s (.cqCfg q) 29 11
/-- F of R315. -/
def qFetch (s : State) (q : Nat) : Word32 := (rget s (.cqFetch q)).extractLsb' 0 32
def setFetch (s : State) (q : Nat) (f : Word32) : State := rset s (.cqFetch q) (f.setWidth 64)
def modQueue (s : State) (q : Nat) (f : Queue → Queue) : State := setQueue s q (f (queueOf s q))

/-- The address that a queue page register or a pointer names (R318, R345): HOST and the address bits from `low` up. -/
def ptrHost (v : Word64) : Bool := v.getLsbD 63
def ptrAddr (v : Word64) (low : Nat) : Nat := v.toNat % 2 ^ 63 / 2 ^ low * 2 ^ low

/-- Read bytes of host or device memory. -/
def hdRead (s : State) (host : Bool) (a n : Nat) : Except Err (List Byte) := if host then hostRead s a n else devRead s a n
def hdWrite (s : State) (host : Bool) (a : Nat) (bs : List Byte) : Acc := if host then hostWrite s a bs else devWrite s a bs

def ringRead (s : State) (q off n : Nat) : Except Err (List Byte) :=
  let r := rget s (.cqRing q)
  hdRead s (ptrHost r) (ptrAddr r 12 + off) n
def ringSettle (s : State) (q off n : Nat) : State :=
  let r := rget s (.cqRing q)
  hdSettle s (ptrHost r) (ptrAddr r 12 + off) n

/-- TAIL, read from the tail line (R311). -/
def readTail (s : State) (q : Nat) : Except Err Word32 :=
  let r := rget s (.cqTail q)
  match hdRead s (ptrHost r) (ptrAddr r 6) 4 with
  | .error e => .error e
  | .ok bs => .ok (BitVec.ofNat 32 (leNat bs))

/-- The word of the tail line is corrected as it is read (R263). -/
def tailSettle (s : State) (q : Nat) : State :=
  let r := rget s (.cqTail q)
  hdSettle s (ptrHost r) (ptrAddr r 6) 4

/-- Whether the tail line can be held coherently (R313, R314, R515). -/
def tailCoherent (s : State) (q : Nat) : Bool :=
  !ptrHost (rget s (.cqTail q)) || (decide (s.host.mode = 1) && s.host.cacheEn)

/-- A RUNNING queue enters STOPPED; LAST_STATUS takes the status (R328). While a disable runs its course, STATE keeps its value (R658). -/
def stopQueue (s : State) (q : Nat) (st : Status) : State :=
  modQueue s q fun k => { k with state := if k.state = .running ∧ !k.disabling then .stopped else k.state, lastStatus := st }

/-- Records from F to TAIL (R315). -/
def newWork (s : State) (q : Nat) : Nat := ((queueOf s q).tail - qFetch s q).toNat

/-- The engine reads TAIL (R313, R315); a read that fails and a TAIL beyond the ring stop the queue. A read that waits for a
back-invalidate is made later. -/
def takeTail (s : State) (q : Nat) : State :=
  let s := tailSettle s q
  match readTail s q with
  | .error e =>
    if e.wait then modQueue s q fun k => { k with wake := true, woken := k.woken || k.lineHeld, lineHeld := false }
    else stopQueue (noteErr (modQueue s q fun k => { k with wake := false, woken := false, lineHeld := false }) e) q e.status
  | .ok t =>
    let s := modQueue s q fun k => { k with tail := t, wake := false, woken := false, lineHeld := tailCoherent s q }
    if newWork s q > qSize s q then stopQueue s q .cqTailBad else s

/-- Fetched commands that have not started, in the package (R316). -/
def queuedTotal (s : State) : Nat := (s.queues.map fun (x : Nat × Queue) => x.2.queued.length).foldl (· + ·) 0

/-- The queue page's CANCEL bit ends (R620). -/
def cancelEnd (s : State) (q : Nat) : State := modQueue s q fun k => { k with cancelTo := none }

/-! ## Fields of a record (R317 to R321) -/

def cmdNwait (c : CmdRec) : Nat := cmdFld c 0 13 3
def cmdNsig (c : CmdRec) : Nat := cmdFld c 0 16 2
def cmdNb (c : CmdRec) : Bool := decide (cmdFld c 0 12 1 = 1)
def waitCtr (c : CmdRec) (w : Nat) : Nat := cmdFld c 0x30 (16 * w) 16
def waitVal (c : CmdRec) (w : Nat) : Word64 := cmdWord c (0x10 + 8 * w)
def sigCtr (c : CmdRec) (i : Nat) : Nat := cmdFld c 0x38 (16 * i) 16
def sigInc (c : CmdRec) (i : Nat) : Nat := cmdFld c 0x38 (32 + 16 * i) 16

/-- The kind block of a command before its work reports (R175, R297): of a GATHER or SCATTER no index out of range, of an UPDATE no large
parameter: FIRST_POS and FIRST_VALUE, and FIRST_LARGE, all ones. -/
def kindStart (c : CmdRec) : BitVec 128 :=
  match cmdKind c with
  | 0x02 | 0x03 => BitVec.ofNat 128 (idxBlockBits {})
  | 0x06 => BitVec.ofNat 128 (2 ^ 64 - 1)
  | _ => 0

/-- Reserved bits of a body, as (offset, low bit, width), by kind (R320, R321, R389, R550). -/
def bodyReserved : Nat → List (Nat × Nat × Nat)
  | 0x01 => [(0x58, 0, 64), (0x60, 0, 64), (0x68, 0, 64), (0x70, 0, 64), (0x78, 0, 64)]
  | 0x02 => [(0x60, 5, 59), (0x68, 0, 64), (0x70, 0, 64), (0x78, 0, 64)]
  | 0x03 => [(0x60, 6, 58), (0x68, 0, 64), (0x70, 0, 64), (0x78, 0, 64)]
  | 0x04 => [(0x60, 39, 25), (0x68, 33, 31), (0x70, 0, 64), (0x78, 0, 64)]
  | 0x05 => [(0x50, 29, 3), (0x50, 56, 8), (0x60, 32, 32), (0x68, 0, 64), (0x70, 0, 64), (0x78, 0, 64)]
  | 0x06 => [(0x48, 32, 32), (0x60, 0, 64), (0x68, 0, 64), (0x70, 0, 64), (0x78, 0, 64)]
  | 0x07 => (upto 0 8).map fun i => (0x40 + 8 * i, 0, 64)
  | 0x08 => (0x40, 32, 32) :: (upto 1 7).map fun i => (0x40 + 8 * i, 0, 64)
  | 0x09 => (upto 0 4).map fun e => (0x40 + 16 * e, 18, 46)
  | 0x0A => (upto 1 7).map fun i => (0x40 + 8 * i, 0, 64)
  | 0x0B => [(0x40, 4, 60), (0x48, 32, 32), (0x58, 13, 51), (0x60, 0, 64), (0x68, 0, 64), (0x70, 0, 64), (0x78, 0, 64)]
  | 0x0C => (0x48, 33, 31) :: (upto 2 6).map fun i => (0x40 + 8 * i, 0, 64)
  | _ => []

/-- Pointers of a body (R318), by kind: their offsets. -/
def bodyPtrs (c : CmdRec) : List Nat :=
  match cmdKind c with
  | 0x01 => [0x40, 0x48]
  | 0x02 => [0x40, 0x48, 0x50]
  | 0x03 => [0x40, 0x48, 0x50]
  | 0x05 => [0x40]
  | 0x0B => if cmdFld c 0x40 0 2 = 1 then [0x50] else []
  | _ => []

/-- A body field outside its range (R320, R550, R498); no tensor has a dimension 6 or 7 for INDEX_DIM (R153, R171). -/
def bodyRangeBad (c : CmdRec) : Bool :=
  match cmdKind c with
  | 0x0B => decide (cmdFld c 0x48 0 32 = 0)
      || (decide (cmdFld c 0x40 0 2 = 1) && (decide (cmdFld c 0x58 0 13 = 0) || decide (cmdFld c 0x58 0 13 > 4096)))
  | 0x0C => decide (cmdFld c 0x40 0 6 ≠ 0)
  | 0x02 | 0x03 => decide (cmdFld c 0x60 0 3 > 5)
  | _ => false

/-- Counters that a command names (R319): its waits, its signals, and the valid entries of a SIGNAL_EVENT. -/
def cmdCounters (c : CmdRec) : List Nat :=
  (upto 0 (cmdNwait c)).map (waitCtr c) ++ (upto 0 (cmdNsig c)).map (sigCtr c)
  ++ (if cmdKind c = 0x09 then ((upto 0 4).filter fun e => decide (cmdFld c (0x40 + 16 * e) 17 1 = 1)).map fun e => cmdFld c (0x40 + 16 * e) 0 16
      else [])

/-- Clusters of a partition (R330). -/
def partHas (s : State) (p c : Nat) : Bool := rbit s (.cqPart p) c

/-- The cluster that a launch address in SPACE 1 names (R216). -/
def launchCluster (a : Word64) : Option Nat :=
  if !a.getLsbD 63 ∧ nfld a.toNat 61 2 = 1 then some (nfld a.toNat 49 12) else none

def isCopyKind (k : Nat) : Bool := decide (1 ≤ k) && decide (k ≤ 3)

/-- The clusters of a TILE_PROGRAM's mask, and its cores (R321), rising. -/
def maskClusters (c : CmdRec) : List Nat := (upto 0 64).filter fun i => (cmdWord c 0x50).getLsbD i
def setCores (c : CmdRec) : List Nat :=
  (maskClusters c).flatMap fun cl => ((upto 0 64).filter fun k => (cmdWord c 0x58).getLsbD k).map fun k => 64 * cl + k

def launchAddrs (c : CmdRec) : List Word64 := cmdWord c 0x40 :: (if cmdFld c 0x60 13 13 = 0 then [] else [cmdWord c 0x48])

/-- Member entries of a COLLECTIVE that lie on this package: their cores; none when the list cannot be read (R390). -/
def localUnits (s : State) (c : CmdRec) : List Nat :=
  let r := cmdWord c 0x40
  let n := cmdFld c 0x50 0 16 + 1
  (upto 0 n).filterMap fun i =>
    match hdRead s (ptrHost r) (ptrAddr r 7 + 32 * i) 8 with
    | .error _ => none
    | .ok bs => let w := leNat bs; if nfld w 48 16 = (ownNode s).toNat then some (nfld w 36 12) else none

/-- A cluster outside the queue's partition (R319, R330, R216); a named cluster index above 63 breaks R216 instead. -/
def partBad (s : State) (q : Nat) (c : CmdRec) : Bool :=
  let p := qPart s q
  if isCopyKind (cmdKind c) then !partHas s p (qCopy s q)
  else if cmdKind c = 0x04 then
    (maskClusters c).any (fun i => !partHas s p i)
      || (launchAddrs c).any fun a => match launchCluster a with | some i => decide (i < 64) && !partHas s p i | none => false
  else if cmdKind c = 0x05 then (localUnits s c).any fun u => !partHas s p (u / 64)
  else false

/-- The checks of R319 at the head of the queue, and the marks of R334. -/
def headFault (s : State) (q : Nat) (c : CmdRec) : Option Status :=
  let k := cmdKind c
  if k = 0 ∨ k > 0x0C then some .cmdKindBad
  else if decide (cmdFld c 0 18 14 ≠ 0) || decide (cmdFld c 0 8 2 ≠ 0) || decide (cmdNwait c > 4) || decide (cmdNsig c = 3)
      || (decide (cmdFld c 0 11 1 = 1) && decide (k ≠ 0x04))
      || (bodyReserved k).any (fun x => decide (cmdFld c x.1 x.2.1 x.2.2 ≠ 0))
      || (bodyPtrs c).any (fun o => decide (cmdFld c o 0 7 ≠ 0)) || bodyRangeBad c then some .cmdBad
  else if (cmdCounters c).any fun i => !evtAllowed s (qPart s q) i then some .evtDenied
  else if partBad s q c then some .partDenied
  else
    ((upto 0 (cmdNwait c)).findSome? fun w =>
      if (evtOf s (waitCtr c w)).toNat < (waitVal c w).toNat then (evtMark s (waitCtr c w)).map markStatus else none)

/-- The waits of a record hold (R317). -/
def waitsHold (s : State) (c : CmdRec) : Bool :=
  (upto 0 (cmdNwait c)).all fun w => decide ((waitVal c w).toNat ≤ (evtOf s (waitCtr c w)).toNat)

/-! ## Start (R321 to R323) -/

/-- Whether a core is taken: a program or a member on it, its retirement due (R249, R580), or reserved by a command that
started. -/
def coreTaken (s : State) (core : Nat) : Bool :=
  (match physOf s core with
   | none => false
   | some p => decide ((coreOf s p).phase ≠ .idle) || (coreOf s p).inColl || (coreOf s p).failed || (coreOf s p).retirePending)
  || s.queues.any fun (x : Nat × Queue) => x.2.flight.any fun f => f.launched.any fun y => decide (y.1 = core)

/-- The cores that a command needs idle (R322, R393). -/
def neededCores (s : State) (c : CmdRec) : List Nat :=
  match cmdKind c with
  | 0x04 => setCores c
  | 0x05 => localUnits s c
  | _ => []

/-- The clusters that a command needs powered (R486). -/
def neededClusters (s : State) (q : Nat) (c : CmdRec) : List Nat :=
  match cmdKind c with
  | 0x01 => [qCopy s q]
  | 0x02 => [qCopy s q]
  | 0x03 => [qCopy s q]
  | 0x04 => maskClusters c
  | 0x05 => (localUnits s c).map (· / 64)
  | _ => []

/-- The clusters on which a started command is active (R486). -/
def flightClusters (s : State) (q : Nat) (f : Flight) : List Nat :=
  match f.copyUnit with
  | some c => [c]
  | none => if f.started && !isCopyKind (cmdKind f.cmd) then neededClusters s q f.cmd else []

/-- Whether the steward of a cluster that a TILE_PROGRAM names is halted: its launches and completion records wait (R608). -/
def stewardsHalted (s : State) (c : CmdRec) : Bool :=
  decide (cmdKind c = 0x04) && (maskClusters c).any fun i => (svcOf s (4 + i)).halted

/-- Start conditions of R322 of the command at the head of a queue, but for the order of R323. -/
def canStart (s : State) (q : Nat) : Option CmdRec :=
  let k := queueOf s q
  match k.queued with
  | [] => none
  | c :: _ =>
    let running := k.flight.filter fun f => f.started
    if k.state ≠ .running ∨ k.disabling ∨ running.length ≥ 16 ∨ (k.flight.any fun f => !f.started && decide (f.status ≠ .cancelled))
        ∨ (running.any fun f => decide (cmdKind f.cmd = 0x07)) then none
    else if (headFault s q c).isSome then none
    else if cmdKind c = 0x07 ∧ k.flight ≠ [] then none
    else if cmdKind c ≠ 0x08 ∧ !waitsHold s c then none
    else if cmdNb c ∧ s.time.now.toNat < (cmdWord c 0x08).toNat then none
    else if (neededCores s c).any (coreTaken s) || stewardsHalted s c then none
    else if (neededClusters s q c).any fun i => dieServes s (clusterDie i) && (cluOff s i || (clusterOf s i).clearing || (clusterOf s i).clearReq) then none
    else if isCopyKind (cmdKind c) ∧ (clusterOf s (qCopy s q)).copyCmd.isSome then none
    else if cmdKind c = 0x05 ∧ !sealRoom s (cmdWord c 0x48) then none
    else if s.cfg.commit.any fun m => m.holdNs.isSome && !m.applied &&
        ((s.cfg.txn.map (·.shadow)).getD []).any fun e => match regAt e.off with
          | some (.cqCfg x) => decide (x = q) && decide (nfld e.mask.toNat 15 8 ≠ 0)
          | some (.cqPart p) => decide (p = qPart s q)
          | _ => false then none
    else some c

/-- Whether two commands need one resource (R323): a copy unit, the last seal-table entry, a core. -/
def contend (s : State) (q1 : Nat) (c1 : CmdRec) (q2 : Nat) (c2 : CmdRec) : Bool :=
  (isCopyKind (cmdKind c1) && isCopyKind (cmdKind c2) && decide (qCopy s q1 = qCopy s q2))
  || (decide (cmdKind c1 = 0x05) && decide (cmdKind c2 = 0x05) && decide (cmdWord c1 0x48 ≠ cmdWord c2 0x48)
      && (entryOf s (cmdWord c1 0x48)).isNone && (entryOf s (cmdWord c2 0x48)).isNone && decide (sealFree s = 1))
  || (neededCores s c1).any fun x => (neededCores s c2).contains x

/-- Queues are granted round-robin, starting after the one last granted (R323). -/
def startsFirst (s : State) (q : Nat) (c : CmdRec) : Bool :=
  let dist (x : Nat) : Nat := (x + 4095 - s.lastGrant) % 4096
  s.queues.all fun (x : Nat × Queue) =>
    match canStart s x.1 with
    | none => true
    | some c2 => decide (x.1 = q) || decide (dist q < dist x.1) || !contend s q c x.1 c2

/-- A command that cannot run any further is done with a status; nothing of it waits for a holding slot (R281). -/
def flightDone (s : State) (q : Nat) (seq : Word32) (st : Status) : State :=
  modFlight (parkForget s fun o => decide (o = (cmdOrigin + q, seq.toNat))) q seq fun f => { f with begun := true, done := true, status := st }

/-! ## Finish (R324 to R327) -/

def succeeds (st : Status) : Bool := decide (st = .success) || decide (statusClass st = 1)

/-- Signals of a finished command (R324 step 2): advances on success, marks on failure. A record has two signals, whatever NSIG says. -/
def applySignals (s : State) (c : CmdRec) (st : Status) : State :=
  (upto 0 (min 2 (cmdNsig c))).foldl (fun s i =>
    if succeeds st then evtAdd s (sigCtr c i) (BitVec.ofNat 64 (sigInc c i)) else evtSetMark s (sigCtr c i) st) s

/-- The 64 bytes of a completion record (R326). -/
def completionBytes (s : State) (f : Flight) : List Byte :=
  let st := match f.status, f.failCore with
    | .success, some (_, st, _) => st
    | st, _ => st
  let detail := if cmdKind f.cmd = 0x04 ∧ f.status = .success then
      (match f.failCore with | some (core, _, pc) => core % 4096 + 4096 * pc.toNat | none => 0)
    else f.detail.toNat
  leBytes 8 (fields [(0, cmdFld f.cmd 0 32 32), (32, (statusCode st).toNat), (48, cmdKind f.cmd), (56, f.timeFlags.toNat)])
  ++ leBytes 8 (fields [(0, f.cmd.seq.toNat), (32, detail)])
  ++ leBytes 8 s.time.now.toNat ++ numBytes f.num ++ leBytes 16 f.kindBlk.toNat

/-- The status that a command completes with: of a TILE_PROGRAM, that of its failing core of lowest index (R326). -/
def flightStatus (f : Flight) : Status :=
  match f.status, f.failCore with
  | .success, some (_, st, _) => st
  | st, _ => st

/-- Send an MSI-X message (R520): at once, or by its pending bit when the vector is masked or the function may not send. -/
def sendMsix (s : State) (v : Nat) : State :=
  let e := tget (fun _ => {}) s.host.msix v
  if s.host.mode = 0 then s
  else if e.masked ∨ !s.host.cmdEn ∨ !s.host.msixEn ∨ s.host.msixMask then { s with host := { s.host with pba := setAdd v s.host.pba } }
  else { s with host := { s.host with sent := s.host.sent ++ [(e.addr, e.data)] } }

/-- Pending messages go out once nothing masks them (R520). -/
def msixFlush (s : State) : State := s.host.pba.foldl (fun s v => sendMsix { s with host := { s.host with pba := setDel v s.host.pba } } v) s

/-- Whether a queue's rings or tail line lie in host memory (R524). -/
def qOnHost (s : State) (q : Nat) : Bool :=
  ptrHost (rget s (.cqRing q)) || ptrHost (rget s (.cqCompl q)) || ptrHost (rget s (.cqTail q))

/-- A queue whose ENABLE was written 0 and that has nothing left enters DISABLED (R658, R328). -/
def disableIfEmpty (s : State) (q : Nat) : State :=
  let k := queueOf s q
  if k.disabling ∧ k.flight = [] ∧ k.queued = [] then
    let s := setQueue s q { k with state := .disabled, lineHeld := false, disabling := false, cancelTo := none, shut := false, wake := false, woken := false, cancelAsked := false
                                   lastStatus := if k.shut then .hostLinkDown else k.lastStatus }
    if k.shut then rsetFld s (.cqCtrl q) 0 1 0 else s
  else s

end Sys2Proof.Machine
end

