-- ==== Sys2Proof/Machine/ClearRows.lean ====
section
/-! DEFINITION. The clearing of a cluster's memories (spec/07, R250 to R252): the commands that request it, begin it and end it. -/
namespace Sys2Proof.Machine

/-- Whether no TILE_PROGRAM runs on a cluster and no command is active on it (R252): a command that has started and is not done counts
from its start. -/
def clusterIdle (s : State) (c : Nat) : Bool :=
  (clusterOf s c).copyCmd.isNone
  && ((upto (66 * c) 66).all fun p => decide ((coreOf s p).phase = .idle) && !(coreOf s p).inColl)
  && !(s.queues.any fun (x : Nat × Queue) => x.2.flight.any fun f =>
        f.started && !f.done && (decide (f.copyUnit = some c) || (neededClusters s x.1 f.cmd).contains c))

/-- CLUSTER_CLEAR (R250, R252): a clearing that a wake or a die reset began, or that was requested and whose cluster is
idle, clears the memories. -/
def execClusterClear (cluster : BitVec 6) (s : State) : Out :=
  let k := clusterOf s cluster.toNat
  if k.clearing || (k.clearReq && clusterIdle s cluster.toNat) then .next (startClear s cluster.toNat) else .next s

/-- CLUSTER_CLEAR_DONE (R250, R251): the clearing ends; requests that waited are granted. It runs on the cluster's arithmetic clock. -/
def execClusterClearDone (cluster : BitVec 6) (s : State) : Out :=
  let c := cluster.toNat
  if (clusterOf s c).clearing && !cluOff s c && decide (s.gov.flow ≠ .lost) then
    let s := startClear s c
    .next (setCluster s c { clusterOf s c with clearing := false, clearReq := false })
  else .next s

/-- CLEAR (R252): a 1 written to CLU_CMEM_CTRL.CLEAR requests a clearing, which starts once the cluster is idle. -/
def execClear (cluster : BitVec 6) (s : State) : Out :=
  let c := cluster.toNat
  if !dieServes s (clusterDie c) then .next s
  else
    let s := setCluster s c { clusterOf s c with clearReq := true }
    .next (if clusterIdle s c then startClear s c else s)

end Sys2Proof.Machine
end

