-- ==== Sys2Proof/Machine/QueueRows.lean ====
section
/-! DEFINITION. The commands of the queue engine and of the event unit (spec/10). -/
namespace Sys2Proof.Machine

/-- A fetched command completes without running (R319, R657). -/
def unrun (s : State) (q : Nat) (c : CmdRec) (st : Status) : State :=
  modQueue s q fun k => { k with flight := k.flight ++ [{ cmd := c, started := false, done := true, status := st, startNs := s.localNs, kindBlk := kindStart c }] }

/-- A cancel that has read up to its TAIL ends in RUNNING (R657). -/
def cancelStep (s : State) (q : Nat) : State :=
  match (queueOf s q).cancelTo with
  | none => s
  | some t => if qFetch s q = t then modQueue s q fun k => { k with cancelTo := none, state := .running } else s

/-- CANCEL (R657, R620): reads TAIL once; every fetched command that has not started completes with CANCELLED, and so do the
records up to that TAIL as they are fetched. While the read waits for a back-invalidate (R510), so does the CANCEL. -/
def cancelQueue (s : State) (q : Nat) : State :=
  let k := queueOf s q
  if k.state ≠ .stopped ∨ k.cancelTo.isSome ∨ k.disabling then s
  else
    let s := tailSettle s q
    match readTail s q with
    | .error e =>
      if e.wait then modQueue s q fun k => { k with cancelAsked := true, wake := true, woken := k.woken || k.lineHeld, lineHeld := false }
      else
        let k := { k with cancelAsked := false, wake := false, woken := false, lineHeld := false }
        let s := k.queued.foldl (fun s c => unrun s q c .cancelled) (setQueue s q { k with queued := [] })
        stopQueue (noteErr s e) q e.status
    | .ok t =>
      let k := { k with tail := t, cancelAsked := false, wake := false, woken := false, lineHeld := tailCoherent s q }
      let s := k.queued.foldl (fun s c => unrun s q c .cancelled) (setQueue s q { k with queued := [] })
      if (t - qFetch s q).toNat > qSize s q then stopQueue s q .cqTailBad
      else cancelStep (modQueue s q fun k => { k with cancelTo := some t }) q

/-- TAIL_WAKE (R313): a held tail line of an enabled queue was invalidated, or a read of it that waited can be made; the engine reads
TAIL again. A wake that finds it unchanged is counted. -/
def execTailWake (q : Fin 4096) (s : State) : Out :=
  let k := queueOf s q.val
  if (!k.lineHeld ∧ !k.wake) ∨ k.disabling ∨ k.state = .disabled then .next s
  else if k.cancelAsked then .next (cancelQueue s q.val)
  else if (k.lineHeld || k.woken) && (match readTail s q.val with | .ok t => decide (t = k.tail) | .error _ => false) then
    .next (rbump (if k.lineHeld then s else takeTail s q.val) .cqSpurious 1)
  else .next (takeTail s q.val)

/-- TAIL_POLL (R314): the interval of CQ_POLL_CTRL has passed for an enabled queue that is polled. -/
def execTailPoll (q : Fin 4096) (s : State) : Out :=
  let k := queueOf s q.val
  let interval := max 1 (rfld s .cqPollCtrl 0 16)
  if k.state = .disabled ∨ k.disabling ∨ (!rbit s (.cqCtrl q.val) 1 && tailCoherent s q.val) ∨ s.localNs < k.pollNs + 1000 * interval then .next s
  else .next (takeTail (modQueue s q.val fun k => { k with pollNs := s.localNs }) q.val)

/-- COMMAND_FETCH (R315, R316, R657): the engine copies the record of slot F; during a cancel the record completes with
CANCELLED at once. A slot that cannot be read stops the queue, and F stays. -/
def execCommandFetch (q : Fin 4096) (s : State) : Out :=
  let k := queueOf s q.val
  let f := qFetch s q.val
  let cancelling := k.cancelTo.isSome
  let target := match k.cancelTo with | some t => t | none => k.tail
  if k.disabling ∨ f = target ∨ (!cancelling && decide (k.state ≠ .running)) ∨ (cancelling && decide (k.state ≠ .stopped))
      ∨ k.queued.length ≥ 32 ∨ queuedTotal s ≥ 16384 then .next s
  else
    let s := ringSettle s q.val (f.toNat % qSize s q.val * 128) 128
    match ringRead s q.val (f.toNat % qSize s q.val * 128) 128 with
    | .error e => .next (if e.wait then s else cancelEnd (stopQueue (noteErr s e) q.val e.status) q.val)
    | .ok bs =>
      let c : CmdRec := { seq := f, raw := BitVec.ofNat 1024 (leNat bs) }
      let s := setFetch s q.val (f + 1)
      if cancelling then .next (cancelStep (unrun s q.val c .cancelled) q.val)
      else .next (modQueue s q.val fun k => { k with queued := k.queued ++ [c] })

/-- COMMAND_CHECK (R319, R334): a command at the head of its queue that fails a check or waits on a marked counter completes
without running. -/
def execCommandCheck (q : Fin 4096) (s : State) : Out :=
  let k := queueOf s q.val
  match k.queued with
  | [] => .next s
  | c :: rest =>
    if k.state ≠ .running ∨ k.disabling ∨ (k.flight.any fun f => !f.started && decide (f.status ≠ .cancelled)) then .next s
    else match headFault s q.val c with
      | none => .next s
      | some st => .next (unrun (modQueue s q.val fun k => { k with queued := rest }) q.val c st)

/-- Whether a command makes a claim on cumulus or falls back (R402, R404): a reduction with CUM 1. -/
def wantsClaim (c : CmdRec) : Bool := decide (cmdKind c = 0x05) && decide (cmdFld c 0x50 16 4 ≤ 1) && decide (cmdFld c 0x50 24 1 = 1)

/-- The reductions that have started and whose claim is still to be made, in the order of their starts (R403). -/
def claimsDue (s : State) : List (Nat × Word32) :=
  s.coll.starts.filter fun x => (queueOf s x.1).flight.any fun f => decide (f.cmd.seq = x.2) && wantsClaim f.cmd && !f.begun && !f.done

/-- COMMAND_START (R322, R323): the command at the head of a queue starts, in its turn among the queues that need the same
resource, and takes its copy unit, its cores, its place in the seal table (R408) and its turn to claim (R403). -/
def execCommandStart (q : Fin 4096) (s : State) : Out :=
  match canStart s q.val with
  | none => .next s
  | some c =>
    if !startsFirst s q.val c then .next s
    else
      let (s, tf) := if cmdNb c then fireFlags s (cmdWord c 0x08).toNat else (s, 0)
      let copy := if isCopyKind (cmdKind c) then some (qCopy s q.val) else none
      let f : Flight := { cmd := c, kindBlk := kindStart c, timeFlags := tf, startNs := s.localNs, tried := s.localNs, copyUnit := copy, svt := rget s .cumSvtBase,
                          launched := (neededCores s c).map fun x => (x, (physOf s x).getD 0) }
      let s := { s with lastGrant := q.val }
      let s := if cmdKind c = 0x05 then sealEvict s (cmdWord c 0x48) else s
      let s := if wantsClaim c then { s with coll := { s.coll with starts := claimsDue s ++ [(q.val, c.seq)] } } else s
      let s := modQueue s q.val fun k => { k with queued := k.queued.drop 1, flight := k.flight ++ [f] }
      .next (match copy with
        | none => s
        | some cl => setCluster s cl { clusterOf s cl with copyCmd := some (q.val, c.seq) })

/-- The resources of a command are free again. -/
def releaseFlight (s : State) (q : Nat) (f : Flight) : State :=
  match f.copyUnit with
  | none => s
  | some cl =>
    let s := stageRelease s cl (.copyUnit q f.cmd.seq)
    let k := clusterOf s cl
    setCluster s cl (if k.copyCmd = some (q, f.cmd.seq) then { k with copyCmd := none } else k)

/-- A collective's claim ends with its command (R403, R405): slots due for it are retired. -/
def releaseClaim (s : State) (q : Nat) (seq : Word32) : State :=
  match collOf s q seq with
  | none => s
  | some cl =>
    let s := rbump (putColl s { cl with slots := 0, retire := [] }) (.cumCtr 9) cl.retire.length
    { s with coll := { s.coll with retired := cl.retire.foldl (fun l x => setAdd x l) s.coll.retired } }

/-- The kind block of a COLLECTIVE that began (R416): chunks confirmed, slots claimed, the reason of the first taint, and WAIT_US and CAP_US
in whole µs; WAIT_US is added to the waits of the queue's partition (R417). -/
def collReport (s : State) (q : Nat) (f : Flight) : State :=
  match collOf s q f.cmd.seq with
  | none => s
  | some cl =>
    if !f.begun ∨ cmdKind f.cmd ≠ 0x05 then s
    else
      let reason := match entryOf s cl.ref with | some e => if e.attempt = cl.attempt then e.reason.toNat else 0 | none => 0
      let us (ns : Nat) : Nat := min (ns / 1000) (2 ^ 32 - 1)
      let s := modFlight s q f.cmd.seq fun f => { f with
        kindBlk := BitVec.ofNat 128 (fields [(0, cl.checked % 2 ^ 32), (32, nfld f.kindBlk.toNat 32 13), (48, reason), (64, us cl.waitNs), (96, us cl.capNs)]) }
      rbump s (.cumPartWait (qPart s q)) (us cl.waitNs)

/-- Step 2 of R324, and the queue's stop on a failure (R328): in a queue that runs it leaves RUNNING. A command that a CANCEL took
stops nothing (R657). -/
def finishWork (s : State) (q : Nat) (f : Flight) : State :=
  let st := flightStatus f
  let s := (flightClusters s q f).foldl (fun s c => setCluGov s c { cluGovOf s c with idleSince := s.localNs }) s
  let s := releaseClaim (collReport (releaseFlight s q f) q f) q f.cmd.seq
  let s := applySignals s f.cmd st
  let s := modFlight s q f.cmd.seq fun x => { x with signalled := true, launched := [] }
  if succeeds st || decide (st = .cancelled) then s else stopQueue s q st

/-- Steps 3 and 4 of R324: the record of the oldest command. A record that cannot be written is lost and stops the queue;
records of a queue of a lost host link are discarded (R524). -/
def writeRecord (s : State) (q : Nat) (f : Flight) : State :=
  let k := queueOf s q
  let s := setQueue s q { k with flight := k.flight.drop 1 }
  let r := rget s (.cqCompl q)
  if k.shut then disableIfEmpty s q
  else
    let (s', e) := hdWrite s (ptrHost r) (ptrAddr r 12 + f.cmd.seq.toNat % qSize s q * 64) (completionBytes s f)
    let count (s : State) : State := rset s (.cqCompleted q) (((rget s (.cqCompleted q)).extractLsb' 0 32 + 1).setWidth 64)
    match e with
    | some e => disableIfEmpty (count (stopQueue (noteErr s e) q e.status)) q
    | none => disableIfEmpty (count (if cmdFld f.cmd 0 10 1 = 1 then sendMsix s' (qVector s q) else s')) q

/-- Whether the slot of a completion record waits for a back-invalidate (R510) or a holding slot. -/
def recordWaits (s : State) (q : Nat) (f : Flight) : Bool :=
  let r := rget s (.cqCompl q)
  match (hdWrite s (ptrHost r) (ptrAddr r 12 + f.cmd.seq.toNat % qSize s q * 64) (completionBytes s f)).2 with
  | some e => e.wait
  | none => false

/-- COMMAND_FINISH (R324, R327, R328): a command whose work is done applies its signals; once it is the oldest of its queue its
record is written, and its MSI-X message sent. -/
def execCommandFinish (q : Fin 4096) (seq : Word32) (s : State) : Out :=
  match flightOf s q.val seq with
  | none => .next s
  | some f =>
    if !f.done || stewardsHalted s f.cmd then .next s
    else
      let s := if f.signalled then s else finishWork s q.val f
      match (queueOf s q.val).flight with
      | g :: _ => if g.cmd.seq = seq ∧ !recordWaits s q.val g then .next (writeRecord s q.val g) else .next s
      | [] => .next s

/-- RESUME (R328, R620): a STOPPED queue runs again from the first command not started; its tail line is read again. -/
def resumeQueue (s : State) (q : Nat) : State :=
  let k := queueOf s q
  if k.state ≠ .stopped ∨ k.cancelTo.isSome ∨ k.cancelAsked ∨ k.disabling then s
  else takeTail (setQueue s q { k with state := .running, lineHeld := false, wake := false, woken := false }) q

def execResume (q : Fin 4096) (s : State) : Out := .next (resumeQueue s q.val)

/-- CANCEL (R657, R620): the bit is written. -/
def execCancel (q : Fin 4096) (s : State) : Out := .next (cancelQueue s q.val)

/-- Whether a partition is mapped onto a die (R329). -/
def partOnDie (s : State) (p n : Nat) : Bool := (upto (16 * n) 16).any fun c => partHas s p c

/-- QUEUE_ENABLE (R328): a DISABLED queue holds its line, reads TAIL and runs; one whose partition is mapped onto a die out of service
is FAILED (R329), a FAILED one stays FAILED, and while a disable runs its course the write has no effect (R658). -/
def enableQueue (s : State) (q : Nat) : State :=
  let k := queueOf s q
  if k.disabling then s
  else
    let s := rsetFld s (.cqCtrl q) 0 1 1
    let lost := (upto 0 4).any fun n => partOnDie s (qPart s q) n && !dieServes s n
    if k.state = .disabled then takeTail (setQueue s q { k with state := if lost then .failed else .running, pollNs := s.localNs }) q else s

def execQueueEnable (q : Fin 4096) (s : State) : Out := .next (enableQueue s q.val)

/-- QUEUE_DISABLE (R658, R328): fetching stops, commands not started are dropped and F goes back to the first of them; the
queue enters DISABLED once its last started command has its record. -/
def disableQueue (s : State) (q : Nat) : State :=
  let s := rsetFld s (.cqCtrl q) 0 1 0
  let k := queueOf s q
  if k.state = .disabled then s
  else
    let s := match k.queued with | [] => s | c :: _ => setFetch s q c.seq
    disableIfEmpty (setQueue s q { k with queued := [], disabling := true, cancelTo := none, cancelAsked := false }) q

def execQueueDisable (q : Fin 4096) (s : State) : Out := .next (disableQueue s q.val)

/-! ## Events (R331 to R335) -/

/-- EVENT_ADVANCE (R333): the event unit applies the advances that meet in one cycle, to one counter: the adds first, then the
largest raise-to. -/
def execEventAdvance (ctr : Half) (adds raises : List Word64) (s : State) : Out :=
  let s := adds.foldl (fun s v => evtAdd s ctr.toNat v) s
  .next (raises.foldl (fun s v => evtRaise s ctr.toNat v) s)

/-- EVT_FAULT_CLEAR (R334): the driver clears the fault mark of a counter. -/
def execEvtFaultClear (ctr : Half) (s : State) : Out :=
  .next { s with evtFault := tset (fun _ => none) s.evtFault ctr.toNat none }

end Sys2Proof.Machine
end

