-- ==== Sys2Proof/Machine/CmdRows.lean ====
section
/-! DEFINITION. The work of the queue commands (spec/05, 06, 09, 10, 12): each works on a started command of a queue, named
by its sequence number. -/
namespace Sys2Proof.Machine

/-- The started command of a kind that has not done its work yet. -/
def workOf (s : State) (q : Nat) (seq : Word32) (kind : Nat) : Option Flight :=
  match flightOf s q seq with
  | some f => if f.started && !f.done && decide (cmdKind f.cmd = kind) then some f else none
  | none => none

/-- A command fails on an access (R569): the record names it. -/
def cmdFail (s : State) (q : Nat) (seq : Word32) (e : Err) : State :=
  flightDone (forCommand q seq s (reportErr s e)) q seq e.status

/-- A command's access waits: in the park queue when it needs a holding slot (R279). -/
def cmdWait (s : State) (q : Nat) (seq : Word32) (e : Err) : State :=
  match e.park with
  | some a => parkWait s (cmdOrigin + q) seq.toNat a
  | none => s

/-- Read the descriptor that a pointer names (R318, R512). -/
def ptrDesc (s : State) (p : Word64) : Except Err (BitVec 1024) :=
  if ptrHost p ∧ nfld p.toNat 57 6 ≠ 0 then .error { status := .descBad }
  else match hdRead s (ptrHost p) (ptrAddr p 7) 128 with
    | .error e => .error e
    | .ok bs => .ok (BitVec.ofNat 1024 (leNat bs))

def ptrDescs (s : State) : List Word64 → Except Err (List (BitVec 1024))
  | [] => .ok []
  | p :: t =>
    match ptrDesc s p, ptrDescs s t with
    | .error e, _ => .error e
    | _, .error e => .error e
    | .ok d, .ok l => .ok (d :: l)

/-- The words that pointers name are corrected as they are read (R263). -/
def ptrSettle (s : State) (ps : List Word64) : State := ps.foldl (fun s p => hdSettle s (ptrHost p) (ptrAddr p 7) 128) s

/-! ## Copies, gathers and scatters (R155, R167 to R184) -/

/-- Run a checked movement on the copy unit of a cluster. -/
def moveWork (s : State) (q : Nat) (f : Flight) (cl : Nat) (kind : MoveKind) (num : Word64) (ts : List Tensor) : State :=
  let nc := (numCtrl num).getD ⟨0, .nearest, 1⟩
  let r := moveRun none s (copyUnit cl) nc kind ts
  let wait := match r.err with | some e => e.wait | none => false
  if wait then (match r.err with | some e => cmdWait s q f.cmd.seq e | none => s)
  else
    let s1 := countOvl r.st cl (moveOvl kind ts)
    let s1 := rbump (rbump s1 (.cluCopyCtr cl 0) r.bytes) (.cluCopyCtr cl 6) r.oor
    let s1 := match kind with | .scatter _ _ true => rbumpFree s1 (.cluCopyCtr cl 5) | _ => s1
    let s1 := modFlight s1 q f.cmd.seq fun f => { f with num := r.num, kindBlk := if kind = .copy then 0 else BitVec.ofNat 128 (idxBlockBits r.idx) }
    match r.err with
    | some e => cmdFail s1 q f.cmd.seq e
    | none => flightDone s1 q f.cmd.seq .success

/-- The work of a COPY, GATHER or SCATTER: its descriptors are read and checked, the staging area is asked for when its overlap
needs it, and the data moves. -/
def moveCommand (s : State) (q : Nat) (f : Flight) (kind : MoveKind) (ptrs : List Word64) (num : Word64) : State :=
  let cl := f.copyUnit.getD 0
  let seq := f.cmd.seq
  if !dieServes s (clusterDie cl) then flightDone s q seq .dieLost
  else if !clusterRuns s cl then s
  else
    let s := if f.begun then s else ptrSettle s ptrs
    let ds := if f.begun then .ok f.descs else ptrDescs s ptrs
    match ds with
    | .error e => if e.wait then cmdWait s q seq e else cmdFail s q seq e
    | .ok raws =>
      match moveFault none kind (fun _ => false) num (raws.map parseDesc) with
      | some st => flightDone s q seq st
      | none =>
        let ts := raws.map fun r => tensorOf none (parseDesc r)
        let s := modFlight s q seq fun f => { f with begun := true, descs := raws }
        if moveEmpty kind ts then moveWork s q f cl kind num ts
        else if !reachesAll s (clusterDie cl) kindCopy ts then s
        else if moveOvl kind ts = .staged then
          if stageHeld s cl (.copyUnit q seq) then moveWork s q f cl kind num ts else stageRequest s cl (.copyUnit q seq)
        else moveWork s q f cl kind num ts

/-- COPY (R167). -/
def execCopy (q : Fin 4096) (seq : Word32) (s : State) : Out :=
  match workOf s q.val seq 0x01 with
  | none => .next s
  | some f => .next (moveCommand s q.val f .copy [cmdWord f.cmd 0x40, cmdWord f.cmd 0x48] (cmdWord f.cmd 0x50))

def indexPtrs (c : CmdRec) : List Word64 := [cmdWord c 0x40, cmdWord c 0x48, cmdWord c 0x50]
def indexDim (c : CmdRec) : BitVec 3 := BitVec.ofNat 3 (cmdFld c 0x60 0 3)
def indexMode (c : CmdRec) : BitVec 2 := BitVec.ofNat 2 (cmdFld c 0x60 3 2)

/-- GATHER (R172). -/
def execGather (q : Fin 4096) (seq : Word32) (s : State) : Out :=
  match workOf s q.val seq 0x02 with
  | none => .next s
  | some f => .next (moveCommand s q.val f (.gather (indexDim f.cmd) (indexMode f.cmd)) (indexPtrs f.cmd) (cmdWord f.cmd 0x58))

/-- SCATTER (R172, R176). -/
def execScatter (q : Fin 4096) (seq : Word32) (s : State) : Out :=
  match workOf s q.val seq 0x03 with
  | none => .next s
  | some f =>
    let kind : MoveKind := .scatter (indexDim f.cmd) (indexMode f.cmd) (decide (cmdFld f.cmd 0x60 5 1 = 1))
    .next (moveCommand s q.val f kind (indexPtrs f.cmd) (cmdWord f.cmd 0x58))

/-! ## Tile programs (R215 to R218, R321) -/

/-- Whether a launch address breaks R216 for a read of `len` bytes. -/
def launchBad (a : Word64) (code : Bool) (len : Nat) : Bool :=
  let v := a.toNat
  if nbit v 63 then code || decide (nfld v 57 6 ≠ 0) || decide (v % 64 ≠ 0)
  else match nfld v 61 2 with
    | 1 => decide (nfld v 49 12 > 63) || decide (nfld v 0 49 + len > 0x800000) || decide (v % 64 ≠ 0)
    | 2 => decide (nfld v 49 12 ≠ 0) || decide (nfld v 0 49 + len > 2 ^ 41) || decide (v % 64 ≠ 0)
    | _ => true

/-- The die that a launch address lies on (R216). -/
def launchDie (a : Word64) : Option Nat :=
  let v := a.toNat
  if nbit v 63 then none
  else match nfld v 61 2 with
    | 1 => if nfld v 49 12 < 64 then some (clusterDie (nfld v 49 12)) else none
    | 2 => if nfld v 0 49 < 2 ^ 41 then some (devStack (nfld v 0 49) / 8) else none
    | _ => none

/-- The launch fields of a TILE_PROGRAM outside R215 and R216. -/
def progBad (c : CmdRec) : Bool :=
  let codeLen := cmdFld c 0x60 0 13
  let argLen := cmdFld c 0x60 13 13
  decide (codeLen = 0) || decide (codeLen > 4096) || decide (argLen > 4096) || decide (argLen % 8 ≠ 0)
    || decide (64 * cmdFld c 0x60 26 13 + argLen > 0x80000) || launchBad (cmdWord c 0x40) true (8 * codeLen)
    || (decide (argLen ≠ 0) && launchBad (cmdWord c 0x48) false argLen)

/-- A core takes the launch of a program (R215): the command begins, so that its planes are EMPTY and its grids stand (R82, R108). -/
def launchCore (s : State) (q : Nat) (c : CmdRec) (p rank size : Nat) : State :=
  let k := coreOf s p
  setCore s p { k with
    phase := .loading, ended := false, numCmd := [], cmdQueue := q, cmdSeq := c.seq, partition := BitVec.ofNat 8 (qPart s q), rank := rank
    setSize := size, timeLimit := BitVec.ofNat 32 (cmdFld c 0x68 0 32), codeAddr := cmdWord c 0x40, codeLen := cmdFld c 0x60 0 13
    argAddr := cmdWord c 0x48, argLen := cmdFld c 0x60 13 13, argOffset := 64 * cmdFld c 0x60 26 13
    adapterOnly := decide (cmdFld c 0 11 1 = 1), fe := {}, be0 := {}, be1Clocked := false }

/-- TILE_PROGRAM (R321, R326): the core maps are read, and the program is launched on the set. A set on a lost die, an absent
core and launch fields outside their ranges end the command before any core starts, in this order, which the spec does not state
(DESIGN CHOICE, log entry 21). -/
def execTileProgram (q : Fin 4096) (seq : Word32) (s : State) : Out :=
  match workOf s q.val seq 0x04 with
  | none => .next s
  | some f =>
    let c := f.cmd
    if f.begun then .next s
    else if (maskClusters c).any (fun i => !dieServes s (clusterDie i))
        || (launchAddrs c).any (fun a => match launchDie a with | some n => !dieServes s n | none => false) then
      .next (flightDone s q.val seq .dieLost)
    else
      let present := (setCores c).filter fun x => (physOf s x).isSome
      if cmdFld c 0x68 32 1 = 0 ∧ present.length ≠ (setCores c).length then .next (flightDone s q.val seq .coreAbsent)
      else match present with
        | [] => .next (flightDone s q.val seq .success)
        | first :: _ =>
          if progBad c then
            -- every core of the set reports the end of a program that failed before its first instruction (R215, R221, R222)
            let s := present.foldl (fun s x => modCore s ((physOf s x).getD 0) fun k =>
              { k with lastStatus := .progBad, faulted := true, pc := 0, endPc := 0 }) s
            .next (modFlight s q.val seq fun f => { f with begun := true, done := true, launched := [], failCore := some (first, .progBad, 0) })
          else
            let s := modFlight s q.val seq fun f => { f with begun := true, launched := present.map fun x => (x, (physOf s x).getD 0) }
            .next ((present.mapIdx fun i x => (i, x)).foldl (fun s (x : Nat × Nat) =>
              launchCore s q.val c ((physOf s x.2).getD 0) x.1 present.length) s)

/-! ## Collectives (R389 to R409) -/

/-- The member list (R390): each entry's first and last words, and the descriptor pointers. -/
def memberList (s : State) (c : CmdRec) : Except Err (List (Nat × Nat × Word64 × Word64)) :=
  let r := cmdWord c 0x40
  if ptrHost r ∧ nfld r.toNat 57 6 ≠ 0 then .error { status := .descBad }
  else match hdRead s (ptrHost r) (ptrAddr r 7) (32 * (cmdFld c 0x50 0 16 + 1)) with
    | .error e => .error e
    | .ok bs => .ok ((chunks 32 65536 bs).map fun e =>
        (leNat (e.take 8), leNat (e.drop 24), BitVec.ofNat 64 (leNat ((e.drop 8).take 8)), BitVec.ofNat 64 (leNat ((e.drop 16).take 8))))

/-- Elements that SRC and DST of a member have (R391). -/
def memberSizes (op n P i : Nat) : Nat × Nat :=
  match op with
  | 1 => (n, shareLen n P i)
  | 2 => (shareLen n P i, n)
  | _ => (n, n)

/-- N, from one local member's descriptors (R391). -/
def collElems (op : Nat) (src dst : Desc) : Nat := if op ≤ 1 ∨ op = 3 then elemCount src else elemCount dst

/-- Elementary faults of a member's descriptor (R391, R653); R240 does not list a collective among those that write into the bit-set and
bit-clear windows. -/
def collDescFault (f : Nat) (dst : Bool) (d : Desc) : Option Status :=
  let all : List Fmt := [.f64, .f32, .g16, .h16, .g8, .k8]
  match checkDesc none { coll := true, source := !dst, plain := dst, formats := all.filter fun x => decide ((fmtCode x).toNat = f) } d with
  | .error st => some st
  | .ok _ => none

/-- SRC and DST of one member: ranges of one memory that overlap (R392). -/
def collOverlap (op : Nat) (src dst : BitVec 1024) : Bool :=
  if (op = 0 ∨ op = 4) ∧ src = dst then false else overlaps (memberTensor src) (memberTensor dst)

/-- The checks of R390 to R394 that need no descriptor. -/
def collBodyFault (s : State) (q : Nat) (c : CmdRec) (es : List (Nat × Nat × Word64 × Word64)) : Option Status :=
  let op := cmdFld c 0x50 16 4
  let ref := cmdWord c 0x48
  let attempt := cmdFld c 0x50 32 8
  let mine := es.filter fun e => decide (nfld e.1 48 16 = (ownNode s).toNat)
  let units := mine.map fun e => nfld e.1 36 12
  let aligned (p : Word64) : Bool := decide (nfld p.toNat 0 7 = 0)
  firstFail [
    (mine.all (fun e => aligned e.2.2.1 && aligned e.2.2.2), .cmdBad),
    (decide (ref ≠ 0) && decide (op ≤ 4) && decide (cmdFld c 0x50 40 16 ≤ cmdFld c 0x50 0 16), .collBad),
    (mine.all (fun e => decide (nfld e.1 0 36 = 0) && decide (e.2.1 = 0)), .collBad),
    (decide ((es.map fun e => e.1 / 2 ^ 36).Nodup), .collBad),
    (!(s.coll.colls.any fun cl => decide (cl.tag = ref.extractLsb' 0 16) &&
        (match entryOf s cl.ref with | some e => decide (e.st = .opened) && decide (e.attempt = cl.attempt) | none => false)), .collBad),
    (match entryOf s ref with | some e => decide (e.attempt.toNat < attempt) | none => true, .collBad),
    (decide (mine ≠ []), .collBad),
    (units.all (fun u => partHas s (qPart s q) (u / 64)), .partDenied),
    (units.all (fun u => dieServes s (clusterDie (u / 64))), .dieLost),
    (units.all (fun u => (physOf s u).isSome), .coreAbsent),
    ((numCtrl (cmdWord c 0x58)).isSome, .numCtrlBad)]

/-- The checks of the local members' descriptors, and of the number of chunks (R394), in list order; `ms` holds index, SRC and DST. The
FMT of the body comes first, and COLL_BAD of R392 and R394 between DESC_SHAPE_BAD and DESC_DEST_BROADCAST: the spec gives these no
place (DESIGN CHOICE, log entry 20). -/
def collMemberFault (op f P : Nat) (ms : List (Nat × BitVec 1024 × BitVec 1024)) : Option Status :=
  let n := match ms with | (_, a, b) :: _ => collElems op (parseDesc a) (parseDesc b) | [] => 0
  let okFmt : Bool := match fmtOfCode (BitVec.ofNat 4 f) with
    | some x => if op ≤ 1 then decide (x = .g16) || decide (x = .f32) else [Fmt.f64, .f32, .g16, .h16, .g8, .k8].contains x
    | none => false
  firstStatus ([if okFmt then none else some .formatBad]
    ++ ms.map (fun (_, a, b) => firstStatus [
        collDescFault f false (parseDesc a), collDescFault f true (parseDesc b)])
    ++ ms.map (fun (i, a, b) =>
        let (sa, sb) := memberSizes op n P i
        if elemCount (parseDesc a) = sa ∧ elemCount (parseDesc b) = sb then none else some .descShapeBad)
    ++ [match fmtOfCode (BitVec.ofNat 4 f) with
        | some x => if firstChunk x n P P ≤ 0xFFFFFFFE then none else some .collBad
        | none => none]
    ++ ms.map (fun (_, a, b) => if collOverlap op a b then some .collBad else none)
    ++ ms.map (fun (_, _, b) => if destBroadcast (parseDesc b) then some .descDestBroadcast else none))

/-- A member's core runs the supplied program, from the start state of R217 (R393). -/
def memberStart (s : State) (cl : Coll) (m : Nat) : State :=
  match physOf s (memberAt cl m).unit.toNat with
  | none => s
  | some p =>
    let k := coreOf s p
    setCore s p { startState { k with codeLen := 0, argOffset := 0, rank := m, setSize := cl.size } (memberAt cl m).unit.toNat [] s.localNs with
      inColl := true, cmdQueue := cl.q, cmdSeq := cl.seq, partition := BitVec.ofNat 8 (qPart s cl.q), faulted := false }

/-- Start a checked collective: its seal-table entry, its claim or its fallback, its members. -/
def collStart (s : State) (q : Nat) (f : Flight) (es : List (Nat × Nat × Word64 × Word64)) (ms : List (Nat × BitVec 1024 × BitVec 1024)) : State :=
  let c := f.cmd
  let ref := cmdWord c 0x48
  let attempt := BitVec.ofNat 8 (cmdFld c 0x50 32 8)
  let op := cmdFld c 0x50 16 4
  let width := cmdFld c 0x50 25 4 + 1
  let n := match ms with | (_, a, b) :: _ => collElems op (parseDesc a) (parseDesc b) | [] => 0
  let member (i : Nat) (e : Nat × Nat × Word64 × Word64) : Member :=
    let d := (ms.find? fun (x : Nat × BitVec 1024 × BitVec 1024) => decide (x.1 = i)).map (·.2)
    { node := BitVec.ofNat 16 (nfld e.1 48 16), unit := BitVec.ofNat 12 (nfld e.1 36 12), src := (d.map (·.1)).getD 0, dst := (d.map (·.2)).getD 0
      sinceNs := s.localNs, copied := d.isNone || decide (n = 0), ended := d.isNone || decide (n = 0) || decide (es.length = 1) }
  let cl0 : Coll := {
    q := q, seq := c.seq, ref := ref, attempt := attempt, op := op, fmt := (fmtOfCode (BitVec.ofNat 4 (cmdFld c 0x50 20 4))).getD .f32
    width := width, root := cmdFld c 0x50 40 16, num := cmdWord c 0x58, timeoutUs := cmdFld c 0x60 0 32, elems := n
    members := es.mapIdx member, progressNs := s.localNs }
  let want := width * ((runsOf s cl0).length + 1)
  let wants := wantsClaim c
  let claimed := wants && decide (want ≤ freeSlots s) && !rbit s .cumCtrl 0
  let cl : Coll := { cl0 with slots := if claimed then want else 0, fallback := wants && !claimed }
  let s := if claimed then rbump s (.cumCtr 0) 1 else if wants then rbump s (.cumCtr 1) 1 else s
  let entry : SealEntry := { ref := ref, attempt := attempt, openNs := s.localNs }
  let s := { s with coll := { s.coll with
    entries := (s.coll.entries.filter fun e => decide (e.ref ≠ ref)) ++ [entry]
    colls := (s.coll.colls.filter fun x => !((decide (x.ref = ref) && decide (x.slots = 0)) || (decide (x.q = q) && decide (x.seq = c.seq)))) ++ [cl] } }
  let s := modFlight s q c.seq fun f => { f with begun := true, launched := [], kindBlk := BitVec.ofNat 128 (cl.slots * 2 ^ 32) }
  if n = 0 then sealPackage s cl
  else
    let mine := ownMembers s cl
    let s := if es.length = 1 then s else mine.foldl (fun s m => memberStart s cl m) s
    collAdvance s q c.seq

/-- What the shard version table says of a gather that starts (R431). -/
inductive ShardRes where
  | bad (e : Err)
  | stale
  | run (s : State) (newer : Bool)
deriving DecidableEq, Repr

/-- Read and act on the shard version entry of an ALL_GATHER (R428 to R433), in the table that was in force at its start (R438). -/
def shardCheck (s : State) (op : Nat) (ref svt : Word64) : ShardRes :=
  if op ≠ 2 ∨ !nbit svt.toNat 63 then .run s false
  else
    let a := nfld svt.toNat 19 22 * 2 ^ 19 + 8 * nfld ref.toNat 0 16
    let s := devSettle s a 8
    match devRead s a 8 with
    | .error e => .bad e
    | .ok bs =>
      let v := leNat bs
      if !nbit v 63 then .run s false
      else if nfld v 49 12 ≠ 0 ∨ nfld v 16 16 ≠ 0 ∨ nfld v 61 2 = 3 then .bad { status := .collBad }
      else
        let own := nfld v 0 16
        let fwd := nfld v 32 16
        let same := nbit v 48 && decide (own = fwd)
        let ahead := (own + 65536 - fwd) % 65536
        let record (newer : Bool) : ShardRes :=
          match devWrite s (a + 4) (leBytes 2 own ++ [BitVec.ofNat 8 1]) with
          | (_, some e) => .bad e
          | (s', none) => .run (if newer then rbump s' (.cumCtr 11) 1 else s') newer
        match nfld v 61 2 with
        | 0 => record false
        | 1 => if same then .run s false else .stale
        | _ => if same then .run s false
               else if nbit v 48 && decide (1 ≤ ahead) && decide (ahead ≤ 32767) then record true else .stale

/-- COLLECTIVE (R391 to R394, R402 to R404): the body, the member list and the local descriptors are checked, a reduction claims in its turn
(R403), and the local members run the supplied program. -/
def execCollective (q : Fin 4096) (seq : Word32) (s : State) : Out :=
  match workOf s q.val seq 0x05 with
  | none => .next s
  | some f =>
    if f.begun then .next (collAdvance s q.val seq)
    else if (claimsDue s).contains (q.val, seq) && decide ((claimsDue s).head? ≠ some (q.val, seq)) then .next s
    else
      let s := hdSettle s (ptrHost (cmdWord f.cmd 0x40)) (ptrAddr (cmdWord f.cmd 0x40) 7) (32 * (cmdFld f.cmd 0x50 0 16 + 1))
      match memberList s f.cmd with
      | .error e => .next (if e.wait then s else cmdFail s q.val seq e)
      | .ok es =>
        match collBodyFault s q.val f.cmd es with
        | some st => .next (flightDone s q.val seq st)
        | none =>
          let mine := (es.mapIdx fun i e => (i, e)).filter fun x => decide (nfld x.2.1 48 16 = (ownNode s).toNat)
          let s := ptrSettle s (mine.flatMap fun x => [x.2.2.2.1, x.2.2.2.2])
          match ptrDescs s (mine.flatMap fun x => [x.2.2.2.1, x.2.2.2.2]) with
          | .error e => .next (if e.wait then s else cmdFail s q.val seq e)
          | .ok raws =>
            let ms := (mine.mapIdx fun j x => (x.1, raws.getD (2 * j) 0, raws.getD (2 * j + 1) 0))
            let op := cmdFld f.cmd 0x50 16 4
            match collMemberFault op (cmdFld f.cmd 0x50 20 4) es.length ms with
            | some st => .next (flightDone s q.val seq st)
            | none => match shardCheck s op (cmdWord f.cmd 0x48) f.svt with
              | .bad e => .next (if e.wait then s else cmdFail s q.val seq e)
              | .stale =>
                let ref := cmdWord f.cmd 0x48
                let attempt := BitVec.ofNat 8 (cmdFld f.cmd 0x50 32 8)
                let s := rbump s (.cumCtr 10) 1
                let s := applyTaint (sendTaint s ref attempt noChunk (statusCode .shardStale)) ref attempt noChunk (statusCode .shardStale) true
                .next (modFlight (flightDone s q.val seq .shardStale) q.val seq fun f => { f with kindBlk := BitVec.ofNat 128 ((statusCode .shardStale).toNat * 2 ^ 48) })
              | .run s newer =>
                let s := if newer then modFlight s q.val seq fun f => { f with status := .shardNewer } else s
                .next (collStart s q.val f es ms)

/-! ## Update (R289 to R291, R410) -/

/-- The group pointer of an UPDATE (R289, R290). -/
def groupPtrBad (p : Word64) : Bool := decide (p.toNat % 128 ≠ 0) || decide (p.toNat ≥ 2 ^ 41)

/-- UPDATE (R289, R291, R410): the group record is read and checked; once the reduction it names is sealed the units take its
blocks. -/
def execUpdate (q : Fin 4096) (seq : Word32) (s : State) : Out :=
  match workOf s q.val seq 0x06 with
  | none => .next s
  | some f =>
    let c := f.cmd
    if f.begun then .next s
    else
      let s := if f.descs = [] then ptrSettle s [cmdWord c 0x40] else s
      let read : Except Err (BitVec 1024) :=
        match f.descs with
        | g :: _ => .ok g
        | [] => if groupPtrBad (cmdWord c 0x40) then .error { status := .updGroupBad } else ptrDesc s (cmdWord c 0x40)
      match read with
      | .error e => .next (if e.wait then s else cmdFail s q.val seq e)
      | .ok g =>
        let first := cmdFld c 0x50 0 32
        let count := cmdFld c 0x50 32 32
        match groupFault s (groupOf g) first count with
        | some st => .next (flightDone s q.val seq st)
        | none =>
          let s := if f.descs = [] then refetch (modFlight s q.val seq fun f => { f with descs := [g] }) (groupOf g) first count else s
          let ref := cmdWord c 0x58
          let go (key : Nat) : State :=
            let s := modFlight s q.val seq fun f => { f with begun := true }
            if count = 0 then flightDone s q.val seq .success
            else updEnter s q.val seq g (BitVec.ofNat 32 (cmdFld c 0x48 0 32)) first count key
          if ref = 0 then .next (go f.startNs)
          else match entryOf s ref with
            | none => .next s
            | some e =>
              match e.st with
              | .opened => .next (modFlight s q.val seq fun f => { f with tried := s.localNs })
              | .sealedOk => .next (go e.endNs)
              | _ => .next (flightDone s q.val seq e.status)

/-- COLL_REF_UNKNOWN (R410): the SEAL_REF of an UPDATE has named no entry for SEAL_WAIT µs. -/
def execCollRefUnknown (q : Fin 4096) (seq : Word32) (s : State) : Out :=
  match workOf s q.val seq 0x06 with
  | none => .next s
  | some f =>
    let wait := max 1 (rfld s .cumCtrl 32 32)
    if f.begun ∨ f.descs = [] ∨ cmdWord f.cmd 0x58 = 0 ∨ (entryOf s (cmdWord f.cmd 0x58)).isSome ∨ s.localNs < f.tried + 1000 * wait then .next s
    else .next (flightDone s q.val seq .collRefUnknown)

/-! ## Fences, events and time (R320, R325, R333) -/

/-- FENCE (R325): it completes at once. -/
def execFence (q : Fin 4096) (seq : Word32) (s : State) : Out :=
  match workOf s q.val seq 0x07 with
  | none => .next s
  | some _ => .next (flightDone s q.val seq .success)

/-- WAIT_EVENT (R320, R334): it completes once its waits hold; a wait on a marked counter ends it with the mark's status. -/
def execWaitEvent (q : Fin 4096) (seq : Word32) (s : State) : Out :=
  match workOf s q.val seq 0x08 with
  | none => .next s
  | some f =>
    if waitsHold s f.cmd then .next (flightDone s q.val seq .success)
    else match (upto 0 (cmdNwait f.cmd)).findSome? fun w =>
        if (evtOf s (waitCtr f.cmd w)).toNat < (waitVal f.cmd w).toNat then (evtMark s (waitCtr f.cmd w)).map markStatus else none with
      | some st => .next (flightDone s q.val seq st)
      | none => .next s

/-- EVT_TIMEOUT (R320): the TIMEOUT of a WAIT_EVENT has passed before its waits held. -/
def execEvtTimeout (q : Fin 4096) (seq : Word32) (s : State) : Out :=
  match workOf s q.val seq 0x08 with
  | none => .next s
  | some f =>
    let t := cmdFld f.cmd 0x40 0 32
    if t = 0 ∨ waitsHold s f.cmd ∨ s.localNs < f.startNs + 1000 * t then .next s
    else .next (flightDone s q.val seq .evtTimeout)

/-- SIGNAL_EVENT (R320, R333): every valid entry is applied. -/
def execSignalEvent (q : Fin 4096) (seq : Word32) (s : State) : Out :=
  match workOf s q.val seq 0x09 with
  | none => .next s
  | some f =>
    let s := (upto 0 4).foldl (fun s e =>
      let o := 0x40 + 16 * e
      if cmdFld f.cmd o 17 1 = 0 then s
      else if cmdFld f.cmd o 16 1 = 1 then evtRaise s (cmdFld f.cmd o 0 16) (cmdWord f.cmd (o + 8))
      else evtAdd s (cmdFld f.cmd o 0 16) (cmdWord f.cmd (o + 8))) s
    .next (flightDone s q.val seq .success)

/-- TIME_WAIT (R320, R342, R343): it completes once cluster time is AT, with the flags of that instant. -/
def execTimeWait (q : Fin 4096) (seq : Word32) (s : State) : Out :=
  match workOf s q.val seq 0x0A with
  | none => .next s
  | some f =>
    if s.time.now.toNat < (cmdWord f.cmd 0x40).toNat then .next s
    else
      let (s, tf) := fireFlags s (cmdWord f.cmd 0x40).toNat
      .next (flightDone (modFlight s q.val seq fun f => { f with timeFlags := f.timeFlags ||| tf }) q.val seq .success)

end Sys2Proof.Machine
end

