-- ==== Sys2Proof/Machine/TimeRows.lean ====
section
/-! DEFINITION. Cluster time (spec/10, R336 to R347): edges, messages, loss and return of the references, and the idle tick. -/
namespace Sys2Proof.Machine

def isMaster (s : State) : Bool := rbit s .timeCtrl 0
def setTime (s : State) (t : TimeUnit) : State := { s with time := t }

/-- ERR_BOUND (R341). -/
def errBound (s : State) : Nat :=
  let t := s.time
  let grown := t.lossBound + 99 * (s.localNs - t.lossNs) / 10 ^ 9
  match t.st with
  | .free => 0xFFFFFFFF
  | .locked => min 0xFFFFFFFF (10 + t.masterBound)
  | .slewing => min 0xFFFFFFFF (t.slew.natAbs + 10)
  | .holdover => min 0xFFFFFFFF grown
  | .unsync => min 0xFFFFFFFF grown

/-- A value that applies at an edge (R339): a step forward beyond 1 ms, a slew, or nothing. -/
def applyEdge (s : State) (v : Word64) : State :=
  let t := s.time
  let d : Int := (v.toNat : Int) - t.now.toNat
  if d > 1000000 then
    let s := { s with gov := { s.gov with lastEnd := max s.gov.lastEnd v.toNat } }
    rbump (setTime s { t with now := v, st := .locked, slew := 0, stepped := true, nextEdge := none, steps := t.steps ++ [(t.now.toNat, v.toNat)] })
      (.timeCtr 2) 1
  else if d.natAbs > 5 then setTime s { t with st := .slewing, slew := d, nextEdge := none }
  else setTime s { t with st := .locked, slew := 0, nextEdge := none }

/-- The multiple of 1,000,000 nearest to cluster time (R337). -/
def nearestMs (now : Word64) : Word64 := BitVec.ofNat 64 ((now.toNat + 500000) / 1000000 * 1000000)

/-- The payload of a time message: the edge it names and the master's bound (DESIGN CHOICE, log entry 12). -/
def timePayload (edge bound : Nat) : List Byte := leBytes 8 edge ++ leBytes 8 bound

/-- Nanoseconds to the next edge of TIMEPPS: a millisecond after the last one, or at cluster time's next multiple. -/
def edgeIn (s : State) : Nat :=
  match s.time.edgeNs with
  | some e => 1000000 - (s.localNs - e) % 1000000
  | none => 1000000 - s.time.now.toNat % 1000000

/-- TIME_MESSAGE_SEND (R338): each millisecond the master names the next edge and its bound, along tree 0, at least 500 µs before it. -/
def execTimeMessageSend (s : State) : Out :=
  let t := s.time
  let edge := match t.nextEdge with | some v => v.toNat | none => (nearestMs (t.now + BitVec.ofNat 64 (edgeIn s))).toNat
  if !isMaster s || decide (t.msgMs = edge / 1000000) || decide (edgeIn s < 500000) then .next s
  else
    .next (sendPacket (setTime s { t with msgMs := edge / 1000000 }) {
      destNode := ownNode s, destUnit := 0xFFF, srcUnit := 0xFFF, vc := 0, ptype := ptTime, last := true, bcast := true, btree := 0
      payload := timePayload edge (errBound s) })

/-- TIME_SET (R338, R347): on the master, the cluster time of the next edge; ignored otherwise, or when the value is no multiple
of 1,000,000. -/
def setEdge (s : State) (v : Word64) : State :=
  if isMaster s ∧ v.toNat % 1000000 = 0 then setTime (rset s .timeSet v) { s.time with nextEdge := some v, masterBound := 0 } else s

def execTimeSet (v : Word64) (s : State) : Out := .next (setEdge s v)

/-- Whether two expected edges in a row have failed to arrive within 1 µs of their instants (R340). -/
def edgesMissed (s : State) : Bool :=
  match s.time.edgeNs with | some e => decide (e + 2001000 < s.localNs) | none => true

/-- TIME_REF_LOST (R340, R341): TIMEREF, or TIMEPPS, is lost. A value that was to apply at the next edge applies no more. -/
def execTimeRefLost (pps : Bool) (s : State) : Out :=
  let t := s.time
  let was := if pps then t.ppsOk else t.refOk
  if pps ∧ was ∧ !edgesMissed s then .next s
  else if !was then .next (setTime s { t with goodEdges := 0 })
  else
    let hold := decide (t.st = .locked) || decide (t.st = .slewing)
    let t' : TimeUnit := { t with goodEdges := 0, ppsOk := t.ppsOk && !pps, refOk := t.refOk && pps, slew := 0, nextEdge := none }
    let s1 := if hold then
        rbump (setTime s { t' with st := .holdover, lossBound := errBound s, lossNs := s.localNs }) (.timeCtr 3) 1
      else setTime s t'
    .next (report s1 .timeRefLost (resource 0x0D (b01 pps)) 0 0 false)

/-- TIME_REF_RETURN (R340, R341): after 8 good edges in a row the references are good again; the next time message then applies. -/
def execTimeRefReturn (s : State) : Out :=
  let t := s.time
  if t.goodEdges < 8 ∨ (t.refOk ∧ t.ppsOk) then .next s else .next (setTime s { t with refOk := true, ppsOk := true, nextEdge := none })

/-- HOLDOVER_EXPIRY (R341): 10 s in HOLDOVER. -/
def execHoldoverExpiry (s : State) : Out :=
  let t := s.time
  if t.st = .holdover ∧ t.lossNs + 10 ^ 10 ≤ s.localNs then .next (setTime s { t with st := .unsync }) else .next s

/-- TIME (R338): a time message that arrived. It is taken from MASTER_NODE alone, and not after the edge it names, by local cluster time. -/
def execTime (n : Nat) (s : State) : Out :=
  match arrivedAt s n ptTime with
  | none => .next s
  | some x =>
    let s := takeArrived s n
    let v := leNat x.pkt.payload
    let edge := nfld v 0 64
    if isMaster s || decide (x.pkt.srcNode.toNat ≠ rfld s .timeCtrl 48 16) then .next s
    else if edge < s.time.now.toNat then .next (rbump s (.timeCtr 0) 1)
    else .next (setTime s { s.time with nextEdge := some (BitVec.ofNat 64 edge), masterBound := nfld v 64 64, lastMsgNs := s.localNs,
                                        epochStale := false })

/-- EPOCH_STALE (R347): one second without an accepted time message. -/
def execEpochStale (s : State) : Out :=
  let t := s.time
  if t.epochStale ∨ s.localNs < t.lastMsgNs + 10 ^ 9 then .next s else .next (setTime s { t with epochStale := true })

/-! ## The idle tick (DESIGN CHOICE, log entry 1) -/

/-- One nanosecond of cluster time (R336, R339): a slew runs 100 ppm fast or slow until 5 ns are left. -/
def tickTime (t : TimeUnit) : TimeUnit :=
  let t := { t with stepped := false, steps := [] }
  match t.st with
  | .slewing =>
    if t.slewPhase + 1 < 10000 then { t with now := t.now + 1, slewPhase := t.slewPhase + 1 }
    else
      let fast := decide (t.slew > 0)
      let left := if fast then t.slew - 1 else t.slew + 1
      { t with now := t.now + (if fast then 2 else 0), slewPhase := 0, slew := left, st := if left.natAbs ≤ 5 then .locked else .slewing }
  | _ => { t with now := t.now + 1 }

/-- Whether the hard cap holds a cluster below the level that it would have without it (R417, R480): it stands at the hard cap's own level
(DEDUCED, log entry 11). -/
def capHolds (s : State) (c : Nat) : Bool := decide (s.gov.lhard < 24) && decide ((cluGovOf s c).level = s.gov.lhard)

/-- The capped time of the collectives that run (R416). -/
def capTick (s : State) : State :=
  let capped (cl : Coll) : Bool := collOpen s cl && (ownMembers s cl).any fun m => capHolds s ((memberAt cl m).unit.toNat / 64)
  if s.coll.colls.any capped then
    { s with coll := { s.coll with colls := s.coll.colls.map fun cl => if capped cl then { cl with capNs := cl.capNs + 1 } else cl } }
  else s

/-- What a nanosecond without a command does: local and cluster time advance, and the times that requests wait in park queues, that update
units hold blocks and that a hard cap holds members are counted (R283, R307, R416). -/
def idleTick (s : State) : State :=
  let s := capTick s
  let s := { s with localNs := s.localNs + 1, time := tickTime s.time }
  let s := s.stks.foldl (fun s (x : Nat × Stack) => if x.2.parkQ.isEmpty then s else rbump s (.memParkWait x.1) 1) s
  s.upds.foldl (fun s (x : Nat × UpdUnit) => if x.2.blocks.isEmpty then s else rbump s (.updCtr x.1 6) 1) s

end Sys2Proof.Machine
end

