-- ==== Sys2Proof/Machine/GovOps.lean ====
section
/-! DEFINITION. The governor (spec/15): limits, levels, the base note, the coolant law and the energy accounts. -/
namespace Sys2Proof.Machine

def modGov (s : State) (f : Gov → Gov) : State := { s with gov := f s.gov }
def modClu (s : State) (c : Nat) (f : CluGov → CluGov) : State := setCluGov s c (f (cluGovOf s c))

/-- The status of an error that the governor finds about a facility element (R567). -/
def facility (i : Nat) : Word32 := resource 0x0C i

/-! ## Caps (R479, R488, R499) -/

/-- No limit: above every draw. -/
def noLimit : Nat := 2 ^ 40
/-- The hard cap in 1/100 W: GOV_CAP.HARD at most 7,200 W, and 3,000 W while the flow state is LOW (R494). -/
def hardCap (s : State) : Nat :=
  let h := 100 * min 7200 (rfld s .govCap 32 16)
  if s.gov.flow = .low then min h 300000 else h
/-- The soft cap asked for: a value above HARD acts as HARD, 0 as none. -/
def softCap (s : State) : Nat :=
  let v := rfld s .govCap 0 16
  if v = 0 then noLimit else min (100 * v) (100 * min 7200 (rfld s .govCap 32 16))

/-- The ramp window that applies: the lowest-numbered active one (R491). -/
def windowActive (s : State) (w : Nat) : Bool :=
  rbit s (.govWinCtrl w) 63 && nbit (tget (fun _ => 0) s.gov.winFlags w) 62 && !nbit (tget (fun _ => 0) s.gov.winFlags w) 61
def activeWindow (s : State) : Option Nat := (upto 0 4).find? (windowActive s)

/-! ## Clusters -/

/-- Whether a collective of the package runs: its entry is open under its attempt. -/
def collRuns (s : State) (cl : Coll) : Bool :=
  match entryOf s cl.ref with
  | some e => decide (e.st = .opened) && decide (e.attempt = cl.attempt)
  | none => false

/-- Clusters that hold a member of a running collective (R418). -/
def collClusters (s : State) : List Nat :=
  s.coll.colls.flatMap fun cl =>
    if collRuns s cl then
      (ownMembers s cl).map fun m => (memberAt cl m).unit.toNat / 64
    else []

/-- GOV_HEART_CTRL.GRACE as it is in force (R499). -/
def graceUs (s : State) : Nat := min 200 (nfld s.gov.heart.toNat 0 16)

/-- Whether the grace of a deferred cluster has run out (R483). -/
def graceOver (s : State) (g : CluGov) : Bool :=
  match g.deferSince with
  | some t => decide (t + 1000 * graceUs s ≤ s.localNs)
  | none => decide (graceUs s = 0)

/-- Whether a cluster is deferrable (R483). -/
def deferrable (s : State) (c : Nat) : Bool :=
  let g := cluGovOf s c
  (collClusters s).contains c
    && (match g.graceOut with | some t => decide (t + 1000000 ≤ s.localNs) | none => true)
    && !graceOver s g

/-- g(L) of R475 for a cluster: f(L) × V(L)². -/
def levelWeight (c l : Nat) : Nat := (200 + 25 * l) * Config.clusterVolt c l * Config.clusterVolt c l

/-- Power predicted of a cluster at another level (R475). -/
def predictClu (g : CluGov) (c l : Nat) : Nat := g.power * levelWeight c l / max 1 (levelWeight c g.level)

/-- The draw predicted with clusters of a list at a level and everything else as measured (R480). -/
def predict (s : State) (cs : List Nat) (l : Nat) (measured : Nat) : Nat :=
  (cs.foldl (fun (p : Int) c => let g := cluGovOf s c; p + predictClu g c l - g.power) measured).toNat

def allClusters : List Nat := upto 0 64

/-- One step of a soft level (R480): down by one above the limit, up by one when the prediction stays within it. -/
def stepLevel (s : State) (cs : List Nat) (l measured limit : Nat) : Nat :=
  if measured > limit then l - 1
  else if l < 24 ∧ predict s cs (l + 1) measured ≤ limit then l + 1 else l

/-- Clusters of a partition that serve (R330, R600 row 13). -/
def partClusters (s : State) (p : Nat) : List Nat := allClusters.filter fun c => partHas s p c && dieServes s (clusterDie c)

/-- Grids with no instruction running or queued, of the cores of a cluster (R489). -/
def idleGrids (s : State) (c : Nat) : Nat :=
  (upto 0 64).foldl (fun n k =>
    match physOf s (64 * c + k) with
    | none => n
    | some p =>
      let x := coreOf s p
      n + b01 x.fe.queue.isEmpty + b01 (x.be0.queue.isEmpty && x.run0.isEmpty) + b01 (x.run1.isEmpty && x.defer.isEmpty)) 0

/-- Clusters that may keep warm (R489): in service, not off, not frozen, not thermally throttled. -/
def fillClusters (s : State) : List Nat :=
  if s.gov.flow = .lost ∨ !rbit s .govBase 0 then []
  else allClusters.filter fun c => dieServes s (clusterDie c) && !cluOff s c && decide ((cluGovOf s c).lt = 24)

/-- The power of the keep-warm grids that run, as it is estimated (R489). -/
def fillPower (s : State) : Nat :=
  allClusters.foldl (fun n c => let g := cluGovOf s c; if g.fill = 0 then n else n + g.fill * Config.gridPower c g.level) 0

/-- The counts of keep-warm grids that make up a fill, spread evenly over the eligible clusters as far as their idle grids go; the last
grids, one each to the lowest-numbered clusters, bring the power to the fill (R489; DEDUCED from the example of R491, log entry 24). -/
def fillCounts (s : State) (need : Nat) : List (Nat × Nat) :=
  if need = 0 then []
  else
    let cs := (fillClusters s).map fun c => (c, idleGrids s c, Config.gridPower c (cluGovOf s c).level)
    let total (k : Nat) : Nat := cs.foldl (fun n (x : Nat × Nat × Nat) => n + min k x.2.1 * x.2.2) 0
    let k := (((upto 0 193).filter fun k => decide (total k ≤ need)).getLast?).getD 0
    (cs.foldl (fun (a : Nat × List (Nat × Nat)) x =>
      if k < x.2.1 ∧ 0 < a.1 then (a.1 - x.2.2, a.2 ++ [(x.1, k + 1)]) else (a.1, a.2 ++ [(x.1, min k x.2.1)])) (need - total k, [])).2

def fillCapacity (s : State) : Nat :=
  (fillClusters s).foldl (fun n c => n + idleGrids s c * Config.gridPower c (cluGovOf s c).level) 0

/-! ## Fast path (R481) -/

/-- One entry of the fast path: lhard falls by four levels, and the levels follow. -/
def fastPath (s : State) : State :=
  let l := s.gov.lhard - 4
  let s := modGov (rbump s (.govEv 2) 1) fun g => { g with lhard := l, hardLimited := true, fastNs := some s.localNs }
  allClusters.foldl (fun s c => modClu s c fun g => { g with level := min g.level l }) s

/-- A write of GOV_CAP (R481, R488): a soft cap that falls is shaped from the present draw, one that rises waits for the interval
end; a hard cap below the draw starts the fast path at once. -/
def capWritten (old s : State) : State :=
  let s := if softCap s < softCap old then modGov s fun g => { g with effSoft := max (softCap s) g.draw } else s
  if hardCap s < hardCap old ∧ hardCap s < s.gov.draw then fastPath s else s

/-! ## Energy accounts (R496, R497) -/

/-- Add energy in 1/1024 µJ to a counter, whose remainder is kept. -/
def charge (s : State) (r : Reg) (e : Nat) : State :=
  let k := regOffset r
  let t := tget (fun _ => 0) s.gov.rem k + e
  rbump (modGov s fun g => { g with rem := tset (fun _ => 0) g.rem k (t % 1024) }) r (t / 1024)

/-- A queue's charge goes to its partition too. -/
def chargeQueue (s : State) (q e : Nat) : State := charge (charge s (.govEQueue q) e) (.govEPart (qPart s q)) e

/-- Keep-warm energy of a cluster in an interval (R489, R496): the count of its keep-warm grids times the fused power of one. -/
def warmEnergy (s : State) (c ns : Nat) : Nat :=
  let g := cluGovOf s c
  if g.fill = 0 then 0 else g.fill * Config.gridPower c g.level * ns * 1024 / 100000

/-- Capacity of a consumer in an interval (R496): 64 cores over the cycles of a cluster, the bytes of a die's stacks at their current
rate, the payload of the ACTIVE ports at their widths, the words of the 16 die-link directions. -/
def capacityOf (s : State) (ns : Nat) (x : Consumer) : Nat :=
  match x.kind with
  | .cluster _ => 64 * x.cycles
  | .stackGroup n => (upto (8 * n.val) 8).foldl (fun b k =>
      b + (if (stackOf s k).ready then (if (stackOf s k).half then 1024 else 2048) * ns else 0)) 0
  | .serdes => (upto 0 24).foldl (fun w p => w + (if (portOf s p).st = .active then (portOf s p).width else 0)) 0 * 8000 * ns / 192
  | .dieLinks => 16 * 2048 * ns
  | .other => 0

/-- Charge one consumer (R496): what its queues used of the capacity, the rest to IDLE; transit and CXL.mem shares of their own,
keep-warm first, and what is not apportioned to FIXED. -/
def chargeConsumer (s : State) (ns : Nat) (x : Consumer) : State :=
  let s := charge s (.govE 0) x.energy
  match x.kind with
  | .other => charge s (.govE 5) x.energy
  | kind =>
    let warm := match kind with | .cluster c => min x.energy (warmEnergy s c.val ns) | _ => 0
    let s := charge s (.govE 2) warm
    let e := x.energy - warm
    let used := (x.uses.map (·.2)).foldl (· + ·) 0 + x.own
    let den := max 1 (max (capacityOf s ns x) used)
    let s := x.uses.foldl (fun s (u : Fin 4096 × Nat) => chargeQueue s u.1.val (e * u.2 / den)) s
    let ownE := e * x.own / den
    let s := match kind with
      | .stackGroup _ => charge s (.govE 4) ownE
      | .serdes => charge s (.govE 3) ownE
      | _ => charge s (.govE 1) ownE
    let spent := (x.uses.map fun u => e * u.2 / den).foldl (· + ·) 0 + ownE
    charge s (.govE 1) (e - spent)

/-- The power of a partition in the interval, from what it was charged (R480). -/
def partEnergy (xs : List Consumer) (s : State) (ns p : Nat) : Nat :=
  (xs.map fun x =>
    let warm := match x.kind with | .cluster c => min x.energy (warmEnergy s c.val ns) | _ => 0
    let e := x.energy - warm
    let den := max 1 (max (capacityOf s ns x) ((x.uses.map (·.2)).foldl (· + ·) 0 + x.own))
    match x.kind with
    | .other => 0
    | _ => ((x.uses.filter fun u => decide (qPart s u.1.val = p)).map fun u => e * u.2 / den).foldl (· + ·) 0).foldl (· + ·) 0

/-- Energy of an interval as a power in 1/100 W. -/
def powerOf (e ns : Nat) : Nat := e * 100000 / (1024 * max 1 ns)

/-! ## The coolant loop (R492 to R495) -/

/-- The unit of the valve duty: one full duty in exact parts. -/
def dutyOne : Nat := 2 ^ 20 * 100000
def dutyOf (d : Nat) : Int := (d * dutyOne / 1024 : Nat)
def dMax (s : State) : Nat := nfld s.gov.cool.toNat 10 10
/-- D_MIN above D_MAX acts as D_MAX (R619). -/
def dMin (s : State) : Nat := min (nfld s.gov.cool.toNat 20 10) (dMax s)

def throttled (s : State) : Bool := allClusters.any fun c => decide ((cluGovOf s c).lt < 24)

/-- Whether the duty is forced to D_MAX (R493). -/
def dutyForced (s : State) : Bool :=
  throttled s || decide (s.gov.flow = .low) || decide (s.gov.flow = .lost) || decide (3 ≤ s.gov.badIn) || decide (3 ≤ s.gov.badOut)

/-- Whether the governor holds: after a thermal trip or in a package-fatal state nothing moves until package reset (R485, R578). -/
def govHeld (s : State) : Bool := s.pkg.fatal.isSome || s.pkg.thermTrip

/-- The law of R493, in exact parts: e in 1/256 °C, r in 1/100 W. -/
def valveLaw (s : State) : State :=
  let g := s.gov
  let e : Int := g.tOut.toInt - (nfld g.law.toNat 48 16 : Int)
  let kp := nfld g.law.toNat 32 16
  let ki := nfld g.law.toNat 16 16
  let ff := nfld g.law.toNat 0 16
  let lo := dutyOf (dMin s)
  let hi := dutyOf (dMax s)
  let d : Int := g.duty
  let frozen := (decide (d ≥ hi) && decide (e > 0)) || (decide (d ≤ lo) && decide (e < 0))
  let i := if frozen then g.integral else g.integral + ki * e * 10000
  let new : Int := ff * g.r * 256 + kp * e * 100000 + i
  let near : Int := (dutyOne / 20 : Nat)
  let d' := max lo (min hi (max (d - near) (min (d + near) new)))
  modGov s fun g => { g with integral := i, duty := if dutyForced s then hi.toNat else d'.toNat }

/-- A flow state is entered (R494): LOW and LOST are recorded, counted and entered in the field record; keep-warm ends at LOST, and on
leaving it, for whichever state, the clocks restart at level 0. -/
def enterFlow (s : State) (f : FlowSt) : State :=
  let was := s.gov.flow
  let s := modGov s fun g => { g with flow := f }
  let s := if was = .lost ∧ f ≠ .lost then
      modGov (allClusters.foldl (fun s c => modClu s c fun g => { g with level := 0 }) s) fun g => { g with lpkg := 0, r := g.draw }
    else s
  match f with
  | .low =>
    let s := report (rbump s (.govEv 4) 1) .flowLow (facility 2) 0 0 false
    let s := { s with fld := { s.fld with live := { s.fld.live with flowLow := fldAdd 32 s.fld.live.flowLow 1 } } }
    if s.gov.draw > hardCap s then fastPath s else s
  | .lost =>
    let s := report (rbump s (.govEv 4) 1) .flowLost (facility 2) 0 0 false
    let s := { s with fld := { s.fld with live := { s.fld.live with flowLost := fldAdd 32 s.fld.live.flowLost 1 } } }
    modGov (allClusters.foldl (fun s c => modClu s c fun g => { g with fill := 0 }) s) fun g => { g with fill := 0 }
  | _ => s

end Sys2Proof.Machine
end

