-- ==== Sys2Proof/Machine/GovRows.lean ====
section
/-! DEFINITION. The commands of the governor (spec/15). Depths, temperatures, samples, energies and pulses that the hardware
measures are operands (DESIGN CHOICE, log entry 8). -/
namespace Sys2Proof.Machine

/-- GOV_HEART_CTRL.THRESH as it is in force, clamped (R499). -/
def droopThresh (s : State) : Nat := max 20 (min 100 (nfld s.gov.heart.toNat 32 8))

/-- DROOP_DETECT (R476, R477): the supply of a cluster has fallen by `mv` below V(L), more than the threshold: the clock is
stretched. A new event is counted; one that runs keeps its largest depth. -/
def execDroopDetect (cluster : Fin 64) (mv : BitVec 16) (s : State) : Out :=
  let g := cluGovOf s cluster.val
  if !clusterRuns s cluster.val ∨ mv.toNat ≤ droopThresh s then .next s
  else match g.droop with
    | none => .next (modClu (rbump s (.govEv 5) 1) cluster.val fun g => { g with droop := some mv.toNat, droopNs := s.localNs, droopCyc := 0 })
    | some d => .next (modClu s cluster.val fun g => { g with droop := some (max d mv.toNat) })

/-- Depth bin of a droop event (R477). -/
def droopBin (mv : Nat) : Nat :=
  if mv < 40 then 0 else if mv < 50 then 1 else if mv < 60 then 2 else if mv < 80 then 3 else if mv < 100 then 4
  else if mv < 150 then 5 else if mv < 200 then 6 else 7

/-- The stretched cycles of a droop that runs, since they were last counted: the period is twice the nominal one, or four times it while the
droop exceeds 100 mV, for which its largest depth stands here (R476; DEDUCED, log entry 24). -/
def stretchedSince (s : State) (g : CluGov) : Nat :=
  match g.droop with
  | none => 0
  | some d => (200 + 25 * g.level) * (s.localNs - g.droopNs) / (1000 * if d > 100 then 4 else 2)

/-- A droop event ends, of `cycles` stretched cycles in all: they are counted, those not yet charged to an interval go to this one (R478), and
the event enters its depth bin (R477). -/
def droopEnds (s : State) (c cycles : Nat) : State :=
  match (cluGovOf s c).droop with
  | none => s
  | some d =>
    let n := clusterDie c
    let s := rbump (rbump s (.govDroop n (droopBin d)) 1) (.govEv 6) cycles
    let k := 8 * n + droopBin d
    let s := { s with fld := { s.fld with live := { s.fld.live with droop := tmod (fun _ => 0) s.fld.live.droop k fun x => fldAdd 64 x 1 } } }
    modClu s c fun g => { g with droop := none, droopCyc := 0, stretched := g.stretched + (cycles - g.droopCyc) }

/-- A droop event that its cluster's stop ends (R486, R656): it is counted like any other, with the cycles run so far. -/
def droopCut (s : State) (c : Nat) : State :=
  let g := cluGovOf s c
  droopEnds s c (g.droopCyc + stretchedSince s g)

/-- STRETCH_RECOVER (R476, R477): after 16 stretched cycles above the threshold the period returns to nominal; the event, of
`cycles` stretched cycles, ends and enters its depth bin. -/
def execStretchRecover (cluster : Fin 64) (cycles : BitVec 32) (s : State) : Out :=
  if cycles.toNat < 16 then .next s else .next (droopEnds s cluster.val cycles.toNat)

/-- Thermal level of a cluster at an interval end (R484): its hottest sensor and the welkin die's move it by one rule. -/
def thermalStep (throttle lt : Nat) (t wt : Half) : Nat :=
  let hot (x : Half) : Bool := decide (x.toInt > 256 * (throttle : Int))
  let cool (x : Half) : Bool := decide (x.toInt ≤ 256 * ((throttle : Int) - 3))
  if hot t || hot wt then lt - 1 else if cool t && cool wt then min 24 (lt + 1) else lt

/-- The base note at an interval end (R487, R490, R491, R603). `p` is the draw of the interval, `ns` its length. -/
def baseNote (s : State) (p ns : Nat) : State :=
  let g := s.gov
  let huge := noLimit
  let lim (v : Nat) : Nat := if v = 0 then huge else v
  let up0 := lim (rfld s .govBase 16 16)
  let dn0 := lim (rfld s .govBase 32 16)
  let hold := g.holdEnd.isSome
  if g.flow = .lost then modGov s fun g => { g with draw := p, r := p, fill := 0, shortfall := false }
  else
    let q := p - fillPower s
    let r1 := if hold then max g.r p else min (max p (g.r - dn0)) (g.r + up0)
    let floor1 := if hold then r1 else r1 - dn0
    let (r2, floor2) := match activeWindow s with
      | none => (r1, floor1)
      | some w =>
        let up := rfld s (.govWinRate w) 16 16
        let dn := rfld s (.govWinRate w) 0 16
        let target := min (100 * rfld s (.govWinRate w) 32 16) g.effSoft
        if rfld s (.govWinRate w) 32 16 = 0 then (r1, floor1)
        else
          let r := if target ≥ r1 then r1 + min (target - r1) up else r1 - min (r1 - target) dn
          (r, r)
    let floor3 := min floor2 (min g.effSoft (hardCap s))
    let cap := fillCapacity s
    let fill := min (floor3 - q) cap
    let short := decide (floor3 - q > cap)
    let s := if short then rbump s (.govEv 3) (ns / 1000) else s
    let counts := fillCounts s fill
    let s := allClusters.foldl (fun s c => modClu s c fun x => { x with fill := ((counts.find? fun y => decide (y.1 = c)).map (·.2)).getD 0 }) s
    modGov s fun g => { g with draw := p, r := r2, fill := fill, shortfall := short }

/-- The ramp ceiling (R487). -/
def rampCeiling (s : State) : Nat :=
  if s.gov.flow = .lost then noLimit
  else match activeWindow s with
    | some w => s.gov.r + rfld s (.govWinRate w) 16 16
    | none => let up := rfld s .govBase 16 16; if up = 0 then noLimit else s.gov.r + up

/-- A cluster's level at an interval end (R480, R483); a grace that has run out unnoticed is counted here. -/
def setLevel (s : State) (parts : List (Nat × Nat)) (c : Nat) : State :=
  let g := cluGovOf s c
  let softC := (parts.filter fun x => (partClusters s x.1).contains c).foldl (fun l x => min l x.2) s.gov.lpkg
  let hardC := min s.gov.lhard (min g.lt g.lg)
  let new := min softC hardC
  let lowers := decide (new < g.level) && decide (softC < hardC)
  if lowers && deferrable s c then
    let s := if g.deferSince.isNone then rbump s (.govEv 0) 1 else s
    modClu s c fun g => { g with level := min g.level hardC, wanted := new, deferSince := some (g.deferSince.getD s.localNs) }
  else
    let out := lowers && g.deferSince.isSome && (collClusters s).contains c && graceOver s g
    modClu (if out then rbump s (.govEv 1) 1 else s) c fun g =>
      { g with level := new, wanted := new, deferSince := none, graceOut := if out then some s.localNs else g.graceOut }

/-- Snapshot of the energy accounts for an ENERGY_MARK that waits for its interval end (R498), as the 512 bits of its record. -/
def energySnap (s : State) (q : Nat) (f : Flight) (tf : BitVec 3) : BitVec 1024 :=
  let w (i : Nat) (v : Word64) : Nat := v.toNat * 2 ^ (64 * i)
  BitVec.ofNat 1024 (w 0 (BitVec.ofNat 64 (s.time.now.toNat / 10000 * 10000))
    + w 1 (BitVec.ofNat 64 (cmdFld f.cmd 0x48 0 32 + cmdFld f.cmd 0x48 32 1 * 2 ^ 32 + tf.toNat * 2 ^ 33))
    + w 2 (rget s (.govEQueue q)) + w 3 (rget s (.govEPart (qPart s q))) + w 4 (rget s (.govE 0)) + w 5 (rget s (.govE 2))
    + w 6 (rget s (.govE 1)))

def isMark (f : Flight) : Bool := f.started && !f.begun && !f.done && decide (cmdKind f.cmd = 0x0C)

/-- Every ENERGY_MARK that started in the interval takes its snapshot; a STEP_BOUNDARY starts or restarts the hold (R490), whose length is
counted in cluster time (DESIGN CHOICE, log entry 11). -/
def takeSnaps (s : State) : State :=
  s.queues.foldl (fun s (x : Nat × Queue) =>
    (x.2.flight.filter isMark).foldl (fun s f =>
      let (s, tf) := fireFlags s (s.time.now.toNat / 10000 * 10000)
      let s := modFlight s x.1 f.cmd.seq fun y => { y with begun := true, descs := [energySnap s x.1 f tf], timeFlags := y.timeFlags ||| tf }
      if cmdFld f.cmd 0x48 32 1 = 1 then
        modGov s fun g => { g with holdEnd := some (s.time.now.toNat / 10000 * 10000 + 1000 * rfld s .govBase 48 16) }
      else s) s) s

/-- The energy over life that the field record keeps, in whole J (R594), after an interval's charges. -/
def lifeEnergy (old s : State) : State :=
  let n := s.fld.energyRem + ((rget s (.govE 0)) - (rget old (.govE 0))).toNat
  { s with fld := { s.fld with energyRem := n % 1000000, live := { s.fld.live with energyJ := fldAdd 64 s.fld.live.energyJ (n / 1000000) } } }

/-- HEART_INTERVAL_END (R478 to R484, R487, R496, R605): at the first tick past a multiple of 10,000 ns, the governor closes the
interval, measured over local time: energies are charged, snapshots taken, the base note and every level set. The live fields of
the GOV block take effect (R499). -/
def execHeartIntervalEnd (xs : List Consumer) (temps : List Half) (welkinTemp : Half) (s : State) : Out :=
  let now := s.time.now.toNat
  if govHeld s ∨ now / 10000 ≤ s.gov.lastEnd / 10000 then .next s
  else
    let ns := s.localNs - s.gov.lastLocal
    let capped := (upto 0 256).filter fun p => decide (rfld s (.govPartCap p) 0 16 ≠ 0)
    let partPow := capped.map fun p => (p, powerOf (partEnergy xs s ns p) ns)
    let s := takeSnaps (lifeEnergy s (xs.foldl (fun s x => chargeConsumer s ns x) s))
    let draw := powerOf ((xs.map (·.energy)).foldl (· + ·) 0) ns
    let throttle := min 105 (rfld s .govHeart 16 8)
    let s := xs.foldl (fun s x => match x.kind with
      | .cluster c => modClu s c.val fun g => { g with power := powerOf x.energy ns }
      | _ => s) s
    let s := allClusters.foldl (fun s c =>
      let g := cluGovOf s c
      let t := temps.getD c 0
      -- the cycles that the cluster ran, or those of its level where nothing was measured (R478)
      let cycles := match xs.find? fun x => match x.kind with | .cluster y => decide (y.val = c) | _ => false with
        | some x => x.cycles
        | none => (200 + 25 * g.level) * ns / 1000
      let part := stretchedSince s g
      let ovf := decide (1000 * (g.stretched + part) > rfld s .govHeart 24 8 * cycles)
      modClu s c fun g => { g with
        droopNs := s.localNs, droopCyc := g.droopCyc + part
        temp := t, lt := thermalStep throttle g.lt t welkinTemp
        lg := if ovf then g.lg - 1 else g.lg, trigNs := if ovf then s.localNs else g.trigNs, stretched := 0 }) s
    let soft0 := softCap s
    let dn := rfld s .govBase 32 16
    let s := modGov s fun g => { g with
      lastEnd := now, lastLocal := s.localNs, heart := rget s .govHeart, cool := rget s .govCoolCtrl, law := rget s .govCoolLaw
      effSoft := if g.effSoft ≤ soft0 ∨ dn = 0 then soft0 else max soft0 (g.effSoft - dn) }
    let s := baseNote s draw ns
    let soft := min s.gov.effSoft (rampCeiling s)
    let lpkg := stepLevel s allClusters s.gov.lpkg draw soft
    let lhard := if s.gov.lhard < 24 ∧ predict s allClusters (s.gov.lhard + 1) draw ≤ hardCap s then s.gov.lhard + 1 else s.gov.lhard
    let lpart := partPow.foldl (fun t (x : Nat × Nat) =>
      tset (fun _ => 24) t x.1 (stepLevel s (partClusters s x.1) (tget (fun _ => 24) s.gov.lpart x.1) x.2 (100 * rfld s (.govPartCap x.1) 0 16))) []
    let s := modGov s fun g => { g with lpkg := lpkg, lhard := lhard, lpart := lpart, softOver := decide (draw > soft) || partPow.any fun x => decide (x.2 > 100 * rfld s (.govPartCap x.1) 0 16) }
    let s := allClusters.foldl (fun s c => if s.gov.flow = .lost then s else setLevel s (capped.map fun p => (p, tget (fun _ => 24) lpart p)) c) s
    let hard := decide (draw > hardCap s) || allClusters.any fun c =>
      let g := cluGovOf s c
      decide (min s.gov.lhard (min g.lt g.lg) < 24) && decide (g.level = min s.gov.lhard (min g.lt g.lg))
    .next (modGov s fun g => { g with hardLimited := hard })

/-- GUARD_RECOVER (R478): after 1 ms without a further trigger the guard level rises by one. -/
def execGuardRecover (cluster : Fin 64) (s : State) : Out :=
  let g := cluGovOf s cluster.val
  if govHeld s ∨ g.lg ≥ 24 ∨ s.localNs < g.trigNs + 1000000 then .next s
  else .next (modClu s cluster.val fun g => { g with lg := g.lg + 1, trigNs := s.localNs })

/-- HARD_CAP_FAST_PATH (R481): three consecutive VBUS samples, in 1/100 W, above the hard cap; it repeats every 1 µs. -/
def execHardCapFastPath (a b c : BitVec 32) (s : State) : Out :=
  if !govHeld s ∧ hardCap s < a.toNat ∧ hardCap s < b.toNat ∧ hardCap s < c.toNat ∧ s.gov.fastNs.all (fun t => decide (t + 1000 ≤ s.localNs)) then .next (fastPath s) else .next s

/-- GRACE_EXPIRY (R483): the grace window of a deferred cluster has run out, and it is lowered. -/
def execGraceExpiry (cluster : Fin 64) (s : State) : Out :=
  let g := cluGovOf s cluster.val
  match g.deferSince with
  | none => .next s
  | some t =>
    if govHeld s ∨ s.localNs < t + 1000 * graceUs s then .next s
    else .next (modClu (rbump s (.govEv 1) 1) cluster.val fun g =>
      { g with level := min g.level g.wanted, deferSince := none, graceOut := some s.localNs })

/-- THERMAL_TRIP (R485): a sensor of a die, 4 for the welkin die, has reached 115 °C: regulators off, THERMTRIP_N asserted, the
valve at full duty, a record, and the package holds. -/
def execThermalTrip (die : Fin 5) (temp : Half) (s : State) : Out :=
  if temp.toInt < 115 * 256 ∨ s.pkg.fatal.isSome then .next s
  else
    let s := report s .thermalTrip (facility (0x10 + die.val)) 0 0 false
    let s := modGov s fun g => { g with duty := (dutyOf 1023).toNat }
    let s := allClusters.foldl (fun s c => modClu s c fun g => { g with off := true }) s
    let s := { s with fld := { s.fld with live := { s.fld.live with trips := fldAdd 32 s.fld.live.trips 1 } } }
    .next (addDue { s with pkg := { s.pkg with thermTrip := true } } (.packageFatal .thermalTrip))

/-- Whether a command is active on a cluster (R486). -/
def clusterActive (s : State) (c : Nat) : Bool :=
  (clusterOf s c).copyCmd.isSome || (clusterOf s c).clearing
    || (s.queues.any fun (x : Nat × Queue) => x.2.flight.any fun f => f.started && !f.signalled && (flightClusters s x.1 f).contains c)
    || (upto 0 64).any (fun k => coreTaken s (64 * c + k))

/-- IDLE_OFF (R486): no command has been active on a cluster for IDLE_OFF µs; its regulator turns off. -/
def execIdleOff (cluster : Fin 64) (s : State) : Out :=
  let c := cluster.val
  let us := rfld s (.govCluCtrl c) 0 32
  let g := cluGovOf s c
  if !dieServes s (clusterDie c) ∨ clusterActive s c then .next (modClu s c fun g => { g with idleSince := s.localNs })
  else if govHeld s ∨ us = 0 ∨ g.off ∨ s.localNs < g.idleSince + 1000 * us then .next s
  else .next (modClu (droopCut s c) c fun g => { g with off := true, stretched := 0 })

/-- CLUSTER_WAKE (R486): a command at the head of a queue needs an off cluster: its regulator turns on, its memories are cleared,
and it runs at the level of R480. -/
def execClusterWake (cluster : Fin 64) (s : State) : Out :=
  let c := cluster.val
  let needed := s.queues.any fun (x : Nat × Queue) => match x.2.queued with
    | r :: _ => decide (x.2.state = .running) && (neededClusters s x.1 r).contains c
    | [] => false
  if govHeld s || !(cluGovOf s c).off || !dieServes s (clusterDie c) || !needed then .next s
  else
    let g := cluGovOf s c
    let parts := (upto 0 256).filter fun p => decide (rfld s (.govPartCap p) 0 16 ≠ 0) && (partClusters s p).contains c
    let l := parts.foldl (fun l p => min l (tget (fun _ => 24) s.gov.lpart p)) (min s.gov.lpkg (min s.gov.lhard (min g.lt g.lg)))
    .next (resetClear (modClu s c fun g => { g with off := false, level := l, idleSince := s.localNs }) c)

/-- STEP_HOLD_EXPIRY (R490): the hold ends, and r may fall again. STEP_HOLD is counted in cluster time, like the interval ends it starts from
(DESIGN CHOICE, log entry 11: the spec names no time for it). -/
def execStepHoldExpiry (s : State) : Out :=
  match s.gov.holdEnd with
  | some t => if t ≤ s.time.now.toNat then .next (modGov s fun g => { g with holdEnd := none }) else .next s
  | none => .next s

/-- The START of a ramp window is reached (R491, R343, R619): FIRED, with the flags of the instant; a window of LEN 0 is DONE at
once. -/
def fireWindow (s : State) (w : Nat) : State :=
  let fl := tget (fun _ => 0) s.gov.winFlags w
  if !rbit s (.govWinCtrl w) 63 || nbit fl 62 || decide (s.time.now.toNat < (rget s (.govWinStart w)).toNat) then s
  else
    let (s, tf) := fireFlags s (rget s (.govWinStart w)).toNat
    let done := if rfld s (.govWinCtrl w) 0 27 = 0 then 2 ^ 61 else 0
    modGov s fun g => { g with winFlags := tset (fun _ => 0) g.winFlags w (2 ^ 62 + done + tf.toNat * 2 ^ 58) }

/-- RAMP_WINDOW_END (R491): LEN µs after its START a window is DONE. LEN is counted in cluster time, like START (DESIGN CHOICE, log entry 11: the
spec names no time for it). -/
def execRampWindowEnd (w : BitVec 2) (s : State) : Out :=
  let fl := tget (fun _ => 0) s.gov.winFlags w.toNat
  if !nbit fl 62 || nbit fl 61
      || decide (s.time.now.toNat < (rget s (.govWinStart w.toNat)).toNat + 1000 * rfld s (.govWinCtrl w.toNat) 0 27) then .next s
  else .next (modGov s fun g => { g with winFlags := tset (fun _ => 0) g.winFlags w.toNat (fl + 2 ^ 61) })

/-- VALVE_UPDATE (R492, R493): every 100 ms the sensors are read, each with a value or a failed read, and the duty is set. -/
def execValveUpdate (tIn tOut : Option Half) (s : State) : Out :=
  if s.pkg.stage ≠ 5 ∨ govHeld s ∨ s.localNs < s.gov.valveNs + 10 ^ 8 then .next s
  else
    let bad (n : Nat) (x : Option Half) : Nat := if x.isSome then 0 else n + 1
    let s := modGov s fun g => { g with
      valveNs := s.localNs, tIn := tIn.getD g.tIn, tOut := tOut.getD g.tOut, badIn := bad g.badIn tIn, badOut := bad g.badOut tOut
      sensorFail := g.sensorFail && (decide (bad g.badIn tIn ≥ 3) || decide (bad g.badOut tOut ≥ 3))
      inNoted := g.inNoted && tIn.isNone, outNoted := g.outNoted && tOut.isNone }
    .next (valveLaw s)

/-- COOL_SENSOR_FAIL (R493): a sensor, inlet or outlet, has failed three reads in a row: SENSOR_FAIL, a record for each sensor, full duty. -/
def execCoolSensorFail (outlet : Bool) (s : State) : Out :=
  let n := if outlet then s.gov.badOut else s.gov.badIn
  let noted := if outlet then s.gov.outNoted else s.gov.inNoted
  if n < 3 ∨ noted ∨ govHeld s then .next s
  else .next (report (modGov s fun g => { g with
      sensorFail := true, inNoted := g.inNoted || !outlet, outNoted := g.outNoted || outlet, duty := (dutyOf (dMax s)).toNat }) .coolSensorFail
    (facility (b01 outlet)) 0 0 false)

/-- FLOW_COMPUTATION (R492, R494, R495): every 100 ms the flow is computed from the pulses of the last 500 ms, and the flow state
moves. -/
def execFlowComputation (pulses : BitVec 32) (s : State) : Out :=
  if govHeld s ∨ s.localNs < s.gov.flowNs + 10 ^ 8 then .next s
  else
    let k := nfld s.gov.cool.toNat 32 16
    if k = 0 then .next (enterFlow (modGov s fun g => { g with flowNs := s.localNs, flowRate := 0, nLow := 0, nLost := 0, nOk := 0, nBack := 0 }) .notMonitored)
    else
      let min_ := nfld s.gov.cool.toNat 48 16
      let num := pulses.toNat * 2 * 60 * 1000
      let low := decide (num < min_ * k)
      let lost := decide (4 * num < min_ * k)
      let none_ := decide (pulses = 0)
      let cnt (n : Nat) (b : Bool) : Nat := if b then n + 1 else 0
      let s := modGov s fun g => { g with
        flowNs := s.localNs, flowRate := num / k, flow := if g.flow = .notMonitored then .ok else g.flow
        nLow := cnt g.nLow low, nLost := cnt g.nLost lost, nOk := cnt g.nOk (!low), nBack := cnt g.nBack (!lost && !none_) }
      let g := s.gov
      if (g.flow = .ok ∨ g.flow = .low) ∧ (g.nLost ≥ 2 ∨ none_) then .next (enterFlow s .lost)
      else if (g.flow = .low ∨ g.flow = .lost) ∧ g.nOk ≥ 10 then .next (enterFlow s .ok)
      else if g.flow = .ok ∧ g.nLow ≥ 2 then .next (enterFlow s .low)
      else if g.flow = .lost ∧ g.nBack ≥ 10 then .next (enterFlow s .low)
      else .next s

/-- ENERGY_MARK (R498): the snapshot that the interval end took is written, and the kind block holds the queue's and the
partition's energy. -/
def execEnergyMark (q : Fin 4096) (seq : Word32) (s : State) : Out :=
  match workOf s q.val seq 0x0C with
  | none => .next s
  | some f =>
    match f.descs with
    | [] => .next s
    | snap :: _ =>
      let a := cmdWord f.cmd 0x40
      let kind := BitVec.ofNat 128 (snap.extractLsb' 128 128).toNat
      let done (s : State) : State := flightDone (modFlight s q.val seq fun f => { f with kindBlk := kind }) q.val seq .success
      if a = 0 then .next (done s)
      else match hdWrite s (ptrHost a) (ptrAddr a 6) (leBytes 64 (snap.toNat % 2 ^ 512)) with
        | (_, some e) => .next (if e.wait then cmdWait s q.val seq e else cmdFail s q.val seq e)
        | (s', none) => .next (done s')

end Sys2Proof.Machine
end

