-- ==== Sys2Proof/Machine/LinkBeats.lean ====
section
/-! DEFINITION. The lanes and beats of the die links (spec/14, R442 to R446, R457): control words with their check, acknowledgement,
replay, and the lanes that each stream holds. Errors on the wires are operands (DESIGN CHOICE, log entry 8). -/
namespace Sys2Proof.Machine

def setBundle (x : LinkDir) (b : Nat) (k : Bundle) : LinkDir := { x with bundles := tset (fun _ => {}) x.bundles b k }
def modBundle (s : State) (l d b : Nat) (f : Bundle → Bundle) : State :=
  setLink s l d (setBundle (linkOf s l d) b (f (bundleOf (linkOf s l d) b)))
def modLane (s : State) (l d b i : Nat) (f : LinkLane → LinkLane) : State :=
  modBundle s l d b fun k => { k with lanes := tmod (fun _ => {}) k.lanes i f }

/-- Whether a lane carries beats: the bundle's mode gives it (R454). -/
def laneUp (s : State) (l d b i : Nat) : Bool := decide (i < bundleLanes (bundleOf (linkOf s l d) b))

/-! ## Control words (R443) -/

/-- One bit of CRC-7 with x^7 + x^3 + 1 (R443). -/
def crc7Step (c : Nat) (bit : Bool) : Nat := (2 * c % 128) ^^^ (if decide (c ≥ 64) != bit then 9 else 0)

/-- CHECK over the data bits and then bits [8:0] of the control word, each from the highest down, from 0 (R443; DESIGN CHOICE, log
entry 47). -/
def crc7 (data : BitVec 512) (low : BitVec 9) : Nat :=
  let v := data.toNat * 512 + low.toNat
  (upto 0 521).foldl (fun c k => crc7Step c (v.testBit (520 - k))) 0

/-- A beat: 512 data bits and the control word above them. -/
abbrev Beat := BitVec 528

/-- The beat that a lane sends (R443): a word or none, and the CREDIT and NAK of the paired lane's receiver. -/
def beatOf (s : State) (l d b i : Nat) (word : Option (BitVec 512)) (replay : Bool) : Beat :=
  let r := laneAt (bundleOf (linkOf s l (1 - d)) b) i
  let data := word.getD 0
  let low : BitVec 9 := BitVec.ofNat 9 (fields [(0, b01 word.isSome), (1, b01 replay), (2, min 63 r.credit), (8, b01 r.nakDue)])
  BitVec.ofNat 528 (fields [(0, data.toNat), (512, low.toNat), (521, crc7 data low)])

/-- A beat as the wires bring it. -/
def onWires (x flips : Beat) : Beat := x ^^^ flips

def beatData (x : Beat) : BitVec 512 := x.extractLsb' 0 512
def beatCtrl (x : Beat) : BitVec 16 := x.extractLsb' 512 16
/-- Whether the CHECK of a beat is good (R443, R445). -/
def beatGood (x : Beat) : Bool := decide (crc7 (beatData x) ((beatCtrl x).extractLsb' 0 9) = ((beatCtrl x).extractLsb' 9 7).toNat)

/-! ## The receiver port (R446) -/

/-- The stream that holds a lane. -/
def laneStream (x : LinkDir) (p : Nat × Nat) : Option Nat := (upto 0 16).find? fun k => (streamHolds x k).contains p

/-- The receiver port of a stream takes accepted words, lane after lane in the order in which they were sent. -/
def takeWords (k : Nat) : Nat → LinkDir → LinkDir
  | 0, x => x
  | fuel + 1, x =>
    let h := streamHolds x k
    let t := tget (fun _ => 0) x.rturn k
    match h[t % h.length]? with
    | none => x
    | some (b, i) =>
      match (laneAt (bundleOf x b) i).got with
      | [] => x
      | w :: rest =>
        let y := bundleOf x b
        takeWords k fuel { setBundle x b { y with lanes := tmod (fun _ => {}) y.lanes i fun l => { l with got := rest } } with
          rturn := tset (fun _ => 0) x.rturn k ((t + 1) % h.length), rx := tmod (fun _ => []) x.rx k fun l => l ++ [w] }

/-- Words accepted in a direction that no port has taken. -/
def gotWords (x : LinkDir) : Nat := ((lanesOf x).map fun p => (laneAt (bundleOf x p.1) p.2).got.length).foldl (· + ·) 0

/-- The receiver port of the stream that holds a lane takes what it can. -/
def portTakes (s : State) (l d b i : Nat) : State :=
  let x := linkOf s l d
  match laneStream x (b, i) with
  | none => s
  | some k => setLink s l d (takeWords k (gotWords x) x)

/-! ## Receiving (R443 to R445) -/

/-- A beat that the receiver accepts: its word counts and goes to the receiver port in its turn, and its CREDIT and NAK act on the paired
lane's sender. -/
def acceptBeat (s : State) (l d b i : Nat) (x : Beat) : State :=
  let c := beatCtrl x
  let s := modLane s l d b i fun x => { x with discard := false }
  let s := if c.getLsbD 0 then
      rbump (portTakes (modLane s l d b i fun y => { y with credit := y.credit + 1, got := y.got ++ [beatData x] }) l d b i) (.dlkCtr l d 3) 1
    else s
  let n := (c.extractLsb' 2 6).toNat
  modLane s l (1 - d) b i fun x => { x with
    unacked := x.unacked.drop n, credit := x.credit - n, nakSeen := x.nakSeen || c.getLsbD 8, nakDue := x.nakDue && !c.getLsbD 8 }

/-- A beat arrives (R445): while the lane discards, only a good beat with REPLAY counts; a bad one leads to one NAK. `first` is the first
beat of a replay, which a bad one of its own is. -/
def takeBeat (s : State) (l d b i : Nat) (x : Beat) (first : Bool) : State :=
  let k := laneAt (bundleOf (linkOf s l d) b) i
  if beatGood x then (if k.discard && !(beatCtrl x).getLsbD 1 then s else acceptBeat s l d b i x)
  else if k.discard && !first then s
  else modLane s l d b i fun k => { k with discard := true, nakDue := true }

/-! ## The lanes of a stream (R446, R450) -/

/-- The lane whose turn it is to take a word of a stream (R446). -/
def turnLane (s : State) (l d i : Nat) : Option (Nat × Nat) :=
  let x := linkOf s l d
  let h := streamHolds x i
  h[tget (fun _ => 0) x.turn i % h.length]?

/-- A word of a stream goes out on its lane and stays there until it is acknowledged (R444, R446). -/
def sendWord (s : State) (l d b i stream : Nat) (w : BitVec 512) : State :=
  let s := modLane s l d b i fun x => { x with unacked := x.unacked ++ [w] }
  let x := linkOf s l d
  let n := (streamHolds x stream).length
  setLink s l d { x with turn := tset (fun _ => 0) x.turn stream ((tget (fun _ => 0) x.turn stream + 1) % n) }

/-! ## New lanes (R450, R457) -/

/-- The words of a stream in order, dealt from the queues of its lanes from a turn on. -/
def dealWords : Nat → Nat → List (List (Bool × BitVec 512)) → List (Bool × BitVec 512)
  | 0, _, _ => []
  | fuel + 1, t, qs =>
    match qs[t]? with
    | some (w :: rest) => w :: dealWords fuel ((t + 1) % qs.length) (qs.set t rest)
    | _ => []

/-- The words of a stream that its receiver port has still to take: those that the receiver has accepted, and those that the sender keeps
beyond them. -/
def undealt (x : LinkDir) (k : Nat) : List (Bool × BitVec 512) :=
  let qs := (streamHolds x k).map fun p =>
    let y := laneAt (bundleOf x p.1) p.2
    y.got.map (fun w => (true, w)) ++ (y.unacked.drop y.credit).map fun w => (false, w)
  dealWords ((qs.map (·.length)).foldl (· + ·) 0) (tget (fun _ => 0) x.rturn k) qs

/-- Steps 1 to 3 of R457: the senders stop, the receiver's counts are returned, and the words still to be taken wait in order for new lanes. -/
def holdWords (x : LinkDir) : LinkDir :=
  let held := (upto 0 16).foldl (fun t k => tmod (fun _ => []) t k fun l => l ++ undealt x k) x.held
  let bundles := (upto 0 4).foldl (fun t b => tmod (fun _ => {}) t b fun y => { y with
    lanes := (upto 0 8).foldl (fun t i => tmod (fun _ => {}) t i fun (z : LinkLane) => { replays := z.replays }) y.lanes }) x.bundles
  { x with held := held, bundles := bundles, turn := [], rturn := [] }

/-- Step 5 of R457: each stream that has lanes resends its words in order; a starved one keeps them at its sender port (R450). -/
def resendWords (s : State) (l d : Nat) : State :=
  (upto 0 16).foldl (fun s k =>
    let x := linkOf s l d
    let ws := tget (fun _ => []) x.held k
    if ws.isEmpty || (streamHolds x k).isEmpty then s
    else rbump (setLink s l d { x with held := tset (fun _ => []) x.held k [], rx := tmod (fun _ => []) x.rx k fun l => l ++ ws.map (·.2) })
      (.dlkCtr l d 3) (ws.filter fun w => !w.1).length) s

end Sys2Proof.Machine
end

