-- ==== Sys2Proof/Machine/LinkOps.lean ====
section
/-! DEFINITION. Die links (spec/14, R441 to R461): wires, bundles, lanes, the grant of lanes to streams, detours. A direction is
named by its link, 0 to 7 in the order of R470, and 0 or 1. -/
namespace Sys2Proof.Machine

/-- The transmitting die of a direction. -/
def linkSender (l d : Nat) : Nat := if d = 0 then (linkEnds l).1 else (linkEnds l).2

/-- AVAIL (R450, R470). -/
def linkAvail (x : LinkDir) : Nat := ((upto 0 4).map fun b => bundleLanes (bundleOf x b)).foldl (· + ·) 0

/-- Wires marked failed among data, control and spare wires, and among the clock wires (R442). -/
def failedBody (k : Bundle) : Nat := (k.failed.filter fun w => decide (w < 280)).length
def failedClocks (k : Bundle) : Nat := (k.failed.filter fun w => decide (280 ≤ w)).length
/-- Unused good spares (R455, R470): those left once every failed data or control wire has one; a HALF bundle keeps none. -/
def sparesLeft (k : Bundle) : Nat := if k.mode = .half ∨ k.mode = .disabled then 0 else 16 - failedBody k

/-- The mode that training gives a bundle (R444, R454); `slow`: a lane's beat round trip exceeds 24 beats. -/
def trainMode (k : Bundle) (slow : Bool) : BundleMode :=
  let good := 280 - failedBody k
  if slow || decide (failedClocks k ≥ 2) then .disabled else if good ≥ 264 then .full else if good ≥ 132 then .half else .disabled

/-- The neighbours of a die (R19). -/
def neighbours (n : Nat) : List Nat :=
  ((upto 0 4).filter fun l => decide ((linkEnds l).1 = n) || decide ((linkEnds l).2 = n)).map fun l =>
    if (linkEnds l).1 = n then (linkEnds l).2 else (linkEnds l).1

/-- The dies between which a detour is open, from and to: those of a neighbour link that lost a bundle (R460), and the two on
either side of a die whose links are fenced (R464). -/
def openDetours (s : State) : List (Nat × Nat) :=
  ((upto 0 4).flatMap fun n => if (dieOf s n).linksUp then [] else
    match neighbours n with | [a, b] => [(a, b), (b, a)] | _ => [])
  ++ (upto 0 4).flatMap fun l => (upto 0 2).filterMap fun d =>
    if (linkOf s l d).detour then some (if d = 0 then linkEnds l else ((linkEnds l).2, (linkEnds l).1)) else none

/-- Whether the relay stream i of a welkin direction carries traffic of an open detour: toward the welkin die RELAY_TO names the
target, away from it the die that the matching relay comes from (R448, DEDUCED, log entry 23). -/
def relayDetour (s : State) (l d i : Nat) : Bool :=
  decide (4 ≤ l) && decide (streamKind s l d i = kindRelay) && (openDetours s).any fun (x, y) =>
    let tgt := streamRelayTo s l d i
    if d = 0 then decide (x = l - 4) && decide (y = tgt) else decide (y = l - 4) && decide (x = tgt)

def streamLanes (s : State) (l d i : Nat) : Nat :=
  if relayDetour s l d i then rfld s (.dlkStream l d i) 40 6 else rfld s (.dlkStream l d i) 56 6

/-- The grant of R450: (stream, lanes) for every valid stream. -/
def grants (s : State) (l d : Nat) : List (Nat × Nat) :=
  let valid := (upto 0 16).filter (streamValid s l d)
  let prot := valid.filter (streamProtected s l d)
  let un := valid.filter fun i => !streamProtected s l d i
  let (left, gp) := prot.foldl (fun (a : Nat × List (Nat × Nat)) i =>
    let g := min (streamLanes s l d i) a.1
    (a.1 - g, a.2 ++ [(i, g)])) (linkAvail (linkOf s l d), [])
  let u := (un.map (streamLanes s l d)).foldl (· + ·) 0
  let base := un.map fun i => (i, if u = 0 then 0 else streamLanes s l d i * left / u)
  let used := (base.map (·.2)).foldl (· + ·) 0
  let takers := (un.filter fun i => decide (streamLanes s l d i > 0)).take (left - used)
  gp ++ base.map fun (i, g) => (i, if takers.contains i then g + 1 else g)

/-- RESOURCE of a die-link stream and of a wire (R567). -/
def streamRes (l d i : Nat) : Word32 := resource 0x12 (l * 2 ^ 21 + d * 2 ^ 20 + i)
def wireRes (l d b w : Nat) : Word32 := resource 0x08 (l * 2 ^ 21 + d * 2 ^ 20 + b * 2 ^ 18 + w * 2 ^ 9)

/-- The DIE_OUT record of a fence whose cause has no record of its own (R576). -/
def dieOutRecord (s : State) (n : Nat) (cause : Byte) : State := report s .dieOut (resource 0x0E n) 0 (cause.setWidth 64) false

/-- A welkin direction has lost its last bundle: its die leaves service with cause WELKIN_LOST (R461, R462). -/
def causeWelkin : Byte := 3
def welkinLost (s : State) (n : Nat) : State :=
  if dieState s n = .out ∨ dieState s n = .fencing then s else addDue (dieOutRecord s n causeWelkin) (.dieFatal n causeWelkin)

/-- Hand out the lanes of a direction again (R450): the words on their way are resent on the new lanes (R457), and a stream newly starved is
recorded. -/
def regrant (s : State) (l d : Nat) : State :=
  let s := setLink s l d (holdWords (linkOf s l d))
  let g : List (Nat × Nat) := grants s l d
  let starved := (g.filter fun (x : Nat × Nat) => decide (x.2 = 0) && decide (streamLanes s l d x.1 > 0)).map (·.1)
  let old := (linkOf s l d).starved
  let s := setLink s l d { linkOf s l d with
    granted := g.foldl (fun t (x : Nat × Nat) => tset (fun _ => 0) t x.1 x.2) [], starved := starved }
  let s := resendWords s l d
  (starved.filter fun i => !old.contains i).foldl (fun s (i : Nat) => report s .dlkStreamStarved (streamRes l d i) 0 0 false) s

/-- Hand out the lanes of every direction of the welkin links that an opened or closed detour changes (R460). -/
def regrantWelkin (s : State) : State :=
  (upto 4 4).foldl (fun s l => regrant (regrant s l 0) l 1) s

/-- Open the detour of a direction of a neighbour link (R460). -/
def openDetour (s : State) (l d : Nat) : State :=
  if l ≥ 4 ∨ (linkOf s l d).detour then s else regrantWelkin (setLink s l d { linkOf s l d with detour := true })

/-- Train one direction (R444, R454): new failures join the wire map, every bundle takes its mode, and lanes are granted. A finding of wire
282 is that of a slow bundle. -/
def trainDir (s : State) (l d : Nat) (bad : List (Nat × Nat)) : State :=
  let s := (upto 0 4).foldl (fun s b => modBundle s l d b fun k =>
    let mine := (bad.filter fun (x : Nat × Nat) => decide (x.1 = b)).map (·.2)
    let k := { k with failed := (mine.filter fun w => decide (w < 282)).foldl (fun t w => setAdd w t) k.failed, due := [], lanes := [] }
    { k with mode := trainMode k (mine.contains 282) }) s
  let s := setLink s l d { linkOf s l d with turn := [], rturn := [], rx := [], held := [], detour := decide (l < 4) && (upto 0 4).any fun b => decide ((bundleOf (linkOf s l d) b).mode = .disabled) }
  regrant s l d

/-- The directions that touch a die, 4 for all of them. -/
def dieDirs (n : Nat) : List (Nat × Nat) :=
  (upto 0 8).flatMap fun l =>
    if n = 4 ∨ (linkEnds l).1 = n ∨ (linkEnds l).2 = n then [(l, 0), (l, 1)] else []

/-- What training finds: link, direction, bundle, wire, or 282 for a slow bundle (DESIGN CHOICE, log entry 8). -/
abbrev WireBad := List (Nat × Nat × Nat × Nat)
def wireList (l : List BadWire) : WireBad :=
  l.map fun x => (x.link.val, b01 x.dir, x.bundle.toNat, match x.wire with | some w => w.val | none => 282)

/-- Every bundle of a direction is DISABLED. -/
def allDisabled (x : LinkDir) : Bool := (upto 0 4).all fun b => decide ((bundleOf x b).mode = .disabled)

/-- Train directions, and hand out the lanes of the welkin links again. A welkin direction left with no bundle takes its die out of service
(R461). -/
def trainDirs (s : State) (dirs : List (Nat × Nat)) (bad : WireBad) : State :=
  let s := dirs.foldl (fun s (x : Nat × Nat) =>
    trainDir s x.1 x.2 ((bad.filter fun y => decide (y.1 = x.1) && decide (y.2.1 = x.2)).map fun y => (y.2.2.1, y.2.2.2))) s
  (dirs.filter fun x => decide (4 ≤ x.1) && allDisabled (linkOf s x.1 x.2)).foldl (fun s x => welkinLost s (x.1 - 4)) (regrantWelkin s)

/-- The directions of a die whose other end is not fenced too (R466). -/
def liveDirs (s : State) (n : Nat) : List (Nat × Nat) :=
  (dieDirs n).filter fun x =>
    let e := linkEnds x.1
    let other := if e.1 = n then e.2 else e.1
    decide (4 ≤ other) || (dieOf s other).linksUp

/-- Fence the links of a die (R464): their AVAIL is 0, so every stream is starved (R450); the two dies on either side of it use their welkin
relays. -/
def fenceLinks (s : State) (n : Nat) : State :=
  let s := (dieDirs n).foldl (fun s (x : Nat × Nat) =>
    let y := linkOf s x.1 x.2
    setLink s x.1 x.2 { y with
      bundles := (upto 0 4).foldl (fun t b => tset (fun _ => {}) t b { bundleOf y b with mode := .fenced, due := [], lanes := [] }) []
      turn := [], rturn := [], rx := [], held := [], detour := false }) s
  let s := (dieDirs n).foldl (fun s (x : Nat × Nat) => regrant s x.1 x.2) s
  regrantWelkin (setDie s n { dieOf s n with linksUp := false })

end Sys2Proof.Machine
end

