-- ==== Sys2Proof/Machine/LinkRows.lean ====
section
/-! DEFINITION. The commands of the die links (spec/14, R443 to R461). Errors on wires and the wires that tests find failed are
operands (DESIGN CHOICE, log entry 8). -/
namespace Sys2Proof.Machine

/-- LINK_BEAT_RECEIVE (R443 to R446): a beat of a lane, with a word of a stream or none; `flips` are the bits that the wires change, the
control word above the 512 data bits. A stream sends on its lanes in turn; a sender that holds 32 unacknowledged words or has to resend
sends no new word, and none goes out while a diagnosis or a remap pauses the direction (R456, R457). -/
def execLinkBeatReceive (link : Fin 8) (dir : Bool) (bundle : BitVec 2) (lane : BitVec 3) (word : Option (BitVec 4 × BitVec 512)) (flips : BitVec 528)
    (s : State) : Out :=
  let l := link.val; let d := b01 dir; let b := bundle.toNat; let i := lane.toNat
  if !laneUp s l d b i then .next s
  else
    let x := laneAt (bundleOf (linkOf s l d) b) i
    match word with
    | none => .next (takeBeat s l d b i (onWires (beatOf s l d b i none false) flips) false)
    | some (i', w) =>
      if x.unacked.length ≥ 32 ∨ x.nakSeen ∨ dirPaused (linkOf s l d) ∨ turnLane s l d i'.toNat ≠ some (b, i) then .next s
      else
        let beat := onWires (beatOf s l d b i (some w) false) flips
        .next (takeBeat (sendWord s l d b i i'.toNat w) l d b i beat false)

/-- LINK_REPLAY (R445, R456): after a NAK the sender resends the lane's unacknowledged words in order, the first with REPLAY; `flips` are
the bits that the wires change in each. With none to resend, REPLAY goes out on a beat without a word, so that the receiver goes on
(DESIGN CHOICE, log entry 47). -/
def execLinkReplay (link : Fin 8) (dir : Bool) (bundle : BitVec 2) (lane : BitVec 3) (flips : List (BitVec 528)) (s : State) : Out :=
  let l := link.val; let d := b01 dir; let b := bundle.toNat; let i := lane.toNat
  let x := laneAt (bundleOf (linkOf s l d) b) i
  let beats : List (Option (BitVec 512)) := if x.unacked.isEmpty then [none] else x.unacked.map some
  if !laneUp s l d b i ∨ !x.nakSeen ∨ dirPaused (linkOf s l d) then .next s
  else
    let s := rbump (modLane s l d b i fun x => { x with nakSeen := false, replays := (s.localNs :: x.replays).take 4 }) (.dlkCtr l d 0) 1
    .next ((beats.mapIdx fun k w => (k, w)).foldl (fun s (x : Nat × Option (BitVec 512)) =>
      takeBeat s l d b i (onWires (beatOf s l d b i x.2 (decide (x.1 = 0))) (flips.getD x.1 0)) (decide (x.1 = 0))) s)

/-- LANE_DIAGNOSIS (R456): a lane has replayed four times within 1 µs; the walking patterns find failing wires, or none. The loss of one clock
wire is only noted in the wire map. -/
def execLaneDiagnosis (link : Fin 8) (dir : Bool) (bundle : BitVec 2) (lane : BitVec 3) (wires : List (Fin 282)) (s : State) : Out :=
  let l := link.val; let d := b01 dir; let b := bundle.toNat; let i := lane.toNat
  let k := bundleOf (linkOf s l d) b
  if !laneUp s l d b i ∨ !laneDiag k i then .next s
  else
    let s := modLane s l d b i fun x => { x with replays := [] }
    let new := (wires.map (·.val)).eraseDups.filter fun w => !k.failed.contains w && !k.due.contains w
    let clocks := new.filter fun w => decide (280 ≤ w)
    let noted := if failedClocks k + clocks.length ≤ 1 then clocks else []
    if wires = [] then .next (rbump s (.dlkCtr l d 1) 1)
    else .next (modBundle s l d b fun k => { k with
      failed := noted.foldl (fun t w => setAdd w t) k.failed, due := k.due ++ new.filter fun w => !noted.contains w })

/-- The detour and the loss of a welkin link that a disabled bundle leads to (R460, R461). -/
def bundleLost (s : State) (l d : Nat) : State :=
  let s := regrant s l d
  if l < 4 then openDetour s l d
  else if allDisabled (linkOf s l d) then welkinLost s (l - 4) else s

/-- Mark a wire failed and handle it (R457 to R460): a spare takes a data or control wire's place; with no spare left a FULL
bundle is rebuilt as HALF from its good wires, so without those that still wait for a remap, and a HALF one is DISABLED, as a bundle is
that has lost both clock wires. The words on their way are resent on the new lanes (R457). -/
def remapWire (s : State) (l d b w : Nat) : State :=
  let k := bundleOf (linkOf s l d) b
  let spares := sparesLeft k
  let s := setLink s l d (holdWords (linkOf s l d))
  let s := modBundle s l d b fun k => { k with failed := setAdd w k.failed, due := k.due.filter fun x => decide (x ≠ w) }
  let disable (s : State) : State :=
    bundleLost (report (modBundle s l d b fun k => { k with mode := .disabled, lanes := [], due := [] }) .dlkBundleDisabled (wireRes l d b w) 0 0 false) l d
  if k.mode ≠ .full ∧ k.mode ≠ .half then s
  else if 280 ≤ w then
    if failedClocks (bundleOf (linkOf s l d) b) ≥ 2 then disable s else regrant s l d
  else if k.mode = .full ∧ spares > 0 then
    let s := regrant s l d
    if 264 ≤ w then s
    else report (rbump s (.dlkCtr l d 2) 1) .dlkWireSpared (wireRes l d b w) 0 0 false
  else if k.mode = .full then
    let s := modBundle s l d b fun k => { k with failed := k.due.foldl (fun t w => setAdd w t) k.failed, due := [], lanes := [] }
    if trainMode (bundleOf (linkOf s l d) b) false = .disabled then disable s
    else regrant (report (modBundle s l d b fun k => { k with mode := .half }) .dlkBundleHalf (wireRes l d b w) 0 0 false) l d
  else disable s

/-- A clock wire of a bundle is lost: the first is noted in the wire map and pauses nothing (R456), the second disables the bundle (R460). -/
def clockLost (s : State) (l d b w : Nat) : State :=
  let k := bundleOf (linkOf s l d) b
  if k.failed.contains w ∨ (k.mode ≠ .full ∧ k.mode ≠ .half) then s
  else if failedClocks k = 0 then modBundle s l d b fun k => { k with failed := setAdd w k.failed }
  else remapWire s l d b w

/-- WIRE_REMAP (R456 to R461): the next wire found failed in a bundle is handled, or the loss of a clock wire; a direction runs one remap at a
time. -/
def execWireRemap (link : Fin 8) (dir : Bool) (bundle : BundleEvent) (s : State) : Out :=
  let l := link.val; let d := b01 dir; let b := bundle.bundle.toNat
  match bundle.clock with
  | some c => .next (clockLost s l d b (280 + c.toNat))
  | none => match (bundleOf (linkOf s l d) b).due with
    | [] => .next s
    | w :: _ => .next (remapWire s l d b w)

/-- SPARE_WIRE_FAIL (R455): an idle spare shows a pattern error and is no longer counted. -/
def execSpareWireFail (link : Fin 8) (dir : Bool) (bundle : BitVec 2) (spare : BitVec 4) (s : State) : Out :=
  let l := link.val; let d := b01 dir; let b := bundle.toNat
  let k := bundleOf (linkOf s l d) b
  if k.mode ≠ .full ∨ sparesLeft k = 0 ∨ k.failed.contains (264 + spare.toNat) then .next s
  else .next (modBundle s l d b fun k => { k with failed := setAdd (264 + spare.toNat) k.failed })

end Sys2Proof.Machine
end

