-- ==== Sys2Proof/Machine/FldOps.lean ====
section
/-! DEFINITION. The field record (spec/19): events, requests, writes, the bytes of an image; and the flash pairs' winner
(spec/17, R533). -/
namespace Sys2Proof.Machine

def modFld (s : State) (f : FldUnit → FldUnit) : State := { s with fld := f s.fld }

/-- The winner of a flash pair by the SEQ of its valid banks (R533). -/
def pairWinner (a b : Option Word32) : Option Nat :=
  match a, b with
  | none, none => none
  | some _, none => some 0
  | none, some _ => some 1
  | some x, some y => let d := (y - x).toNat; if 1 ≤ d ∧ d < 2 ^ 31 then some 1 else some 0

def fldBank (s : State) (b : Nat) : Option (Word32 × FldImage) := tget (fun _ => none) s.fld.banks b
def setFldBank (s : State) (b : Nat) (x : Option (Word32 × FldImage)) : State :=
  modFld s fun f => { f with banks := tset (fun _ => none) f.banks b x }
def fldWinner (s : State) : Option Nat := pairWinner ((fldBank s 0).map (·.1)) ((fldBank s 1).map (·.1))

/-- The bank that a write goes to (R534): the one that did not win; bank 0 when the pair has no winner. -/
def loser (w : Option Nat) : Nat := match w with | some 0 => 1 | _ => 0
/-- The SEQ that a write programs (R534). -/
def nextSeq (w : Option Word32) : Word32 := match w with | some x => x + 1 | none => 1

/-! ## Events and requests (R588, R589, R597) -/

/-- The entry of event n (R597). -/
def eventSlot (n : Nat) : Nat := if n < 256 then n else 256 + (n - 256) % 1792

/-- Enter an event (R597). -/
def fldEvent (s : State) (code : Half) (res : Word32) (detail : Word64) : State :=
  let e : FldEvent := { time := s.time.now, code := code, flags := timeFlags s, resource := res, detail := detail }
  modLive s fun l => { l with events := tset (fun _ => none) l.events (eventSlot l.eventNext) (some e), eventNext := fldAdd 32 l.eventNext 1 }

/-- A request for an EVENT or REQUEST write (R589): it waits under the spacing rule, or folds into the one that waits. -/
def fldRequest (s : State) (cause : BitVec 3) : State :=
  if s.fld.pend.isSome then rbump s (.fldCtr 2) 1 else modFld s fun f => { f with pend := some cause }

/-- A field event of the event log, which also asks for a write (R588). -/
def fieldEvent (s : State) (code : Half) (res : Word32) (detail : Word64) : State := fldRequest (fldEvent s code res detail) 2

/-! ## Writes (R587 to R592) -/

/-- The maps of R596 as they stand. -/
def mapsNow (s : State) : FldMaps :=
  { clus := (upto 0 64).foldl (fun t c => let k := clusterOf s c
      tset (fun _ => {}) t c { absent := k.absent, spare0 := k.spare0, spare1 := k.spare1, bankMap := k.bankMap, retired := k.retired, half := k.half, dues := k.dues }) []
    chans := (upto 0 32).foldl (fun t n => let k := stackOf s n
      tset (fun _ => {}) t n { spareUsed := k.spareUsed, spareFor := k.spareFor, half := k.half
                               pendingPhys := if k.retirePending then some k.pendingPhys else none, failedCh := k.failedCh }) []
    cum := s.coll.retired
    wires := (upto 0 64).foldl (fun t i => tset (fun _ => []) t i (bundleOf (linkOf s (i / 8) (i / 4 % 2)) (i % 4)).failed) []
    laneRx := (upto 0 24).foldl (fun t p => tset (fun _ => 0) t p (portOf s p).rxFailed) []
    laneTx := (upto 0 24).foldl (fun t p => tset (fun _ => 0) t p (portOf s p).txFailed) [] }

/-- Start a write of the record with these flags of its firing (R588, R590, R594): the snapshot is taken, the bank that did not win
is erased, and a write that ran is abandoned. -/
def startWriteAt (s : State) (cause flags : BitVec 3) : State :=
  let bank := loser (fldWinner s)
  let s := if s.fld.writing.isSome then rbump (modFld s fun f => { f with lastFailed := true }) (.fldCtr 1) 1 else s
  let s := rbump s (.fldCtr 0) 1
  -- the write of this pair is entered too, in the snapshot that it takes (R534)
  let seq := nextSeq ((fldWinner s).bind fun b => (fldBank s b).map (·.1))
  let s := fldEvent s 0xF002 (resource 0x10 (4 + bank)) (BitVec.ofNat 64 (4 + bank + seq.toNat * 2 ^ 32))
  let s := modLive s fun l => { l with writes := fldAdd 64 l.writes 1, snapTime := s.time.now, cause := cause, flags := flags, maps := mapsNow s }
  let s := modFld s fun f => { f with
    snap := f.live, lastStart := some s.localNs, lastCause := cause, again := false
    writing := some { cause := cause, startNs := s.localNs, bank := bank, serves := f.request } }
  let s := setFldBank s bank none
  modLive s fun l => if bank = 0 then { l with erases0 := fldAdd 32 l.erases0 1 } else { l with erases1 := fldAdd 32 l.erases1 1 }

/-- Start a write for a cause that has no instant of its own (R588). -/
def startWrite (s : State) (cause : BitVec 3) : State := startWriteAt s cause (timeFlags s)

/-- The end of a write (R591): the header has been read back, or the write failed. -/
def endWrite (s : State) (ok : Bool) : State :=
  match s.fld.writing with
  | none => s
  | some w =>
    let s := modFld s fun f => { f with writing := none, request := if w.serves then f.again else f.request, again := false, lastFailed := !ok }
    if ok then
      let seq := nextSeq ((fldWinner s).bind fun b => (fldBank s b).map (·.1))
      modFld (setFldBank s w.bank (some (seq, s.fld.snap))) fun f => { f with lastSeq := seq }
    else rbump s (.fldCtr 1) 1

/-- A FATAL write, begun at once (R590) and ended before the reset that follows it (R577). -/
def fatalWrite (s : State) (ok : Bool) : State := endWrite (startWrite s 3) ok

/-- WRITE_NOW (R589, R620): a request that reads 1 until its write ends, and folds into a write that waits. -/
def writeNow (s : State) : State :=
  fldRequest (modFld s fun f => { f with request := true, again := f.again || f.writing.isSome }) 4

/-- Whether a scheduled instant has come (R588). -/
def slotDue (s : State) : Bool := decide (s.fld.lastSlot < s.time.now.toNat / 900000000000)

/-- The scheduled write (R588, R589, R342): an instant that falls while a write runs or is pending folds into that write. -/
def scheduledWrite (s : State) : State :=
  if !slotDue s then s
  else
    let s := modFld s fun f => { f with lastSlot := s.time.now.toNat / 900000000000 }
    if s.fld.writing.isSome ∨ s.fld.pend.isSome then s 
    else
      let (s, tf) := fireFlags s (s.fld.lastSlot * 900000000000)
      startWriteAt s 0 tf

/-- WEAR_WARN (R592, R619). -/
def wearWarn (s : State) : Bool :=
  let e := rfld s .fldCtrl 32 32
  decide (e ≠ 0) && (decide (10 * s.fld.live.erases0 ≥ 9 * e) || decide (10 * s.fld.live.erases1 ≥ 9 * e))

/-! ## Histograms (R595) -/

/-- Bin of a temperature in 1/256 °C. -/
def tempBin (t : Half) : Nat :=
  let v := t.toInt
  if v < 40 * 256 then 0 else if v < 100 * 256 then (v.toNat / 256 - 40) / 5 + 1 else if v < 105 * 256 then 13 else if v < 115 * 256 then 14 else 15
/-- Bin of a lane's corrected symbols in a second. -/
def serBin (n : Nat) : Nat := if n = 0 then 0 else ((upto 1 7).find? fun b => decide (n < 10 ^ b)).getD 8
/-- Bin of a lane's signal-to-noise ratio, in 1/256 dB (R386). -/
def snrBin (v : Half) : Nat := let d := v.toNat / 256; if d < 10 then 0 else if d ≥ 24 then 15 else d - 9

def histAdd (t : Table Nat) (k : Nat) : Table Nat := tmod (fun _ => 0) t k fun x => fldAdd 32 x 1

/-! ## The bytes of an image (R593, R594, R597) -/

/-- The summary's 64-bit words (R594). -/
def summaryWord (im : FldImage) : Nat → Nat
  | 0 => im.powerOn
  | 1 => im.boots + im.resets * 2 ^ 32
  | 2 => im.writes
  | 3 => im.erases0 + im.erases1 * 2 ^ 32
  | 4 => im.snapTime.toNat
  | 5 => im.cause.toNat + im.flags.toNat * 8
  | 6 => im.flowLow + im.flowLost * 2 ^ 32
  | 7 => im.flowLowS + im.flowLostS * 2 ^ 32
  | 8 => im.trips + im.fatals * 2 ^ 32
  | 9 => im.eventNext + im.rebuilds * 2 ^ 32
  | 10 => im.energyJ
  | _ => 0

/-- The four 64-bit words of an event. -/
def eventWord (e : FldEvent) : Nat → Nat
  | 0 => e.time.toNat
  | 1 => e.code.toNat + e.flags.toNat * 2 ^ 16
  | 2 => e.resource.toNat
  | _ => e.detail.toNat

def byteOf (v k : Nat) : Byte := BitVec.ofNat 8 (v / 256 ^ k % 256)
def entry (t : Table Nat) (size a : Nat) : Byte := byteOf (tget (fun _ => 0) t (a / size)) (a % size)

/-- One byte of an image (R593). How the maps lie in their region is not stated: their bytes are free (DESIGN CHOICE, log entry 5). -/
def imageByte (im : FldImage) (free : Nat) (a : Nat) : Byte :=
  if a < 0x400 then byteOf (summaryWord im (a / 8)) (a % 8)
  else if a < 0x540 then entry im.temp 4 (a - 0x400)
  else if a < 0x600 then 0
  else if a < 0x700 then entry im.droop 8 (a - 0x600)
  else if a < 0x800 then 0
  else if a < 0x29C0 then entry im.ser 4 (a - 0x800)
  else if a < 0x2A40 then 0
  else if a < 0x6640 then entry im.snr 4 (a - 0x2A40)
  else if a < 0x6800 then 0
  else if a < 0x8900 then entry im.corr 8 (a - 0x6800)
  else if a < 0x9980 then entry im.uncorr 4 (a - 0x8900)
  else if a < 0xA000 then 0
  else if a < 0x10000 then (Config.freeWord (free + a)).extractLsb' 0 8
  else match tget (fun _ => none) im.events ((a - 0x10000) / 32) with
    | none => 0
    | some e => byteOf (eventWord e (a % 32 / 8)) (a % 8)

end Sys2Proof.Machine
end

