-- ==== Sys2Proof/Machine/FldRows.lean ====
section
/-! DEFINITION. The commands of the field record (spec/19) and the actions that fire at an instant (R342). -/
namespace Sys2Proof.Machine

/-- FIELD_WRITE_START (R588, R589): a scheduled write starts at its instant; an EVENT or REQUEST write that waits starts 300 s
after the start of the previous write, and not while one runs. -/
def execFieldWriteStart (s : State) : Out :=
  if slotDue s then .next (scheduledWrite s)
  else match s.fld.pend with
    | none => .next s
    | some cause =>
      let early : Bool := match s.fld.lastStart with | some t => decide (s.localNs < t + 300 * 10 ^ 9) | none => false
      if early || s.fld.writing.isSome then .next s else .next (startWrite (modFld s fun f => { f with pend := none }) cause)

/-- FIELD_WRITE_END (R591): the header of the running write has been read back, or the write failed. -/
def execFieldWriteEnd (ok : Bool) (s : State) : Out := .next (endWrite s ok)

/-- WRITE_NOW (R589): FLD_CTRL.WRITE_NOW written 1. -/
def execWriteNow (s : State) : Out := .next (writeNow s)

/-- HISTOGRAM_TICK (R595): a second of local time has passed. `temps` gives the hottest sensor of each die in it, `snr` the lowest
reading of each receive lane of R386. -/
def execHistogramTick (temps : List Half) (snr : List Half) (s : State) : Out :=
  if s.localNs < s.fld.tickNs + 10 ^ 9 then .next s
  else
    let s := modFld s fun f => { f with tickNs := f.tickNs + 10 ^ 9 }
    let s := modLive s fun l => { l with
      powerOn := fldAdd 64 l.powerOn 1
      flowLowS := fldAdd 32 l.flowLowS (b01 (decide (s.gov.flow = .low))), flowLostS := fldAdd 32 l.flowLostS (b01 (decide (s.gov.flow = .lost)))
      temp := (upto 0 5).foldl (fun t d => histAdd t (16 * d + tempBin (temps.getD d 0))) l.temp }
    .next ((upto 0 240).foldl (fun s l =>
      let now := (rget s (.fabLaneSymerr (l / 10) (l % 10))).toNat
      let was := tget (fun _ => 0) s.fld.serPrev l
      let s := modFld s fun f => { f with serPrev := tset (fun _ => 0) f.serPrev l now }
      if (portOf s (l / 10)).st ≠ .active then s
      else
        let v := snr.getD l 0
        modLive s fun i => { i with ser := histAdd i.ser (9 * l + serBin (now - was)), snr := histAdd i.snr (16 * l + snrBin v) }) s)

end Sys2Proof.Machine
end

