-- ==== Sys2Proof/Machine/ErrOps.lean ====
section
/-! DEFINITION. Handling of error records, retirement of cores, and the application cores' failover (spec/18). -/
namespace Sys2Proof.Machine

/-! ## The error log (R568, R573) -/

/-- The 64 bytes of a record (R568) with its LOG_SEQ. -/
def recordBytes (r : ErrRec) (seq : Word64) : List Byte :=
  leBytes 8 r.time.toNat
  ++ leBytes 8 (fields [(0, (statusCode r.status).toNat), (16, r.cls), (19, b01 r.raised), (20, r.timeFlags.toNat), (23, b01 r.followOn),
                        (24, r.source), (32, r.resource.toNat)])
  ++ leBytes 8 r.addr.toNat ++ leBytes 8 (fields [(0, r.queue.toNat), (32, r.cmdSeq.toNat)]) ++ leBytes 8 r.detail.toNat
  ++ leBytes 8 0 ++ leBytes 8 seq.toNat ++ leBytes 8 0

/-- LOG2_SIZE of the error log (R583): values outside 6 to 20 act as 10. -/
def logSize (s : State) : Nat := let n := rfld s .errLogBase 0 5; 2 ^ (if 6 ≤ n ∧ n ≤ 20 then n else 10)

/-- Copy a record into the error log (R573). -/
def writeLog (s : State) (r : ErrRec) : Acc :=
  let base := rget s .errLogBase
  hdWrite s (ptrHost base) (ptrAddr base 12 + 64 * (s.err.logSeq.toNat % logSize s)) (recordBytes r s.err.logSeq)

/-- After a record is logged: its message, and the next LOG_SEQ (R573). -/
def logged (s : State) (r : ErrRec) (ok : Bool) : State :=
  let s := if ok then rset s .errLogWritten s.err.logSeq else s
  let s := { s with err := { s.err with logSeq := s.err.logSeq + 1 } }
  let irq := rfld s .errCtrl 0 3
  if irq ≠ 0 ∧ r.cls ≥ irq then sendMsix s (rfld s .errCtrl 16 11) else s

/-! ## Handlers (R570, R581, R608) -/

/-- Whether an application core does its duties: in service and not halted (R608). Service cores are numbered 0 to 3, the
steward of cluster c 4 + c. -/
def appServes (s : State) (k : Nat) : Bool :=
  !(svcOf s k).out && !(svcOf s k).halted && (decide (k < 4) || !(clusterOf s (k - 4)).stewardOut)
def serviceUp (s : State) : Bool := (upto 0 4).any (appServes s)

/-- Whether a handler of a record queue is in service. -/
def handlerServes (s : State) (n : Nat) : Bool :=
  if n = 4 ∨ (errQ s n).takenOver then serviceUp s
  else dieServes s n && (upto (16 * n) 16).any fun c => appServes s (4 + c)

/-- The event log's entry for a record of class 3 or higher (R597), with the record's own instant. -/
def recordEvent (s : State) (r : ErrRec) : State :=
  let e : FldEvent := { time := r.time, code := statusCode r.status, flags := r.timeFlags, resource := r.resource, detail := r.detail }
  modLive s fun l => { l with events := tset (fun _ => none) l.events (eventSlot l.eventNext) (some e), eventNext := fldAdd 32 l.eventNext 1 }

/-- The retirement of a fabric port whose contained record was raised (R571, R353). -/
def retirePort (s : State) (r : ErrRec) : State :=
  let i := r.resource.toNat % 2 ^ 24
  if r.raised && decide (r.cls = 3) && decide (r.resource.toNat / 2 ^ 24 = 0x07) && decide (i < 24) then
    let s := dropDue (setPort s i { portDrop (portOf s i) with st := .retired, width := 0, lanes := [], txLanes := [], swapDue := [] }) (.retire r.resource)
    report s .fabPortRetired r.resource 0 0 true
  else s

/-- The actions of a record's class that its handler takes, and its freeing (R570, R573, R588). -/
def freeRecord0 (s : State) (n : Nat) (r : ErrRec) : State :=
  let s := setErrQ s n { errQ s n with recs := (errQ s n).recs.drop 1 }
  let s := if r.cls ≥ 3 then recordEvent s r else s
  let s := if r.cls = 3 ∨ r.cls = 4 then fldRequest s 2 else s
  retirePort s r

/-- Log the oldest record of a queue and free it. -/
def handleRecord (s : State) (n : Nat) : State :=
  match (errQ s n).recs with
  | [] => s
  | r :: _ =>
    if rbit s .errCtrl 3 then
      let (s', e) := writeLog s r
      match e with
      | some e => if e.wait then s else freeRecord0 (logged s r false) n r
      | none => freeRecord0 (logged s' r true) n r
    else freeRecord0 s n r

/-- Handle every record that a queue holds, oldest first. -/
def handleAll (n : Nat) : Nat → State → State
  | 0, s => s
  | k + 1, s => handleAll n k (handleRecord s n)

/-! ## Retirement of cores (R579, R580, R249) -/

def coreRes (p : Nat) : Word32 := resource 0x01 p

/-- The unused good spare of a cluster that takes over next (R580). -/
def freeSpare (s : State) (c : Nat) : Option Nat :=
  let k := clusterOf s c
  if k.spare0 = 0xFF then some 0 else if k.spare1 = 0xFF then some 1 else none

def setSpare (s : State) (c i : Nat) (v : Byte) : State :=
  setCluster s c (if i = 0 then { clusterOf s c with spare0 := v } else { clusterOf s c with spare1 := v })

/-- A physical core leaves service (R580): its logical number passes to a spare, whose page starts from zero (R617), or becomes
absent. An idle spare is marked failed. `copy` gives the spare's scratchpad when the retirement was pending (R249). -/
def retireCore (s : State) (p : Nat) (copy : Bool) : State :=
  let c := p / 66
  let j := p % 66
  let old := coreOf s p
  let number := logicalOf s p
  let s := setCore s p { old with failed := true, retirePending := false }
  let s := dropDue s (.retire (coreRes p))
  let s := if j ≥ 64 then setSpare s c (j - 64) 0xFE else s
  match number with
  | none => s
  | some l =>
    let k := l % 64
    let s := { s with regs := tclear s.regs (regOffset (.coreFeState l)) 0x400 }
    match freeSpare s c with
    | some i =>
      let sp := 66 * c + 64 + i
      let s := setSpare s c i (BitVec.ofNat 8 k)
      let s := setCore s sp (if copy then { coreOf s sp with spad := old.spad, spadPoison := bothMarks old.spadPoison old.spadBad, spadBad := [] }
                             else { coreOf s sp with spad := [], spadPoison := [], spadBad := [] })
      report s .coreRetired (coreRes p) 0 (BitVec.ofNat 64 k) true
    | none =>
      let s := setCluster s c { clusterOf s c with absent := (clusterOf s c).absent ||| (1 <<< k) }
      report s .coreLost (coreRes p) 0 (BitVec.ofNat 64 k) true

/-- Whether a physical core is unknown to the retirement of R580: it serves a number, or is a spare in reserve. -/
def coreListed (s : State) (p : Nat) : Bool :=
  let k := clusterOf s (p / 66)
  (logicalOf s p).isSome || (decide (p % 66 = 64) && decide (k.spare0 = 0xFF)) || (decide (p % 66 = 65) && decide (k.spare1 = 0xFF))

/-- Built-in self-test at a reset retires failing cores before any program runs (R580). -/
def selfTest (s : State) (bad : List Nat) : State :=
  bad.foldl (fun s p => if coreListed s p then retireCore s p false else s) s

end Sys2Proof.Machine
end

