-- ==== Sys2Proof/Machine/ErrRows.lean ====
section
/-! DEFINITION. The commands of error handling and of the application cores (spec/18, R570 to R581, R601, R607, R608). -/
namespace Sys2Proof.Machine

/-- ERR_RECORD_FREE (R570, R573): the handler of a record queue logs the oldest record, takes its class's action and frees it. -/
def execErrRecordFree (queue : Fin 5) (s : State) : Out :=
  if handlerServes s queue.val then .next (handleRecord s queue.val) else .next s

/-- CORE_HW_FAULT (R579): a core finds an error in its state: its program, or its part in a collective, ends with CORE_HW_FAULT, a
record is written, and the core is due for retirement at once. -/
def execCoreHwFault (core : Fin 4224) (s : State) : Out :=
  let p := core.val
  if (coreOf s p).failed ∨ !dieServes s (p / 66 / 16) ∨ !coreListed s p then .next s
  else
    let c := coreOf s p
    let note (s : State) : State :=
      let s' := report s .coreHwFault (coreRes p) 0 0 false
      if c.phase ≠ .idle then forCommand c.cmdQueue c.cmdSeq s s' else s'
    let s := note s
    let s := match logicalOf s p with
      | none => s
      | some l =>
        if c.inColl then
          (match memberOfCore s l with
           | some (cl, _) => raiseTaint s cl noChunk .coreHwFault
           | none => s)
        else programFault s l p .coreHwFault c.pc
    .next (addDue (modCore s p fun c => { c with failed := true }) (.retire (coreRes p)))

/-- CORE_RETIRED (R580): the logical number of a retired core passes to a spare of its cluster, or becomes absent. -/
def execCoreRetired (core : Fin 4224) (s : State) : Out :=
  let p := core.val
  if s.err.due.contains (.retire (coreRes p)) ∧ (coreOf s p).phase = .idle ∧ !(coreOf s p).inColl ∧ dieServes s (p / 66 / 16) then
    .next (if coreListed s p then retireCore s p false else dropDue s (.retire (coreRes p)))
  else .next s

/-- SPAD_RETIRE_COPY (R249): the core with a scratchpad bank due for retirement has ended its program: the scratchpad is copied to
a spare core, which takes the logical number. -/
def execSpadRetireCopy (core : Fin 4224) (s : State) : Out :=
  let p := core.val
  let c := coreOf s p
  if c.retirePending ∧ !c.failed ∧ c.phase = .idle ∧ !c.inColl ∧ sramServes s true p ∧ coreListed s p then .next (retireCore s p true)
  else .next s

/-! ## Application cores (R581) -/

/-- Resource and index of an application core: service core 0 to 3, or 4 + the steward's cluster. -/
def appRes (k : Nat) : Word32 := resource 0x0A (if k < 4 then 64 + k else k - 4)

/-- APP_CORE_FAULT (R581): an uncorrectable error, or a watchdog left for 10 ms, takes an application core out of service; a halted
core's watchdog does not count (R608). The partner of a steward takes over; both stewards of a pair out is die-fatal, all
service cores out is welkin die-fatal. -/
def execAppCoreFault (core : Fin 68) (watchdog : Bool) (s : State) : Out :=
  let k := core.val
  let x := svcOf s k
  let gone := if k < 4 then x.out else (clusterOf s (k - 4)).stewardOut
  if gone || (watchdog && x.halted) || (decide (4 ≤ k) && !dieServes s (clusterDie (k - 4))) then .next s
  else
    let again := match x.lastFault with | some t => decide (s.localNs < t + 10 ^ 9) | none => false
    let s := setSvc s k { x with out := decide (k < 4), lastFault := some s.localNs, locked := x.locked || again }
    let s := report s .appCoreFault (appRes k) 0 0 false
    if k < 4 then .next (if (upto 0 4).all fun i => (svcOf s i).out then addDue s .welkinFatal else s)
    else
      let c := k - 4
      let s := setCluster s c { clusterOf s c with stewardOut := true, partnerServes := !(clusterOf s (partnerOf c)).stewardOut }
      if (clusterOf s (partnerOf c)).stewardOut then
        let n := clusterDie c
        let s := setCluster s (partnerOf c) { clusterOf s (partnerOf c) with partnerServes := false }
        .next (addDue (report s .stewardPairLost (resource 0x0E n) 0 0 false) (.dieFatal n causeReset))
      else .next s

/-- APP_CORE_RESUME (R581): a failed application core is reset, passes its self-test and resumes its duties, unless a second fault within 1 s
keeps it out. -/
def execAppCoreResume (core : Fin 68) (s : State) : Out :=
  let k := core.val
  let x := svcOf s k
  if x.locked then .next s
  else if k < 4 then .next (setSvc s k { x with hart := {}, out := false })
  else
    let c := k - 4
    let y := clusterOf s c
    if !y.stewardOut then .next s
    else
      let p := clusterOf s (partnerOf c)
      let s := setCluster (setSvc s k { x with hart := {} }) c { y with stewardOut := false, partnerServes := false }
      .next (if p.stewardOut then setCluster s (partnerOf c) { p with partnerServes := true } else s)

/-- STEWARD_PARTNER_ACCESS (R624): the steward of a cluster reaches its partner's cluster memory, while it performs that cluster's
duties; otherwise the access faults. -/
def execStewardPartnerAccess (cluster : BitVec 6) (off : BitVec 25) (a : StewardAcc) (s : State) : Out :=
  let c := cluster.toNat
  if (clusterOf s c).stewardOut || !dieServes s (clusterDie c) then .next s
  else if (clusterOf s (partnerOf c)).partnerServes then .next (stewardAccess s c (partnerOf c) off.toNat a)
  else
    let n := match a with | .load _ => loadAccessFault | .lr => loadAccessFault | _ => storeAccessFault
    .next (setCluster s c { clusterOf s c with lastFault := some n })

/-! ## Debug (R549, R601, R607, R608) -/

/-- The physical core and sequencer that a debug request names, when its die serves. -/
def debugCore (s : State) (core : Fin 4096) : Option Nat := if dieServes s (clusterDie (core.val / 64)) then physOf s core.val else none

/-- DEBUG_HALT (R549, R601, R608): under an open COMPUTE_CORES scope a sequencer is halted, or steps one instruction when halted;
under an open APP_CORES scope an application core is halted, and stepping one is its RISC-V debug's matter. -/
def execDebugHalt (target : DebugTarget) (step : Bool) (s : State) : Out :=
  match target with
  | .sequencer core =>
    (match (if s.sec.scopes.getLsbD 1 then debugCore s core else none) with
     | none => .next s
     | some p =>
       let c := coreOf s p
       if c.halted then .next (if step then setCore s p { c with stepping := true } else s)
       else .next (setCore s p { c with halted := true, stepping := false, haltNs := s.localNs }))
  | .steward c => .next (if s.sec.scopes.getLsbD 0 then setSvc s (4 + c.val) { svcOf s (4 + c.val) with halted := true } else s)
  | .service k => .next (if s.sec.scopes.getLsbD 0 then setSvc s k.val { svcOf s k.val with halted := true } else s)

/-- DEBUG_RESUME (R549, R607, R608): a halted sequencer issues again, and the time it was halted does not count toward its
TIME_LIMIT; a halted application core resumes its duties. -/
def execDebugResume (target : DebugTarget) (s : State) : Out :=
  match target with
  | .sequencer core =>
    (match debugCore s core with
     | none => .next s
     | some p =>
       let c := coreOf s p
       if c.halted then .next (setCore s p { c with halted := false, stepping := false, startNs := c.startNs + (s.localNs - c.haltNs) }) else .next s)
  | .steward c => .next (setSvc s (4 + c.val) { svcOf s (4 + c.val) with halted := false })
  | .service k => .next (setSvc s k.val { svcOf s k.val with halted := false })

end Sys2Proof.Machine
end

