-- ==== Sys2Proof/Machine/Images.lean ====
section
/-! DEFINITION. Acceptance of signed images (spec/17, R535 to R538). What the signature and hash units find is an operand (DESIGN CHOICE,
log entry 9). -/
namespace Sys2Proof.Machine

/-- The fused counter of an image KIND (R536, R537), none for kinds without one. -/
def kindCounter (u : Fuses) (kind : Nat) : Option Nat :=
  match kind with | 1 => some u.fwSvn | 2 => some u.cfgSvn | 3 => some u.agentSvn | _ => none
/-- The capacity of a KIND's counter (R537, R538). -/
def kindCapacity (kind : Nat) : Nat := if kind = 1 then 128 else 64

/-- Whether CLASS may sign a KIND (R536, R539), before any owner slot is used or after. -/
def classAllowed (u : Fuses) (h : ImgHdr) : Bool :=
  let owned := decide (u.ownerUsed ≠ 0)
  match h.kind.toNat, h.cls.toNat with
  | 1, 0 => true
  | 2, 0 => !owned
  | 2, 1 => owned
  | 2, 2 => true
  | 3, 1 => true
  | 4, 1 => true
  | 5, 0 => true
  | 5, 1 => true
  | 6, 0 => true
  | 6, 1 => !h.scopes.getLsbD 2
  | _, _ => false

/-- Whether an image is the first owner enrolment, which its own keys sign (R539). -/
def firstEnrolment (u : Fuses) (h : ImgHdr) : Bool := decide (h.kind = 4) && decide (h.cls = 1) && decide (u.ownerUsed = 0)

/-- Whether the slot of CLASS and SLOT is filled and not revoked; an enrolment while no owner slot is used fills its own slot. -/
def slotGood (u : Fuses) (h : ImgHdr) : Bool :=
  match h.cls.toNat with
  | 0 => !u.vendorRevoke.getLsbD h.slot.toNat
  | 1 => (u.ownerUsed.getLsbD h.slot.toNat || firstEnrolment u h) && !u.ownerRevoke.getLsbD h.slot.toNat
  | _ => true

/-- The hashes that the keys of a signature block must have (R536, R539): those of the slot named, of the device configuration pair for
CLASS 2, and of an enrolment's own keys while no owner slot is used. -/
def signerKeys (u : Fuses) (h : ImgHdr) (v : Verdict) : BitVec 384 × BitVec 384 :=
  if firstEnrolment u h then v.owner
  else match h.cls.toNat with
    | 0 => tget (fun _ => (0, 0)) u.vendorKeys h.slot.toNat
    | 1 => tget (fun _ => (0, 0)) u.ownerKeys h.slot.toNat
    | _ => u.deviceKey

/-- Conditions 1 to 4 of R536 as far as they concern digests, signatures and key hashes. -/
def signedGood (u : Fuses) (h : ImgHdr) (v : Verdict) : Bool :=
  decide (v.payload = h.digest) && v.rsa && v.slh && decide (v.signer = signerKeys u h v)

/-- Whether DEVICE_BIND is zero or matches the device (R536). -/
def bindGood (h : ImgHdr) : Bool := decide (h.bind = 0) || h.bindOk

/-- Why the header of an image of a KIND is refused, none when it is not (R536, R538). -/
def headerRefused (u : Fuses) (kind : Nat) (h : ImgHdr) : Option Status :=
  if h.kind.toNat ≠ kind ∨ h.fmt ≠ 1 ∨ !h.reservedZero ∨ !classAllowed u h ∨ !slotGood u h then some .secImageBad
  else
    match kindCounter u kind with
    | none => if u.lifecycle = 3 ∨ !bindGood h then some .secImageBad else none
    | some n =>
      if h.svn.toNat < n ∨ kindCapacity kind < h.svnFloor.toNat then some .secRollback
      else if h.svn.toNat < h.svnFloor.toNat ∨ u.lifecycle = 3 ∨ !bindGood h then some .secImageBad
      else none

/-- Why an image of a KIND is refused, none when it is accepted (R536, R538). -/
def imageRefused (u : Fuses) (kind : Nat) (h : ImgHdr) (v : Verdict) : Option Status :=
  if signedGood u h v then headerRefused u kind h else some .secImageBad

end Sys2Proof.Machine
end

