-- ==== Sys2Proof/Machine/CfgOps.lean ====
section
/-! DEFINITION. Staged fields (spec/17, R550 to R560): write lists, apply points, the checks of a commit, and what applying a
register leads to. -/
namespace Sys2Proof.Machine

def modCfg (s : State) (f : CfgUnit → CfgUnit) : State := { s with cfg := f s.cfg }

/-! ## Shadows (R552, R558) -/

def shadowOf (l : List CfgEntry) (off : Nat) : Option CfgEntry := l.find? fun e => decide (e.off = off)

/-- Overlay an entry on a shadow (R552). -/
def stageEntry : List CfgEntry → CfgEntry → List CfgEntry
  | [], e => [{ e with value := e.value &&& e.mask }]
  | x :: t, e =>
    if x.off = e.off then { off := x.off, mask := x.mask ||| e.mask, value := (x.value &&& ~~~e.mask) ||| (e.value &&& e.mask) } :: t
    else x :: stageEntry t e

/-- A register's value with a shadow's bits over it. -/
def overlay (v : Word64) (e : CfgEntry) : Word64 := (v &&& ~~~e.mask) ||| (e.value &&& e.mask)

/-- The register that a transaction may name at an offset (R552): not in a per-die window. -/
def cfgReg (off : Nat) : Option Reg := if off % 8 = 0 ∧ off < 0x1000000 then regAt off else none
/-- The RW and RW-S bits of a register. -/
def cfgBits (r : Reg) : Word64 := BitVec.ofNat 64 ((regInfo r).rw ||| (regInfo r).rws)
def rwsBits (r : Reg) : Word64 := BitVec.ofNat 64 (regInfo r).rws

/-- One entry of a write list (R552): the entry and whether it is good. -/
def listEntry (bs : List Byte) : CfgEntry × Bool :=
  let w (i n : Nat) : Nat := leNat ((bs.drop i).take n)
  let e : CfgEntry := { off := w 0 4, mask := BitVec.ofNat 64 (w 8 8), value := BitVec.ofNat 64 (w 16 8) }
  (e, decide (w 4 4 = 0) && decide (w 24 8 = 0) && (match cfgReg e.off with | some r => decide (e.mask &&& ~~~cfgBits r = 0) | none => false))

def listEntries (bs : List Byte) : List (CfgEntry × Bool) := (chunks 32 bs.length bs).map listEntry

/-! ## Apply points (R554) -/

/-- Whether a register's apply point is reached. -/
def applyPoint (s : State) (r : Reg) : Bool :=
  match r with
  | .cqCfg q => (queueOf s q).flight.isEmpty
  | .cqPart p => s.queues.all fun (x : Nat × Queue) => decide (qPart s x.1 ≠ p) || x.2.flight.isEmpty
  | .memParkBase n _ => (stackOf s n).slots.isEmpty && (stackOf s n).parkQ.isEmpty
  | .memParkLimit n _ => (stackOf s n).slots.isEmpty && (stackOf s n).parkQ.isEmpty
  | _ => true

def allReached (s : State) (l : List CfgEntry) : Bool := l.all fun e => match regAt e.off with | some r => applyPoint s r | none => true

/-! ## Checks (R555) -/

/-- The Ndopiolo die that a register lies on (R555, R622). -/
def regDie : Reg → Option Nat
  | .memCtrl n => some (n / 8)
  | .memPatrol n => some (n / 8)
  | .memPark n => some (n / 8)
  | .memParkBase n _ => some (n / 8)
  | .memParkLimit n _ => some (n / 8)
  | .updFetch n => some (n / 8)
  | .govCluCtrl c => some (c / 16)
  | .dlkStream l d _ => if linkSender l d < 4 then some (linkSender l d) else none
  | _ => none

/-- Whether a command or program waits on a counter of a group (R332). -/
def groupWaited (s : State) (g : Nat) : Bool :=
  (s.queues.any fun (x : Nat × Queue) =>
    (x.2.queued.any fun c => (upto 0 (cmdNwait c)).any fun w => decide (waitCtr c w / 256 = g) && decide ((evtOf s (waitCtr c w)).toNat < (waitVal c w).toNat))
    || x.2.flight.any fun f => f.started && !f.done && decide (cmdKind f.cmd = 0x08) &&
        (upto 0 (cmdNwait f.cmd)).any fun w => decide (waitCtr f.cmd w / 256 = g))
  || s.cores.any fun (x : Nat × Core) => match x.2.stall with | some (.ewait c _) => decide (c.toNat / 256 = g) | _ => false

/-- VC allocation of a port (R385). -/
def allocBad (s : State) (p : Nat) : Bool :=
  let l := (upto 0 8).map (allocOf s p)
  decide (l.foldl (· + ·) 0 > 8192) || l.any fun n => decide (n < 16)

/-- Streams of a link direction (R470): the valid LANES sum above 32, or sender and receiver kinds differ. -/
def streamsBad (s : State) (l d : Nat) : Bool :=
  let v := (upto 0 16).filter (streamValid s l d)
  decide ((v.map fun i => rfld s (.dlkStream l d i) 56 6).foldl (· + ·) 0 > 32)
  || v.any fun i => decide (rfld s (.dlkStream l d i) 24 8 ≠ rfld s (.dlkStream l d i) 8 8)

/-- An enabled park range (R555): LIMIT below BASE, blocks of another stack, or a reserved range. -/
def rangeBad (s : State) (n i : Nat) : Bool :=
  let lo := rfld s (.memParkBase n i) 12 29 * 4096
  let hi := rfld s (.memParkLimit n i) 12 29 * 4096
  let h := (stackOf s n).half
  rbit s (.memParkBase n i) 63 &&
    (decide (hi < lo) || decide (devStack lo ≠ n) || decide (devStack hi ≠ n) || decide (devLocal hi ≥ journalBase h))

/-- The checks in the order of their table: `old` is the state before, `s` the one with the values in place. -/
def checkRow (old s : State) (row : Nat) (r : Reg) : Bool :=
  match row, r with
  | 0, .dlkDieCtrl _ => false
  | 0, r => match regDie r with | some n => !dieServes s n | none => false
  | 1, .dlkDieCtrl n => rbit s (.dlkDieCtrl n) 0 && !rbit old (.dlkDieCtrl n) 0 && decide (dieState s n ≠ .ready) && decide (dieState s n ≠ .inService)
  | 2, .evtOwner g => decide (rfld s (.evtOwner g) 0 9 ≠ rfld old (.evtOwner g) 0 9) && groupWaited s g
  | 3, .fabPortAlloc0 p => allocBad s p
  | 3, .fabPortAlloc1 p => allocBad s p
  | 4, .dlkStream l d _ => streamsBad s l d
  | 5, .fabNodeId => decide (rfld s .fabNodeId 0 16 ≠ rfld old .fabNodeId 0 16) && (upto 0 24).any fun p => decide ((portOf s p).st ≠ .disabled)
  | 6, .memParkBase n i => rangeBad s n i
  | 6, .memParkLimit n i => rangeBad s n i
  | _, _ => false

def checkStatus : Nat → Status
  | 0 => .dieLost | 1 => .dieNotReady | _ => .cfgCheckFail

/-- Put the values of a shadow into the registers. -/
def putEntries (s : State) (l : List CfgEntry) : State :=
  l.foldl (fun s e => match regAt e.off with | some r => rset s r (overlay (rget s r) e) | none => s) s

/-- The first check that fails, with the offset of its register (R555). -/
def commitCheck (old : State) (l : List CfgEntry) : Option (Status × Nat) :=
  let s := putEntries old l
  (upto 0 7).findSome? fun row => (l.find? fun e => match regAt e.off with | some r => checkRow old s row r | none => false).map fun e => (checkStatus row, e.off)

/-! ## RW fields (R15, R345, R619) -/

/-- The state that an operation answers. -/
def stateOf (s : State) (o : Out) : State := match o with | .next t => t | _ => s


/-- The bits of a register that a write gives, over those it keeps. -/
def merged (old mask v : Word64) : Word64 := (old &&& ~~~mask) ||| (v &&& mask)

/-- CQ_Q_CFG (R345, R619): written in DISABLED alone; a LOG2_SIZE outside 4 to 16 keeps the field and is counted. -/
def writeQCfg (s : State) (q : Nat) (mask v : Word64) : State :=
  let n := nfld (merged (rget s (.cqCfg q)) mask v).toNat 10 5
  if mask &&& 0x7C00 ≠ 0 ∧ (n < 4 ∨ 16 < n) then
    rbump (rset s (.cqCfg q) (merged (rget s (.cqCfg q)) (mask &&& ~~~0x7C00) v)) .glbRegRejects 1
  else rset s (.cqCfg q) (merged (rget s (.cqCfg q)) mask v)

/-- Store the RW bits `mask` of a register, with what the write leads to. A fabric port that boot enables begins its training at RUNNING
(R540). -/
def writeRw (s : State) (r : Reg) (mask v : Word64) : State :=
  let new := merged (rget s r) mask v
  let idle (q : Nat) : Bool := decide ((queueOf s q).state = .disabled)
  if mask = 0 then s
  else match r with
    | .cqCfg q => if idle q then writeQCfg s q mask v else s
    | .cqRing q => if idle q then rset s r new else s
    | .cqCompl q => if idle q then rset s r new else s
    | .cqTail q => if idle q then rset s r new else s
    | .cqFetch q => if idle q then rset s r new else s
    | .cqCtrl q =>
      let s := if mask.getLsbD 1 then rsetFld s r 1 1 (b01 (v.getLsbD 1)) else s
      if !mask.getLsbD 0 then s else if v.getLsbD 0 then enableQueue s q else disableQueue s q
    | .timeSet => setEdge s new
    | .govCap => capWritten s (rset s r new)
    | .govWinCtrl w =>
      let s := rset s r new
      if mask.getLsbD 63 && v.getLsbD 63 then modGov s fun g => { g with winFlags := tmod (fun _ => 0) g.winFlags w fun f => f % 2 ^ 61 } else s
    | .fabPortCtrl p =>
      if h : p < 24 then (if s.pkg.stage = 5 then stateOf s (execPortEnable ⟨p, h⟩ (new.getLsbD 0) (rset s r new)) else rset s r new) else s
    | _ => rset s r new

/-! ## What applying leads to (R553 step 4) -/

/-- The consequence of a register's new value, after a state with its old one: port recovery (R385), lanes handed out again (R450), a die
admitted (R468), the counters of a group that changes its owner (R332). -/
def consequence (old s : State) (r : Reg) : State :=
  let recover (s : State) (p : Nat) : State := if (portOf s p).st = .active ∧ rget s r ≠ rget old r then enterRecovery s p else s
  match r with
  | .fabPortAlloc0 p => recover s p
  | .fabPortAlloc1 p => recover s p
  | .dlkStream l d _ => regrant s l d
  | .evtOwner g =>
    if rfld s r 0 9 = rfld old r 0 9 then s
    else { s with evt := tclear s.evt (256 * g) 256, evtFault := tclear s.evtFault (256 * g) 256 }
  | .dlkDieCtrl n =>
    if rbit s (.dlkDieCtrl n) 0 ∧ (dieOf s n).st = .ready then
      setErrQ (setDie s n { dieOf s n with st := .inService }) n { errQ s n with takenOver := false }
    else s
  | .fabNodeId =>
    if rfld s .fabNodeId 0 16 = 0xFFFF ∨ s.pkg.stage ≠ 5 then s
    else (upto 0 24).foldl (fun s p => if rbit s (.fabPortCtrl p) 0 && decide ((portOf s p).st = .disabled) then enterTraining s p else s) s
  | _ => s

/-- The registers changed by a commit of VC allocations put a port through RECOVERY once. -/
def consequences (old s : State) (l : List CfgEntry) : State :=
  l.foldl (fun s e => match regAt e.off with | some r => consequence old s r | none => s) s

/-- Measurement 3 changes (R548): its digest is free (DESIGN CHOICE, log entry 9). -/
def remeasure (s : State) (i : Nat) : State :=
  { tickFree s with sec := { s.sec with measure := tset (fun _ => 0) s.sec.measure i (s.freeCtr + 1) } }

/-- The RW-S bits of a shadow, and its RW bits, which go where a write of them goes (R345, R347). -/
def applyEntries (s : State) (l : List CfgEntry) : State :=
  let part (f : Reg → Word64) : List CfgEntry := l.map fun e => match regAt e.off with | some r => { e with mask := e.mask &&& f r } | none => e
  (part fun r => BitVec.ofNat 64 (regInfo r).rw).foldl (fun s e => match regAt e.off with | some r => writeRw s r e.mask e.value | none => s)
    (putEntries s (part rwsBits))

/-- Apply a shadow in one cycle. -/
def applyShadow (s : State) (l : List CfgEntry) : State := remeasure (consequences s (applyEntries s l) l) 3

/-! ## Direct writes (R557, R558) -/

/-- A direct write that fails: discarded, its status kept, an error record written (R557). -/
def directReject (s : State) (off : Nat) (st : Status) : State :=
  let s := modCfg (rbump s (.cfgCtr 3) 1) fun c => { c with lastDirect := statusCode st }
  reportAlways s st (resource 0x11 0) (BitVec.ofNat 64 off)

/-- A write of staged bits of one register outside a transaction: applied at once, held in the pending shadow, or rejected. -/
def directWrite (s : State) (off : Nat) (mask value : Word64) : State :=
  match regAt off with
  | none => s
  | some r =>
    let held := shadowOf s.cfg.pend off
    let e0 : CfgEntry := { off := off, mask := mask, value := value &&& mask }
    let e : CfgEntry := match held with | some x => (stageEntry [x] e0).headD e0 | none => e0
    if mask = 0 then s
    else match commitCheck s [e] with
      | some (st, _) => directReject s off st
      | none =>
        if applyPoint s r then applyShadow (modCfg s fun c => { c with pend := c.pend.filter fun x => decide (x.off ≠ off) }) [e]
        else if held.isNone ∧ s.cfg.pend.length ≥ 256 then directReject s off .cfgShadowFull
        else modCfg s fun c => { c with pend := stageEntry c.pend e0 }

/-- A pending direct write whose apply point is reached (R557). -/
def applyPending (s : State) (off : Nat) : State :=
  match shadowOf s.cfg.pend off, regAt off with
  | some e, some r =>
    if !applyPoint s r then s
    else
      let s := modCfg s fun c => { c with pend := c.pend.filter fun x => decide (x.off ≠ off) }
      match commitCheck s [e] with
      | some (st, _) => directReject s off st
      | none => applyShadow s [e]
  | _, _ => s

/-! ## Commits (R553, R556) -/

/-- The kind block of a CFG_TXN (R556). -/
def cfgKind (bad superseded regs : Nat) (at_ : Word64) : BitVec 128 :=
  BitVec.ofNat 128 (bad + superseded * 2 ^ 32 + regs * 2 ^ 48 + at_.toNat * 2 ^ 64)

def noOffset : Nat := 0xFFFFFFFF
def openRegs (s : State) : Nat := ((s.cfg.txn.map (·.shadow)).getD []).length

/-- A CFG_TXN is done with a status, its kind block filled. -/
def cfgDone (s : State) (q : Nat) (seq : Word32) (st : Status) (bad superseded : Nat) (at_ : Word64) : State :=
  let n := openRegs s
  flightDone (modFlight s q seq fun f => { f with kindBlk := cfgKind bad superseded n at_ }) q seq st

/-- The waiting COMMIT fails: its holds are released and nothing is applied (R553, R556). -/
def commitFail (s : State) (st : Status) (bad : Nat) : State :=
  match s.cfg.commit with
  | none => s
  | some m =>
    if m.applied then s
    else cfgDone (rbump (modCfg s fun c => { c with commit := none }) (.cfgCtr 1) 1) m.q m.seq st bad 0 0

/-- The open transaction is aborted (R551). -/
def abortTxn (s : State) : State :=
  let s := commitFail s .cfgAborted noOffset
  modCfg s fun c => { c with txn := none }

/-- A COMMIT that waits completes with DIE_LOST when a die whose registers it touches leaves service (R556). -/
def commitDieLost (s : State) (n : Nat) : State :=
  let l := (s.cfg.txn.map (·.shadow)).getD []
  match l.find? fun e => match regAt e.off with | some r => decide (regDie r = some n) | none => false with
  | some e => commitFail s .dieLost e.off
  | none => s

/-! ## Persistence (R560) -/

/-- Whether a persisted image holds a register. -/
def persists : Reg → Bool
  | .cqCfg _ => false | .cqRing _ => false | .cqCompl _ => false | .cqTail _ => false | .cqCtrl _ => false | .cqFetch _ => false
  | .glbResetCtrl => false | .timeSet => false | .govWinStart _ => false | .govWinCtrl _ => false | .govWinRate _ => false
  | .cfgPeekAddr => false | .secUpdateAddr => false | .secUpdateCtrl => false | .secDebugAddr => false
  | r => decide (cfgBits r ≠ 0) && decide (regOffset r < 0x1000000)

/-- The write list of a persisted configuration: every such register that is not at its reset value, in applied values; the
entries of the others would change nothing at boot (R543). -/
def persistList (s : State) : List CfgEntry :=
  s.regs.filterMap fun (x : Nat × Word64) => match regAt x.1 with
    | some r => if persists r then some { off := x.1, mask := cfgBits r, value := x.2 &&& cfgBits r } else none
    | none => none

/-! ## Flash pairs (R530 to R534) -/

/-- Offset and size of the flash banks (R530). -/
def bankOffset (b : Nat) : Nat :=
  [0, 0x08000000, 0x10000000, 0x12000000, 0x14000000, 0x16000000, 0x18000000, 0x1C000000].getD b 0
def bankSize (b : Nat) : Nat := if b < 2 then 0x08000000 else if b < 6 then 0x02000000 else 0x04000000

/-- The KIND of a bank's header (R531). -/
def bankKind (b : Nat) : Nat := if b < 2 then 1 else if b < 4 then 2 else if b < 6 then 8 else 3

/-- The 32 bytes of a bank header whose HCRC is good (R531). -/
def bankHeader (x : FlashBank) : List Byte :=
  let h := leBytes 4 x.magic.toNat ++ [x.kind, x.format] ++ leBytes 2 0 ++ leBytes 4 x.seq.toNat ++ leBytes 4 x.len ++ leBytes 4 x.crc.toNat
  h ++ leBytes 4 (crc32c h) ++ leBytes 8 0

/-- Whether header and body of a bank are good (R532): MAGIC, KIND, FORMAT, HCRC and CRC, and a LENGTH that fits. -/
def bankGood (b : Nat) (x : FlashBank) : Bool :=
  decide (x.magic = 0x5A424E4B) && decide (x.kind.toNat = bankKind b) && decide (x.format = 1) && x.hcrcGood && x.crcGood
    && decide (x.len ≤ bankSize b - 0x1000)

/-- A bank that is valid but for its signed image (R532). -/
def flashBank (s : State) (b : Nat) : Option FlashBank := (tget (fun _ => none) s.sec.flash b).filter (bankGood b)

def bankSeq (s : State) (b : Nat) : Option Word32 := (flashBank s b).map fun x => x.seq
/-- The newer bank of a pair whose headers and bodies are good (R533). -/
def seqWinner (s : State) (base : Nat) : Option Nat := pairWinner (bankSeq s base) (bankSeq s (base + 1))

/-- A valid bank (R532): it also holds a signed image of the same KIND that is accepted. -/
def validBank (s : State) (b : Nat) : Option FlashBank :=
  (flashBank s b).filter fun x => x.accepted && (headerRefused s.sec.fuses (bankKind b) x.hdr).isNone
def setFlash (s : State) (b : Nat) (x : Option FlashBank) : State :=
  { s with sec := { s.sec with flash := tset (fun _ => none) s.sec.flash b x } }
/-- The first bank of an image KIND's pair (R530). -/
def pairBase (kind : Nat) : Nat := match kind with | 1 => 0 | 2 => 2 | _ => 6
def flashWinner (s : State) (base : Nat) : Option Nat := pairWinner ((validBank s base).map (·.seq)) ((validBank s (base + 1)).map (·.seq))

/-- Write a pair's losing bank (R534): with the read-backs good it is valid and newer than the winner, else it is invalid. The
write is entered in the field record, whether it ends well or not. -/
def writePair (s : State) (base : Nat) (x : FlashBank) (ok : Bool) : State × Word32 :=
  let w := flashWinner s base
  let bank := base + loser w
  let seq := nextSeq (w.bind fun i => (flashBank s (base + i)).map (·.seq))
  (fieldEvent (setFlash s bank (if ok then some { x with seq := seq } else none)) 0xF002 (resource 0x10 bank)
    (BitVec.ofNat 64 (bank + seq.toNat * 2 ^ 32)), seq)

/-- Bytes of a signed image (R535): its signature block follows the payload at the next multiple of 8 bytes. -/
def imageBytes (payload : Nat) : Nat := (256 + payload + 7) / 8 * 8 + 17040

/-- The header of a persisted configuration (R538, R560): CLASS 2, the fused CFG_SVN as SVN and SVN_FLOOR. -/
def persistHdr (s : State) (n : Nat) : ImgHdr :=
  let v := BitVec.ofNat 8 s.sec.fuses.cfgSvn
  { kind := 2, svn := v, svnFloor := v, slot := 0, cls := 2, len := BitVec.ofNat 32 (32 * n) }

/-- The bank that a persisted configuration makes (R560); the CRC of its body, which holds free signatures, is free. -/
def persistBank (s : State) : FlashBank :=
  let l := persistList s
  { seq := 0, hdr := persistHdr s l.length, list := l, len := imageBytes (32 * l.length), crc := BitVec.ofNat 32 (freeNat s) }

end Sys2Proof.Machine
end

