-- ==== Sys2Proof/Machine/CfgRows.lean ====
section
/-! DEFINITION. The commands of configuration transactions and direct writes (spec/17, R550 to R560), and the actions that fire at
an instant (R342). -/
namespace Sys2Proof.Machine

/-- A CFG_TXN command with an operation that has started and whose work has not begun; one of a queue of another partition
than ADMIN_PART completes with PART_DENIED (R551). -/
def cfgWork (s : State) (q : Nat) (seq : Word32) (op : Nat) : Option Flight :=
  match workOf s q seq 0x0B with
  | some f => if cmdFld f.cmd 0x40 0 2 = op then some f else none
  | none => none

def adminBad (s : State) (q : Nat) : Bool := decide (qPart s q ≠ rfld s .cfgCtrl 56 8)
def cfgFail (s : State) (q : Nat) (seq : Word32) (st : Status) : State := cfgDone s q seq st noOffset 0 0
def txnIs (s : State) (id : Nat) : Bool := match s.cfg.txn with | some t => decide (t.id.toNat = id) | none => false

/-- CFG_TXN_BEGIN (R551). -/
def execCfgTxnBegin (q : Fin 4096) (seq : Word32) (s : State) : Out :=
  match cfgWork s q.val seq 0 with
  | none => .next s
  | some f =>
    if adminBad s q.val then .next (cfgFail s q.val seq .partDenied)
    else if s.cfg.txn.isSome then .next (cfgFail s q.val seq .cfgBusy)
    else
      let s := modCfg s fun c => { c with txn := some { id := BitVec.ofNat 32 (cmdFld f.cmd 0x48 0 32), lastNs := s.localNs } }
      .next (cfgDone s q.val seq .success noOffset 0 0)

/-- CFG_TXN_WRITE (R551, R552): the list is staged whole or not at all. -/
def execCfgTxnWrite (q : Fin 4096) (seq : Word32) (s : State) : Out :=
  match cfgWork s q.val seq 1 with
  | none => .next s
  | some f =>
    if adminBad s q.val then .next (cfgFail s q.val seq .partDenied)
    else if !txnIs s (cmdFld f.cmd 0x48 0 32) || s.cfg.commit.isSome then .next (cfgFail s q.val seq .cfgTxnBad)
    else
      let p := cmdWord f.cmd 0x50
      let s := hdSettle s (ptrHost p) (ptrAddr p 7) (32 * cmdFld f.cmd 0x58 0 13)
      match hdRead s (ptrHost p) (ptrAddr p 7) (32 * cmdFld f.cmd 0x58 0 13) with
      | .error e => .next (if e.wait then cmdWait s q.val seq e else cmdFail s q.val seq e)
      | .ok bs =>
        let es := listEntries bs
        let s := modCfg s fun c => { c with txn := c.txn.map fun t => { t with lastNs := s.localNs } }
        match es.find? fun x => !x.2 with
        | some (e, _) => .next (cfgDone s q.val seq .cfgTxnBad e.off 0 0)
        | none =>
          let l := (es.map (·.1)).foldl stageEntry ((s.cfg.txn.map (·.shadow)).getD [])
          if l.length > 4096 then .next (cfgFail s q.val seq .cfgShadowFull)
          else .next (cfgDone (modCfg s fun c => { c with txn := c.txn.map fun t => { t with shadow := l } }) q.val seq .success noOffset 0 0)

/-- CFG_TXN_COMMIT (R551, R553): the COMMIT waits for its instant, or holds new work at once. -/
def execCfgTxnCommit (q : Fin 4096) (seq : Word32) (s : State) : Out :=
  match cfgWork s q.val seq 2 with
  | none => .next s
  | some f =>
    if adminBad s q.val then .next (cfgFail s q.val seq .partDenied)
    else if !txnIs s (cmdFld f.cmd 0x48 0 32) || s.cfg.commit.isSome then .next (cfgFail s q.val seq .cfgTxnBad)
    else
      let hold := if cmdFld f.cmd 0x40 3 1 = 1 then none else some s.localNs
      let s := modFlight s q.val seq fun f => { f with begun := true }
      .next (modCfg s fun c => { c with commit := some { q := q.val, seq := seq, holdNs := hold }
                                        txn := c.txn.map fun t => { t with lastNs := s.localNs } })

/-- CFG_TXN_ABORT (R551). -/
def execCfgTxnAbort (q : Fin 4096) (seq : Word32) (s : State) : Out :=
  match cfgWork s q.val seq 3 with
  | none => .next s
  | some f =>
    if adminBad s q.val then .next (cfgFail s q.val seq .partDenied)
    else if !txnIs s (cmdFld f.cmd 0x48 0 32) || (s.cfg.commit.any fun m => m.applied) then .next (cfgFail s q.val seq .cfgTxnBad)
    else .next (cfgDone (abortTxn s) q.val seq .success noOffset 0 0)

/-- CFG_COMMIT_APPLY (R553 steps 2 to 4, R558, R559): all apply points are reached at one moment: the checks run, and the whole shadow
applies in one cycle. -/
def execCfgCommitApply (s : State) : Out :=
  match s.cfg.commit, s.cfg.txn with
  | some m, some t =>
    if m.holdNs.isNone || m.applied || !allReached s t.shadow then .next s
    else match commitCheck s t.shadow with
      | some (st, off) => .next (commitFail s st off)
      | none =>
        let ovf := (s.cfg.pend.filter fun x => (shadowOf t.shadow x.off).isSome).length
        let s := modCfg s fun c => { c with pend := c.pend.filter fun x => (shadowOf t.shadow x.off).isNone }
        let s := applyShadow s t.shadow
        let s := rbump (rbump s (.cfgCtr 0) 1) (.cfgCtr 2) ovf
        let s := modFlight s m.q m.seq fun f => { f with
          timeFlags := f.timeFlags ||| timeFlags s, kindBlk := cfgKind noOffset ovf t.shadow.length s.time.now }
        let persist := match flightOf s m.q m.seq with | some f => decide (cmdFld f.cmd 0x40 2 1 = 1) | none => false
        if persist then .next (modCfg s fun c => { c with txn := none, commit := some { m with applied := true } })
        else .next (flightDone (modCfg s fun c => { c with txn := none, commit := none }) m.q m.seq (if ovf = 0 then .success else .cfgPending))
  | _, _ => .next s

/-- CFG_QUIESCE_TIMEOUT (R553): the apply points are not reached within QUIESCE_LIMIT µs. -/
def execCfgQuiesceTimeout (s : State) : Out :=
  match s.cfg.commit with
  | none => .next s
  | some m => match m.holdNs with
    | none => .next s
    | some t =>
      let l := (s.cfg.txn.map (·.shadow)).getD []
      if m.applied || allReached s l || decide (s.localNs < t + 1000 * max 1 (rfld s .cfgCtrl 0 32)) then .next s
      else .next (commitFail s .cfgQuiesceTimeout noOffset)

/-- CFG_IDLE_ABORT (R551): an open transaction without WRITE or COMMIT for IDLE_ABORT seconds. -/
def execCfgIdleAbort (s : State) : Out :=
  match s.cfg.txn with
  | none => .next s
  | some t =>
    let n := rfld s .cfgCtrl 40 16
    if n = 0 ∨ s.localNs < t.lastNs + n * 10 ^ 9 then .next s else .next (abortTxn s)

/-- CFG_PERSIST (R560, R534): the configuration image of an applied COMMIT is written, or cannot be. -/
def execCfgPersist (ok : Bool) (s : State) : Out :=
  match s.cfg.commit with
  | none => .next s
  | some m =>
    if !m.applied then .next s
    else
      let x := persistBank s
      let bank := 2 + loser (flashWinner s 2)
      let ovf := match flightOf s m.q m.seq with | some f => (f.kindBlk.extractLsb' 32 16).toNat | none => 0
      let (s, _) := writePair (tickFree s) 2 x ok
      let s := modCfg s fun c => { c with commit := none }
      if ok then .next (flightDone (rbump s (.cfgCtr 4) 1) m.q m.seq (if ovf = 0 then .success else .cfgPending))
      else .next (flightDone (forCommand m.q m.seq s (report s .cfgPersistFail (resource 0x10 bank) 0 0 false)) m.q m.seq .cfgPersistFail)

/-- DIRECT_WRITE (R557): a write to the staged fields of a register outside a transaction. -/
def execDirectWrite (off : BitVec 28) (mask value : Word64) (s : State) : Out :=
  match cfgReg off.toNat with
  | none => .next s
  | some r => .next (directWrite s off.toNat (mask &&& rwsBits r) value)

/-- PENDING_APPLY (R557): a pending direct write at its block's next idle boundary. -/
def execPendingApply (off : BitVec 28) (s : State) : Out := .next (applyPending s off.toNat)

/-- TIMED_ACTION_FIRE (R342, R343): local cluster time has reached the instant of a COMMIT, of a ramp window, or of the field
record's quarter hour. -/
def execTimedActionFire (act : TimedAct) (s : State) : Out :=
  match act with
  | .window w => .next (fireWindow s w.toNat)
  | .fieldRecord => .next (scheduledWrite s)
  | .commit =>
    match s.cfg.commit with
    | none => .next s
    | some m =>
      match flightOf s m.q m.seq with
      | none => .next s
      | some f =>
        if m.holdNs.isSome || decide (s.time.now.toNat < (cmdWord f.cmd 0x50).toNat) then .next s
        else
          let (s, tf) := fireFlags s (cmdWord f.cmd 0x50).toNat
          let s := modFlight s m.q m.seq fun f => { f with timeFlags := f.timeFlags ||| tf }
          .next (modCfg s fun c => { c with commit := some { m with holdNs := some s.localNs } })

end Sys2Proof.Machine
end

