-- ==== Sys2Proof/Machine/TimeFire.lean ====
section
/-! DEFINITION. The edges of TIMEPPS (spec/10, R337 to R341), and the actions that a forward step of cluster time passes over
(R339, R342). -/
namespace Sys2Proof.Machine

/-- An action with its instant, put among others in order of instant. -/
def putAct (x : Nat × (State → State)) : List (Nat × (State → State)) → List (Nat × (State → State))
  | [] => [x]
  | y :: t => if y.1 ≤ x.1 then y :: putAct x t else x :: y :: t

/-- The actions of R342 that wait for an instant, with their instants: TWAITs, TIME_WAITs, a COMMIT, ramp windows and the field record's
quarter hour. Commands with NOT_BEFORE become startable by the time itself, and step marks end with their interval. -/
def waitingActs (s : State) : List (Nat × (State → State)) :=
  let act (o : State → Out) (s : State) : State := stateOf s (o s)
  let twaits : List (Nat × (State → State)) := s.cores.filterMap fun x => match x.2.stall, logicalOf s x.1 with
    | some (.twait t), some core => if h : core < 4096 then some (t.toNat, act (execWaitRelease ⟨core, h⟩)) else none
    | _, _ => none
  let waits : List (Nat × (State → State)) := s.queues.flatMap fun x =>
    (x.2.flight.filter fun f => f.started && !f.done && decide (cmdKind f.cmd = 0x0A)).filterMap fun f =>
      if h : x.1 < 4096 then some ((cmdWord f.cmd 0x40).toNat, act (execTimeWait ⟨x.1, h⟩ f.cmd.seq)) else none
  let commits : List (Nat × (State → State)) := match s.cfg.commit with
    | some m => (flightOf s m.q m.seq).toList.map fun f => ((cmdWord f.cmd 0x50).toNat, act (execTimedActionFire .commit))
    | none => []
  let windows : List (Nat × (State → State)) := (upto 0 4).map fun w => ((rget s (.govWinStart w)).toNat, fun s => fireWindow s w)
  let quarter : List (Nat × (State → State)) := [(s.time.now.toNat / 900000000000 * 900000000000, scheduledWrite)]
  twaits ++ waits ++ commits ++ windows ++ quarter

/-- Actions whose instants a forward step from `was` passed over fire at the step, in order of instant (R339). -/
def firePassed (s : State) (was : Nat) : State :=
  if s.time.now.toNat ≤ was + 1000000 then s
  else
    let mine := (waitingActs s).filter fun x => decide (was < x.1) && decide (x.1 ≤ s.time.now.toNat)
    (mine.foldl (fun l x => putAct x l) []).foldl (fun s x => x.2 s) s

/-- Whether an edge of TIMEPPS comes within 1 µs of a millisecond after the last one, and after how many (R340). A first edge counts as
expected (DEDUCED, log entry 45). -/
def edgeExpected (s : State) : Bool × Nat :=
  match s.time.edgeNs with
  | none => (true, 1)
  | some e =>
    let k := (s.localNs - e + 500000) / 1000000
    let at_ := e + 1000000 * k
    (decide (1 ≤ k) && decide (s.localNs ≤ at_ + 1000) && decide (at_ ≤ s.localNs + 1000), k)

/-- TIMEPPS_EDGE (R337 to R341): a rising edge of TIMEPPS, with TIMEREF good since the last one or not. With both references good,
the value that applies at the edge steps or slews cluster time. A LOCKED unit steers the edge to a multiple of 1,000,000, and so does a
master whose references have returned; a slew runs on until its end. A value that was to apply at an edge without good references
applies no more (DEDUCED, log entry 45). -/
def execTimeppsEdge (refGood : Bool) (s : State) : Out :=
  let t := s.time
  let (ok, k) := edgeExpected s
  if !ok then
    .next (if t.ppsOk then s else setTime s { t with edgeNs := some s.localNs, goodEdges := b01 refGood })
  else
    let s := setTime s { t with edgeNs := some s.localNs
                                goodEdges := if !refGood then 0 else if k = 1 then min 8 (t.goodEdges + 1) else 1 }
    if !(t.refOk && t.ppsOk) || !refGood then .next (setTime s { s.time with nextEdge := none })
    else match t.nextEdge with
      | some v => .next (firePassed (applyEdge s v) t.now.toNat)
      | none =>
        let back := isMaster s && (decide (t.st = .holdover) || decide (t.st = .unsync))
        if t.st = .locked ∨ back then .next (firePassed (applyEdge s (nearestMs t.now)) t.now.toNat) else .next s

end Sys2Proof.Machine
end

