-- ==== Sys2Proof/Machine/DieOps.lean ====
section
/-! DEFINITION. A die leaves service and returns (spec/14, R462 to R469; spec/18, R576; R329, R656). -/
namespace Sys2Proof.Machine

def modDie (s : State) (n : Nat) (f : Die → Die) : State := setDie s n (f (dieOf s n))

/-! ## The fence (R464) -/

/-- Commands of a list of flights, by queue and sequence number. -/
abbrev CmdKey := Nat × Word32

/-- Flights that a test picks, over all queues. -/
def flightsOf (s : State) (t : Nat → Flight → Bool) : List CmdKey :=
  s.queues.flatMap fun (x : Nat × Queue) => (x.2.flight.filter (t x.1)).map fun f => (x.1, f.cmd.seq)

/-- A TILE_PROGRAM fails with DIE_LOST (R656): its cores on dies in service end by R221, and it completes once they have. -/
def programsLost (s : State) (q : Nat) (seq : Word32) : State :=
  match flightOf s q seq with
  | none => s
  | some f =>
    let s := modFlight s q seq fun f => { f with status := .dieLost, done := f.done || f.launched.isEmpty }
    f.launched.foldl (fun s (x : Nat × Nat) =>
      if (coreOf s x.2).cmdQueue = q ∧ (coreOf s x.2).cmdSeq = seq ∧ (coreOf s x.2).phase ≠ .idle then
        programFault s x.1 x.2 .dieLost (coreOf s x.2).pc
      else modFlight s q seq fun f => { f with launched := f.launched.filter fun y => decide (y.1 ≠ x.1)
                                               done := f.done || (f.launched.filter fun y => decide (y.1 ≠ x.1)).isEmpty }) s

/-- A started command of a FAILED queue completes with DIE_LOST (R329). -/
def startedLost (s : State) (q : Nat) (f : Flight) : State :=
  let seq := f.cmd.seq
  if f.done then s
  else match cmdKind f.cmd with
    | 0x04 => programsLost s q seq
    | 0x05 =>
      (match collOf s q seq with
       | some cl => if f.begun then raiseTaint s cl noChunk .dieLost else flightDone s q seq .dieLost
       | none => flightDone s q seq .dieLost)
    | 0x06 => if f.begun then updFail s q seq .dieLost else flightDone s q seq .dieLost
    | 0x0B => if s.cfg.commit.any fun m => decide (m.q = q) && decide (m.seq = seq) then commitFail s .dieLost noOffset
              else flightDone s q seq .dieLost
    | _ => flightDone s q seq .dieLost

/-- A queue of a partition mapped onto a lost die enters FAILED (R329). -/
def queueLost (s : State) (q : Nat) : State :=
  let k := queueOf s q
  if k.state = .disabled then s
  else
    let s := setQueue s q { k with state := .failed, queued := [], cancelTo := none, cancelAsked := false, lastStatus := .dieLost }
    let s := k.queued.foldl (fun s c => unrun s q c .dieLost) s
    k.flight.foldl (fun s f => startedLost s q f) s

/-- The cores of a die stop (R656): nothing is reported, and nothing that they had not sent is sent. Their pages take their reset
values (R622). -/
def coresLost (s : State) (n : Nat) : State :=
  let s := { s with cores := s.cores.filterMap fun (x : Nat × Core) =>
               if x.1 / 66 / 16 ≠ n then some x
               else
                 let fresh : Core := {}
                 let c : Core := { failed := x.2.failed }
                 if c = fresh then none else some (x.1, c) }
  let s := { s with regs := tclear s.regs (0x1000000 * (n + 1)) 0x1000000 }
  (upto (16 * n) 16).foldl (fun s c =>
    let k := clusterOf s c
    let s := setCluster s c { k with
      cmem := [], cmemPoison := [], cmemBad := [], stageHold := none, stageWait := [], copyCmd := none, mailbox := [], stewardIrq := false, stewardOut := false
      stewardData := 0, lastFault := none, partnerServes := false, dmaWaits := [], rr := [], corr := [], migrating := none, clearReq := false }
    let s := setSvc s (4 + c) {}
    modClu (droopCut s c) c fun g => { g with power := 0, fill := 0, deferSince := none, stretched := 0, off := false }) s

/-- An update unit is lost with its die: its commands end with DIE_LOST once the blocks committed on other dies are retired. Its
journal stays in the stack for R300. -/
def unitLost (s : State) (n : Nat) : State :=
  let u := updOf s n
  let keys := (u.tasks.map fun t => (t.q, t.seq)) ++ u.blocks.map fun b => (b.q, b.seq)
  let keys := keys.foldl (fun l k => if l.contains k then l else l ++ [k]) ([] : List CmdKey)
  let s := setUpd s n { u with tasks := [], blocks := [], ready := false, recovering := false, journalInit := false, slowReplay := [] }
  keys.foldl (fun s (k : CmdKey) =>
    let left := (u.tasks.filter fun t => decide (t.q = k.1) && decide (t.seq = k.2)).map fun t =>
      if (groupOf t.group).tier then ownCount (groupOf t.group) n (taskFirst s t) t.last - t.taken.length
      else ownCount (groupOf t.group) n t.next t.last
    let running := (u.blocks.filter fun b => decide (b.q = k.1) && decide (b.seq = k.2)).length
    updFail (updDone (updStatus s k.1 k.2 .dieLost) k.1 k.2 (left.foldl (· + ·) 0 + running)) k.1 k.2 .dieLost) s

/-- A stack of a lost die (R275, R465, R606): its waiting requests fail with DIE_LOST and its slots are void; SELF_REFRESH_ENTRY
follows, unless its contents are lost. -/
def stackLost (s : State) (n : Nat) (kept : Bool) : State :=
  let k := stackOf s n
  if kept then setStack s n { k with parkQ := [], slots := [] }
  else setStack s n { k with ready := false, selfRefresh := false, kept := false, merge := [], parkQ := [], slots := [] }

/-- A die that served, or was returning, is fenced and isolated (R463 to R466, R656, R329, R419). -/
def fenceDie (s : State) (n : Nat) (cause : Byte) (kept : Bool) : State :=
  let was := (dieOf s n).st
  let s := fenceLinks s n
  let s := modDie s n fun d => { d with st := .out, cause := cause, stacksKept := kept }
  let s := rsetFld s (.dlkDieCtrl n) 0 2 0
  let s := { s with err := { s.err with due := s.err.due.filter fun x => match x with | .dieFatal m _ => decide (m ≠ n) | _ => true } }
  let s := setErrQ s n { errQ s n with takenOver := true }
  if was ≠ .inService then (upto (8 * n) 8).foldl (fun s k => stackLost (setUpd s k { updOf s k with ready := false, recovering := false, journalInit := false }) k kept) (coresLost s n)
  else
    let mine (x : Nat × Nat) : Bool := decide (x.2 / 66 / 16 = n)
    let progs := flightsOf s fun _ f => decide (cmdKind f.cmd = 0x04) && f.begun && !f.done && f.launched.any mine
    let copies := flightsOf s fun _ f => !f.done && (match f.copyUnit with | some c => decide (clusterDie c = n) | none => false)
    let colls := s.coll.colls.filter fun cl => (ownMembers s cl).any fun m => decide ((memberAt cl m).unit.toNat / 1024 = n)
    let s := coresLost s n
    let s := progs.foldl (fun s (k : CmdKey) =>
      programsLost (modFlight s k.1 k.2 fun f => { f with launched := f.launched.filter fun x => !mine x }) k.1 k.2) s
    let s := copies.foldl (fun s (k : CmdKey) => flightDone s k.1 k.2 .dieLost) s
    let s := colls.foldl (fun s cl => raiseTaint s cl noChunk .dieLost) s
    let s := (upto (8 * n) 8).foldl (fun s k => stackLost (unitLost s k) k kept) s
    let s := commitDieLost s n
    s.queues.foldl (fun s (x : Nat × Queue) => if partOnDie s (qPart s x.1) n then queueLost s x.1 else s) s

/-! ## The return (R467) -/

/-- A stack starts the return of its contents: journal recovery, or a new journal (R300, R301). A stack with fewer than 16 working
channels stays out of service (R268). -/
def stackReturns (s : State) (n : Nat) : State :=
  let k := stackOf s n
  let good := 33 - k.failedCh.length
  if good < 16 then s
  else setUpd (setStack s n { k with selfRefresh := false, slots := [], parkQ := [], merge := [] }) n
    { updOf s n with tasks := [], blocks := [], recovering := k.kept, journalInit := !k.kept }

/-- Steps 1 to 4 of R467 begin: training of the links whose other end is not fenced, with the wires found failed, the self-test of the cores, the clearing, the stacks. -/
def dieReturns (s : State) (n : Nat) (wires : WireBad) (badCores : List Nat) : State :=
  let s := modDie s n fun d => { d with st := .returning, linksUp := true }
  let s := trainDirs s (liveDirs s n) wires
  let s := selfTest s (badCores.filter fun p => decide (p / 66 / 16 = n))
  let s := (upto (16 * n) 16).foldl (fun s c => resetClear s c) s
  (upto (8 * n) 8).foldl stackReturns s

/-- Whether the clearing and the recovery of a die have ended. -/
def dieDone (s : State) (n : Nat) : Bool :=
  ((upto (16 * n) 16).all fun c => !(clusterOf s c).clearing)
  && (upto (8 * n) 8).all fun k => !(updOf s k).recovering && !(updOf s k).journalInit

end Sys2Proof.Machine
end

