-- ==== Sys2Proof/Machine/DieRows.lean ====
section
/-! DEFINITION. The commands that take a die out of service and bring it back (spec/14, R462 to R467). -/
namespace Sys2Proof.Machine

/-- Whether a cause of R462 is there: a clock or a power loss that the always-on island detects (DESIGN CHOICE, log entry 8), or one that a
record or a lost link has called for. -/
def causeThere (s : State) (n : Nat) (cause : Byte) : Bool :=
  decide (cause = 2) || decide (cause = 4) || s.err.due.contains (.dieFatal n cause)

/-- DIE_FENCE (R462 to R466): a cause of R462 is detected on a die in service, which enters FENCING; on a die that is FENCING the fence runs
to its end, and `kept` says whether its stacks entered self-refresh whole. A die that is RETURNING or READY is isolated again at once. A
cause that the die was made fatal for has its own record (R576); for the others DIE_OUT is written as it is detected. -/
def execDieFence (die : Fin 4) (cause : BitVec 3) (kept : Bool) (s : State) : Out :=
  let n := die.val
  let c : Byte := cause.setWidth 8
  if !causeThere s n c then .next s
  else
    let called := s.err.due.contains (.dieFatal n c)
    match dieState s n with
    | .out => .next s
    | .inService => .next (addDue (dieOutRecord s n c) (.dieFatal n c))
    | .fencing => .next (if called then fenceDie s n c kept else s)
    | _ => .next (fenceDie (if called then s else dieOutRecord s n c) n c kept)

/-- DIE_RESET (R462): DLK_DIE_CTRL.RESET takes a die out of service with cause RESET; it reads 1 until the die is ISOLATED. -/
def resetDie (s : State) (n : Nat) : State :=
  if (dieOf s n).st = .out ∨ rbit s (.dlkDieCtrl n) 1 then s
  else
    let s := rsetFld s (.dlkDieCtrl n) 1 1 1
    if dieState s n = .fencing then s else addDue (dieOutRecord s n causeReset) (.dieFatal n causeReset)

def execDieReset (die : Fin 4) (s : State) : Out := .next (resetDie s die.val)

/-- DIE_RETURN (R467): an isolated die whose cause is cleared, with its stacks in self-refresh, begins its return, with the wires and cores that its tests find bad;
a returning die whose clearing and recovery have ended is READY. -/
def execDieReturn (die : Fin 4) (wires : List BadWire) (cores : List (Fin 4224)) (s : State) : Out :=
  let n := die.val
  if s.pkg.fatal.isSome || (decide ((dieOf s n).st = .out) && (upto (8 * n) 8).any fun k => (stackOf s k).ready) then .next s
  else match (dieOf s n).st with
    | .out => .next (dieReturns s n (wireList wires) (cores.map (·.val)))
    | .returning => .next (if dieDone s n then modDie s n fun d => { d with st := .ready } else s)
    | _ => .next s

end Sys2Proof.Machine
end

