-- ==== Sys2Proof/Machine/SecOps.lean ====
section
/-! DEFINITION. The security engine (spec/17, R535 to R549): image headers in memory, enrolment, revocation, nonces. What
the signature and hash units find is an operand (DESIGN CHOICE, log entry 9). -/
namespace Sys2Proof.Machine

def modSec (s : State) (f : SecUnit → SecUnit) : State := { s with sec := f s.sec }

/-- The fields of an image header in memory (R535). The digest takes all of the bytes 0x10 to 0x3F: its 48 bytes leave no room for the 16
zero bytes that the table names after it (DEDUCED, log entry 9). `bindOk` is the security engine's comparison of DEVICE_BIND. -/
def parseHdr (bs : List Byte) (bindOk : Bool) : ImgHdr :=
  let w (i n : Nat) : Nat := leNat ((bs.drop i).take n)
  let zero (i n : Nat) : Bool := decide (w i n = 0)
  let w4 := w 4 4
  let kind := BitVec.ofNat 8 (w 0 1)
  { kind := kind, fmt := BitVec.ofNat 8 (w 1 1), svn := BitVec.ofNat 8 (nfld w4 0 8), svnFloor := BitVec.ofNat 8 (nfld w4 8 8)
    slot := BitVec.ofNat 2 (nfld w4 16 2), cls := BitVec.ofNat 2 (nfld w4 18 2), len := BitVec.ofNat 32 (w 8 4)
    digest := BitVec.ofNat 384 (w 0x10 48), bind := BitVec.ofNat 384 (w 0x40 48), bindOk := bindOk, nonce := BitVec.ofNat 128 (w 0x70 16), scopes := BitVec.ofNat 4 (w 0x80 1)
    reservedZero := zero 2 2 && decide (nfld w4 20 12 = 0) && zero 0xC 4 && decide (w 0x80 4 < 16) && zero 0x84 124
      && (decide (kind = 6) || (zero 0x70 16 && zero 0x80 4)) }

/-- Renew the nonce with a value that nothing constrains (R549, DESIGN CHOICE, log entry 9). -/
def renewNonce (s : State) : State :=
  let v := freeWord s
  let s := tickFree s
  let w := freeWord s
  modSec (tickFree s) fun x => { x with nonce := BitVec.ofNat 128 (v.toNat + w.toNat * 2 ^ 64) }

/-- Bits set in a slot mask. -/
def slotCount (b : BitVec 4) : Nat := ((upto 0 4).filter fun i => b.getLsbD i).length

def fuseEvent (s : State) (slot kind : Nat) : State :=
  remeasure (fieldEvent s 0xF003 (resource 0x0F 4) (BitVec.ofNat 64 (slot + kind * 2 ^ 8))) 5

/-- Enrolment (R539): the hashes of the payload's keys are burnt into the slot of the request when no owner slot is used, otherwise into the
lowest free one. -/
def enrol (s : State) (h : ImgHdr) (v : Verdict) : State × Status :=
  let u := s.sec.fuses
  let slot := if u.ownerUsed = 0 then some h.slot.toNat else (upto 0 4).find? fun i => !u.ownerUsed.getLsbD i
  match slot with
  | none => (s, .secImageBad)
  | some i => (fuseEvent (modSec s fun x => { x with fuses := { u with ownerUsed := u.ownerUsed ||| (1 <<< i), ownerKeys := tset (fun _ => (0, 0)) u.ownerKeys i v.owner } }) i 4, .success)

/-- Revocation of the slot that the payload names, of the signer's class (R539): not of the last unrevoked one. -/
def revoke (s : State) (h : ImgHdr) (slot : Nat) : State × Status :=
  let u := s.sec.fuses
  let i := slot % 4
  let used := if h.cls = 0 then (0xF : BitVec 4) else u.ownerUsed
  let gone := if h.cls = 0 then u.vendorRevoke else u.ownerRevoke
  let left := used &&& ~~~gone
  if left.getLsbD i ∧ slotCount left ≤ 1 then (s, .secImageBad)
  else
    let new := gone ||| (1 <<< i)
    (fuseEvent (modSec s fun x => { x with fuses := if h.cls = 0 then { u with vendorRevoke := new } else { u with ownerRevoke := new } }) i 5, .success)

/-- Raise a fused counter to an image's floor at RUNNING (R538). -/
def raiseSvn (s : State) (h : ImgHdr) : State :=
  let u := s.sec.fuses
  let n := h.svnFloor.toNat
  match kindCounter u h.kind.toNat with
  | none => s
  | some c =>
    if n ≤ c then s
    else
      let u := match h.kind.toNat with | 1 => { u with fwSvn := n } | 2 => { u with cfgSvn := n } | _ => { u with agentSvn := n }
      remeasure (modSec s fun x => { x with fuses := u }) 5

end Sys2Proof.Machine
end

