-- ==== Sys2Proof/Machine/PkgOps.lean ====
section
/-! DEFINITION. Resets, package-fatal stop and boot (spec/17, R540 to R543; spec/14, R469; spec/18, R577, R578; spec/21, R622;
spec/22, R636 to R639). -/
namespace Sys2Proof.Machine

def modPkg (s : State) (f : Pkg → Pkg) : State := { s with pkg := f s.pkg }

/-! ## Resets (R622, R469, R637) -/

/-- What both resets keep: the memories outside the package's logic, fuses, flash, field-record banks, outboxes, waiting commands,
and the model's own counters. -/
def baseReset (s : State) : State :=
  { State.reset with
    gov := { lastLocal := s.localNs }, time := { lastMsgNs := s.localNs }
    pending := s.pending, freeCtr := s.freeCtr, localNs := s.localNs, dev := s.dev, devPoison := s.devPoison, devErrs := s.devErrs, hostMem := s.hostMem
    fab := { wire := s.fab.wire }, host := { sent := s.host.sent }
    sec := { fuses := s.sec.fuses, flash := s.sec.flash, out := s.sec.out }
    fld := { banks := s.fld.banks, tickNs := s.localNs } }

/-- Whether a stack's contents survive in self-refresh. -/
def stackHeld (s : State) (n : Nat) : Bool :=
  let k := stackOf s n
  s.pkg.fatal.isNone && (k.ready || k.kept)

/-- A package reset (R637): stacks in self-refresh keep their contents, but for those whose half mode begins now (R268); every map is
reloaded from the field record during boot. It is a die reset too: the banks that are due stay so until the clearing (R248; DESIGN
CHOICE, log entry 42). -/
def packageReset (s : State) : State :=
  let withDues (r : State) : State := (upto 0 64).foldl (fun r c =>
    if (clusterOf s c).dues.isEmpty then r else setCluster r c { clusterOf r c with dues := (clusterOf s c).dues }) r
  withDues <|
  (upto 0 32).foldl (fun r n =>
    let k := stackOf s n
    let held := stackHeld s n && !k.retirePending
    setStack r n { selfRefresh := held, kept := held, poisonCh := if held then k.poisonCh else [] }) (baseReset s)

/-- Registers that only a package reset clears (R500, R527). -/
def keptRegs (t : Table Word64) : Table Word64 := trange t 0x120 0x38 ++ trange t 0x110000 0x9200

/-- A reset of the welkin die and the four dies with it (R469, R523): the spare maps are kept, and what only a package reset clears;
a host link that was up goes down, which is counted and recorded (R523, R524). -/
def welkinReset (s : State) : State :=
  let r := baseReset s
  let r := { r with
    regs := keptRegs s.regs
    coll := { r.coll with retired := s.coll.retired }
    gov := { r.gov with rem := s.gov.rem }
    err := { queues := s.err.queues.map fun (x : Nat × ErrQueue) =>
               (x.1, if x.1 < 4 then { x.2 with takenOver := false } else { escalated := x.2.escalated })
             logSeq := s.err.logSeq
             due := s.err.due.filter fun d => match d with | .retire _ => true | .packageFatal _ => true | _ => false }
    svc := (upto 0 4).foldl (fun t k => tset (fun _ => {}) t k { svcOf s k with hart := {}, out := (svcOf s k).locked, halted := false }) []
    pkg := { fatal := s.pkg.fatal, thermTrip := s.pkg.thermTrip, warm := true, fatalBefore := s.pkg.fatalBefore, fwRun := s.pkg.fwRun }
    cores := s.cores.filterMap fun (x : Nat × Core) =>
      let fresh : Core := {}
      let c : Core := { failed := x.2.failed }
      if c = fresh then none else some (x.1, c) }
  let r := (upto 0 64).foldl (fun r c =>
    let k := clusterOf s c
    setCluster r c { absent := k.absent, spare0 := k.spare0, spare1 := k.spare1, bankMap := k.bankMap, retired := k.retired
                     half := k.half, dues := k.dues }) r
  let r := (upto 0 32).foldl (fun r n =>
    let k := stackOf s n
    setStack r n { kept := stackHeld s n, selfRefresh := stackHeld s n, half := k.half, halfMap := k.halfMap, spareUsed := k.spareUsed, spareFor := k.spareFor
                   failedCh := k.failedCh, deadCh := k.deadCh, due := k.due, dueFollow := k.dueFollow, poisonCh := k.poisonCh
                   retirePending := k.retirePending, pendingCh := k.pendingCh, pendingPhys := k.pendingPhys }) r
  let r := (upto 0 16).foldl (fun r x =>
    setLink r (x / 2) (x % 2) ((upto 0 4).foldl (fun y b => setBundle y b { failed := (bundleOf (linkOf s (x / 2) (x % 2)) b).failed }) {})) r
  if s.host.mode = 0 then r else report (rbump r (.glbHostCtr 4) 1) .hostLinkDown (resource 0x0B 0) 0 0 false

/-! ## Package-fatal (R578) -/

/-- The package stops: the record is logged, regulators off, ports DISABLED, viral asserted, a field-record snapshot taken. -/
def packageStop (s : State) (st : Status) : State :=
  let s := handleAll 4 33 s
  let s := modLive s fun l => { l with fatals := fldAdd 32 l.fatals 1 }
  let s := (upto 0 4).foldl (fun s n => modDie (coresLost s n) n fun d => { d with st := .out, stacksKept := false }) s
  let s := allClusters.foldl (fun s c => modClu s c fun g => { g with off := true }) s
  let s := (upto 0 32).foldl (fun s n => setStack (setUpd s n {}) n { stackOf s n with ready := false, selfRefresh := false, kept := false, merge := [], parkQ := [], slots := [] }) s
  let s := (upto 0 24).foldl (fun s p => setPort s p { portDrop (portOf s p) with st := .disabled, width := 0, retrain := false }) s
  let s := { s with host := { s.host with viral := true, rasErrs := s.host.rasErrs + 1 } }
  let s := modGov s fun g => { g with duty := (dutyOf 1023).toNat }
  let s := modPkg { s with err := { s.err with due := s.err.due.filter fun d => match d with | .packageFatal _ => false | _ => true } } fun p => { p with fatal := some st }
  startWrite s 3

/-! ## Pins (R639) -/

def inRunning (s : State) : Bool := decide (s.pkg.stage = 5) && s.pkg.powered && !s.pkg.inReset && s.pkg.fatal.isNone
/-- READY is high in RUNNING alone. -/
def pinReady (s : State) : Bool := inRunning s
/-- FAULT_N is pulled low while the package is package-fatal. -/
def pinFaultN (s : State) : Bool := s.pkg.fatal.isNone
/-- THERMTRIP_N is low after a thermal trip (R485). -/
def pinThermtripN (s : State) : Bool := !s.pkg.thermTrip

/-- What an output pin does (R639): not driven or electrically idle, driven at a level, driven by the unit that owns it, or, for the
valve, a pulse width in 1/1,024. -/
inductive PinDrive where
  | off | low | high | active | pwm (duty : Nat)
deriving DecidableEq, Repr

/-- COOL_VALVE_PWM (R492, R639, R640): not driven in reset, full duty outside RUNNING, otherwise the duty of R493. -/
def pinValve (s : State) : PinDrive :=
  if !s.pkg.powered || s.pkg.inReset then .off else if inRunning s then .pwm (s.gov.duty * 1024 / dutyOne) else .high

/-- XSPI_RESET_N, and XSPI_CS_N with XSPI_CK (R639). -/
def pinFlashReset (s : State) : PinDrive := if s.pkg.inReset then .low else if s.pkg.fatal.isSome then .high else .active
def pinFlashBus (s : State) : PinDrive := if s.pkg.inReset then .off else .active

/-- The transmitters of a fabric port and of the host port, and the management bus (R639). -/
def pinFabricTx (s : State) (p : Nat) : PinDrive :=
  if s.pkg.inReset || s.pkg.fatal.isSome || decide ((portOf s p).st = .disabled) || decide ((portOf s p).st = .retired) then .off else .active
def pinHostTx (s : State) : PinDrive := if s.pkg.inReset || s.pkg.fatal.isSome then .off else .active
def pinManagement (s : State) : PinDrive := if inRunning s then .active else .off

/-! ## Boot (R540 to R543, R587, R596) -/

/-- Stage 0: the winning field record becomes the live image; with none the record is rebuilt (R587). -/
def loadRecord (s : State) : State :=
  match (fldWinner s).bind fun b => fldBank s b with
  | some (seq, im) => modFld s fun f => { f with live := im, snap := im, lastSeq := seq }
  | none => fldEvent (modFld s fun f => { f with live := { rebuilds := 1 }, rebuilt := true }) 0xF005 (resource 0x0F 5) 0

/-- The maps of the record are restored (R596); a RETIRE_PENDING channel's stack comes up in half mode, on the first 16 physical channels
that are not marked failed (R268). -/
def restoreMaps (s : State) : State :=
  let m := s.fld.live.maps
  let s := (upto 0 64).foldl (fun s c =>
    let k := tget (fun _ => ({} : CluMap)) m.clus c
    let dues := k.dues ++ (clusterOf s c).dues.filter fun x => !(k.dues.any fun y => decide (y.1 = x.1))
    setCluster s c { clusterOf s c with absent := k.absent, spare0 := k.spare0, spare1 := k.spare1, bankMap := k.bankMap, retired := k.retired, half := k.half, dues := dues }) s
  let s := (upto 0 32).foldl (fun s n =>
    let k := tget (fun _ => ({} : ChanMap)) m.chans n
    let failed := match k.pendingPhys with
      | some c => setAdd c k.failedCh
      | none => k.failedCh
    let half := k.half || k.pendingPhys.isSome
    let good := ((upto 0 33).filter fun c => !setHas c failed).take 16
    setStack s n (if half then { stackOf s n with half := true, halfMap := good, failedCh := failed
                                                  spareUsed := good.contains 32, spareFor := good.idxOf 32 % 16 }
                  else { stackOf s n with spareUsed := k.spareUsed, spareFor := k.spareFor, failedCh := failed })) s
  let s := { s with coll := { s.coll with retired := m.cum } }
  (upto 0 64).foldl (fun s i => modBundle s (i / 8) (i / 4 % 2) (i % 4) fun b => { b with failed := tget (fun _ => []) m.wires i }) s

/-- The banks of a pair in the order that boot tries them: the newer one first (R533, R542). -/
def tryOrder (s : State) (base : Nat) : List Nat :=
  (match seqWinner s base with | some 1 => [base + 1, base] | _ => [base, base + 1]).filter
    fun b => (flashBank s b).isSome

/-- The firmware banks in the order that boot tries them: after a reset of the welkin die the one that runs since package reset comes
first while its bank still holds it, since newer firmware takes effect at the next package reset (R544). -/
def firmwareOrder (s : State) : List Nat :=
  match s.pkg.fwRun with
  | some (b, seq) =>
    if s.pkg.warm ∧ bankSeq s b = some seq then b :: (tryOrder s 0).filter (fun x => decide (x ≠ b)) else tryOrder s 0
  | none => tryOrder s 0

def badVerdict : Verdict := { rsa := false, slh := false }

/-- A boot failure (R542): its record, FAIL_STATUS, and its entry in the field record with the stage. -/
def bootFailure (s : State) (bank : Nat) (st : Status) : State :=
  let s := reportAlways s st (resource 0x10 bank) (BitVec.ofNat 64 (bankOffset bank))
  fldEvent (modPkg s fun p => { p with failStatus := statusCode st }) 0xF001 (resource 0x10 bank)
    (BitVec.ofNat 64 ((statusCode st).toNat + s.pkg.stage * 2 ^ 16))

/-- The security engine's finding on a bank's signatures is kept with it (R532). -/
def noteAccepted (s : State) (b : Nat) (ok : Bool) : State := setFlash s b ((tget (fun _ => none) s.sec.flash b).map fun x => { x with accepted := ok })

/-- The first bank of a list whose image is accepted and passes a further check; every bank refused before it is a failure. -/
def chooseBank (kind : Nat) (vs : List Verdict) (more : State → FlashBank → Option Status) : List Nat → State → State × Option Nat
  | [], s => (s, none)
  | b :: t, s =>
    match flashBank s b with
    | none => chooseBank kind vs more t s
    | some x =>
      let v := vs.getD b badVerdict
      let s := noteAccepted s b (signedGood s.sec.fuses x.hdr v)
      match imageRefused s.sec.fuses kind x.hdr v with
      | some st => chooseBank kind vs more t (bootFailure s b st)
      | none => match more s x with
        | some st => chooseBank kind vs more t (bootFailure s b st)
        | none => (s, some b)

/-- The entries of a configuration image that boot applies: those of registers of R560's table are skipped. -/
def bootEntries (l : List CfgEntry) : List CfgEntry := l.filter fun e => match regAt e.off with | some r => persists r | none => false

/-- Why a configuration is discarded whole (R543): an entry that is none, or a check of a commit. -/
def configBad (s : State) (x : FlashBank) : Option Status :=
  if x.list.any fun e => match cfgReg e.off with | some r => decide (e.mask &&& ~~~cfgBits r ≠ 0) | none => true then some .cfgTxnBad
  else (commitCheck s (bootEntries x.list)).map (·.1)

def noCheck (_ : State) (_ : FlashBank) : Option Status := none

/-- STAGE 6, RECOVERY_MODE (R542): the boot ROM writes the field record. -/
def recoveryMode (s : State) : State :=
  let s := modPkg s fun p => { p with stage := 6 }
  startWrite (fldEvent s 0xF001 (resource 0x0E 4) (BitVec.ofNat 64 (s.pkg.failStatus.toNat + 6 * 2 ^ 16))) 1

/-- A pair none of whose banks holds anything valid is a failure of its own (R542), with the status of an image that fails R536
(DEDUCED, log entry 28). -/
def emptyPair (s : State) (base : Nat) : State := if tryOrder s base = [] then bootFailure s base .secImageBad else s

def modStage (s : State) (n : Nat) : State := modPkg s fun p => { p with stage := n }

/-- Stage 0, ROM (R540): the field record and the maps are loaded, the bank headers read. -/
def bootRom (s : State) : State :=
  let s := loadRecord s
  let s := modLive s fun l => { l with boots := fldAdd 32 l.boots 1, resets := fldAdd 32 l.resets (b01 s.pkg.warm) }
  let s := if s.pkg.warm then s else restoreMaps s
  modStage (renewNonce s) 1

/-- Stage 1, FW_VERIFY (R540, R542): the firmware bank is chosen and verified. -/
def bootVerify (s : State) (vs : List Verdict) : State :=
  let (s, fw) := chooseBank 1 vs noCheck (firmwareOrder s) (emptyPair s 0)
  match fw with
  | none => recoveryMode s
  | some b => modStage (remeasure (modPkg s fun p => { p with fwBank := b, fwRun := (flashBank s b).map fun x => (b, x.seq) }) 2) 2

/-- Stage 2, TRAIN (R540): the die links and stacks are trained, the self-tests run, the clusters start to clear, the agent bank is chosen. -/
def bootTrain (s : State) (vs : List Verdict) (wires : WireBad) (badCores : List Nat) (badChans : List Nat) : State :=
  let s := trainDirs s (dieDirs 4) wires
  let s := selfTest s badCores
  let s := allClusters.foldl (fun s c => resetClear s c) s
  let s := badChans.foldl (fun s x => chanFail s (x / 33) (x % 33)) s
  let (s, ag) := chooseBank 3 vs noCheck (tryOrder s 6) s
  modStage (modPkg s fun p => { p with agentBank := ag }) 3

/-- Stage 3, CONFIG (R540, R543): the configuration is chosen, checked and applied; the recovery of the stacks starts. -/
def bootConfig (s : State) (vs : List Verdict) : State :=
  let (s, cf) := chooseBank 2 vs configBad (tryOrder s 2) (emptyPair s 2)
  let s := match cf with
    | some c => applyShadow s (bootEntries (((flashBank s c).map (·.list)).getD []))
    | none => s
  (upto 0 32).foldl stackReturns (modStage (modPkg s fun p => { p with cfgSource := (cf.map (· - 1)).getD 0 }) 4)

/-- Stage 5 (R540, R538, R588): clearing and recovery have ended in every die. -/
def bootRunning (s : State) : State :=
  let s := modPkg s fun p => { p with stage := 5, runSince := s.localNs, warm := false }
  let hdrs := ([some s.pkg.fwBank, (if s.pkg.cfgSource = 0 then none else some (s.pkg.cfgSource + 1)), s.pkg.agentBank].filterMap id).filterMap fun b => (flashBank s b).map (·.hdr)
  let s := hdrs.foldl raiseSvn s
  let s := { s with coll := { s.coll with ready := true } }
  let s := modGov s fun g => { g with valveNs := s.localNs, flowNs := s.localNs }
  let s := allClusters.foldl (fun s c => modClu s c fun g => { g with idleSince := s.localNs }) s
  let s := consequence s s .fabNodeId
  let s := remeasure s 4
  startWrite (fldEvent s 0xF001 (resource 0x0E 4) (BitVec.ofNat 64 (s.pkg.failStatus.toNat + 5 * 2 ^ 16))) 1

/-- Whether recovery has ended everywhere. -/
def bootDone (s : State) : Bool := (upto 0 4).all (dieDone s)

end Sys2Proof.Machine
end

