-- ==== Sys2Proof/Machine/PkgRows.lean ====
section
/-! DEFINITION. The commands of boot, resets, the supply and package-fatal stops (spec/17, R540; spec/18, R577, R578; spec/22,
R633 to R638). What the verifier, the tests and the supply monitors find are operands (DESIGN CHOICE, log entry 8). -/
namespace Sys2Proof.Machine

/-- BOOT (R540 to R543): the stage at hand ends and the next one shows, with what the signatures of the banks, the training and the
self-test give; once clearing and recovery have ended in every die, the package is RUNNING. -/
def execBoot (vs : List Verdict) (wires : List BadWire) (cores : List (Fin 4224)) (chans : List (Fin 1056)) (s : State) : Out :=
  if !s.pkg.powered || s.pkg.inReset || s.pkg.fatal.isSome then .next s
  else match s.pkg.stage with
    | 0 => .next (bootRom s)
    | 1 => .next (bootVerify s vs)
    | 2 => .next (bootTrain s vs (wireList wires) (cores.map (·.val)) (chans.map (·.val)))
    | 3 => .next (bootConfig s vs)
    | 4 => .next (if bootDone s then bootRunning s else s)
    | _ => .next s

/-- Whether the welkin die is fatal again within 60 s of reaching RUNNING, or before it has reached RUNNING again (R577). -/
def welkinRepeats (s : State) : Bool :=
  s.pkg.fatalBefore && (decide (s.pkg.stage ≠ 5) || decide (s.localNs < s.pkg.runSince + 60 * 10 ^ 9))

/-- The welkin die is die-fatal (R577): WELKIN_FATAL goes into the field record alone, and the die is reset; when it is fatal again
too soon, the package is fatal. -/
def welkinFatal (s : State) (ok : Bool) : State :=
  let s := dropDue s .welkinFatal
  if welkinRepeats s then addDue (report s .welkinRepeat (resource 0x0E 4) 0 0 false) (.packageFatal .welkinRepeat)
  else
    let s := if (errQ s 4).escalated then fldEvent s (statusCode .errQueueOverflow) (resource 0x0E 4) (rget s (.errOverflow 4)) else s
    let s := fatalWrite (fldEvent s (statusCode .welkinFatal) (resource 0x0E 4) 0) ok
    welkinReset (modPkg s fun p => { p with fatalBefore := true })

/-- WELKIN_FATAL (R577): a record or the loss of the service cores has made the welkin die fatal, or `hw`, an uncorrectable error
in its queue engine or event unit. `ok` says whether the field-record write succeeds. -/
def execWelkinFatal (hw ok : Bool) (s : State) : Out :=
  if s.pkg.fatal.isSome || s.pkg.inReset || !s.pkg.powered || !(hw || s.err.due.contains .welkinFatal) then .next s
  else .next (welkinFatal s ok)

/-- The status of a package-fatal action that is due. -/
def fatalDue (s : State) : Option Status := s.err.due.findSome? fun d => match d with | .packageFatal st => some st | _ => none

/-- PACKAGE_FATAL (R578): a package-fatal cause that is due stops the package. -/
def execPackageFatal (s : State) : Out :=
  match fatalDue s with
  | none => .next s
  | some st => if s.pkg.fatal.isSome then .next s else .next (packageStop s st)

/-- PKG_RESET_N (R636, R637): the pin has been low for `us` µs and then rises, or stays low. A pulse under 100 µs on a running package
changes nothing; a package in reset leaves it at the rising edge. -/
def execPkgResetN (us : BitVec 32) (rises : Bool) (s : State) : Out :=
  if !s.pkg.powered then .next s
  else if s.pkg.inReset then .next (modPkg s fun p => { p with inReset := !rises })
  else if us.toNat < 100 then .next s
  else .next (modPkg (packageReset s) fun p => { p with inReset := !rises })

/-- VBUS_RISE (R636): VBUS rises through 0.6 V with PKG_RESET_N low: package reset is in force. -/
def execVbusRise (s : State) : Out :=
  if s.pkg.powered then .next s else .next (modPkg s fun p => { p with powered := true, inReset := true })

/-- VBUS_REMOVED (R638): VBUS goes while PKG_RESET_N is held low: the contents of the stacks are lost. -/
def execVbusRemoved (s : State) : Out :=
  if !s.pkg.powered || !s.pkg.inReset then .next s
  else .next { baseReset s with dev := [], devPoison := [], devErrs := [], pkg := { powered := false, inReset := true } }

/-- VBUS_FAULT (R578, R638): VBUS, in mV, has been below 5.4 V or above 6.6 V for 10 µs with PKG_RESET_N high: its record, and the
package is fatal. -/
def execVbusFault (mv : BitVec 16) (s : State) : Out :=
  if (5400 ≤ mv.toNat ∧ mv.toNat ≤ 6600) || !s.pkg.powered || s.pkg.inReset || s.pkg.fatal.isSome then .next s
  else .next (addDue (report s .vbusFault (facility 3) 0 0 false) (.packageFatal .vbusFault))

/-- The cause byte CLOCK_LOST of R462. -/
def causeClock : Byte := 2

/-- SYSCLK_LOSS (R633, R462, R578): every die in service leaves it with CLOCK_LOST; the loss of the welkin die's clock is
package-fatal. -/
def execSysclkLoss (welkin : Bool) (s : State) : Out :=
  if !s.pkg.powered || s.pkg.inReset || s.pkg.fatal.isSome then .next s
  else
    let s := (upto 0 4).foldl (fun s n => if dieState s n = .out ∨ dieState s n = .fencing then s else addDue (dieOutRecord s n causeClock) (.dieFatal n causeClock)) s
    if welkin then
      let r : ErrRec := { status := .dieOut, cls := 5, source := 4, resource := resource 0x0E 4, detail := causeClock.setWidth 64 }
      .next (addDue (raiseRecord s r) (.packageFatal .dieOut))
    else .next s

/-! ## The security engine's work on flash and grants (R534, R544, R549) -/

/-- The end of an update (R563). -/
def updateEnd (s : State) (st : Half) (seq : Word32) : State :=
  let s := rsetFld s .secUpdateCtrl 0 1 0
  modSec s fun u => { u with updStatus := st, updSeq := seq, updDone := true, updBusy := false, toWrite := none }

/-- Bytes of device memory as the security engine reads them; before the stacks are trained, in RECOVERY_MODE, as they lie. -/
def secRead (s : State) (a n : Nat) : Except Err (List Byte) :=
  if s.pkg.stage = 6 then .ok (mread s.dev a n) else devRead s a n

/-- The write list of a configuration payload; an entry that is none is kept as one that boot refuses (R543). -/
def imageList (bs : List Byte) : List CfgEntry :=
  (listEntries bs).map fun x => if x.2 then x.1 else { off := noOffset, mask := 0, value := 0 }

/-- GO (R544, R619): the security engine copies the image, checks it, and applies it or has it written into its pair. -/
def execGo (v : Verdict) (bindOk : Bool) (s : State) : Out :=
  if !rbit s .secUpdateCtrl 0 || s.sec.toWrite.isSome then .next s
  else
    let kind := rfld s .secUpdateCtrl 1 3
    let len := rfld s .secUpdateCtrl 32 32
    let a := (rget s .secUpdateAddr).toNat / 4096 * 4096
    let bad (s : State) : Out := .next (updateEnd s (statusCode .secImageBad) 0)
    if kind = 0 ∨ kind > 5 ∨ (s.pkg.stage = 6 ∧ kind ≠ 1) ∨ len < imageBytes 0 then bad s
    else
      let s := if s.pkg.stage = 6 then s else devSettle s a len
      match secRead s a len with
      | .error e => if e.wait then .next s else .next (updateEnd (reportErr s e) (statusCode e.status) 0)
      | .ok bs =>
        let h := parseHdr bs bindOk
        let payload := (bs.drop 256).take h.len.toNat
        if len < imageBytes h.len.toNat then bad s
        else match imageRefused s.sec.fuses kind h v with
          | some st => .next (updateEnd s (statusCode st) 0)
          | none => match kind with
            | 4 => let (s, st) := enrol s h v; .next (updateEnd s (statusCode st) 0)
            | 5 => let (s, st) := revoke s h (payload.headD 0).toNat; .next (updateEnd s (statusCode st) 0)
            | _ => .next (modSec s fun u => { u with
                toWrite := some { seq := 0, hdr := h, list := if kind = 2 then imageList payload else [], len := len
                                  crc := BitVec.ofNat 32 (crc32c bs) } })

/-- FLASH_PAIR_WRITE (R534, R544, R542): the service cores write a checked image into the losing bank of its pair, or fail, with a
result that the spec does not state. In RECOVERY_MODE the field record is written and package reset follows. -/
def execFlashPairWrite (ok : Bool) (s : State) : Out :=
  match s.sec.toWrite with
  | none => .next s
  | some x =>
    let (s, seq) := writePair s (pairBase x.hdr.kind.toNat) x ok
    let s := if ok then updateEnd s (statusCode .success) seq else updateEnd (tickFree s) ((freeWord s).extractLsb' 0 16) seq
    .next (if s.pkg.stage = 6 then packageReset (endWrite (startWrite s 2) true) else s)

/-- A debug grant is accepted or refused (R549); the nonce is renewed in either case. -/
def present (s : State) (h : ImgHdr) (v : Verdict) : State :=
  let good := (imageRefused s.sec.fuses 6 h v).isNone && decide (h.bind ≠ 0) && decide (h.len = 0) && decide (h.nonce = s.sec.nonce)
  let s := renewNonce s
  if good then
    let s := modSec s fun u => { u with scopes := u.scopes ||| h.scopes.setWidth 3, dbgStatus := statusCode .success }
    remeasure (fieldEvent s 0xF004 (resource 0x0F 4) (h.scopes.setWidth 64)) 6
  else
    modSec s fun u => { u with dbgStatus := statusCode .debugGrantBad }

/-- PRESENT (R549): a grant in the JTAG mailbox, or the one at SEC_DEBUG_ADDR when SEC_DEBUG_CTRL.PRESENT was written. -/
def execPresent (v : Verdict) (bindOk : Bool) (jtag : Option ImgHdr) (s : State) : Out :=
  if !inRunning s then .next s
  else match jtag with
    | some h => .next (present s h v)
    | none =>
      if !rbit s .secDebugCtrl 0 then .next s
      else
        let s := devSettle s ((rget s .secDebugAddr).toNat / 4096 * 4096) 256
        match devRead s ((rget s .secDebugAddr).toNat / 4096 * 4096) 256 with
        | .error e =>
          if e.wait then .next s
          else .next (renewNonce (modSec (rsetFld (reportErr s e) .secDebugCtrl 0 1 0) fun u => { u with dbgStatus := statusCode .debugGrantBad }))
        | .ok bs => .next (present (rsetFld s .secDebugCtrl 0 1 0) (parseHdr bs bindOk) v)

end Sys2Proof.Machine
end

