-- ==== Sys2Proof/Machine/BarRead.lean ====
section
/-! DEFINITION. What every register of BAR0 reads as (the register maps of the chapters, R14, R518, R611 to R617): a register
that shows the state of a unit is computed from it, every other one is stored. -/
namespace Sys2Proof.Machine

def bundleModeCode : BundleMode → Nat
  | .untrained => 0 | .full => 1 | .half => 2 | .disabled => 3 | .fenced => 4
def dieStCode : DieSt → Nat
  | .inService => 0 | .fencing => 1 | .out => 2 | .returning => 3 | .ready => 4
def portStCode : PortSt → Nat
  | .disabled => 0 | .training => 1 | .active => 2 | .recovery => 3 | .retired => 4
def timeStCode : TimeSt → Nat
  | .free => 0 | .locked => 1 | .slewing => 2 | .holdover => 3 | .unsync => 4
def qStateCode : QState → Nat
  | .disabled => 0 | .running => 1 | .stopped => 2 | .failed => 3
def flowCode : FlowSt → Nat
  | .ok => 0 | .low => 1 | .lost => 2 | .notMonitored => 3
/-- WIDTH of FAB_PORT_STATE (R385). -/
def widthCode (w : Nat) : Nat := match w with | 8 => 3 | 4 => 2 | 2 => 1 | _ => 0
def stCode (st : Status) : Nat := (statusCode st).toNat

/-! ## GLB, CFG, SEC (R527, R561 to R563, R612, R613) -/

/-- Usable memory of a stack in units of 1/16 GiB (R260, R268, R613): a die's eight stacks give 8,152. -/
def stackMem (s : State) (n : Nat) : Nat := if !(stackOf s n).ready then 0 else if (stackOf s n).half then 507 else 1019

/-- GLB_CAPACITY (R613). -/
def capacity (s : State) : Nat :=
  if s.pkg.stage ≠ 5 then 0
  else
    let dies := (upto 0 4).filter (dieServes s)
    fields [(48, (dies.map fun n => 2 ^ n).foldl (· + ·) 0), (40, ((upto 0 24).filter fun p => portUsable (portOf s p)).length),
      (16, (dies.map fun n => ((upto (1024 * n) 1024).filter fun k => (physOf s k).isSome).length).foldl (· + ·) 0),
      (0, (dies.map fun n => ((upto (8 * n) 8).map (stackMem s)).foldl (· + ·) 0).foldl (· + ·) 0)]

def readGlb (s : State) (r : Reg) : Nat :=
  let u := s.sec.fuses
  match r with
  | .glbBootState => fields [(48, s.pkg.failStatus.toNat), (12, s.pkg.cfgSource), (8, s.pkg.fwBank), (0, s.pkg.stage)]
  | .glbId => fields [(48, u.vendorId.toNat), (32, 0x4096), (24, 0xA1), (0, u.variant.toNat)]
  | .glbSerial => u.serial.toNat
  | .glbCapacity => capacity s
  | .glbHostState => fields [(32, s.host.snoop.length), (11, b01 s.host.cacheEn), (10, b01 s.host.ideIo), (9, b01 s.host.ideMem),
      (6, s.host.speed), (4, s.host.width), (0, s.host.mode)]
  | .cfgState => fields [(32, (s.cfg.txn.map (·.id.toNat)).getD 0), (16, s.cfg.lastDirect.toNat), (3, s.cfg.pend.length),
      (2, b01 (s.cfg.commit.any fun m => !m.applied)), (1, b01 s.cfg.txn.isSome), (0, b01 (!s.cfg.pend.isEmpty))]
  | .cfgPeekAddr =>
    let v := (rget s .cfgPeekAddr).toNat
    let l := if nbit v 63 then s.cfg.pend else (s.cfg.txn.map (·.shadow)).getD []
    v + b01 (shadowOf l (nfld v 3 29 * 8)).isSome * 2 ^ 62
  | .secState => fields [(56, u.fwSvn), (48, u.cfgSvn), (40, u.agentSvn), (36, u.vendorRevoke.toNat), (32, u.ownerRevoke.toNat),
      (28, u.ownerUsed.toNat), (26, u.lifecycle.toNat), (0, s.sec.scopes.toNat)]
  | .secUpdateState => fields [(48, s.sec.updStatus.toNat), (16, s.sec.updSeq.toNat), (1, b01 s.sec.updDone), (0, b01 s.sec.updBusy)]
  | .secNonce i => s.sec.nonce.toNat / 2 ^ (64 * i) % 2 ^ 64
  | .secDebugCtrl => fields [(48, s.sec.dbgStatus.toNat), (0, b01 (rbit s .secDebugCtrl 0))]
  | r => (rget s r).toNat

/-! ## TIME, CUM, DLK (R347, R420, R470, R471) -/

def readLinks (s : State) (r : Reg) : Nat :=
  match r with
  | .timeNow => s.time.now.toNat
  | .timeState => fields [(32, errBound s), (7, b01 s.time.epochStale), (6, b01 s.time.ppsOk), (5, b01 s.time.refOk), (0, timeStCode s.time.st)]
  | .cumState => fields [(32, freeSlots s), (19, 64 - s.coll.retired.length),
      (8, (s.coll.entries.filter fun e => decide (e.st = .opened)).length), (0, b01 s.coll.ready)]
  | .dlkBundle l d b =>
    let k := bundleOf (linkOf s l d) b
    fields [(32, k.failed.length), (16, sparesLeft k), (8, 2 ^ bundleLanes k - 1), (3, b01 (bundleDiag k)), (0, bundleModeCode k.mode)]
  | .dlkLink l d =>
    let x := linkOf s l d
    fields [(2, linkAvail x), (1, b01 x.detour), (0, b01 (dirRemaps x))]
  | .dlkStream l d i =>
    let x := linkOf s l d
    let v := (rget s (.dlkStream l d i)).toNat
    -- before the link is trained, what the default streams hold (R448, R470)
    let held := if (upto 0 4).all fun b => decide ((bundleOf x b).mode = .untrained) then nfld (streamReset l d i) 56 6
      else tget (fun _ => 0) x.granted i
    v + held * 2 ^ 50 + b01 (x.starved.contains i) * 2 ^ 49
  | .dlkDieState n => let d := dieOf s n; fields [(16, b01 d.stacksKept), (8, d.cause.toNat), (0, dieStCode (dieState s n))]
  | .dlkDieCtrl n => (rget s r).toNat - if dieState s n = .fencing then nfld (rget s r).toNat 0 1 else 0
  | r => (rget s r).toNat

/-! ## ERR, FLD, CQ, EVT (R583, R599, R345, R346) -/

def readQueues (s : State) (r : Reg) : Nat :=
  match r with
  | .errQState n =>
    let q := errQ s n
    fields [(48, (q.lastStatus.map stCode).getD 0), (15, b01 q.escalated), (14, b01 q.takenOver),
      (11, (q.recs.map (·.cls)).foldl max 0), (0, q.recs.length)]
  | .errStewardOut => ((upto 0 64).map fun c => b01 (clusterOf s c).stewardOut * 2 ^ c).foldl (· + ·) 0
  | .errServiceOut => ((upto 0 4).map fun k => b01 (svcOf s k).out * 2 ^ k).foldl (· + ·) 0
  | .fldState => fields [(32, s.fld.lastSeq.toNat), (8, s.fld.lastCause.toNat), (5, b01 (wearWarn s)), (4, b01 s.fld.rebuilt),
      (3, b01 s.fld.lastFailed), (2, b01 s.fld.pend.isSome), (1, b01 s.fld.writing.isSome), (0, (fldWinner s).getD 0)]
  | .fldCtrl => (rget s .fldCtrl).toNat + b01 s.fld.request
  | .cqCtrl q => (rget s (.cqCtrl q)).toNat + b01 ((queueOf s q).cancelTo.isSome || (queueOf s q).cancelAsked) * 8
  | .cqState q =>
    let k := queueOf s q
    fields [(48, stCode k.lastStatus), (12, k.queued.length), (7, (k.flight.filter fun f => f.started).length), (2, b01 k.lineHeld),
      (0, qStateCode k.state)]
  | .evtValue c => (evtOf s c).toNat
  | .evtFault c => match evtMark s c with | some st => 2 ^ 63 + stCode st | none => 0
  | r => (rget s r).toNat

/-! ## GOV (R499) -/

def readGov (s : State) (r : Reg) : Nat :=
  let g := s.gov
  match r with
  | .govState => fields [(48, g.draw / 100 % 2 ^ 16), (32, g.r / 100 % 2 ^ 16), (16, g.fill / 100 % 2 ^ 16), (7, b01 g.holdEnd.isSome), (6, b01 (activeWindow s).isSome),
      (5, b01 (allClusters.any fun c => (cluGovOf s c).deferSince.isSome)), (4, b01 g.softOver), (3, b01 g.hardLimited), (2, b01 g.shortfall),
      (1, b01 (decide (g.flow = .lost))), (0, b01 (throttled s))]
  | .govWinCtrl w => (rget s (.govWinCtrl w)).toNat + tget (fun _ => 0) g.winFlags w
  | .govCoolState => fields [(48, g.tOut.toNat), (32, g.tIn.toNat), (16, g.flowRate % 2 ^ 16), (6, g.duty * 1024 / dutyOne), (2, b01 g.sensorFail),
      (0, flowCode g.flow)]
  | .govCluState c =>
    let x := cluGovOf s c
    fields [(48, x.power / 100 % 2 ^ 16), (32, x.temp.toNat), (23, b01 x.off), (22, b01 x.deferSince.isSome), (21, b01 (decide (x.lg < 24))),
      (20, b01 (decide (x.lt < 24))), (0, x.level)]
  | r => (rget s r).toNat

/-! ## MEM, UPD, FAB (R282, R306, R385) -/

/-- Whether a committed slow-tier record waits for the host link (R302): one that recovery found, or one of a block whose link is lost. -/
def slowWaits (s : State) (n : Nat) : Bool :=
  !(updOf s n).slowReplay.isEmpty || (!hostServes s && (updOf s n).blocks.any fun b => b.slow && decide (b.step = .committed))

def readMem (s : State) (r : Reg) : Nat :=
  match r with
  | .memState n =>
    let k := stackOf s n
    let poisoned := ((upto 0 (if k.half then 16 else 32)).map (chanPoison s n)).foldl (· + ·) 0
    fields [(32, min poisoned 0xFFFF), (17, k.spareFor), (16, b01 k.spareUsed), (15, b01 k.migrating.isSome), (14, b01 k.half),
      (13, b01 k.retirePending), (8, k.pendingCh), (0, b01 k.ready)]
  | .memHold n => let k := stackOf s n; fields [(32, 65536 - k.slots.length), (0, k.parkQ.length)]
  | .memChFailed n => ((stackOf s n).failedCh.map fun c => 2 ^ c).foldl (· + ·) 0
  | .updState n =>
    let u := updOf s n
    fields [(36, ((upto 0 4096).filter fun i => decide (recStateOf s n i ≠ 0)).length),
      (29, (u.blocks.filter fun b => !b.slow).length), (22, buffersUsed s n), (5, b01 (slowWaits s n)), (4, b01 ((stackOf s n).slots.any fun x => decide (x.fetch = .failed))),
      (3, b01 u.recovering), (2, b01 (!u.blocks.isEmpty)), (1, b01 u.journalInit), (0, b01 u.ready)]
  | .fabLaneSnr p l => if portUsable (portOf s p) then (Config.laneSnr (10 * p + l) (s.localNs / 1000000)).toNat else 0
  | .fabPortCtrl p => (rget s (.fabPortCtrl p)).toNat + b01 (portOf s p).retrain * 2
  | .fabPortState p =>
    let k := portOf s p
    let trained := portUsable k
    fields [(48, k.peerNode.toNat), (43, k.peerPort.toNat), (26, if trained then (~~~k.txFailed).toNat else 0),
      (16, if trained then (~~~k.rxFailed).toNat else 0), (6, widthCode k.width), (0, portStCode k.st)]
  | r => (rget s r).toNat

/-! ## Cluster pages (R255, R584, R616) -/

def readClu (s : State) (r : Reg) : Nat :=
  match r with
  | .cluState c =>
    let k := clusterOf s c
    let running := (upto (64 * c) 64).filter fun x => match physOf s x with | some p => decide ((coreOf s p).phase ≠ .idle) | none => false
    fields [(24, k.mailbox.length), (8, running.length), (3, b01 (cluOff s c)), (2, b01 k.partnerServes), (1, b01 k.stewardOut),
      (0, b01 k.stageHold.isSome)]
  | .cluCmemState c =>
    let k := clusterOf s c
    fields [(16, min k.cmemPoison.length 0xFFFF), (8, k.retired.length), (7, b01 k.migrating.isSome), (5, (cmemSpares k).length),
      (4, b01 k.half), (0, b01 k.clearing)]
  | .cluCmemCtrl c => b01 (clusterOf s c).clearReq
  | .cluCoreMap c => (clusterOf s c).absent.toNat
  | .cluCoreSpares c => fields [(8, (clusterOf s c).spare1.toNat), (0, (clusterOf s c).spare0.toNat)]
  | r => (rget s r).toNat

/-- What a register reads as, but for CFG_PEEK_DATA. -/
def readReg (s : State) (r : Reg) : Word64 :=
  let x := regOffset r
  if x < 0x20000 ∨ (0x50000 ≤ x ∧ x < 0x60000) then BitVec.ofNat 64 (readGlb s r)
  else if x < 0x50000 then BitVec.ofNat 64 (readLinks s r)
  else if x < 0x100000 ∨ (0x200000 ≤ x ∧ x < 0x400000) then BitVec.ofNat 64 (readQueues s r)
  else if x < 0x120000 then BitVec.ofNat 64 (readGov s r)
  else if x < 0x1000000 then BitVec.ofNat 64 (readMem s r)
  else if (x - 0x1000000) % 0x1000000 < 0x100000 then readCoreReg s r
  else BitVec.ofNat 64 (readClu s r)

/-- What an RC register starts from once it has been read (R15): 0, and the peak of the slots in use at those in use (R283). -/
def rcRestart (s : State) (r : Reg) : Word64 := match r with | .memParkPeak n => BitVec.ofNat 64 (stackOf s n).slots.length | _ => 0

/-! ## Offsets -/

def allOnes : Word64 := 0xFFFFFFFFFFFFFFFF

/-- The die whose window holds an offset (R517). -/
def windowDie (x : Nat) : Option Nat := if 0x1000000 ≤ x ∧ x < 0x5000000 then some (x / 0x1000000 - 1) else none
/-- The logical core whose page holds an offset (R517). -/
def pageCore (x : Nat) : Option Nat :=
  match windowDie x with
  | some n => if x % 0x1000000 < 0x100000 then some (1024 * n + x % 0x1000000 / 0x400) else none
  | none => none

/-- Whether an offset lies in the window of a die that is not in service, or is a register of an absent core's page (R519, R617). -/
def outOfReach (s : State) (x : Nat) : Bool :=
  (match windowDie x with | some n => !dieServes s n | none => false)
  || ((regAt x).isSome && match pageCore x with | some c => (physOf s c).isNone | none => false)

def msixOf (s : State) (v : Nat) : MsixEntry := tget (fun _ => {}) s.host.msix v
/-- A 64-bit word of the MSI-X table: the address, or data and vector control (R520). -/
def msixWord (e : MsixEntry) (hi : Bool) : Word64 := if hi then BitVec.ofNat 64 (e.data.toNat + b01 e.masked * 2 ^ 32) else e.addr

/-- A 64-bit word of the pending bits. -/
def pbaWord (s : State) (i : Nat) : Word64 := BitVec.ofNat 64 (((s.host.pba.filter fun v => decide (v / 64 = i)).map fun v => 2 ^ (v % 64)).foldl (· + ·) 0)

/-- CFG_PEEK_DATA (R615): the applied value with the selected shadow over it; a read of CFG_PEEK_DATA through itself has no stated
value and is free (DESIGN CHOICE, log entry 5). -/
def peekData (s : State) : Word64 :=
  let v := (rget s .cfgPeekAddr).toNat
  let off := nfld v 3 29 * 8
  let l := if nbit v 63 then s.cfg.pend else (s.cfg.txn.map (·.shadow)).getD []
  match regAt off with
  | none => 0
  | some .cfgPeekData => freeWord s
  | some r =>
    let w := if outOfReach s off then allOnes else readReg s r
    match shadowOf l off with | some e => overlay w e | none => w

/-- The aligned 64-bit word of BAR0 that holds an offset (R518, R519). -/
def barWord (s : State) (x : Nat) : Word64 :=
  let x := x / 8 * 8
  if outOfReach s x then allOnes
  else if 0x600000 ≤ x ∧ x < 0x608000 then msixWord (msixOf s ((x - 0x600000) / 16)) (decide (x % 16 = 8))
  else if 0x608000 ≤ x ∧ x < 0x608100 then pbaWord s ((x - 0x608000) / 8)
  else match regAt x with
    | some .cfgPeekData => peekData s
    | some r => readReg s r
    | none => 0

end Sys2Proof.Machine
end

