-- ==== Sys2Proof/Machine/BarOps.lean ====
section
/-! DEFINITION. Writes of BAR0 (spec/16, R516 to R520; spec/21, R614 to R625): RW fields, staged fields, W1C and W1S bits with the
operations they start, the MSI-X table, and which accesses are served. -/
namespace Sys2Proof.Machine

/-! ## W1C and W1S bits (R15, R614, R619, R620) -/

/-- Clear W1C bits. -/
def writeClear (s : State) (r : Reg) (ones : Word64) : State :=
  if ones = 0 then s
  else match r with
    | .evtFault c => { s with evtFault := tset (fun _ => none) s.evtFault c none }
    | .secUpdateState => modSec s fun u => { u with updDone := false }
    | _ => rset s r (rget s r &&& ~~~ones)

/-- WELKIN_RESET written 1 (R614): KEY returns to 0; with 0xD1E5 in it the welkin die is reset, otherwise the write is counted. -/
def welkinResetWrite (s : State) : State :=
  if rfld s .glbResetCtrl 16 16 = 0xD1E5 then welkinReset (rsetFld s .glbResetCtrl 16 16 0)
  else rbump (rsetFld s .glbResetCtrl 16 16 0) .glbRegRejects 1

/-- GO written 1 (R544, R619): ignored while an update runs; a KIND that names no image ends at once. -/
def goWrite (s : State) : State :=
  let kind := rfld s .secUpdateCtrl 1 3
  if s.sec.updBusy then s
  else if kind = 0 ∨ kind > 5 then updateEnd s (statusCode .secImageBad) 0
  else modSec (rsetFld s .secUpdateCtrl 0 1 1) fun u => { u with updBusy := true }

/-- Set W1S bits: the operations they start. A start bit that reads 1 is not started again, but for WRITE_NOW (R620). -/
def writeSet (s : State) (r : Reg) (ones : Word64) : State :=
  if ones = 0 then s
  else match r with
    | .glbResetCtrl => welkinResetWrite s
    | .cqCtrl q =>
      let s := if ones.getLsbD 3 then cancelQueue s q else s
      if ones.getLsbD 2 then resumeQueue s q else s
    | .memCtrl n => stateOf s (execFlush (BitVec.ofNat 5 n) s)
    | .updCtrl n => stateOf s (execReleaseFailed (BitVec.ofNat 5 n) s)
    | .dlkDieCtrl n => resetDie s n
    | .cluCmemCtrl c => if (clusterOf s c).clearReq then s else stateOf s (execClear (BitVec.ofNat 6 c) s)
    | .fabPortCtrl p => if (portOf s p).retrain then s else if h : p < 24 then stateOf s (execRetrain ⟨p, h⟩ s) else s
    | .secUpdateCtrl => goWrite s
    | .secDebugCtrl => rsetFld s .secDebugCtrl 0 1 1
    | .fldCtrl => writeNow s
    | _ => s

/-! ## One register, one table entry, one word -/

/-- A write of the bits `mask` of a register (R15, R518): RW fields take the value, staged ones are a direct write (R557), then the
W1C and the W1S bits of the same access act. -/
def writeReg (s : State) (r : Reg) (mask v : Word64) : State :=
  let i := regInfo r
  let bits (n : Nat) : Word64 := BitVec.ofNat 64 n &&& mask
  let s := writeRw s r (bits i.rw) v
  let s := directWrite s (regOffset r) (bits i.rws) v
  let s := writeClear s r (bits i.w1c &&& v)
  writeSet s r (bits i.w1s &&& v)

/-- A vector is unmasked (R520): a pending message is sent. -/
def msixUnmask (s : State) (v : Nat) : State :=
  let s := { s with host := { s.host with msix := tset (fun _ => {}) s.host.msix v { msixOf s v with masked := false } } }
  if setHas v s.host.pba then sendMsix { s with host := { s.host with pba := setDel v s.host.pba } } v else s

/-- A write of a word of the MSI-X table (R520). -/
def msixWrite (s : State) (v : Nat) (hi : Bool) (mask w : Word64) : State :=
  let e := msixOf s v
  let put (s : State) (e : MsixEntry) : State := { s with host := { s.host with msix := tset (fun _ => {}) s.host.msix v e } }
  if hi then
    let new := merged (msixWord e true) mask w
    let s := put s { e with data := new.extractLsb' 0 32, masked := new.getLsbD 32 }
    if e.masked && !new.getLsbD 32 then msixUnmask s v else s
  else put s { e with addr := merged e.addr mask w }

/-- A write of the bits `mask` of the aligned word that holds an offset (R518, R519, R617). -/
def barWrite (s : State) (x : Nat) (mask v : Word64) : State :=
  let x := x / 8 * 8
  if outOfReach s x then s
  else if 0x600000 ≤ x ∧ x < 0x608000 then msixWrite s ((x - 0x600000) / 16) (decide (x % 16 = 8)) mask v
  else match regAt x with
    | some r => writeReg s r mask v
    | none => s

def lowHalf : Word64 := 0xFFFFFFFF
def highHalf : Word64 := 0xFFFFFFFF00000000

/-- The bits and the value that a write of a register gives (R518). -/
def dataMask : RegData → Word64
  | .whole _ => allOnes | .low _ => lowHalf | .high _ => highHalf
def dataVal : RegData → Word64
  | .whole v => v | .low v => v.setWidth 64 | .high v => v.setWidth 64 <<< 32

/-! ## Which accesses are served (R519, R522, R541, R542, R578) -/

/-- Whether an access can come at all: the package runs, and a host access needs the host link. -/
def barReachable (s : State) (host : Bool) : Bool := s.pkg.powered && !s.pkg.inReset && (!host || decide (s.host.mode ≠ 0))

/-- Whether BAR0 serves an offset: package-fatal, only GLB, ERR and FLD; in RECOVERY_MODE the host only GLB and SEC; otherwise from
RUNNING on, and to the host only over active IDE streams when they are required. -/
def barServes (s : State) (host : Bool) (x : Nat) : Bool :=
  let glb := decide (x < 0x10000)
  (if s.pkg.fatal.isSome then glb || (decide (0x60000 ≤ x) && decide (x < 0x80000))
   else if s.pkg.stage = 6 then !host || glb || (decide (0x50000 ≤ x) && decide (x < 0x60000))
   else decide (s.pkg.stage = 5))
  && !(host && rbit s .glbHostCtrl 0 && !(s.host.ideIo && s.host.ideMem))

def setBarData (s : State) (v : Word64) : State := { s with host := { s.host with barData := v } }

/-- An access of another size or alignment (R518). -/
def badMmio (s : State) : State := rbump s (.glbHostCtr 6) 1

/-- A read of the 8 bytes of an aligned register: an RC register is cleared (R15). -/
def barRead8 (s : State) (x : Nat) : State :=
  let s' := setBarData (tickFree s) (barWord s x)
  match regAt x with
  | some r => if (regInfo r).rc && !outOfReach s x then rset s' r (rcRestart s' r) else s'
  | none => s'

/-- A read of 4 bytes: its half, with nothing cleared (R518). -/
def barRead4 (s : State) (x : Nat) : State :=
  let w := barWord s x
  setBarData (tickFree s) (if x % 8 = 4 then w >>> 32 else w &&& lowHalf)

/-- A BAR0 access (R518, R519, R522). A read leaves its data in the host port's read data. -/
def barAccess (s : State) (host : Bool) (x : Nat) (a : BarAccess) : State :=
  let ok := barServes s host x
  if !barReachable s host then s
  else match a with
    | .oddRead => setBarData (badMmio s) allOnes
    | .oddWrite => badMmio s
    | .read8 => if x % 8 ≠ 0 then setBarData (badMmio s) allOnes else if ok then barRead8 s x else setBarData s allOnes
    | .read4 => if x % 4 ≠ 0 then setBarData (badMmio s) lowHalf else if ok then barRead4 s x else setBarData s lowHalf
    | .write8 v => if x % 8 ≠ 0 then badMmio s else if ok then barWrite s x allOnes v else s
    | .write4 v =>
      if x % 4 ≠ 0 then badMmio s
      else if ok then (if x % 8 = 4 then barWrite s x highHalf (v.setWidth 64 <<< 32) else barWrite s x lowHalf (v.setWidth 64)) else s

end Sys2Proof.Machine
end

