-- ==== Sys2Proof/Machine/BarRows.lean ====
section
/-! DEFINITION. The commands of BAR0 (spec/16, R518 to R520; spec/21, R614, R615; spec/15, R488). -/
namespace Sys2Proof.Machine

/-- BAR0_ACCESS (R518, R519, R522, R625): an access of the host, or of a steward or service core through its window. -/
def execBar0Access (host : Bool) (off : BitVec 28) (a : BarAccess) (s : State) : Out := .next (barAccess s host off.toNat a)

/-- RC_READ (R15, R518): an 8-byte read of a register of access RC returns it and clears it. -/
def execRcRead (off : BitVec 28) (s : State) : Out :=
  match regAt off.toNat with
  | some r => if (regInfo r).rc && decide (off.toNat % 8 = 0) then .next (barAccess s true off.toNat .read8) else .next s
  | none => .next s

/-- CFG_PEEK_DATA (R615): a read of the register. -/
def execCfgPeekData (s : State) : Out := .next (barAccess s true (regOffset .cfgPeekData) .read8)

/-- A write by the host of a register at its offset. -/
def hostWriteReg (s : State) (r : Reg) (d : RegData) : State :=
  if barReachable s true && barServes s true (regOffset r) then barWrite s (regOffset r) (dataMask d) (dataVal d) else s

/-- GOV_CAP_WRITE (R481, R488): a write of GOV_CAP. -/
def execGovCapWrite (d : RegData) (s : State) : Out := .next (hostWriteReg s .govCap d)

/-- WELKIN_RESET (R614): a write of GLB_RESET_CTRL. -/
def execWelkinReset (d : RegData) (s : State) : Out := .next (hostWriteReg s .glbResetCtrl d)

/-- MSIX_UNMASK (R520): a masked vector is unmasked, and its pending message sent. -/
def execMsixUnmask (v : BitVec 11) (s : State) : Out :=
  if s.host.mode = 0 || !(msixOf s v.toNat).masked then .next s else .next (msixUnmask s v.toNat)

end Sys2Proof.Machine
end

