-- ==== Sys2Proof/Machine/HostRows.lean ====
section
/-! DEFINITION. The commands of the host link (spec/16): CXL.mem, back-invalidates, the link's loss and return. -/
namespace Sys2Proof.Machine

def modHost (s : State) (f : HostPort → HostPort) : State := { s with host := f s.host }

/-! ## CXL.mem (R504, R506 to R511, R522) -/

/-- The device address that a decoder gives a host address (R506): the interleave's bits are removed above the granularity. -/
def decodeHpa (d : Decoder) (hpa : Nat) : Option Nat :=
  if d.base ≤ hpa ∧ hpa < d.base + d.size then
    let off := hpa - d.base
    let g := 8 + d.gran.toNat
    some (d.dev + off / 2 ^ (g + d.ways.toNat) * 2 ^ g + off % 2 ^ g)
  else none

/-- The device line that a host address names, by the first decoder that holds it. -/
def hostLine (s : State) (hpa : Word64) : Option Nat := (s.host.decoders.findSome? fun d => decodeHpa d hpa.toNat).map (· / 64)

/-- Whether a CXL.mem request is admitted by active IDE streams when they are required (R522). -/
def ideAdmits (s : State) : Bool := !rbit s .glbHostCtrl 0 || (s.host.ideIo && s.host.ideMem)

/-- Why the controller refuses the host a word: as for any requester, but that it waits for no snoop of its own line. -/
def hostWordFault (s : State) (write : Bool) (w : Nat) : Option Err := devFault { s with host := { s.host with snoop := [] } } write w

/-- The set of the snoop filter that a line falls in (R509): 65,536 sets of 16 ways. -/
def snoopSet (line : Nat) : Nat := line % 65536
def setLines (s : State) (k : Nat) : List Nat := s.host.snoop.filter fun l => decide (snoopSet l = k)

/-- A line becomes the one used most recently. -/
def snoopTake (s : State) (line : Nat) : State :=
  modHost s fun h => { h with snoop := (h.snoop.filter fun l => decide (l ≠ line)) ++ [line] }

/-- Answer a CXL.mem read; poison is counted (R508). -/
def cxlAnswer (s : State) (data : BitVec 512) (poison : Bool) : State :=
  let s := modHost s fun h => { h with lastRead := data, lastPoison := poison }
  if poison then rbump s (.glbHostCtr 1) 1 else s

/-- The data of a line that the host may read (R507): zero with poison where nothing is there; free data with poison for a poisoned
or uncorrectable word, whose record is written (R263). -/
def cxlRead (s : State) (line : Nat) : State :=
  let s := if s.host.snoop.contains line then s else devSettle s (64 * line) 64
  let ws := [2 * line, 2 * line + 1]
  match firstErr (hostWordFault s false) ws with
  | some e => if e.status = .memUncorrectable then cxlAnswer (tickFree (reportErr s e)) (BitVec.ofNat 512 (freeNat s)) true else cxlAnswer s 0 true
  | none =>
    match (ws.filterMap (devHome s)).find? (devBad s) with
    | some h => cxlAnswer (tickFree (reportErr s (devErr s h))) (BitVec.ofNat 512 (freeNat s)) true
    | none => cxlAnswer s (BitVec.ofNat 512 (leNat (devBytes s (64 * line) 64))) false

/-- CXL_MEM_READ (R507 to R509, R511): a host read of the line at a host address; one that asks for a cacheable copy takes a snoop
filter entry, and waits while its set is full until a way of it is free. -/
def execCxlMemRead (hpa : Word64) (cacheable : Bool) (s : State) : Out :=
  if s.host.mode ≠ 1 then .next s
  else match hostLine s hpa with
    | none => .next s
    | some line =>
      if !ideAdmits s then .next (cxlAnswer s 0 true)
      else if !reaches s 4 (devStack (64 * line) / 8) kindMem then .next s
      else if cacheable && !s.host.snoop.contains line && decide ((setLines s (snoopSet line)).length ≥ 16) then
        .next (modHost s fun h => { h with sfWait := h.sfWait.filter (fun l => decide (l ≠ line)) ++ [line] })
      else
        let s := cxlRead s line
        .next (if cacheable then snoopTake s line else s)

/-- A refused host write (R508): counted, its address kept, a record, an uncorrectable non-fatal error. -/
def cxlRefuse (s : State) (a : Nat) (st : Status) : State :=
  let s := rbump s (.glbHostCtr 0) 1
  let s := if rbit s .glbHostRefused 63 then s else rset s .glbHostRefused (BitVec.ofNat 64 (2 ^ 63 + a % 2 ^ 41))
  let s := reportAlways s st (resource 0x0B 0) (BitVec.ofNat 64 a)
  modHost s fun h => { h with rasErrs := h.rasErrs + 1 }

/-- The status that the record of a write refused by R522 carries: one of those of R508, the spec does not say which. -/
def ideStatus (n : Nat) : Status := match n % 3 with | 0 => .memReserved | 1 => .memAbsent | _ => .dieLost

/-- Bytes of a 64-byte line under enables, as runs of addresses. -/
def lineRuns (line : Nat) (mask : BitVec 64) (data : BitVec 512) : List (Nat × List Byte) :=
  joinRuns (((upto (64 * line) 64).zip (leBytes 64 data.toNat)).filter fun x => mask.getLsbD (x.1 - 64 * line))

/-- A host write of a parked line waits for a holding slot, word by word (R278, R279, R507). -/
def cxlPark (s : State) (line : Nat) (mask : BitVec 64) (data : BitVec 512) : State :=
  let put (s : State) (i : Nat) : State :=
    let m := mask.toNat / 2 ^ (32 * i) % 2 ^ 32
    if m = 0 then s
    else parkPut s (devStack (64 * line))
      { addr := 2 * line + i, accFmt := none, mask := m, data := (leBytes 64 data.toNat).drop (32 * i) |>.take 32, sinceNs := s.localNs, host := true }
  put (put s 0) 1

/-- Whether the park queue of a line's stack has room for the words of a host write; until then the write is not taken (R279). -/
def cxlRoom (s : State) (line : Nat) (mask : BitVec 64) : Bool :=
  let words := b01 (decide (mask.toNat % 2 ^ 32 ≠ 0)) + b01 (decide (mask.toNat / 2 ^ 32 ≠ 0))
  decide ((stackOf s (devStack (64 * line))).parkQ.length + words ≤ 64)

/-- A host write of a line, past the snoop filter (R507). -/
def cxlWrite (s : State) (line : Nat) (mask : BitVec 64) (data : BitVec 512) : State :=
  match firstErr (hostWordFault s true) [2 * line, 2 * line + 1] with
  | some e => if e.status = .memUncorrectable then reportErr s e else cxlRefuse s (64 * line) e.status
  | none =>
    let (s', e) := pastSnoop s (memWrites 2 0 (lineRuns line mask data))
    match e with
    | none => s'
    | some e => if e.wait then (if e.park.isSome && cxlRoom s line mask then cxlPark s line mask data else s) else reportErr s' e

/-- Whether the host's requests for a line find a way to its die (R23). -/
def lineReached (s : State) (line : Nat) : Bool := reaches s 4 (devStack (64 * line) / 8) kindMem

/-- A host write of a line that IDE admits, or refuses (R508, R522). -/
def cxlTake (s : State) (line : Nat) (mask : BitVec 64) (data : BitVec 512) : State :=
  if !ideAdmits s then cxlRefuse (tickFree s) (64 * line) (ideStatus (freeNat s)) else cxlWrite s line mask data

/-- CXL_MEM_WRITE (R507, R508, R522): a host write of the enabled bytes of a line. -/
def execCxlMemWrite (hpa : Word64) (mask : BitVec 64) (data : BitVec 512) (s : State) : Out :=
  if s.host.mode ≠ 1 then .next s
  else match hostLine s hpa with
    | none => .next s
    | some line => if ideAdmits s && !lineReached s line then .next s else .next (cxlTake s line mask data)

/-- The oldest cacheable read that waits for a way of a set is granted once one is free (R511). -/
def sfGrant (s : State) (k : Nat) : State :=
  match s.host.sfWait.find? fun l => decide (snoopSet l = k) with
  | none => s
  | some line =>
    if (setLines s k).length ≥ 16 ∨ !lineReached s line then s
    else
      let s := modHost s fun h => { h with sfWait := h.sfWait.filter fun l => decide (l ≠ line) }
      if !ideAdmits s then cxlAnswer s 0 true else snoopTake (cxlRead s line) line

/-- The host gives a line up: its dirty data is written back first through its ordinary write flow (R510, R522), and the way that is
free serves the next read that waits for one. -/
def snoopOut (s : State) (line : Nat) (dirty : Option (BitVec 512)) : State :=
  let s := match dirty with | some d => cxlTake s line (~~~0) d | none => s
  rbump (sfGrant (modHost s fun h => { h with snoop := h.snoop.filter fun l => decide (l ≠ line) }) (snoopSet line)) (.glbHostCtr 2) 1

/-- Whether the answer of a snoop can be taken: a dirty line's write finds its way to the die (R23). -/
def snoopReady (s : State) (line : Nat) (dirty : Option (BitVec 512)) : Bool := dirty.isNone || !ideAdmits s || lineReached s line

/-- BISNP (R510): another requester waits for a line that the host holds; the host answers the snoop. -/
def execBisnp (line : BitVec 35) (dirty : Option (BitVec 512)) (s : State) : Out :=
  if s.host.snoop.contains line.toNat && snoopReady s line.toNat dirty then .next (snoopOut s line.toNat dirty) else .next s

/-- SF_EVICTION (R511): a full set for which a read waits gives up the line used least recently, and the read is granted. -/
def execSfEviction (k : Half) (dirty : Option (BitVec 512)) (s : State) : Out :=
  match setLines s k.toNat with
  | [] => .next s
  | line :: rest =>
    if rest.length < 15 || !(s.host.sfWait.any fun l => decide (snoopSet l = k.toNat)) || !snoopReady s line dirty then .next s
    else .next (rbump (snoopOut s line dirty) (.glbHostCtr 3) 1)

/-! ## Accesses to the host (R514) -/

/-- Whether a core makes a host access: its load unit's running job, or the arguments it loads (R216). -/
def coreOnHost (c : Core) : Bool :=
  (match c.lq with | j :: _ => j.descs.any fun d => decide ((parseDesc d).space = 3) | [] => false)
  || (decide (c.phase = .loading) && decide (c.argLen ≠ 0) && c.argAddr.getLsbD 63)

/-- The descriptors that a command's own pointers name, as they stand while the command has not read them. -/
def namedDescs (s : State) (ps : List Word64) : List (BitVec 1024) := ps.filterMap fun p => (ptrDesc s p).toOption

/-- Pointers to descriptors of a command: its body's, and those of a COLLECTIVE's own members (R318, R390). -/
def descPtrs (s : State) (c : CmdRec) : List Word64 :=
  if cmdKind c = 0x05 then
    match memberList s c with
    | .ok es => (es.filter fun e => decide (nfld e.1 48 16 = (ownNode s).toNat)).flatMap fun e => [e.2.2.1, e.2.2.2]
    | .error _ => []
  else if isCopyKind (cmdKind c) then (bodyPtrs c).map (cmdWord c) else []

/-- Whether a command makes a host access: through its pointers, a tensor in SPACE 3, or the record that an ENERGY_MARK writes. -/
def cmdOnHost (s : State) (f : Flight) : Bool :=
  let ps := descPtrs s f.cmd
  (bodyPtrs f.cmd).any (fun o => ptrHost (cmdWord f.cmd o)) || ps.any ptrHost
  || (decide (cmdKind f.cmd ≠ 0x0C) && decide (cmdKind f.cmd ≠ 0x06)
      && (f.descs ++ (if f.begun then [] else namedDescs s ps)).any fun d => decide ((parseDesc d).space = 3))
  || (decide (cmdKind f.cmd = 0x0C) && ptrHost (cmdWord f.cmd 0x40))

/-- HOST_ACCESS_TIMEOUT (R514, R315): the host answers an access with poison or an error, or not within 50 ms: the instruction, the
command or the queue that made it fails with HOST_ACCESS_FAIL. -/
def execHostAccessTimeout (who : HostUser) (s : State) : Out :=
  if !hostServes s then .next s
  else match who with
    | .load core =>
      (match physOf s core.val with
       | none => .next s
       | some p =>
         let c := coreOf s p
         let pc := match c.lq with | j :: _ => j.pc | [] => c.pc
         if coreOnHost c then .next (programFault s core.val p .hostAccessFail pc) else .next s)
    | .command q seq =>
      (match flightOf s q.val seq with
       | some f => if f.started && !f.done && cmdOnHost s f then .next (cmdFail s q.val seq { status := .hostAccessFail }) else .next s
       | none => .next s)
    | .engine q =>
      if qOnHost s q.val && decide ((queueOf s q.val).state = .running) then .next (stopQueue s q.val .hostAccessFail) else .next s

/-- IDE_FAILURE (R522): an integrity failure makes a stream insecure, that of CXL.cachemem or that of CXL.io. -/
def execIdeFailure (mem : Bool) (s : State) : Out :=
  if !(if mem then s.host.ideMem else s.host.ideIo) then .next s
  else
    let s := modHost s fun h => if mem then { h with ideMem := false } else { h with ideIo := false }
    .next (report (rbump s (.glbHostCtr 5) 1) .hostIdeFail (resource 0x0B 0) 0 0 false)

/-! ## Link loss, resets and return (R523 to R526) -/

/-- Step 5 of R524: a queue with a ring or its tail line in host memory stops fetching; it is DISABLED once its started commands
have finished. -/
def shutQueue (s : State) (q : Nat) : State :=
  let k := queueOf s q
  if k.state = .disabled ∨ !qOnHost s q then s
  else disableIfEmpty (setQueue s q { k with queued := [], disabling := true, cancelTo := none, cancelAsked := false, shut := true }) q

def shutQueues (s : State) : State := s.queues.foldl (fun s (x : Nat × Queue) => shutQueue s x.1) s

/-- Whether a command that moves tensors reads or writes host memory as the link goes down (R524). -/
def moveOnHost (f : Flight) : Bool :=
  f.started && !f.done && isCopyKind (cmdKind f.cmd) && f.descs.any fun d => decide ((parseDesc d).space = 3)

/-- Step 1 of R524: what reads or writes host memory at that moment fails: copy commands, the update units' fetches, load units, and
programs that load their arguments. -/
def hostLost (s : State) : State :=
  let cmds := s.queues.flatMap fun (x : Nat × Queue) => (x.2.flight.filter moveOnHost).map fun f => (x.1, f.cmd.seq)
  let s := cmds.foldl (fun s k => cmdFail s k.1 k.2 { status := .hostLinkDown }) s
  let s := (upto 0 32).foldl (fun s n => ((stackOf s n).slots.filter slotActive).foldl (fun s _ => failFetch s n) s) s
  let cores := s.cores.filter fun (x : Nat × Core) => coreOnHost x.2
  cores.foldl (fun s x =>
    match logicalOf s x.1 with
    | some core => programFault s core x.1 .hostLinkDown (match x.2.lq with | j :: _ => j.pc | [] => x.2.pc)
    | none => s) s

/-- The host link goes down (R524). -/
def hostDown (s : State) : State :=
  if s.host.mode = 0 then s
  else
    let s := hostLost s
    let s := { s with queues := s.queues.map fun (x : Nat × Queue) => (x.1, { x.2 with lineHeld := x.2.lineHeld && !ptrHost (rget s (.cqTail x.1)) }) }
    let s := modHost s fun h => { sent := h.sent, viral := h.viral, rasErrs := h.rasErrs }
    let s := shutQueues s
    report (rbump s (.glbHostCtr 4) 1) .hostLinkDown (resource 0x0B 0) 0 0 false

/-- HOST_LINK_DOWN (R523, R524): the host link is lost. -/
def execHostLinkDown (s : State) : Out := .next (hostDown s)

/-- PERST_N (R523): a conventional reset, a hot reset, link disable or CXL Reset takes the host link down and resets nothing
else. -/
def execPerstN (s : State) : Out := .next (hostDown s)

/-- FLR (R523, R525): the command register, the MSI-X table with its capability's control bits and the DOE mailbox are reset, and queues are shut as in R524. -/
def execFlr (s : State) : Out :=
  if s.host.mode = 0 then .next s
  else .next (shutQueues { s with host := { s.host with cmdEn := false, msix := [], msixEn := false, msixMask := false }, sec := { s.sec with out := [] } })

/-- Rates, widths and decoders that a link mode allows (R502, R504). -/
def linkGood (cxl : Bool) (speed : BitVec 3) (width : BitVec 2) (cacheEn : Bool) (ds : List Decoder) : Bool :=
  decide (1 ≤ speed.toNat) && decide (speed.toNat ≤ 4) && decide (1 ≤ width.toNat) && decide (ds.length ≤ 4)
  && (if cxl then decide (3 ≤ speed.toNat) else !cacheEn && ds.isEmpty)
  && ds.all fun d => decide (d.ways.toNat ≤ 4) && decide (d.gran.toNat ≤ 6) && decide (d.size ≤ 2 ^ 41)

/-- The host enumerates the function: it programs BAR0, the command register, MSI-X and the decoders (R526), and messages that nothing
masks any more are sent (R520). Until RUNNING configuration requests are answered with Request Retry Status (R541). -/
def hostConfig (s : State) (cacheEn : Bool) (x : HostSetup) : State :=
  if s.pkg.stage ≠ 5 ∧ s.pkg.stage ≠ 6 then s
  else msixFlush (modHost s fun h => { h with
    cacheEn := cacheEn, cmdEn := true, decoders := x.decoders, bar0 := x.bar0 &&& 0xFFFFFFFFF0000000, msixEn := x.msixEn, msixMask := x.msixMask })

/-- HOST_LINK_UP (R502, R515, R526, R541): from the end of package reset the link trains in a mode, and the host enumerates the function.
Over a link that is up the host enumerates it again, as after an FLR or once the package answers. -/
def execHostLinkUp (cxl : Bool) (speed : BitVec 3) (width : BitVec 2) (cacheEn : Bool) (setup : HostSetup) (s : State) : Out :=
  if s.pkg.fatal.isSome || !s.pkg.powered || s.pkg.inReset || !linkGood cxl speed width cacheEn setup.decoders then .next s
  else if s.host.mode ≠ 0 then .next (if s.host.mode = (if cxl then 1 else 2) then hostConfig s cacheEn setup else s)
  else .next (hostConfig (modHost s fun h => { h with mode := if cxl then 1 else 2, speed := speed.toNat, width := width.toNat }) cacheEn setup)

end Sys2Proof.Machine
end

