-- ==== Sys2Proof/Machine/SecRows.lean ====
section
/-! DEFINITION. The SPDM responder and what runs over its sessions (spec/17, R545 to R548; spec/19, R598; spec/16, R521). Each
request leaves one response in the responder's outbox. Certificates and signatures are constants and functions without a body (DESIGN
CHOICE, log entry 9); requests, capabilities and algorithms are numbered as DSP0274 numbers them (PRESUMED, log entry 9). -/
namespace Sys2Proof.Machine

def modSpdm (s : State) (f : Spdm → Spdm) : State := modSec s fun u => { u with spdm := f u.spdm }

/-- n free bytes. -/
def freeBytes (s : State) (n : Nat) : List Byte := (upto s.freeCtr n).map fun i => (Config.freeWord i).extractLsb' 0 8
def tickN (s : State) (n : Nat) : State := { s with freeCtr := s.freeCtr + n }

/-- Put a response into the outbox; one that is signed ends with the RSA-3072 signature over the connection's transcript (R547). -/
def spdmAnswer (s : State) (signed : Bool) (request : Nat) (body : List Byte) : State :=
  let l := s.sec.spdm.log ++ [(request, body)]
  let all := if signed then body ++ leBytes 384 (Config.rsaSign l) else body
  let s := modSec s fun u => { u with out := u.out ++ [.answer request all] }
  modSpdm s fun x => { x with log := l, signed := if signed then some l else none }

def spdmError (s : State) : State :=
  modSpdm (modSec s fun u => { u with out := u.out ++ [.error] }) fun x => { x with signed := none }

/-- Whether a request may come: outside of a session after the start-up of the connection, or inside an established one. -/
def spdmOpen (s : State) (x : Session) : Bool :=
  decide (s.sec.spdm.step = 3) && match x with | some k => s.sec.spdm.sessions.contains k.toNat | none => true

/-- Answer a request with a body, or with ERROR. -/
def spdmReply (s : State) (ok signed : Bool) (request : Nat) (body : List Byte) : Out :=
  if !inRunning s then .next s
  else if ok then .next (spdmAnswer s signed request body)
  else .next (spdmError s)

/-! ## The connection (R546) -/

/-- GET_VERSION (R546): the connection starts again; sessions end. -/
def execGetVersion (s : State) : Out :=
  if !inRunning s then .next s
  else .next (spdmAnswer (modSpdm s fun _ => { step := 1 }) false 0x84 [0x13, 0x12])

/-- What the responder supports (R546): certificates, challenge, signed measurements, encrypted and authenticated sessions with key
exchange; no requester authentication and no pre-shared keys. -/
def spdmCapabilities : List Byte := leBytes 4 0x2D6

/-- The algorithms of R546: RSAPSS_3072, SHA_384, secp384r1, AES-256-GCM. -/
def spdmAlgorithms : List Byte := leBytes 4 8 ++ leBytes 4 2 ++ leBytes 2 0x10 ++ leBytes 2 2

/-- GET_CAPABILITIES (R546). -/
def execGetCapabilities (s : State) : Out :=
  if inRunning s && decide (s.sec.spdm.step = 1) then spdmReply (modSpdm s fun x => { x with step := 2 }) true false 0xE1 spdmCapabilities
  else spdmReply s false false 0xE1 []

/-- NEGOTIATE_ALGORITHMS (R546). -/
def execNegotiateAlgorithms (s : State) : Out :=
  if inRunning s && decide (s.sec.spdm.step = 2) then spdmReply (modSpdm s fun x => { x with step := 3 }) true false 0xE3 spdmAlgorithms
  else spdmReply s false false 0xE3 []

/-- GET_DIGESTS (R545, R546): the digest of the chain in slot 0. -/
def execGetDigests (x : Session) (s : State) : Out := spdmReply s (spdmOpen s x) false 0x81 (leBytes 48 Config.chainDigest)

/-- GET_CERTIFICATE (R545, R546): the chain in slot 0. -/
def execGetCertificate (x : Session) (slot : BitVec 4) (s : State) : Out :=
  spdmReply s (spdmOpen s x && decide (slot = 0)) false 0x82 Config.certChain

/-- CHALLENGE (R547): a signed response. -/
def execChallenge (x : Session) (slot : BitVec 4) (s : State) : Out := spdmReply s (spdmOpen s x && decide (slot = 0)) true 0x83 []

/-! ## Measurements (R548) -/

/-- The digest of a measurement as it stands: a free value that changes when the measurement does. -/
def measureBytes (s : State) (i : Nat) : List Byte := leBytes 48 (Config.freeNat (tget (fun _ => 0) s.sec.measure i))

/-- GET_MEASUREMENTS (R547, R548): block `index`, all blocks for 0xFF, or their number for 0, with a signature when asked for. -/
def execGetMeasurements (x : Session) (index : Byte) (sign : Bool) (s : State) : Out :=
  if !inRunning s then .next s
  else
    let i := index.toNat
    let blocks : List Byte := if i = 0 then [6]
      else if i = 0xFF then (upto 1 6).flatMap fun k => BitVec.ofNat 8 k :: measureBytes s k
      else index :: measureBytes s i
    if spdmOpen s x ∧ (i ≤ 6 ∨ i = 0xFF) then .next (spdmAnswer s sign 0xE0 blocks)
    else .next (spdmError s)

/-! ## Sessions (R546) -/

/-- The sessions of a connection, in handshake or established. -/
def sessionsUsed (s : State) : List Nat := s.sec.spdm.handshake ++ s.sec.spdm.sessions

/-- KEY_EXCHANGE (R546, R547): a session is opened, at most four at once; the response is signed. -/
def execKeyExchange (s : State) : Out :=
  match (upto 0 4).find? fun k => !(sessionsUsed s).contains k with
  | some k =>
    if inRunning s && spdmOpen s none then spdmReply (modSpdm s fun x => { x with handshake := x.handshake ++ [k] }) true true 0xE4 []
    else spdmReply s false false 0xE4 []
  | none => spdmReply s false false 0xE4 []

/-- FINISH (R546): a session in handshake is established. -/
def execFinish (k : BitVec 2) (s : State) : Out :=
  if inRunning s && s.sec.spdm.handshake.contains k.toNat then
    spdmReply (modSpdm s fun x => { x with handshake := x.handshake.filter fun y => decide (y ≠ k.toNat), sessions := x.sessions ++ [k.toNat] })
      true false 0xE5 []
  else spdmReply s false false 0xE5 []

/-- END_SESSION (R546). -/
def execEndSession (k : BitVec 2) (s : State) : Out :=
  if inRunning s && s.sec.spdm.sessions.contains k.toNat then
    spdmReply (modSpdm s fun x => { x with sessions := x.sessions.filter fun y => decide (y ≠ k.toNat) }) true false 0xEC []
  else spdmReply s false false 0xEC []

/-! ## Vendor-defined requests (R547, R598) -/

/-- COMPANION_SIGNATURE (R547): the SLH-DSA signature over the transcript of the last response, when that was a signed one. -/
def execCompanionSignature (x : Session) (s : State) : Out :=
  spdmReply s (spdmOpen s x && s.sec.spdm.signed.isSome) false 0xFE (leBytes 16224 (Config.slhSign (s.sec.spdm.signed.getD [])))

/-- The image that a SOURCE names (R598), with the SEQ and the CRC result of a bank. -/
def fldSource (s : State) (source : Nat) : Option (FldImage × List Byte) :=
  match source with
  | 0 => some (s.fld.snap, [])
  | n => (fldBank s (n - 1)).map fun x => (x.2, leBytes 4 x.1.toNat ++ [1])

/-- FIELD_RECORD_READ (R598): bytes of an image of the field record, in a secure session. A bank that is not valid has no stated bytes:
they are free, and its CRC check has failed. -/
def execFieldRecordRead (x : Session) (source : Byte) (off len : Word32) (s : State) : Out :=
  let n := len.toNat
  if !inRunning s then .next s
  else if !spdmOpen s x || x.isNone || decide (2 < source.toNat) || decide (n = 0) || decide (4096 < n) || decide (0x20000 < off.toNat + n) then
    .next (spdmError s)
  else match fldSource s source.toNat with
    | some (im, tail) =>
      .next (tickN (spdmAnswer s false 0xFE ((upto off.toNat n).map (imageByte im s.freeCtr) ++ leBytes 8 im.snapTime.toNat ++ tail)) 0x20000)
    | none => .next (tickN (spdmAnswer s false 0xFE (freeBytes s (n + 12) ++ [0])) (n + 12))

/-- IDE_KEY_PROGRAM (R521): keys of the CXL.cachemem stream or of the CXL.io stream are set inside a secure session, and the stream is
active; outside of one the request is refused. -/
def execIdeKeyProgram (x : Session) (stream : IdeStream) (s : State) : Out :=
  if !inRunning s || decide (s.host.mode = 0) then .next s
  else if spdmOpen s x && x.isSome && (decide (stream = .io) || decide (s.host.mode = 1)) then
    .next (spdmAnswer (modHost s fun h => match stream with
      | .io => { h with ideIo := true, ideKeys := true }
      | .cachemem skid => { h with ideMem := true, ideKeys := true, ideSkid := skid }) false 0xFE [])
  else .next (spdmError s)

end Sys2Proof.Machine
end

