-- ==== Sys2Proof/Machine/VectorClass.lean ====
section
/-! DEFINITION. The vector class (spec/06, R203 to R207): one meaning per instruction. -/
namespace Sys2Proof.Machine

/-- The vector unit holds eight instructions behind the one running (R190). -/
def vuFull (c : Core) : Bool := decide (c.vq.length ≥ 9)

/-- Issue of a vector instruction: its operands are checked (R203, R204, R653) and it is queued with its scalar. -/
def vecIssue (core : Fin 4096) (i : Instr) (op : VecOp) (d a b c num : BitVec 5) (cfmt : BitVec 4) (s : State) : Out :=
  let srcs := [a, b, c].take (vecSources op)
  issue core i (num :: if op = .scl then [c] else []) vuFull
    (fun _ k => vecFault core.val op (slotDesc k d) (srcs.map (slotDesc k)) cfmt (sreg k num))
    (fun s p =>
      let k := coreOf s p
      advance (enqueue s p .vu (mkJob k i (d :: srcs) num [if op = .scl then sreg k c else 0])) core.val p) s

/-- VADD: A + B (R205). -/
def execVadd (core : Fin 4096) (d a b c num : BitVec 5) (cfmt : BitVec 4) (s : State) : Out :=
  vecIssue core (.vadd core d a b c num cfmt) .add d a b c num cfmt s
/-- VSUB: A − B (R205). -/
def execVsub (core : Fin 4096) (d a b c num : BitVec 5) (cfmt : BitVec 4) (s : State) : Out :=
  vecIssue core (.vsub core d a b c num cfmt) .sub d a b c num cfmt s
/-- VMUL: A × B (R205). -/
def execVmul (core : Fin 4096) (d a b c num : BitVec 5) (cfmt : BitVec 4) (s : State) : Out :=
  vecIssue core (.vmul core d a b c num cfmt) .mul d a b c num cfmt s
/-- VFMA: A × B + C, rounded once (R205). -/
def execVfma (core : Fin 4096) (d a b c num : BitVec 5) (cfmt : BitVec 4) (s : State) : Out :=
  vecIssue core (.vfma core d a b c num cfmt) .fma d a b c num cfmt s
/-- VMAX: the larger of A and B (R205). -/
def execVmax (core : Fin 4096) (d a b c num : BitVec 5) (cfmt : BitVec 4) (s : State) : Out :=
  vecIssue core (.vmax core d a b c num cfmt) .max d a b c num cfmt s
/-- VMIN: the smaller of A and B (R205). -/
def execVmin (core : Fin 4096) (d a b c num : BitVec 5) (cfmt : BitVec 4) (s : State) : Out :=
  vecIssue core (.vmin core d a b c num cfmt) .min d a b c num cfmt s
/-- VABS: the magnitude of A (R205). -/
def execVabs (core : Fin 4096) (d a b c num : BitVec 5) (cfmt : BitVec 4) (s : State) : Out :=
  vecIssue core (.vabs core d a b c num cfmt) .abs d a b c num cfmt s
/-- VNEG: −A (R205). -/
def execVneg (core : Fin 4096) (d a b c num : BitVec 5) (cfmt : BitVec 4) (s : State) : Out :=
  vecIssue core (.vneg core d a b c num cfmt) .neg d a b c num cfmt s
/-- VSCL: A × the value of scalar register SC (R205). -/
def execVscl (core : Fin 4096) (d a b c num : BitVec 5) (cfmt : BitVec 4) (s : State) : Out :=
  vecIssue core (.vscl core d a b c num cfmt) .scl d a b c num cfmt s
/-- VSEL: A or B as C says (R205). -/
def execVsel (core : Fin 4096) (d a b c num : BitVec 5) (cfmt : BitVec 4) (s : State) : Out :=
  vecIssue core (.vsel core d a b c num cfmt) .sel d a b c num cfmt s
/-- VCOPY: A, converted (R205). -/
def execVcopy (core : Fin 4096) (d a b c num : BitVec 5) (cfmt : BitVec 4) (s : State) : Out :=
  vecIssue core (.vcopy core d a b c num cfmt) .copy d a b c num cfmt s
/-- VEXP2: 2 to the power A (R205). -/
def execVexp2 (core : Fin 4096) (d a b c num : BitVec 5) (cfmt : BitVec 4) (s : State) : Out :=
  vecIssue core (.vexp2 core d a b c num cfmt) .exp2 d a b c num cfmt s
/-- VLOG2: the base-2 logarithm of A (R205). -/
def execVlog2 (core : Fin 4096) (d a b c num : BitVec 5) (cfmt : BitVec 4) (s : State) : Out :=
  vecIssue core (.vlog2 core d a b c num cfmt) .log2 d a b c num cfmt s
/-- VRCP: 1 ÷ A (R205). -/
def execVrcp (core : Fin 4096) (d a b c num : BitVec 5) (cfmt : BitVec 4) (s : State) : Out :=
  vecIssue core (.vrcp core d a b c num cfmt) .rcp d a b c num cfmt s
/-- VRSQRT: 1 ÷ √A (R205). -/
def execVrsqrt (core : Fin 4096) (d a b c num : BitVec 5) (cfmt : BitVec 4) (s : State) : Out :=
  vecIssue core (.vrsqrt core d a b c num cfmt) .rsqrt d a b c num cfmt s
/-- VSQRT: √A (R205). -/
def execVsqrt (core : Fin 4096) (d a b c num : BitVec 5) (cfmt : BitVec 4) (s : State) : Out :=
  vecIssue core (.vsqrt core d a b c num cfmt) .sqrt d a b c num cfmt s
/-- VRSUM: the sum of A along dimension 0 (R207) (R205). -/
def execVrsum (core : Fin 4096) (d a b c num : BitVec 5) (cfmt : BitVec 4) (s : State) : Out :=
  vecIssue core (.vrsum core d a b c num cfmt) .rsum d a b c num cfmt s
/-- VRMAX: the maximum of A along dimension 0 (R205). -/
def execVrmax (core : Fin 4096) (d a b c num : BitVec 5) (cfmt : BitVec 4) (s : State) : Out :=
  vecIssue core (.vrmax core d a b c num cfmt) .rmax d a b c num cfmt s

end Sys2Proof.Machine
end

