-- ==== Sys2Proof/Machine/Dispatch.lean ====
section
/-! DEFINITION. The command's meaning, by constructor. -/
namespace Sys2Proof.Machine

def exec (i : Instr) (s : State) : Host.Outcome State Fault Refusal :=
  match i with
  | .nop core => Sys2Proof.Machine.execNop core s
  | .add core sd sa sb => Sys2Proof.Machine.execAdd core sd sa sb s
  | .sub core sd sa sb => Sys2Proof.Machine.execSub core sd sa sb s
  | .and core sd sa sb => Sys2Proof.Machine.execAnd core sd sa sb s
  | .or core sd sa sb => Sys2Proof.Machine.execOr core sd sa sb s
  | .xor core sd sa sb => Sys2Proof.Machine.execXor core sd sa sb s
  | .shl core sd sa sb => Sys2Proof.Machine.execShl core sd sa sb s
  | .shr core sd sa sb => Sys2Proof.Machine.execShr core sd sa sb s
  | .sra core sd sa sb => Sys2Proof.Machine.execSra core sd sa sb s
  | .mul core sd sa sb => Sys2Proof.Machine.execMul core sd sa sb s
  | .min core sd sa sb => Sys2Proof.Machine.execMin core sd sa sb s
  | .max core sd sa sb => Sys2Proof.Machine.execMax core sd sa sb s
  | .addi core sd sa imm => Sys2Proof.Machine.execAddi core sd sa imm s
  | .andi core sd sa imm => Sys2Proof.Machine.execAndi core sd sa imm s
  | .li core sd imm => Sys2Proof.Machine.execLi core sd imm s
  | .lui core sd sa imm => Sys2Proof.Machine.execLui core sd sa imm s
  | .lds core sd sa imm => Sys2Proof.Machine.execLds core sd sa imm s
  | .sts core sa sb imm => Sys2Proof.Machine.execSts core sa sb imm s
  | .beq core sa sb imm => Sys2Proof.Machine.execBeq core sa sb imm s
  | .bne core sa sb imm => Sys2Proof.Machine.execBne core sa sb imm s
  | .blt core sa sb imm => Sys2Proof.Machine.execBlt core sa sb imm s
  | .bge core sa sb imm => Sys2Proof.Machine.execBge core sa sb imm s
  | .jmp core imm => Sys2Proof.Machine.execJmp core imm s
  | .rdreg core sd imm => Sys2Proof.Machine.execRdreg core sd imm s
  | .clrnum core => Sys2Proof.Machine.execClrnum core s
  | .rdtime core sd => Sys2Proof.Machine.execRdtime core sd s
  | .dset core slot sa imm => Sys2Proof.Machine.execDset core slot sa imm s
  | .dget core slot sa imm => Sys2Proof.Machine.execDget core slot sa imm s
  | .dbase core slot sa plane => Sys2Proof.Machine.execDbase core slot sa plane s
  | .dpart core slot sa => Sys2Proof.Machine.execDpart core slot sa s
  | .dload core src dst num => Sys2Proof.Machine.execDload core src dst num s
  | .dstore core src dst num => Sys2Proof.Machine.execDstore core src dst num s
  | .dgather core table dense index dim mode num => Sys2Proof.Machine.execDgather core table dense index dim mode num s
  | .dscatter core table dense index dim mode accum num => Sys2Proof.Machine.execDscatter core table dense index dim mode accum num s
  | .feWload core wdesc wFmt aFmt kext ncol => Sys2Proof.Machine.execFeWload core wdesc wFmt aFmt kext ncol s
  | .feStream core adesc odesc pdesc rowsreg kext ncol oFmt acc plane num => Sys2Proof.Machine.execFeStream core adesc odesc pdesc rowsreg kext ncol oFmt acc plane num s
  | .beWload core wdesc wFmt trn kext ncol => Sys2Proof.Machine.execBeWload core wdesc wFmt trn kext ncol s
  | .beDx core gdesc odesc pdesc rowsreg kext ncol oFmt acc plane num => Sys2Proof.Machine.execBeDx core gdesc odesc pdesc rowsreg kext ncol oFmt acc plane num s
  | .beDw core xdesc xFmt gdesc odesc pdesc rowsreg xext ncol oFmt acc num dwc => Sys2Proof.Machine.execBeDw core xdesc xFmt gdesc odesc pdesc rowsreg xext ncol oFmt acc num dwc s
  | .vadd core d a b c num cfmt => Sys2Proof.Machine.execVadd core d a b c num cfmt s
  | .vsub core d a b c num cfmt => Sys2Proof.Machine.execVsub core d a b c num cfmt s
  | .vmul core d a b c num cfmt => Sys2Proof.Machine.execVmul core d a b c num cfmt s
  | .vfma core d a b c num cfmt => Sys2Proof.Machine.execVfma core d a b c num cfmt s
  | .vmax core d a b c num cfmt => Sys2Proof.Machine.execVmax core d a b c num cfmt s
  | .vmin core d a b c num cfmt => Sys2Proof.Machine.execVmin core d a b c num cfmt s
  | .vabs core d a b c num cfmt => Sys2Proof.Machine.execVabs core d a b c num cfmt s
  | .vneg core d a b c num cfmt => Sys2Proof.Machine.execVneg core d a b c num cfmt s
  | .vscl core d a b c num cfmt => Sys2Proof.Machine.execVscl core d a b c num cfmt s
  | .vsel core d a b c num cfmt => Sys2Proof.Machine.execVsel core d a b c num cfmt s
  | .vcopy core d a b c num cfmt => Sys2Proof.Machine.execVcopy core d a b c num cfmt s
  | .vexp2 core d a b c num cfmt => Sys2Proof.Machine.execVexp2 core d a b c num cfmt s
  | .vlog2 core d a b c num cfmt => Sys2Proof.Machine.execVlog2 core d a b c num cfmt s
  | .vrcp core d a b c num cfmt => Sys2Proof.Machine.execVrcp core d a b c num cfmt s
  | .vrsqrt core d a b c num cfmt => Sys2Proof.Machine.execVrsqrt core d a b c num cfmt s
  | .vsqrt core d a b c num cfmt => Sys2Proof.Machine.execVsqrt core d a b c num cfmt s
  | .vrsum core d a b c num cfmt => Sys2Proof.Machine.execVrsum core d a b c num cfmt s
  | .vrmax core d a b c num cfmt => Sys2Proof.Machine.execVrmax core d a b c num cfmt s
  | .fsend core desc epreg auxreg vc tag mode num => Sys2Proof.Machine.execFsend core desc epreg auxreg vc tag mode num s
  | .frecv core desc epreg auxreg vc tag mode num => Sys2Proof.Machine.execFrecv core desc epreg auxreg vc tag mode num s
  | .fcsend core desc epreg auxreg vc tag mode num => Sys2Proof.Machine.execFcsend core desc epreg auxreg vc tag mode num s
  | .fcrecv core desc epreg auxreg vc tag mode num => Sys2Proof.Machine.execFcrecv core desc epreg auxreg vc tag mode num s
  | .fput core desc epreg auxreg vc tag mode num => Sys2Proof.Machine.execFput core desc epreg auxreg vc tag mode num s
  | .fget core desc epreg auxreg vc tag mode num => Sys2Proof.Machine.execFget core desc epreg auxreg vc tag mode num s
  | .facc core desc epreg auxreg vc tag mode num => Sys2Proof.Machine.execFacc core desc epreg auxreg vc tag mode num s
  | .fmsg core desc epreg auxreg vc tag mode num => Sys2Proof.Machine.execFmsg core desc epreg auxreg vc tag mode num s
  | .aadd core sd sa sb sc width => Sys2Proof.Machine.execAadd core sd sa sb sc width s
  | .afadd core sd sa sb sc width => Sys2Proof.Machine.execAfadd core sd sa sb sc width s
  | .aswap core sd sa sb sc width => Sys2Proof.Machine.execAswap core sd sa sb sc width s
  | .acas core sd sa sb sc width => Sys2Proof.Machine.execAcas core sd sa sb sc width s
  | .amax core sd sa sb sc width => Sys2Proof.Machine.execAmax core sd sa sb sc width s
  | .amin core sd sa sb sc width => Sys2Proof.Machine.execAmin core sd sa sb sc width s
  | .ewait core sa sb => Sys2Proof.Machine.execEwait core sa sb s
  | .esignal core sa sb mask => Sys2Proof.Machine.execEsignal core sa sb mask s
  | .lwait core ctr sb imm => Sys2Proof.Machine.execLwait core ctr sb imm s
  | .twait core sb => Sys2Proof.Machine.execTwait core sb s
  | .drain core mask => Sys2Proof.Machine.execDrain core mask s
  | .endp core => Sys2Proof.Machine.execEndp core s
  | .waitRelease core => Sys2Proof.Machine.execWaitRelease core s
  | .esignalSend core => Sys2Proof.Machine.execEsignalSend core s
  | .insnRetire core unit => Sys2Proof.Machine.execInsnRetire core unit s
  | .feTileReady core => Sys2Proof.Machine.execFeTileReady core s
  | .feSwap core => Sys2Proof.Machine.execFeSwap core s
  | .gridClockStop core k => Sys2Proof.Machine.execGridClockStop core k s
  | .beTileReady core => Sys2Proof.Machine.execBeTileReady core s
  | .deferralDispatch core be1Last be0Last => Sys2Proof.Machine.execDeferralDispatch core be1Last be0Last s
  | .dwEntryDone core be1 => Sys2Proof.Machine.execDwEntryDone core be1 s
  | .programStart core => Sys2Proof.Machine.execProgramStart core s
  | .tpTimeout core => Sys2Proof.Machine.execTpTimeout core s
  | .programFault core => Sys2Proof.Machine.execProgramFault core s
  | .stagingGrant cluster => Sys2Proof.Machine.execStagingGrant cluster s
  | .copy q seq => Sys2Proof.Machine.execCopy q seq s
  | .gather q seq => Sys2Proof.Machine.execGather q seq s
  | .scatter q seq => Sys2Proof.Machine.execScatter q seq s
  | .tileProgram q seq => Sys2Proof.Machine.execTileProgram q seq s
  | .collective q seq => Sys2Proof.Machine.execCollective q seq s
  | .update q seq => Sys2Proof.Machine.execUpdate q seq s
  | .fence q seq => Sys2Proof.Machine.execFence q seq s
  | .waitEvent q seq => Sys2Proof.Machine.execWaitEvent q seq s
  | .evtTimeout q seq => Sys2Proof.Machine.execEvtTimeout q seq s
  | .signalEvent q seq => Sys2Proof.Machine.execSignalEvent q seq s
  | .timeWait q seq => Sys2Proof.Machine.execTimeWait q seq s
  | .cfgTxnBegin q seq => Sys2Proof.Machine.execCfgTxnBegin q seq s
  | .cfgTxnWrite q seq => Sys2Proof.Machine.execCfgTxnWrite q seq s
  | .cfgTxnCommit q seq => Sys2Proof.Machine.execCfgTxnCommit q seq s
  | .cfgTxnAbort q seq => Sys2Proof.Machine.execCfgTxnAbort q seq s
  | .cfgCommitApply => Sys2Proof.Machine.execCfgCommitApply s
  | .cfgQuiesceTimeout => Sys2Proof.Machine.execCfgQuiesceTimeout s
  | .cfgIdleAbort => Sys2Proof.Machine.execCfgIdleAbort s
  | .cfgPersist ok => Sys2Proof.Machine.execCfgPersist ok s
  | .energyMark q seq => Sys2Proof.Machine.execEnergyMark q seq s
  | .tailWake q => Sys2Proof.Machine.execTailWake q s
  | .tailPoll q => Sys2Proof.Machine.execTailPoll q s
  | .commandFetch q => Sys2Proof.Machine.execCommandFetch q s
  | .commandCheck q => Sys2Proof.Machine.execCommandCheck q s
  | .commandStart q => Sys2Proof.Machine.execCommandStart q s
  | .commandFinish q seq => Sys2Proof.Machine.execCommandFinish q seq s
  | .resume q => Sys2Proof.Machine.execResume q s
  | .cancel q => Sys2Proof.Machine.execCancel q s
  | .queueEnable q => Sys2Proof.Machine.execQueueEnable q s
  | .queueDisable q => Sys2Proof.Machine.execQueueDisable q s
  | .eventAdvance ctr adds raises => Sys2Proof.Machine.execEventAdvance ctr adds raises s
  | .evtFaultClear ctr => Sys2Proof.Machine.execEvtFaultClear ctr s
  | .timeppsEdge refGood => Sys2Proof.Machine.execTimeppsEdge refGood s
  | .timeMessageSend => Sys2Proof.Machine.execTimeMessageSend s
  | .timeSet v => Sys2Proof.Machine.execTimeSet v s
  | .timeRefLost pps => Sys2Proof.Machine.execTimeRefLost pps s
  | .timeRefReturn => Sys2Proof.Machine.execTimeRefReturn s
  | .holdoverExpiry => Sys2Proof.Machine.execHoldoverExpiry s
  | .timedActionFire act => Sys2Proof.Machine.execTimedActionFire act s
  | .portEnable port on => Sys2Proof.Machine.execPortEnable port on s
  | .retrain port => Sys2Proof.Machine.execRetrain port s
  | .trainingDone port rx txBad peer peerPort alloc => Sys2Proof.Machine.execTrainingDone port rx txBad peer peerPort alloc s
  | .trainingRestart port => Sys2Proof.Machine.execTrainingRestart port s
  | .laneFail port lane lock => Sys2Proof.Machine.execLaneFail port lane lock s
  | .laneSwap port lane => Sys2Proof.Machine.execLaneSwap port lane s
  | .flitReceive port lanes data first again => Sys2Proof.Machine.execFlitReceive port lanes data first again s
  | .flitReplay port => Sys2Proof.Machine.execFlitReplay port s
  | .recoveryTimeout port => Sys2Proof.Machine.execRecoveryTimeout port s
  | .readReq n => Sys2Proof.Machine.execReadReq n s
  | .readResp n => Sys2Proof.Machine.execReadResp n s
  | .write n => Sys2Proof.Machine.execWrite n s
  | .accWrite n => Sys2Proof.Machine.execAccWrite n s
  | .resp n => Sys2Proof.Machine.execResp n s
  | .cts n => Sys2Proof.Machine.execCts n s
  | .sendData n => Sys2Proof.Machine.execSendData n s
  | .chunkData n => Sys2Proof.Machine.execChunkData n s
  | .withdraw n => Sys2Proof.Machine.execWithdraw n s
  | .msg n => Sys2Proof.Machine.execMsg n s
  | .time n => Sys2Proof.Machine.execTime n s
  | .taint n => Sys2Proof.Machine.execTaint n s
  | .mgmt n => Sys2Proof.Machine.execMgmt n s
  | .packetForward n => Sys2Proof.Machine.execPacketForward n s
  | .broadcastForward n => Sys2Proof.Machine.execBroadcastForward n s
  | .fabStall port => Sys2Proof.Machine.execFabStall port s
  | .fabTimeout core => Sys2Proof.Machine.execFabTimeout core s
  | .joinEmit done => Sys2Proof.Machine.execJoinEmit done s
  | .chunkCheck join n => Sys2Proof.Machine.execChunkCheck join n s
  | .confirmToken n => Sys2Proof.Machine.execConfirmToken n s
  | .sealToken n => Sys2Proof.Machine.execSealToken n s
  | .tokenResend q seq => Sys2Proof.Machine.execTokenResend q seq s
  | .collTimeout q seq => Sys2Proof.Machine.execCollTimeout q seq s
  | .collRefUnknown q seq => Sys2Proof.Machine.execCollRefUnknown q seq s
  | .cumUncorrectable q seq chunk slot => Sys2Proof.Machine.execCumUncorrectable q seq chunk slot s
  | .bankGrant spad unit core dma => Sys2Proof.Machine.execBankGrant spad unit core dma s
  | .eccWriteback spad unit word => Sys2Proof.Machine.execEccWriteback spad unit word s
  | .sramPatrol spad unit line found => Sys2Proof.Machine.execSramPatrol spad unit line found s
  | .cmemBankMigrate cluster => Sys2Proof.Machine.execCmemBankMigrate cluster s
  | .cmemBankMigrated cluster => Sys2Proof.Machine.execCmemBankMigrated cluster s
  | .spadRetireCopy core => Sys2Proof.Machine.execSpadRetireCopy core s
  | .clusterClear cluster => Sys2Proof.Machine.execClusterClear cluster s
  | .clusterClearDone cluster => Sys2Proof.Machine.execClusterClearDone cluster s
  | .clear cluster => Sys2Proof.Machine.execClear cluster s
  | .stewardCmemAccess cluster off a => Sys2Proof.Machine.execStewardCmemAccess cluster off a s
  | .stackRequest word r => Sys2Proof.Machine.execStackRequest word r s
  | .accumulatingWrite word f32 mask data mode => Sys2Proof.Machine.execAccumulatingWrite word f32 mask data mode s
  | .mergeWriteback stack => Sys2Proof.Machine.execMergeWriteback stack s
  | .flush stack => Sys2Proof.Machine.execFlush stack s
  | .stackPatrol stack ch upsets => Sys2Proof.Machine.execStackPatrol stack ch upsets s
  | .channelSpareCopy stack => Sys2Proof.Machine.execChannelSpareCopy stack s
  | .channelSpared stack => Sys2Proof.Machine.execChannelSpared stack s
  | .channelInterfaceFail stack chan => Sys2Proof.Machine.execChannelInterfaceFail stack chan s
  | .selfRefreshEntry stack => Sys2Proof.Machine.execSelfRefreshEntry stack s
  | .parkSlotFill word mask data => Sys2Proof.Machine.execParkSlotFill word mask data s
  | .parkQueueGrant stack => Sys2Proof.Machine.execParkQueueGrant stack s
  | .holdOverrun stack => Sys2Proof.Machine.execHoldOverrun stack s
  | .updBlockDispatch stack => Sys2Proof.Machine.execUpdBlockDispatch stack s
  | .updJournalWrite stack => Sys2Proof.Machine.execUpdJournalWrite stack s
  | .updCommit stack => Sys2Proof.Machine.execUpdCommit stack s
  | .updInPlace stack => Sys2Proof.Machine.execUpdInPlace stack s
  | .updRetire stack => Sys2Proof.Machine.execUpdRetire stack s
  | .journalRecovery stack => Sys2Proof.Machine.execJournalRecovery stack s
  | .journalInit stack => Sys2Proof.Machine.execJournalInit stack s
  | .slowReplay stack => Sys2Proof.Machine.execSlowReplay stack s
  | .slowFetch stack => Sys2Proof.Machine.execSlowFetch stack s
  | .slowFetchDone stack => Sys2Proof.Machine.execSlowFetchDone stack s
  | .slowFetchFail stack => Sys2Proof.Machine.execSlowFetchFail stack s
  | .releaseFailed stack => Sys2Proof.Machine.execReleaseFailed stack s
  | .linkBeatReceive link dir bundle lane word flips => Sys2Proof.Machine.execLinkBeatReceive link dir bundle lane word flips s
  | .linkReplay link dir bundle lane flips => Sys2Proof.Machine.execLinkReplay link dir bundle lane flips s
  | .laneDiagnosis link dir bundle lane wires => Sys2Proof.Machine.execLaneDiagnosis link dir bundle lane wires s
  | .wireRemap link dir bundle => Sys2Proof.Machine.execWireRemap link dir bundle s
  | .spareWireFail link dir bundle spare => Sys2Proof.Machine.execSpareWireFail link dir bundle spare s
  | .dieFence die cause kept => Sys2Proof.Machine.execDieFence die cause kept s
  | .dieReset die => Sys2Proof.Machine.execDieReset die s
  | .dieReturn die wires cores => Sys2Proof.Machine.execDieReturn die wires cores s
  | .droopDetect cluster mv => Sys2Proof.Machine.execDroopDetect cluster mv s
  | .stretchRecover cluster cycles => Sys2Proof.Machine.execStretchRecover cluster cycles s
  | .heartIntervalEnd xs temps welkinTemp => Sys2Proof.Machine.execHeartIntervalEnd xs temps welkinTemp s
  | .guardRecover cluster => Sys2Proof.Machine.execGuardRecover cluster s
  | .hardCapFastPath a b c => Sys2Proof.Machine.execHardCapFastPath a b c s
  | .govCapWrite d => Sys2Proof.Machine.execGovCapWrite d s
  | .graceExpiry cluster => Sys2Proof.Machine.execGraceExpiry cluster s
  | .thermalTrip die temp => Sys2Proof.Machine.execThermalTrip die temp s
  | .idleOff cluster => Sys2Proof.Machine.execIdleOff cluster s
  | .clusterWake cluster => Sys2Proof.Machine.execClusterWake cluster s
  | .stepHoldExpiry => Sys2Proof.Machine.execStepHoldExpiry s
  | .rampWindowEnd w => Sys2Proof.Machine.execRampWindowEnd w s
  | .valveUpdate tIn tOut => Sys2Proof.Machine.execValveUpdate tIn tOut s
  | .flowComputation pulses => Sys2Proof.Machine.execFlowComputation pulses s
  | .coolSensorFail outlet => Sys2Proof.Machine.execCoolSensorFail outlet s
  | .cxlMemRead hpa cacheable => Sys2Proof.Machine.execCxlMemRead hpa cacheable s
  | .cxlMemWrite hpa mask data => Sys2Proof.Machine.execCxlMemWrite hpa mask data s
  | .bisnp line dirty => Sys2Proof.Machine.execBisnp line dirty s
  | .sfEviction k dirty => Sys2Proof.Machine.execSfEviction k dirty s
  | .hostAccessTimeout who => Sys2Proof.Machine.execHostAccessTimeout who s
  | .bar0Access host off a => Sys2Proof.Machine.execBar0Access host off a s
  | .rcRead off => Sys2Proof.Machine.execRcRead off s
  | .ideFailure mem => Sys2Proof.Machine.execIdeFailure mem s
  | .hostLinkDown => Sys2Proof.Machine.execHostLinkDown s
  | .flr => Sys2Proof.Machine.execFlr s
  | .hostLinkUp cxl speed width cacheEn setup => Sys2Proof.Machine.execHostLinkUp cxl speed width cacheEn setup s
  | .msixUnmask v => Sys2Proof.Machine.execMsixUnmask v s
  | .boot vs wires cores chans => Sys2Proof.Machine.execBoot vs wires cores chans s
  | .flashPairWrite ok => Sys2Proof.Machine.execFlashPairWrite ok s
  | .go v bindOk => Sys2Proof.Machine.execGo v bindOk s
  | .getVersion => Sys2Proof.Machine.execGetVersion s
  | .getCapabilities => Sys2Proof.Machine.execGetCapabilities s
  | .negotiateAlgorithms => Sys2Proof.Machine.execNegotiateAlgorithms s
  | .getDigests x => Sys2Proof.Machine.execGetDigests x s
  | .getCertificate x slot => Sys2Proof.Machine.execGetCertificate x slot s
  | .challenge x slot => Sys2Proof.Machine.execChallenge x slot s
  | .getMeasurements x index sign => Sys2Proof.Machine.execGetMeasurements x index sign s
  | .keyExchange => Sys2Proof.Machine.execKeyExchange s
  | .finish k => Sys2Proof.Machine.execFinish k s
  | .endSession k => Sys2Proof.Machine.execEndSession k s
  | .companionSignature x => Sys2Proof.Machine.execCompanionSignature x s
  | .fieldRecordRead x source off len => Sys2Proof.Machine.execFieldRecordRead x source off len s
  | .ideKeyProgram x mem => Sys2Proof.Machine.execIdeKeyProgram x mem s
  | .present v bindOk jtag => Sys2Proof.Machine.execPresent v bindOk jtag s
  | .directWrite off mask value => Sys2Proof.Machine.execDirectWrite off mask value s
  | .pendingApply off => Sys2Proof.Machine.execPendingApply off s
  | .errRecordFree queue => Sys2Proof.Machine.execErrRecordFree queue s
  | .welkinFatal hw ok => Sys2Proof.Machine.execWelkinFatal hw ok s
  | .packageFatal => Sys2Proof.Machine.execPackageFatal s
  | .coreHwFault core => Sys2Proof.Machine.execCoreHwFault core s
  | .coreRetired core => Sys2Proof.Machine.execCoreRetired core s
  | .appCoreFault core watchdog => Sys2Proof.Machine.execAppCoreFault core watchdog s
  | .appCoreResume core => Sys2Proof.Machine.execAppCoreResume core s
  | .fieldWriteStart => Sys2Proof.Machine.execFieldWriteStart s
  | .fieldWriteEnd ok => Sys2Proof.Machine.execFieldWriteEnd ok s
  | .writeNow => Sys2Proof.Machine.execWriteNow s
  | .histogramTick temps snr => Sys2Proof.Machine.execHistogramTick temps snr s
  | .welkinReset d => Sys2Proof.Machine.execWelkinReset d s
  | .cfgPeekData => Sys2Proof.Machine.execCfgPeekData s
  | .stewardPartnerAccess cluster off a => Sys2Proof.Machine.execStewardPartnerAccess cluster off a s
  | .pkgResetN us rises => Sys2Proof.Machine.execPkgResetN us rises s
  | .perstN => Sys2Proof.Machine.execPerstN s
  | .vbusFault mv => Sys2Proof.Machine.execVbusFault mv s
  | .sysclkLoss welkin => Sys2Proof.Machine.execSysclkLoss welkin s
  | .debugHalt target step => Sys2Proof.Machine.execDebugHalt target step s
  | .debugResume target => Sys2Proof.Machine.execDebugResume target s
  | .epochStale => Sys2Proof.Machine.execEpochStale s
  | .vbusRise => Sys2Proof.Machine.execVbusRise s
  | .vbusRemoved => Sys2Proof.Machine.execVbusRemoved s

end Sys2Proof.Machine
end

