-- ==== Sys2Proof/Safety.lean ====
section
/-! DEFINITION. The words the statements use: when a tile instruction issues, what a step leaves alone, and when memory
and tables are in their canonical form. -/
namespace Sys2Proof.Machine

/-- Physical core p serves the logical core and issues instruction i now (R189): i is at its PC, the program runs, nothing
stalls or halts it, and no register that i reads has a result outstanding. -/
def Issues (s : State) (core : Fin 4096) (i : Instr) (p : Nat) (reads : List (BitVec 5)) : Prop :=
  canIssue s core i = some p ∧ ∀ r ∈ reads, r ∉ (coreOf s p).busy

/-- The program has an instruction after the one at the PC (R199). -/
def HasNext (c : Core) : Prop := c.pc.toNat + 1 < c.codeLen

/-- The core once an instruction has issued: it no longer waits or steps, and the PC is at the next instruction. -/
def issued (c : Core) : Core := { c with pc := c.pc + 1, wait := 0, stepping := false }

/-- The core once an instruction has issued whose PC stays or is set by the instruction. -/
def issuedAt (c : Core) (pc : BitVec 12) : Core := { c with pc := pc, wait := 0, stepping := false }

/-- Between s and t only physical core p differs. -/
def OnlyCore (s t : State) (p : Nat) : Prop := t = { s with cores := t.cores } ∧ ∀ q, q ≠ p → coreOf t q = coreOf s q

/-- No 8-byte word that n bytes from a touch is marked (R243). -/
def Clean (poison : List Nat) (a n : Nat) : Prop := ∀ w ∈ poison, w * 8 + 8 ≤ a ∨ a + n ≤ w * 8

/-- A job of instruction i as it is queued (R137, R188): the PC, its place in the order of issue, and copies of the
descriptors, the numeric control word and the scalars that it names. -/
def queuedJob (c : Core) (i : Instr) (slots : List (BitVec 5)) (num : Word64) (args : List Word64) : Job :=
  { insn := i, pc := c.pc, order := c.issued, descs := slots.map (slotRaw c), num := num, args := args }

/-- From s to t the record of a command in flight changes by f, and no other queue and nothing else of its queue. -/
def FlightIs (s t : State) (q : Nat) (seq : Word32) (f : Flight → Flight) : Prop :=
  queueOf t q = { queueOf s q with flight := (queueOf s q).flight.map fun x => if x.cmd.seq = seq then f x else x } ∧
    ∀ k, k ≠ q → queueOf t k = queueOf s k

/-- From s to t the stacks lose requests of their park queues at most, in no changed order (R281). -/
def ParkGone (s t : State) : Prop :=
  ∀ n, stackOf t n = { stackOf s n with parkQ := (stackOf t n).parkQ } ∧ (stackOf t n).parkQ.Sublist (stackOf s n).parkQ

/-- From s to t the record of a command in flight changes by f as the command ends, and its requests in the park queues go (R281, R324). -/
def FlightEnds (s t : State) (q : Nat) (seq : Word32) (f : Flight → Flight) : Prop := FlightIs s t q seq f ∧ ParkGone s t

/-- The record of a command that is done with a status (R324). -/
def ended (st : Status) (x : Flight) : Flight := { x with begun := true, done := true, status := st }

/-- Registers other than the ones listed hold in t what they held in s. -/
def RegsBut (s t : State) (l : List Reg) : Prop :=
  ∀ r, (∀ x ∈ l, regOffset r ≠ regOffset x) → rget t r = rget s r

/-- From s to t the record queue of the die of a resource has one record more, its last, with this status, resource and detail, and
the time of s (R567 to R570): where the queue has room and holds no record of the resource yet (R571, R572). -/
def Recorded (s t : State) (st : Status) (res : Word32) (detail : Word64) : Prop :=
  (errQ s (resourceDie res)).recs.length < 32 → (∀ r ∈ (errQ s (resourceDie res)).recs, r.resource ≠ res) →
  ∃ r, (errQ t (resourceDie res)).recs = (errQ s (resourceDie res)).recs ++ [r] ∧ r.status = st ∧ r.cls = statusClass st ∧
    r.resource = res ∧ r.detail = detail ∧ r.time = s.time.now

/-- The registers that a record in the queue of die n may change. -/
def recordRegs (n : Nat) : List Reg := [.errRecords n, .errRaised n, .errOverflow n, .errRecords 4, .errRaised 4, .errOverflow 4]

/-- No bit error stands in device memory, so that a read of it corrects nothing (R262, R263). -/
def NoBitErrors (s : State) : Prop := s.devErrs = []

/-- A register whose new value leads to nothing else when it is applied (R553 step 4): not a VC allocation (R385), a stream table (R450), a
die's control word (R468), the owner of a counter group (R332) or the node number (R540). -/
def plainReg : Reg → Bool
  | .fabPortAlloc0 _ | .fabPortAlloc1 _ | .dlkStream _ _ _ | .dlkDieCtrl _ | .evtOwner _ | .fabNodeId => false
  | _ => true

/-- Every memory is in its canonical form: device memory, the host's, each scratchpad and each cluster memory. -/
def MemWf (s : State) : Prop :=
  memWf s.dev = true ∧ memWf s.hostMem = true ∧ (∀ p, memWf (coreOf s p).spad = true) ∧ ∀ c, memWf (clusterOf s c).cmem = true

/-- A step of the block answers a next state. -/
def Completes (s : State) : Prop := ∃ t, step s = .next t

end Sys2Proof.Machine
end

