-- ==== Sys2Proof/Certificates/Slice0/Obligations.lean ====
section
/-! DEFINITION. The statements for the provers. A statement about a command says, for every state and operands that meet the
hypotheses, the next state that exec answers; where it is an equation with a changed record, that equation is the frame as well:
every field it does not name is unchanged. -/
open Sys2Proof Sys2Proof.Machine

/-! ## The block -/

/-- A step takes the command at the front of the queue and runs it on the state with the queue's rest. -/
def Obligations.StepRunsFrontCommand : Prop :=
  ∀ (s : State) (c : Instr) (rest : List Instr),
    Sys2Proof.core.step { s with pending := c :: rest } = exec c { s with pending := rest }

/-! ## The scalar class (spec/06) -/

/-- R195: s0 reads as zero and a write to it is discarded; a write to another register is what it then reads as, and the
others keep their values; a NUM operand that names s0 selects round to nearest even with seed 0. R195, R196: the three-operand
scalar instructions. SD takes the value of the table, the PC moves on, and nothing else changes. R196: the scalar instructions with an
immediate, and RDTIME: SD takes the value of the table, the PC moves on, nothing else changes. The immediates are signed
40-bit, but for the 24 bits of LUI, which become bits 63 to 40. R189: of MUL and RDTIME, whose results come after more than one cycle,
the cycles a reader waits are counted, a free number (log entry 11). R196, R225: NOP only moves the PC on; CLRNUM also clears the
program copy of the numeric flags and leaves the command copy. -/
def Obligations.ScalarClass : Prop :=
  (∀ (c : Core) (r q : BitVec 5) (v : Word64),
     sreg c 0 = 0 ∧ setSreg c 0 v = c ∧ (∃ n, numCtrl (sreg c 0) = some ⟨0, .nearest, n⟩) ∧
     (r ≠ 0 → sreg (setSreg c r v) q = if q = r then v else sreg c q) ∧
     (setSreg c r v).pc = c.pc ∧ (setSreg c r v).spad = c.spad) ∧
  (∀ x ∈ ([(Instr.add, fun a b => a + b), (Instr.sub, fun a b => a - b), (Instr.and, fun a b => a &&& b), (Instr.or, fun a b => a ||| b),
       (Instr.xor, fun a b => a ^^^ b), (Instr.shl, fun a b => a <<< (b.toNat % 64)), (Instr.shr, fun a b => a >>> (b.toNat % 64)),
       (Instr.sra, fun a b => a.sshiftRight (b.toNat % 64)),
       (Instr.min, fun a b => if a.toInt ≤ b.toInt then a else b), (Instr.max, fun a b => if a.toInt ≤ b.toInt then b else a)] :
       List ((Fin 4096 → BitVec 5 → BitVec 5 → BitVec 5 → Instr) × (Word64 → Word64 → Word64))),
   ∀ (s : State) (core : Fin 4096) (sd sa sb : BitVec 5) (p : Nat),
     Issues s core (x.1 core sd sa sb) p [sa, sb] → HasNext (coreOf s p) →
     exec (x.1 core sd sa sb) s =
       .next (setCore s p (setSreg (issued (coreOf s p)) sd (x.2 (sreg (coreOf s p) sa) (sreg (coreOf s p) sb))))) ∧
  (∀ (s : State) (core : Fin 4096) (sd sa : BitVec 5) (imm : BitVec 40) (up : BitVec 24) (p : Nat),
     let c := coreOf s p
     let result (v : Word64) : Out := .next (setCore s p (setSreg (issued c) sd v))
     HasNext c →
     (Issues s core (.addi core sd sa imm) p [sa] → exec (.addi core sd sa imm) s = result (sreg c sa + imm.signExtend 64)) ∧
     (Issues s core (.andi core sd sa imm) p [sa] → exec (.andi core sd sa imm) s = result (sreg c sa &&& imm.signExtend 64)) ∧
     (Issues s core (.li core sd imm) p [] → exec (.li core sd imm) s = result (imm.signExtend 64)) ∧
     (Issues s core (.lui core sd sa up) p [sa] →
       exec (.lui core sd sa up) s = result (up ++ (sreg c sa).extractLsb' 0 40)) ∧
     (Issues s core (.rdtime core sd) p [] →
       exec (.rdtime core sd) s = .next (lateResult (setCore s p (setSreg (issued c) sd s.time.now)) core.val)) ∧
     (∀ sb, Issues s core (.mul core sd sa sb) p [sa, sb] →
       exec (.mul core sd sa sb) s = .next (lateResult (setCore s p (setSreg (issued c) sd (sreg c sa * sreg c sb))) core.val))) ∧
  (∀ (s : State) (core : Fin 4096) (p : Nat), HasNext (coreOf s p) →
     (Issues s core (.nop core) p [] → exec (.nop core) s = .next (setCore s p (issued (coreOf s p)))) ∧
     (Issues s core (.clrnum core) p [] →
       exec (.clrnum core) s = .next (setCore s p { issued (coreOf s p) with numProg := [] })))

/-- R196, R199: a branch that is taken, and a JMP, go to PC + IMM; one that is not taken, to the next instruction. The
registers, the memories and everything else are unchanged. R199, R221: where a program has no next instruction, or a branch
goes outside its code, the program ends with TP_PC_RANGE and the PC of that instruction: here for NOP and for JMP; the result
of an instruction stays (for ADD). -/
def Obligations.BranchesAndPcRange : Prop :=
  (∀ (s : State) (core : Fin 4096) (sa sb : BitVec 5) (imm : BitVec 40) (p : Nat),
     let c := coreOf s p
     let a := sreg c sa
     let b := sreg c sb
     let inside : Prop := 0 ≤ (c.pc.toNat : Int) + imm.toInt ∧ (c.pc.toNat : Int) + imm.toInt < c.codeLen
     let gone : State := setCore s p (issuedAt c (c.pc + imm.setWidth 12))
     let on : State := setCore s p (issued c)
     (Issues s core (.beq core sa sb imm) p [sa, sb] →
       (a = b → inside → exec (.beq core sa sb imm) s = .next gone) ∧ (a ≠ b → HasNext c → exec (.beq core sa sb imm) s = .next on)) ∧
     (Issues s core (.bne core sa sb imm) p [sa, sb] →
       (a ≠ b → inside → exec (.bne core sa sb imm) s = .next gone) ∧ (a = b → HasNext c → exec (.bne core sa sb imm) s = .next on)) ∧
     (Issues s core (.blt core sa sb imm) p [sa, sb] →
       (a.toInt < b.toInt → inside → exec (.blt core sa sb imm) s = .next gone) ∧
       (b.toInt ≤ a.toInt → HasNext c → exec (.blt core sa sb imm) s = .next on)) ∧
     (Issues s core (.bge core sa sb imm) p [sa, sb] →
       (b.toInt ≤ a.toInt → inside → exec (.bge core sa sb imm) s = .next gone) ∧
       (a.toInt < b.toInt → HasNext c → exec (.bge core sa sb imm) s = .next on)) ∧
     (Issues s core (.jmp core imm) p [] → inside → exec (.jmp core imm) s = .next gone)) ∧
  (∀ (s : State) (core : Fin 4096) (sd sa sb : BitVec 5) (imm : BitVec 40) (p : Nat),
     let c := coreOf s p
     let waiting : Core := { c with wait := 0, stepping := false }
     (Issues s core (.nop core) p [] → ¬ HasNext c →
       exec (.nop core) s = .next (programFault (setCore s p waiting) core.val p .tpPcRange c.pc)) ∧
     (Issues s core (.add core sd sa sb) p [sa, sb] → ¬ HasNext c →
       exec (.add core sd sa sb) s =
         .next (programFault (setCore s p (setSreg waiting sd (sreg c sa + sreg c sb))) core.val p .tpPcRange c.pc)) ∧
     (Issues s core (.jmp core imm) p [] →
       ((c.pc.toNat : Int) + imm.toInt < 0 ∨ (c.codeLen : Int) ≤ (c.pc.toNat : Int) + imm.toInt) →
       exec (.jmp core imm) s = .next (programFault (setCore s p waiting) core.val p .tpPcRange c.pc)))

/-- R196, R198: LDS reads the 8-byte word at SA + IMM into SD; STS stores SB there, and that word alone is written and its
mark cleared (R244). The address is 8-byte aligned and within 512 KiB; otherwise both end with SCALAR_ADDR_BAD. R250: while the
memories of the cluster are cleared, all four wait and nothing changes. R200: DSET
loads slot SLOT from 128 aligned bytes of the scratchpad, DGET stores it there (R244: its words are whole), each in two cycles, DBASE puts
SA into one of three 64-bit fields of the slot and DPART into the eight bytes from 0x74; the other bits stay. R15, R16, R196, R198:
RDREG puts the register at an offset of the core's own page into SD, zero at a reserved offset, and clears it where its access
is RC; an offset that is not 8-byte aligned or lies beyond 0x3F8 ends with SCALAR_ADDR_BAD. -/
def Obligations.ScratchpadSlotsAndRegisters : Prop :=
  (∀ (s : State) (core : Fin 4096) (sd sa sb : BitVec 5) (imm : BitVec 40) (p : Nat),
     let c := coreOf s p
     let a := (sreg c sa + imm.signExtend 64).toNat
     (spadClears s p = true → a % 8 = 0 → a + 8 ≤ 0x80000 →
       (Issues s core (.lds core sd sa imm) p [sa] → exec (.lds core sd sa imm) s = .next s) ∧
       (Issues s core (.sts core sa sb imm) p [sa, sb] → exec (.sts core sa sb imm) s = .next s)) ∧
     (Issues s core (.lds core sd sa imm) p [sa] → a % 8 = 0 → a + 8 ≤ 0x80000 → spadClears s p = false → HasNext c →
       Clean c.spadPoison a 8 → Clean c.spadBad a 8 →
       exec (.lds core sd sa imm) s =
         .next (lateResult (setCore s p (setSreg (issued c) sd (BitVec.ofNat 64 (leNat (mread c.spad a 8))))) core.val)) ∧
     (Issues s core (.sts core sa sb imm) p [sa, sb] → a % 8 = 0 → a + 8 ≤ 0x80000 → spadClears s p = false → HasNext c →
       exec (.sts core sa sb imm) s =
         .next (setCore s p { issued c with spad := mwrite c.spad a (leBytes 8 (sreg c sb).toNat)
                                            spadPoison := c.spadPoison.filter fun w => decide (w ≠ a / 8)
                                            spadBad := c.spadBad.filter fun w => decide (w ≠ a / 8) })) ∧
     (¬ (a % 8 = 0 ∧ a + 8 ≤ 0x80000) →
       (Issues s core (.lds core sd sa imm) p [sa] →
         exec (.lds core sd sa imm) s = .next (programFault s core.val p .scalarAddrBad c.pc)) ∧
       (Issues s core (.sts core sa sb imm) p [sa, sb] →
         exec (.sts core sa sb imm) s = .next (programFault s core.val p .scalarAddrBad c.pc)))) ∧
  (∀ (s : State) (core : Fin 4096) (slot sa : BitVec 5) (imm : BitVec 40) (plane : BitVec 2) (p : Nat),
     let c := coreOf s p
     let a := (sreg c sa + imm.signExtend 64).toNat
     let puts (lo : Nat) (v : BitVec 1024) : Prop :=
       ∀ i, i < 1024 → v.getLsbD i = if lo ≤ i ∧ i < lo + 64 then (sreg c sa).getLsbD (i - lo) else (slotRaw c slot).getLsbD i
     HasNext c →
     (spadClears s p = true → a % 128 = 0 → a + 128 ≤ 0x80000 →
       (Issues s core (.dset core slot sa imm) p [sa] → exec (.dset core slot sa imm) s = .next s) ∧
       (Issues s core (.dget core slot sa imm) p [sa] → exec (.dget core slot sa imm) s = .next s)) ∧
     (Issues s core (.dset core slot sa imm) p [sa] → a % 128 = 0 → a + 128 ≤ 0x80000 → spadClears s p = false →
       Clean c.spadPoison a 128 → Clean c.spadBad a 128 →
       exec (.dset core slot sa imm) s =
         .next (rbump (setCore s p (setSlot (issued c) slot (BitVec.ofNat 1024 (leNat (mread c.spad a 128))))) (.coreTpWait core.val) 1)) ∧
     (Issues s core (.dget core slot sa imm) p [sa] → a % 128 = 0 → a + 128 ≤ 0x80000 → spadClears s p = false →
       let left (l : List Nat) : List Nat := l.filter fun w => decide (w * 8 + 8 ≤ a ∨ a + 128 ≤ w * 8)
       exec (.dget core slot sa imm) s =
         .next (rbump (setCore s p { issued c with spad := mwrite c.spad a (leBytes 128 (slotRaw c slot).toNat)
                                                   spadPoison := left c.spadPoison, spadBad := left c.spadBad }) (.coreTpWait core.val) 1)) ∧
     (Issues s core (.dbase core slot sa plane) p [sa] → plane ≠ 3 →
       ∃ v, exec (.dbase core slot sa plane) s = .next (setCore s p (setSlot (issued c) slot v)) ∧ puts (64 * plane.toNat) v) ∧
     (Issues s core (.dpart core slot sa) p [sa] →
       ∃ v, exec (.dpart core slot sa) s = .next (setCore s p (setSlot (issued c) slot v)) ∧ puts 0x3A0 v) ∧
     (Issues s core (.dbase core slot sa 3) p [sa] →
       exec (.dbase core slot sa 3) s = .next (programFault s core.val p .illegalInsn c.pc))) ∧
  (∀ (s : State) (core : Fin 4096) (sd : BitVec 5) (imm : BitVec 40) (p : Nat), Issues s core (.rdreg core sd imm) p [] →
     let c := coreOf s p
     let ok : Prop := imm.toNat ≤ 0x3F8 ∧ imm.toNat % 8 = 0
     let quiet := setCore s p { c with wait := 0, stepping := false }
     (ok → HasNext c → regCore core.val imm.toNat = none →
       exec (.rdreg core sd imm) s = .next (lateResult (setCore s p (setSreg (issued c) sd 0)) core.val)) ∧
     (∀ r, ok → HasNext c → regCore core.val imm.toNat = some r →
       exec (.rdreg core sd imm) s =
         .next (lateResult (setCore (if (regInfo r).rc then rset s r 0 else s) p (setSreg (issued c) sd (readCoreReg quiet r))) core.val)) ∧
     (¬ ok → exec (.rdreg core sd imm) s = .next (programFault s core.val p .scalarAddrBad c.pc)))

/-! ## Instructions that are handed to a unit (spec/03 to spec/06) -/

/-- R182, R188, R190, R200: a load-unit instruction whose operands pass their checks is queued behind those of the load unit
with copies of its descriptors and its numeric control word; the PC moves on. Only the core and, for a staged movement that is
now the one running, the staging area of its cluster change. R188, R190, R203, R205: a vector instruction whose operands pass
their checks is queued behind those of the vector unit with copies of its descriptors, its numeric control word and, for VSCL,
its scalar; the PC moves on and nothing else changes. A check that fails ends the program with its status. -/
def Obligations.LoadAndVectorIssue : Prop :=
  (∀ (s : State) (core : Fin 4096) (d0 d1 d2 num : BitVec 5) (dim : BitVec 3) (mode : BitVec 2) (acc : Bool) (p : Nat),
   ∀ x ∈ [(Instr.dload core d0 d1 num, [d0, d1]), (Instr.dstore core d0 d1 num, [d0, d1]),
       (Instr.dgather core d0 d1 d2 dim mode num, [d0, d1, d2]), (Instr.dscatter core d0 d1 d2 dim mode acc num, [d0, d1, d2])],
   ∀ (kind : MoveKind) (own : Nat → Bool), moveOf x.1 = some (kind, own) →
     let c := coreOf s p
     Issues s core x.1 p [num] → c.lq.length < 9 → HasNext c →
     (moveFault (some core.val) kind own (sreg c num) (x.2.map (slotDesc c)) = none →
       ∃ t, exec x.1 s = .next t ∧ t = { s with cores := t.cores, clusters := t.clusters } ∧
         coreOf t p = { issued c with lq := c.lq ++ [queuedJob c x.1 x.2 (sreg c num) []], issued := c.issued + 1 } ∧
         (∀ q, q ≠ p → coreOf t q = coreOf s q) ∧
         (∀ k, clusterOf t k = { clusterOf s k with stageHold := (clusterOf t k).stageHold, stageWait := (clusterOf t k).stageWait }) ∧
         (∀ k, k ≠ core.val / 64 → clusterOf t k = clusterOf s k)) ∧
     (∀ st, moveFault (some core.val) kind own (sreg c num) (x.2.map (slotDesc c)) = some st →
       exec x.1 s = .next (programFault s core.val p st c.pc))) ∧
  (∀ x ∈ ([(Instr.vadd, .add, 2), (Instr.vsub, .sub, 2), (Instr.vmul, .mul, 2), (Instr.vfma, .fma, 3), (Instr.vmax, .max, 2),
       (Instr.vmin, .min, 2), (Instr.vabs, .abs, 1), (Instr.vneg, .neg, 1), (Instr.vscl, .scl, 1), (Instr.vsel, .sel, 3),
       (Instr.vcopy, .copy, 1), (Instr.vexp2, .exp2, 1), (Instr.vlog2, .log2, 1), (Instr.vrcp, .rcp, 1), (Instr.vrsqrt, .rsqrt, 1),
       (Instr.vsqrt, .sqrt, 1), (Instr.vrsum, .rsum, 1), (Instr.vrmax, .rmax, 1)] :
       List ((Fin 4096 → BitVec 5 → BitVec 5 → BitVec 5 → BitVec 5 → BitVec 5 → BitVec 4 → Instr) × VecOp × Nat)),
   ∀ (s : State) (core : Fin 4096) (d a b k num : BitVec 5) (cfmt : BitVec 4) (p : Nat),
     let i := x.1 core d a b k num cfmt
     let c := coreOf s p
     let srcs := [a, b, k].take x.2.2
     Issues s core i p (num :: if x.2.1 = .scl then [k] else []) → c.vq.length < 9 →
     (vecFault core.val x.2.1 (slotDesc c d) (srcs.map (slotDesc c)) cfmt (sreg c num) = none → HasNext c →
       exec i s = .next (setCore s p { issued c with
         vq := c.vq ++ [queuedJob c i (d :: srcs) (sreg c num) [if x.2.1 = .scl then sreg c k else 0]], issued := c.issued + 1 })) ∧
     (∀ st, vecFault core.val x.2.1 (slotDesc c d) (srcs.map (slotDesc c)) cfmt (sreg c num) = some st →
       exec i s = .next (programFault s core.val p st c.pc)))

/-- R80, R84, R123, R188, R201: an engine instruction whose operands pass their checks is queued on its engine with copies of
its descriptors, its ROWS register and its numeric control word; of its core only that engine changes. A load notes the
formats of its tile, from which R93 decides. R126, R137, R141: BE_DW becomes the last PENDING entry of the deferral list, with
copies of its operands, while the list holds fewer than 64; a full list makes it wait, which is counted. -/
def Obligations.EngineIssueAndDeferral : Prop :=
  (∀ (s : State) (core : Fin 4096) (d0 d1 d2 rows num : BitVec 5) (wf af ofmt : BitVec 4) (kext : BitVec 9) (k6 ncol : BitVec 6)
     (acc plane trn : Bool) (p : Nat),
     let c := coreOf s p
     let m := nfld (sreg c rows).toNat 0 24 + 1
     let queued (t : State) (e : Engine) (i : Instr) (slots : List (BitVec 5)) (n : Word64) (args : List Word64) (be : Bool)
         (loaded : Option (Fmt × Fmt)) : Prop :=
       OnlyCore s t p ∧
         coreOf t p = (if be then { issued c with be0 := e, dxHold := (coreOf t p).dxHold, issued := c.issued + 1 }
                       else { issued c with fe := e, issued := c.issued + 1 }) ∧
         e.loaded = loaded ∧ ∃ j ∈ e.queue, j.insn = i ∧ j.pc = c.pc ∧ j.order = c.issued ∧ j.descs = slots.map (slotRaw c) ∧
           j.num = n ∧ j.args = args
     HasNext c →
     (Issues s core (.feWload core d0 wf af kext ncol) p [] → queuedCount isLoad c.fe.queue < 4 →
       feLoadFault core.val (slotDesc c d0) wf af kext.toNat ncol.toNat = none →
       ∃ t e, exec (.feWload core d0 wf af kext ncol) s = .next t ∧
         queued t e (.feWload core d0 wf af kext ncol) [d0] (sreg c 0) [] false (some ((fmtOfCode af).getD .g16, (fmtOfCode wf).getD .g16))) ∧
     (Issues s core (.beWload core d0 wf trn k6 ncol) p [] → queuedCount isLoad c.be0.queue < 4 →
       beLoadFault core.val (slotDesc c d0) wf trn k6.toNat ncol.toNat = none →
       ∃ t e, exec (.beWload core d0 wf trn k6 ncol) s = .next t ∧
         queued t e (.beWload core d0 wf trn k6 ncol) [d0] (sreg c 0) [] true (some (.g16, (fmtOfCode wf).getD .g16))) ∧
     (Issues s core (.feStream core d0 d1 d2 rows kext ncol ofmt acc plane num) p [rows, num] → queuedCount isStream c.fe.queue < 4 →
       streamFault false core.val (tileOf c.fe plane) (slotDesc c d0) (slotDesc c d1) (slotDesc c d2) m kext.toNat ncol.toNat ofmt acc
         (sreg c num) = none →
       ∃ t e, exec (.feStream core d0 d1 d2 rows kext ncol ofmt acc plane num) s = .next t ∧
         queued t e (.feStream core d0 d1 d2 rows kext ncol ofmt acc plane num) [d0, d1, d2] (sreg c num) [sreg c rows] false
         (if plane then none else c.fe.loaded)) ∧
     (Issues s core (.beDx core d0 d1 d2 rows kext ncol ofmt acc plane num) p [rows, num] → queuedCount isStream c.be0.queue < 4 →
       c.defer.length < 64 → (c.dxHold = true → c.defer.length ≤ 48) →
       streamFault true core.val (tileOf c.be0 plane) (slotDesc c d0) (slotDesc c d1) (slotDesc c d2) m kext.toNat ncol.toNat ofmt acc
         (sreg c num) = none →
       ∃ t e, exec (.beDx core d0 d1 d2 rows kext ncol ofmt acc plane num) s = .next t ∧
         queued t e (.beDx core d0 d1 d2 rows kext ncol ofmt acc plane num) [d0, d1, d2] (sreg c num) [sreg c rows] true
         (if plane then none else c.be0.loaded))) ∧
  (∀ (s : State) (core : Fin 4096) (x : BitVec 5) (xf : BitVec 4) (g o pd rows num : BitVec 5) (xext ncol : BitVec 6) (ofmt : BitVec 4)
     (acc : Bool) (dwc : BitVec 4) (p : Nat),
     let i := Instr.beDw core x xf g o pd rows xext ncol ofmt acc num dwc
     let c := coreOf s p
     Issues s core i p [rows, num] →
     (c.defer.length < 64 → HasNext c →
       dwFault core.val (slotDesc c x) (slotDesc c g) (slotDesc c o) (slotDesc c pd) xf ofmt (nfld (sreg c rows).toNat 0 24 + 1)
         xext.toNat ncol.toNat acc (sreg c num) = none →
       exec i s = .next (setCore s p { issued c with
         defer := c.defer ++ [queuedJob c i [x, g, o, pd] (sreg c num) [sreg c rows]], issued := c.issued + 1 })) ∧
     (64 ≤ c.defer.length → ∃ t, exec i s = .next t ∧ coreOf t p = { c with wait := 4 } ∧
       rget t (.coreTpWait core) = rget s (.coreTpWait core) + 1 ∧ rget t (.coreBeCtr core 5) = rget s (.coreBeCtr core 5) + 1))

/-- R188, R190, R208: a fabric instruction whose operands pass their checks is queued outbound, or inbound for a receive and a
read, with copies of its descriptor, its numeric control word, its endpoint and its AUXREG; of the core only that queue, what
is posted and outstanding, the packet numbers and the numeric flags change (an FACC notes a non-finite element that it sends, R69), and
outside the core only the switch. R188 to R190, R210: an atomic
whose width and address pass their checks goes to the atomic port with its three scalars, and SD has its result outstanding
until it retires; the PC moves on and nothing else changes. -/
def Obligations.FabricAndAtomicIssue : Prop :=
  (∀ x ∈ ([(Instr.fsend, .send), (Instr.frecv, .recv), (Instr.fcsend, .csend), (Instr.fcrecv, .crecv), (Instr.fput, .put),
       (Instr.fget, .get), (Instr.facc, .acc), (Instr.fmsg, .msg)] :
       List ((Fin 4096 → BitVec 5 → BitVec 5 → BitVec 5 → BitVec 3 → BitVec 16 → BitVec 2 → BitVec 5 → Instr) × FabOp)),
   ∀ (s : State) (core : Fin 4096) (desc ep aux : BitVec 5) (vc : BitVec 3) (tag : BitVec 16) (mode : BitVec 2) (num : BitVec 5) (p : Nat),
     let i := x.1 core desc ep aux vc tag mode num
     let c := coreOf s p
     let q (k : Core) : List Job := if x.2 ∈ [.recv, .crecv, .get] then k.frq else k.fsq
     Issues s core i p [ep, aux, num] → (q c).length < 17 →
     (fabFault core.val x.2 (slotDesc c desc) vc mode (sreg c num) = none → HasNext c →
       ∃ t, exec i s = .next t ∧
         coreOf t p = { issued c with fsq := (coreOf t p).fsq, frq := (coreOf t p).frq, posted := (coreOf t p).posted,
                                      outst := (coreOf t p).outst, rxn := (coreOf t p).rxn, txn := (coreOf t p).txn,
                                      numProg := if x.2 = .acc then (coreOf t p).numProg else c.numProg
                                      numCmd := if x.2 = .acc then (coreOf t p).numCmd else c.numCmd
                                      issued := c.issued + 1 } ∧
         (∃ j ∈ q (coreOf t p), j.insn = i ∧ j.pc = c.pc ∧ j.order = c.issued ∧ j.descs = [slotRaw c desc] ∧ j.num = sreg c num ∧
           j.args = [sreg c ep, sreg c aux]) ∧
         t = { s with cores := t.cores, fab := t.fab } ∧ ∀ k, k ≠ p → coreOf t k = coreOf s k) ∧
     (∀ st, fabFault core.val x.2 (slotDesc c desc) vc mode (sreg c num) = some st →
       exec i s = .next (programFault s core.val p st c.pc))) ∧
  (∀ x ∈ ([(Instr.aadd, .add), (Instr.afadd, .fadd), (Instr.aswap, .swap), (Instr.acas, .cas), (Instr.amax, .max), (Instr.amin, .min)] :
       List ((Fin 4096 → BitVec 5 → BitVec 5 → BitVec 5 → BitVec 5 → BitVec 3 → Instr) × AtomOp)),
   ∀ (s : State) (core : Fin 4096) (sd sa sb sc : BitVec 5) (w : BitVec 3) (p : Nat),
     let i := x.1 core sd sa sb sc w
     let c := coreOf s p
     Issues s core i p (if x.2 = .cas then [sa, sb, sc] else [sa, sb]) → c.atq.length < 8 →
     (atomFault core.val x.2 w (sreg c sa) = none → HasNext c →
       exec i s = .next (setCore s p { issued c with
         atq := c.atq ++ [queuedJob c i [] (sreg c 0) [sreg c sa, sreg c sb, sreg c sc]]
         busy := if sd = 0 then c.busy else c.busy ++ [sd]
         issued := c.issued + 1 })) ∧
     (∀ st, atomFault core.val x.2 w (sreg c sa) = some st → exec i s = .next (programFault s core.val p st c.pc)))

/-! ## Events, drains and the end of a program (spec/06) -/

/-- R212 to R214, R334: EWAIT, LWAIT, TWAIT and DRAIN let the PC move on when what they wait for has come, and stall the core
otherwise, with the WAIT value of R223 (a TWAIT that passes at once also fires, R343,
as the model reads it: log entry 45); an EWAIT on a counter with a fault mark ends the program, one on a counter that the
partition may not use ends it with EVT_DENIED. R213, R331, R333: ESIGNAL goes into the event port, and leaves it once its
scopes have retired: its counter then rises by SB and stops at 2^64 − 1, and nothing else changes. -/
def Obligations.WaitsAndSignals : Prop :=
  (∀ (s : State) (core : Fin 4096) (sa sb : BitVec 5) (p : Nat),
     let c := coreOf s p
     let ctr := (sreg c sa).extractLsb' 0 16
     let stalled (st : Stall) (w : BitVec 3) : State := setCore s p { c with stall := some st, wait := w, stepping := false }
     (evtAllowed s c.partition.toNat ctr.toNat = true → Issues s core (.ewait core sa sb) p [sa, sb] →
       (sreg c sb ≤ evtOf s ctr.toNat → HasNext c → exec (.ewait core sa sb) s = .next (setCore s p (issued c))) ∧
       (¬ sreg c sb ≤ evtOf s ctr.toNat → evtMark s ctr.toNat = none →
         exec (.ewait core sa sb) s = .next (stalled (.ewait ctr (sreg c sb)) 1))) ∧
     (∀ e, Issues s core (.ewait core sa sb) p [sa, sb] → evtAllowed s c.partition.toNat ctr.toNat = true →
       ¬ sreg c sb ≤ evtOf s ctr.toNat → evtMark s ctr.toNat = some e →
       exec (.ewait core sa sb) s = .next (programFault (setCore s p { c with wait := 0, stepping := false }) core.val p
         (if e = .tainted then .tainted else .depFailed) c.pc)) ∧
     (Issues s core (.ewait core sa sb) p [sa, sb] → evtAllowed s c.partition.toNat ctr.toNat = false →
       exec (.ewait core sa sb) s = .next (programFault s core.val p .evtDenied c.pc)) ∧
     (∀ (k : BitVec 5) (imm : BitVec 32) (x : Word32), localCounter c k.toNat = some x →
       Issues s core (.lwait core k sb imm) p [sb] →
         ((x - ((sreg c sb).setWidth 32 + imm)).toNat < 2 ^ 31 → HasNext c → exec (.lwait core k sb imm) s = .next (setCore s p (issued c))) ∧
         (2 ^ 31 ≤ (x - ((sreg c sb).setWidth 32 + imm)).toNat →
           exec (.lwait core k sb imm) s = .next (stalled (.lwait k.toNat ((sreg c sb).setWidth 32 + imm)) 2))) ∧
     (∀ (k : BitVec 5) (imm : BitVec 32), Issues s core (.lwait core k sb imm) p [sb] → 23 ≤ k.toNat →
       exec (.lwait core k sb imm) s = .next (programFault s core.val p .illegalInsn c.pc)) ∧
     (Issues s core (.twait core sb) p [sb] →
       (sreg c sb ≤ s.time.now → HasNext c →
         exec (.twait core sb) s = .next (setCore (fireFlags s (sreg c sb).toNat).1 p (issued c))) ∧
       (s.time.now < sreg c sb → exec (.twait core sb) s = .next (stalled (.twait (sreg c sb)) 6))) ∧
     (∀ mask, Issues s core (.drain core mask) p [] →
       (scopesClear c mask c.issued = true → HasNext c → exec (.drain core mask) s = .next (setCore s p (issued c))) ∧
       (scopesClear c mask c.issued = false → exec (.drain core mask) s = .next (stalled (.drain mask) 3)))) ∧
  (∀ (s : State) (core : Fin 4096) (sa sb : BitVec 5) (mask : BitVec 8) (p : Nat),
     let c := coreOf s p
     (Issues s core (.esignal core sa sb mask) p [sa, sb] → c.evq.length < 9 → HasNext c →
       evtAllowed s c.partition.toNat ((sreg c sa).extractLsb' 0 16).toNat = true →
       exec (.esignal core sa sb mask) s = .next (setCore s p { issued c with
         evq := c.evq ++ [queuedJob c (.esignal core sa sb mask) [] (sreg c 0) [sreg c sa, sreg c sb]], issued := c.issued + 1 })) ∧
     (∀ j rest, liveCore s core = some p → c.evq = j :: rest → j.insn = .esignal core sa sb mask → scopesClear c mask j.order = true →
       ∃ t, exec (.esignalSend core) s = .next t ∧ t = { s with cores := t.cores, evt := t.evt } ∧
         coreOf t p = { c with evq := rest } ∧ (∀ q, q ≠ p → coreOf t q = coreOf s q) ∧
         (∀ k, (evtOf t k).toNat = if k = ((jobArg j 0).extractLsb' 0 16).toNat
           then min (2 ^ 64 - 1) ((evtOf s k).toNat + (jobArg j 1).toNat) else (evtOf s k).toNat)))

/-- R219, R221: a fault of a program leaves nothing of its core queued, running or posted but the atomics that have issued. With no atomic
left, the core is idle with the status and the PC, and FAULTED says whether the status is another than SUCCESS (steps 6 and 7); with
atomics left, whose location is not reached or has them wait, it keeps the status and the PC of the fault, and the last of them ends the program
so (step 5). R187, R220: a word that is no instruction ends its
program with ILLEGAL_INSN, a program that runs for its TIME_LIMIT in µs with TP_TIMEOUT, both with the PC reached. -/
def Obligations.ProgramEnds : Prop :=
  (∀ (s : State) (core p : Nat) (st : Status) (pc : BitVec 12), (coreOf s p).phase ≠ .idle → (coreOf s p).fault = none →
     let c := coreOf (programFault s core p st pc) p
     c.stall = none ∧ c.fe.queue = [] ∧ c.be0.queue = [] ∧ c.defer = [] ∧ c.run0 = [] ∧ c.run1 = [] ∧ c.vq = [] ∧ c.lq = [] ∧
     c.fsq = [] ∧ c.frq = [] ∧ c.evq = [] ∧ c.posted = [] ∧ c.outst = [] ∧
     (c.atq = [] → c.phase = .idle ∧ c.lastStatus = st ∧ (c.faulted = true ↔ st ≠ .success) ∧ c.pc = pc ∧ c.busy = [] ∧ c.fault = none) ∧
     (c.atq ≠ [] → c.phase = .ending ∧ c.fault = some (st, pc)) ∧ ((coreOf s p).atq = [] → c.atq = [])) ∧
  (∀ (s : State) (core : Fin 4096) (p : Nat) (st : Status) (pc : BitVec 12) (j : Job),
     liveCore s core = some p → (coreOf s p).fault = some (st, pc) → (coreOf s p).atq = [j] → atomReaches s core j = true →
     (∀ e, (atomJobRun s core p j).2 = some e → e.wait = false) →
     ∃ t, exec (.insnRetire core 7) s = .next t ∧ (coreOf t p).phase = .idle ∧ (coreOf t p).lastStatus = st ∧ (coreOf t p).pc = pc ∧
       (coreOf t p).atq = [] ∧ (coreOf t p).fault = none) ∧
  (∀ (s : State) (core : Fin 4096) (p : Nat),
     let c := coreOf s p
     (liveCore s core = some p → c.phase = .running → c.stall = none → c.halted = false → decodeInsn core (codeWord c) = none →
       exec (.programFault core) s = .next (programFault s core.val p .illegalInsn c.pc)) ∧
     (progCore s core = some p → c.timeLimit ≠ 0 → c.halted = false → c.startNs + 1000 * c.timeLimit.toNat ≤ s.localNs →
       exec (.tpTimeout core) s = .next (programFault s core.val p .tpTimeout c.pc)))

/-- R145, R212, R219: END ends the program with SUCCESS where nothing it issued is left, and stalls it, as ENDING, where
something is; WAIT_RELEASE ends it then. WAIT_RELEASE lets any other stall whose wait is over go on with the next instruction,
and the cycles waited, a free value (log entry 11), are counted. R217: a program starts, while its cluster's clock runs (R29), with its PC at 0, s1 to s4 holding the
argument offset, its rank, the set size and its core, every other scalar register zero, slots, counters, flags and planes
cleared, and its argument block in the scratchpad. -/
def Obligations.ProgramStartAndRelease : Prop :=
  (∀ (s : State) (core : Fin 4096) (p : Nat),
     let c := coreOf s p
     let clear : Prop := scopesClear c 0xFF c.issued = true ∧ c.evq = []
     (Issues s core (.endp core) p [] →
       (clear → ∃ t, exec (.endp core) s = .next t ∧ (coreOf t p).phase = .idle ∧ (coreOf t p).lastStatus = .success ∧
         (coreOf t p).pc = c.pc ∧ (coreOf t p).ended = true ∧ t = { s with cores := t.cores, queues := t.queues, stks := t.stks } ∧
         ParkGone s t) ∧
       (¬ clear → exec (.endp core) s = .next (setCore s p { c with
         phase := .ending, implicitDrain := c.implicitDrain || !(c.defer ++ c.run0 ++ c.run1).isEmpty, stall := some .endp, wait := 3
         stepping := false }))) ∧
     (∀ st, liveCore s core = some p → c.stall = some st → c.halted = false → stallOver s c st = true →
       (st ≠ .endp → HasNext c →
         ∃ t, exec (.waitRelease core) s = .next t ∧ coreOf t p = { c with stall := none, wait := 0, pc := c.pc + 1 } ∧
           t = { s with cores := t.cores, regs := t.regs, freeCtr := s.freeCtr + 1 } ∧
           rget t (.coreTpWait core) = rget s (.coreTpWait core) + Config.freeWord s.freeCtr ∧
           (∀ r, regOffset r ≠ regOffset (.coreTpWait core) → regOffset r ≠ regOffset (.timeCtr 1) → rget t r = rget s r) ∧
           rget t (.timeCtr 1) = match st with | .twait x => rget (fireFlags s x.toNat).1 (.timeCtr 1) | _ => rget s (.timeCtr 1)) ∧
       (st = .endp → ∃ t, exec (.waitRelease core) s = .next t ∧ (coreOf t p).phase = .idle ∧ (coreOf t p).lastStatus = .success ∧
         t = { s with cores := t.cores, queues := t.queues, stks := t.stks, regs := t.regs, freeCtr := s.freeCtr + 1 } ∧ ParkGone s t))) ∧
  (∀ (s : State) (core : Fin 4096) (p : Nat) (code args : List Byte),
     let c := coreOf s p
     let die := clusterDie (core.val / 64)
     physOf s core.val = some p → c.phase = .loading → clusterRuns s (core.val / 64) = true → NoBitErrors s →
     launchReaches s die c.codeAddr (8 * c.codeLen) = true → (c.argLen ≠ 0 → launchReaches s die c.argAddr c.argLen = true) →
     launchRead s c.codeAddr (8 * c.codeLen) = .ok code →
     (if c.argLen = 0 then .ok [] else launchRead s c.argAddr c.argLen) = .ok args →
     (spadWrite s p c.argOffset args).2 = none →
     ∃ t, exec (.programStart core) s = .next t ∧ OnlyCore s t p ∧
       (let k := coreOf t p
        k.phase = .running ∧ k.pc = 0 ∧ k.stall = none ∧ k.busy = [] ∧ k.slots = [] ∧ k.rets = [] ∧ k.dwc = [] ∧ k.numProg = [] ∧
        k.numCmd = [] ∧ k.cts = [] ∧ k.fe = {} ∧ k.be0 = {} ∧ k.defer = [] ∧ k.startNs = s.localNs ∧
        k.spad = (coreOf (spadWrite s p c.argOffset args).1 p).spad ∧
        ∀ r : BitVec 5, sreg k r = if r = 1 then BitVec.ofNat 64 c.argOffset else if r = 2 then BitVec.ofNat 64 c.rank
          else if r = 3 then BitVec.ofNat 64 c.setSize else if r = 4 then BitVec.ofNat 64 core.val else 0))

/-! ## What happens in a core by itself (spec/03, spec/04, spec/06) -/

/-- R81, R82, R123: a weight load that ends makes its tile READY with the weights of its source; a stream with SWAP exchanges
the planes and starts with that tile as soon as it is READY; behind a stream of another rate class it waits until that one has completed (R103). The
cycles of the load and of the waits, free values (log entry 11), are counted. R108, R136: an engine with nothing queued, running or loading stops its clock; nothing
else changes. R138, R139, R143: the head of the deferral list goes to BE1 when it is idle and no entry of BE0 holds it, or
else to BE0 when that is idle, runs no BE_DX and no entry of BE1 holds it. An entry whose work ends leaves its engine, and its
DWC counter advances by one. -/
def Obligations.EngineEvents : Prop :=
  (∀ (s : State) (core : Fin 4096) (p : Nat) (j : Job) (ws : List Val), liveCore s core = some p →
     let c := coreOf s p
     (c.fe.shadow.st = .loading → (c.fe.queue.find? fun j => isLoad j && decide (j.st = .started)) = some j → loadWaits c.fe.queue j = false →
       queuedCount isLoad c.fe.queue = 0 → loadWeights s core j = .ok ws →
       ∃ t, exec (.feTileReady core) s = .next t ∧ (coreOf t p).fe.shadow = { c.fe.shadow with st := .ready, elems := ws } ∧
         coreOf t p = { c with fe := (coreOf t p).fe } ∧ t = { s with cores := t.cores, regs := t.regs, freeCtr := t.freeCtr } ∧
         RegsBut s t [.coreFeCtr core.val 0, .coreFeCtr core.val 3, .coreFeCtr core.val 4]) ∧
     (c.be0.shadow.st = .loading → (c.be0.queue.find? fun j => isLoad j && decide (j.st = .started)) = some j →
       loadWaits c.be0.queue j = false → queuedCount isLoad c.be0.queue = 0 → queuedCount isStream c.be0.queue = 0 →
       loadWeights s core j = .ok ws →
       ∃ t, exec (.beTileReady core) s = .next t ∧ (coreOf t p).be0.shadow = { c.be0.shadow with st := .ready, elems := ws } ∧
         coreOf t p = { c with be0 := (coreOf t p).be0 } ∧ t = { s with cores := t.cores, regs := t.regs, freeCtr := s.freeCtr + 2 } ∧
         RegsBut s t [.coreBeCtr core.val 0, .coreBeCtr core.val 3]) ∧
     (waitingStream c.fe = some j → streamSwap j.insn = some true → tileReady c.fe = true → streaming c.fe = true →
       planeClass c.fe.active ≠ planeClass c.fe.shadow → exec (.feSwap core) s = .next s) ∧
     (waitingStream c.fe = some j → streamSwap j.insn = some true → tileReady c.fe = true →
       (streaming c.fe = true → planeClass c.fe.active = planeClass c.fe.shadow) →
       ∃ t, exec (.feSwap core) s = .next t ∧ (coreOf t p).fe.active = c.fe.shadow ∧
         (∃ x ∈ (coreOf t p).fe.queue, x = { j with st := .started, tile := some c.fe.shadow }) ∧
         coreOf t p = { c with fe := (coreOf t p).fe } ∧ OnlyCore s t p)) ∧
  (∀ (s : State) (core : Fin 4096) (p : Nat), physOf s core.val = some p →
     let c := coreOf s p
     (c.fe.queue = [] → c.fe.shadow.st ≠ .loading →
       exec (.gridClockStop core 0) s = .next (setCore s p { c with fe := { c.fe with clocked := false } })) ∧
     (c.be0.queue = [] → c.run0 = [] → c.be0.shadow.st ≠ .loading →
       exec (.gridClockStop core 1) s = .next (setCore s p { c with be0 := { c.be0 with clocked := false } })) ∧
     (c.run1 = [] → exec (.gridClockStop core 2) s = .next (setCore s p { c with be1Clocked := false }))) ∧
  (∀ (s : State) (core : Fin 4096) (p : Nat) (e : Job) (rest : List Job), liveCore s core = some p →
     let c := coreOf s p
     (c.defer = [e] → c.run1 = [] → dwHeld e c.run0 = false →
       exec (.deferralDispatch core false false) s =
         .next (setCore s p { c with defer := [], run1 := [{ e with st := .started }], be1Clocked := true })) ∧
     (c.defer = [e] → c.run1 ≠ [] → c.run0 = [] → c.be0.queue.any isStream = false → c.adapterOnly = false → dwHeld e c.run1 = false →
       exec (.deferralDispatch core false false) s =
         .next (setCore s p { c with defer := [], run0 := [{ e with st := .started }], be0 := { c.be0 with clocked := true } })) ∧
     (c.run1 = e :: rest → (dwRun s core p false e).2 = none →
       ∃ t, exec (.dwEntryDone core true) s = .next t ∧ (coreOf t p).run1 = rest ∧ (coreOf t p).defer = c.defer ∧
         ∀ k, tget (fun _ => 0) (coreOf t p).dwc k =
           tget (fun _ => 0) c.dwc k + if k = (dwParams e.insn).2.2.2 then (1 : Word32) else 0))

/-- R190, R191, R210: the oldest atomic retires: SD receives the old value and is no longer busy, the location gets the new
one and the atomic port's counter advances by one, once its die reaches the location (R20, log entry 47); the oldest vector instruction and the oldest load-unit instruction make
their writes, leave the queue and advance the counter of their unit. R183: the free staging area of a cluster goes to the
request that has waited longest; nothing else changes but the count of the wait, a free value (log entry 11). -/
def Obligations.RetirementAndStaging : Prop :=
  (∀ (s : State) (core : Fin 4096) (p : Nat) (j : Job) (rest : List Job), liveCore s core = some p →
     let c := coreOf s p
     let counts (t : State) (k : Nat) : Prop :=
       tget (fun _ => 0) (coreOf t p).rets k = tget (fun _ => 0) c.rets k + (1 : Word32)
     (∀ (op : AtomOp) (sd sa sb sc : BitVec 5) (w : BitVec 3) (n : Nat) (fm : Fmt) (bs : List Byte),
       c.atq = j :: rest → atomOf j.insn = some (op, sd, sa, sb, sc, w) → op ≠ .fadd → atomWidth op w = some (n, fm) →
       (let a := atomAddr (jobArg j 0)
        let s1 := settle s a.space a.off n
        let wr := memWrite s1 a.space (atomUnit core a) a.off (leBytes n (atomNew op n (leNat bs) (jobArg j 1).toNat (jobArg j 2).toNat))
        c.fault = none → atomReaches s core j = true → ¬ (a.space = 2 ∧ devParked s a.off = true) →
        spaceFault s a.space (atomUnit core a) a.off n = none → memRead s1 a.space (atomUnit core a) a.off n = .ok bs →
        wr.2 = none →
        ∃ t, exec (.insnRetire core 7) s = .next t ∧ sreg (coreOf t p) sd = (if sd = 0 then 0 else BitVec.ofNat 64 (leNat bs)) ∧
          (coreOf t p).atq = rest ∧ counts t 6 ∧ (coreOf t p).pc = c.pc ∧ t = { wr.1 with cores := t.cores, stks := t.stks } ∧
          ParkGone wr.1 t ∧
          ∀ q, (coreOf t q).spad = (coreOf wr.1 q).spad)) ∧
     (c.vq = j :: rest → (vecRun none s core p j).2 = none →
       ∃ t, exec (.insnRetire core 3) s = .next t ∧ (coreOf t p).vq = rest ∧ counts t 2 ∧
         t = { (vecRun none s core p j).1 with cores := t.cores, stks := t.stks } ∧ ParkGone (vecRun none s core p j).1 t ∧
         ∀ q, (coreOf t q).spad = (coreOf (vecRun none s core p j).1 q).spad) ∧
     (c.lq = [j] → (jobStaged core j = true → stageHeld s (core / 64) (.core p j.order) = true) →
       (∀ kind own, moveOf j.insn = some (kind, own) → moveEmpty kind (moveTensors core j) = true ∨
         reachesAll s (clusterDie (core / 64)) kindCopy (moveTensors core j) = true) → (loadRun none s core p j).2 = none →
       ∃ t, exec (.insnRetire core 4) s = .next t ∧ (coreOf t p).lq = [] ∧ counts t 3 ∧
         t.dev = (loadRun none s core p j).1.dev ∧ ∀ q, (coreOf t q).spad = (coreOf (loadRun none s core p j).1 q).spad)) ∧
  (∀ (s : State) (cluster : BitVec 6) (x : Stager) (rest : List Stager),
     let k := clusterOf s cluster.toNat
     k.stageHold = none → k.stageWait = x :: rest →
     ∃ t, exec (.stagingGrant cluster) s = .next t ∧ clusterOf t cluster.toNat = { k with stageHold := some x, stageWait := rest } ∧
       (∀ n, n ≠ cluster.toNat → clusterOf t n = clusterOf s n) ∧
       t = { s with clusters := t.clusters, regs := t.regs, freeCtr := s.freeCtr + 1 } ∧
       ∀ r, regOffset r ≠ regOffset (.cluCopyCtr cluster.toNat 4) → rget t r = rget s r)

/-! ## Queue commands (spec/05, spec/06, spec/10) -/

/-- R167, R171, R172, R176, R183: a COPY, GATHER or SCATTER that has started and passes its checks, whose cluster's die reaches what
it moves (R20, log entry 47), and that needs no staging area or holds it (a movement of no elements waits for neither, R166), moves its data on the copy unit of its cluster and is done with
SUCCESS: memories are what the movement leaves (moveRun). Its checks end it with their status otherwise. Its descriptors are corrected
as they are read (R263). -/
def Obligations.MoveCommands : Prop :=
  ∀ (s : State) (q : Fin 4096) (seq : Word32) (f : Flight),
  ∀ x ∈ [(1, Instr.copy q seq, MoveKind.copy, [cmdWord f.cmd 0x40, cmdWord f.cmd 0x48], cmdWord f.cmd 0x50),
      (2, Instr.gather q seq, MoveKind.gather (indexDim f.cmd) (indexMode f.cmd), indexPtrs f.cmd, cmdWord f.cmd 0x58),
      (3, Instr.scatter q seq, MoveKind.scatter (indexDim f.cmd) (indexMode f.cmd) (decide (cmdFld f.cmd 0x60 5 1 = 1)), indexPtrs f.cmd,
        cmdWord f.cmd 0x58)],
  ∀ (raws : List (BitVec 1024)) (cl : Nat),
    workOf s q.val seq x.1 = some f → f.begun = false → f.copyUnit = some cl → clusterRuns s cl = true →
    ptrDescs (ptrSettle s x.2.2.2.1) x.2.2.2.1 = .ok raws →
    (let ts := raws.map fun r => tensorOf none (parseDesc r)
     let s1 := modFlight (ptrSettle s x.2.2.2.1) q.val seq fun f => { f with begun := true, descs := raws }
     let r := moveRun none s1 (copyUnit cl) ((numCtrl x.2.2.2.2).getD ⟨0, .nearest, 1⟩) x.2.2.1 ts
     moveFault none x.2.2.1 (fun _ => false) x.2.2.2.2 (raws.map parseDesc) = none →
     (moveEmpty x.2.2.1 ts = false → reachesAll s1 (clusterDie cl) kindCopy ts = true ∧
       (moveOvl x.2.2.1 ts = .staged → stageHeld s cl (.copyUnit q.val seq) = true)) → r.err = none →
     ∃ t, exec x.2.1 s = .next t ∧ t.dev = r.st.dev ∧ t.devPoison = r.st.devPoison ∧ t.hostMem = r.st.hostMem ∧
       t.cores = r.st.cores ∧ t.clusters = r.st.clusters ∧
       (let kb : BitVec 128 := if x.2.2.1 = .copy then 0 else BitVec.ofNat 128 (idxBlockBits r.idx)
        FlightIs s t q.val seq (fun y => { ended .success y with descs := raws, num := r.num, kindBlk := kb }))) ∧
    (∀ st, moveFault none x.2.2.1 (fun _ => false) x.2.2.2.2 (raws.map parseDesc) = some st →
      ∃ t, exec x.2.1 s = .next t ∧ FlightIs s t q.val seq (ended st) ∧
        t = { ptrSettle s x.2.2.2.1 with queues := t.queues, stks := t.stks } ∧ ParkGone (ptrSettle s x.2.2.2.1) t)

/-- R216, R321: a TILE_PROGRAM whose dies serve and whose launch fields are good starts its program on every core of its set
that is present: each takes its rank, the size of the set, the launch addresses and lengths, the partition and the time limit,
and begins to load, with its planes EMPTY and the clocks of its engines stopped (R82, R108); no other core changes. R215, R222: with launch fields outside their ranges every core of the set reports PROG_BAD
at PC 0, and the command is done with the first of them as its failing core. -/
def Obligations.TileProgramLaunch : Prop :=
  ∀ (s : State) (q : Fin 4096) (seq : Word32) (f : Flight),
    workOf s q.val seq 4 = some f → f.begun = false →
    (∀ i ∈ maskClusters f.cmd, dieServes s (clusterDie i) = true) →
    (∀ a ∈ launchAddrs f.cmd, ∀ n, launchDie a = some n → dieServes s n = true) →
    (cmdFld f.cmd 0x68 32 1 = 0 → ∀ x ∈ setCores f.cmd, (physOf s x).isSome = true) →
    (progBad f.cmd = true → ∀ first rest, (setCores f.cmd).filter (fun x => (physOf s x).isSome) = first :: rest →
      ∃ t, exec (.tileProgram q seq) s = .next t ∧ t = { s with cores := t.cores, queues := t.queues } ∧
        FlightIs s t q.val seq (fun y => { y with begun := true, done := true, launched := [], failCore := some (first, .progBad, 0) }) ∧
        ∀ core ∈ first :: rest, ∀ p, physOf s core = some p →
          coreOf t p = { coreOf s p with lastStatus := .progBad, faulted := true, pc := 0, endPc := 0 }) ∧
    (progBad f.cmd = false →
     let present := (setCores f.cmd).filter fun x => (physOf s x).isSome
     present ≠ [] →
     ∃ t, exec (.tileProgram q seq) s = .next t ∧ t = { s with cores := t.cores, queues := t.queues } ∧
       (∀ rank core p, present[rank]? = some core → physOf s core = some p →
         (let k := coreOf t p
          k.phase = .loading ∧ k.rank = rank ∧ k.setSize = present.length ∧ k.cmdQueue = q.val ∧ k.cmdSeq = f.cmd.seq ∧
          k.codeAddr = cmdWord f.cmd 0x40 ∧ k.codeLen = cmdFld f.cmd 0x60 0 13 ∧ k.argAddr = cmdWord f.cmd 0x48 ∧
          k.argLen = cmdFld f.cmd 0x60 13 13 ∧ k.argOffset = 64 * cmdFld f.cmd 0x60 26 13 ∧ k.fe = {} ∧ k.be0 = {} ∧ k.be1Clocked = false ∧
          k.timeLimit = BitVec.ofNat 32 (cmdFld f.cmd 0x68 0 32) ∧ k.spad = (coreOf s p).spad)) ∧
       (∀ p, (∀ core ∈ present, physOf s core ≠ some p) → coreOf t p = coreOf s p))

/-- R320, R325, R334: a FENCE that has started completes at once; a WAIT_EVENT that has started completes once its waits hold, with
DEP_FAILED or TAINTED where one that does not hold is on a marked counter, and with EVT_TIMEOUT after its TIMEOUT. R320, R342, R343: a
SIGNAL_EVENT applies every valid one of its four entries, adding or raising, in order (log entry 21), and completes; a TIME_WAIT
completes once cluster time has reached AT, with the flags of that instant, which a forward step may have passed over. R331, R333, R334: the advances that meet at a counter in one cycle add first,
stopping at 2^64 − 1, and then raise it to the largest of their values; the driver clears a fault mark. No other counter or
mark changes. -/
def Obligations.EventCommands : Prop :=
  (∀ (s : State) (q : Fin 4096) (seq : Word32) (f : Flight),
     let pending (w : Nat) : Prop := evtOf s (waitCtr f.cmd w) < waitVal f.cmd w
     (workOf s q.val seq 7 = some f →
       ∃ t, exec (.fence q seq) s = .next t ∧ FlightEnds s t q.val seq (ended .success) ∧ t = { s with queues := t.queues, stks := t.stks }) ∧
     (workOf s q.val seq 8 = some f → (∀ w, w < cmdNwait f.cmd → ¬ pending w) →
       ∃ t, exec (.waitEvent q seq) s = .next t ∧ FlightEnds s t q.val seq (ended .success) ∧ t = { s with queues := t.queues, stks := t.stks }) ∧
     (∀ w e, workOf s q.val seq 8 = some f → w < cmdNwait f.cmd → pending w → evtMark s (waitCtr f.cmd w) = some e →
       (∀ v, v < w → pending v → evtMark s (waitCtr f.cmd v) = none) →
       ∃ t, exec (.waitEvent q seq) s = .next t ∧ FlightEnds s t q.val seq (ended (if e = .tainted then .tainted else .depFailed)) ∧
         t = { s with queues := t.queues, stks := t.stks }) ∧
     (∀ w, workOf s q.val seq 8 = some f → w < cmdNwait f.cmd → pending w → cmdFld f.cmd 0x40 0 32 ≠ 0 →
       f.startNs + 1000 * cmdFld f.cmd 0x40 0 32 ≤ s.localNs →
       ∃ t, exec (.evtTimeout q seq) s = .next t ∧ FlightEnds s t q.val seq (ended .evtTimeout) ∧
         t = { s with queues := t.queues, stks := t.stks })) ∧
  (∀ (s : State) (q : Fin 4096) (seq : Word32) (f : Flight),
     (workOf s q.val seq 9 = some f →
       ∃ t, exec (.signalEvent q seq) s = .next t ∧ FlightEnds s t q.val seq (ended .success) ∧
         t = { s with queues := t.queues, evt := t.evt, stks := t.stks } ∧
         ∀ k, (evtOf t k).toNat = (upto 0 4).foldl (fun v e =>
           let x := cmdWord f.cmd (0x48 + 16 * e)
           if cmdFld f.cmd (0x40 + 16 * e) 17 1 = 0 ∨ cmdFld f.cmd (0x40 + 16 * e) 0 16 ≠ k then v
           else if cmdFld f.cmd (0x40 + 16 * e) 16 1 = 1 then max v x.toNat
           else min (2 ^ 64 - 1) (v + x.toNat)) (evtOf s k).toNat) ∧
     (workOf s q.val seq 0xA = some f → cmdWord f.cmd 0x40 ≤ s.time.now →
       ∃ t, exec (.timeWait q seq) s = .next t ∧ t = { s with queues := t.queues, regs := t.regs, stks := t.stks } ∧
         FlightEnds s t q.val seq (fun y => { ended .success y with timeFlags := y.timeFlags |||
           ((if s.time.st = .holdover then 1 else 0) + (if s.time.st = .free ∨ s.time.st = .unsync then 2 else 0)
             + (if s.time.stepped = true ∨ ∃ x ∈ s.time.steps, x.1 < (cmdWord f.cmd 0x40).toNat ∧ (cmdWord f.cmd 0x40).toNat ≤ x.2
                then 4 else 0)) }) ∧
         rget t (.timeCtr 1) = rget s (.timeCtr 1) + (if s.time.st = .free ∨ s.time.st = .unsync then 1 else 0) ∧
         RegsBut s t [.timeCtr 1])) ∧
  (∀ (s : State) (ctr : Half) (adds raises : List Word64),
     (∃ t, exec (.eventAdvance ctr adds raises) s = .next t ∧ t = { s with evt := t.evt } ∧
       ∀ k, (evtOf t k).toNat = if k = ctr.toNat
         then (raises.map (·.toNat)).foldl max (min (2 ^ 64 - 1) ((evtOf s k).toNat + (adds.map (·.toNat)).sum))
         else (evtOf s k).toNat) ∧
     (∃ t, exec (.evtFaultClear ctr) s = .next t ∧ t = { s with evtFault := t.evtFault } ∧
       ∀ k, evtMark t k = if k = ctr.toNat then none else evtMark s k))

/-! ## Configuration transactions (spec/17) -/

/-- R551, R552, R556: BEGIN of the administrator's partition opens a transaction; WRITE overlays a good list on its shadow;
COMMIT begins to wait, at once or for its instant; ABORT discards the transaction. Each completes with SUCCESS but COMMIT,
which has no record yet. -/
def Obligations.ConfigTransactions : Prop :=
  ∀ (s : State) (q : Fin 4096) (seq : Word32) (f : Flight), adminBad s q.val = false →
    (cfgWork s q.val seq 0 = some f → s.cfg.txn = none →
      ∃ t, exec (.cfgTxnBegin q seq) s = .next t ∧ t = { s with queues := t.queues, stks := t.stks, cfg := { s.cfg with
          txn := some { id := BitVec.ofNat 32 (cmdFld f.cmd 0x48 0 32), shadow := [], lastNs := s.localNs } } } ∧
        FlightEnds s t q.val seq (fun x => { ended .success x with kindBlk := 0xFFFFFFFF })) ∧
    (∀ (x : Txn) (bs : List Byte) (es : List CfgEntry), NoBitErrors s → cfgWork s q.val seq 1 = some f → s.cfg.txn = some x → x.id.toNat = cmdFld f.cmd 0x48 0 32 → s.cfg.commit = none →
      hdRead s (ptrHost (cmdWord f.cmd 0x50)) (ptrAddr (cmdWord f.cmd 0x50) 7) (32 * cmdFld f.cmd 0x58 0 13) = .ok bs →
      listEntries bs = es.map (fun e => (e, true)) → (es.foldl stageEntry x.shadow).length ≤ 4096 →
      ∃ t, exec (.cfgTxnWrite q seq) s = .next t ∧ t = { s with queues := t.queues, stks := t.stks, cfg := { s.cfg with
          txn := some { x with shadow := es.foldl stageEntry x.shadow, lastNs := s.localNs } } } ∧
        FlightEnds s t q.val seq (fun y => { ended .success y with
          kindBlk := BitVec.ofNat 128 (0xFFFFFFFF + (es.foldl stageEntry x.shadow).length * 2 ^ 48) })) ∧
    (∀ x, cfgWork s q.val seq 2 = some f → s.cfg.txn = some x → x.id.toNat = cmdFld f.cmd 0x48 0 32 → s.cfg.commit = none →
      ∃ t, exec (.cfgTxnCommit q seq) s = .next t ∧ t = { s with queues := t.queues, cfg := { s.cfg with
          txn := some { x with lastNs := s.localNs }
          commit := some { q := q.val, seq := seq, holdNs := if cmdFld f.cmd 0x40 3 1 = 1 then none else some s.localNs } } } ∧
        FlightIs s t q.val seq (fun y => { y with begun := true })) ∧
    (∀ x, cfgWork s q.val seq 3 = some f → s.cfg.txn = some x → x.id.toNat = cmdFld f.cmd 0x48 0 32 → s.cfg.commit = none →
      ∃ t, exec (.cfgTxnAbort q seq) s = .next t ∧ t = { s with queues := t.queues, stks := t.stks, cfg := { s.cfg with txn := none } } ∧
        FlightEnds s t q.val seq (fun y => { ended .success y with kindBlk := 0xFFFFFFFF }))

/-- R553, R557 to R560: a COMMIT whose apply points are reached and whose checks pass puts every entry of its shadow into its
register, and closes the transaction; one that is not applied within QUIESCE_LIMIT fails with CFG_QUIESCE_TIMEOUT and leaves
the transaction open; a transaction that idles for IDLE_ABORT seconds is discarded; a COMMIT with AT begins its holds at that
instant; PERSIST writes the losing bank of the configuration pair (where its image fits). These are the registers whose new value leads
to nothing else (R553 step 4) and the fields of access RW-S; R332: a new owner of a counter group sets its counters to 0 and clears their
marks. R557, R558: a write of the staged bits of a register
outside a transaction whose checks pass applies at once where its apply point is reached, and is held in the pending shadow
where it is not; a pending write applies once its point is reached. -/
def Obligations.ConfigApplication : Prop :=
  (∀ (s : State) (m : Commit) (x : Txn) (f : Flight), s.cfg.commit = some m → s.cfg.txn = some x → flightOf s m.q m.seq = some f →
     (m.holdNs ≠ none → m.applied = false → allReached s x.shadow = true → commitCheck s x.shadow = none →
       (x.shadow.map (·.off)).Nodup →
       (∀ e ∈ x.shadow, ∃ r, regAt e.off = some r ∧ regOffset r = e.off ∧ plainReg r = true ∧ e.mask &&& ~~~rwsBits r = 0) →
       s.cfg.pend = [] → cmdFld f.cmd 0x40 2 1 = 0 →
       ∃ t, exec .cfgCommitApply s = .next t ∧ t.cfg.txn = none ∧ t.cfg.commit = none ∧
         (∀ e ∈ x.shadow, ∀ r, regAt e.off = some r → regOffset r ≠ regOffset (.cfgCtr 0) → regOffset r ≠ regOffset (.cfgCtr 2) →
           rget t r = (rget s r &&& ~~~e.mask) ||| (e.value &&& e.mask)) ∧
         (∃ y ∈ (queueOf t m.q).flight, y.cmd = f.cmd ∧ y.done = true ∧ y.status = .success) ∧
         t = { s with regs := t.regs, queues := t.queues, stks := t.stks, cfg := t.cfg, sec := t.sec, freeCtr := s.freeCtr + 1 } ∧
         ParkGone s t) ∧
     (∀ h, m.holdNs = some h → m.applied = false → allReached s x.shadow = false →
       h + 1000 * max 1 (rfld s .cfgCtrl 0 32) ≤ s.localNs →
       ∃ t, exec .cfgQuiesceTimeout s = .next t ∧ t.cfg = { s.cfg with commit := none } ∧
         FlightEnds s t m.q m.seq (fun y => { ended .cfgQuiesceTimeout y with
           kindBlk := BitVec.ofNat 128 (0xFFFFFFFF + x.shadow.length * 2 ^ 48) }) ∧
         rget t (.cfgCtr 1) = rget s (.cfgCtr 1) + 1 ∧ RegsBut s t [.cfgCtr 1] ∧
         t = { s with regs := t.regs, queues := t.queues, stks := t.stks, cfg := t.cfg }) ∧
     (rfld s .cfgCtrl 40 16 ≠ 0 → x.lastNs + rfld s .cfgCtrl 40 16 * 10 ^ 9 ≤ s.localNs →
       ∃ t, exec .cfgIdleAbort s = .next t ∧ t.cfg.txn = none ∧ (m.applied = false → t.cfg.commit = none) ∧
         t = { s with regs := t.regs, queues := t.queues, stks := t.stks, cfg := t.cfg } ∧ ParkGone s t) ∧
     (m.holdNs = none → cmdWord f.cmd 0x50 ≤ s.time.now →
       ∃ t, exec (.timedActionFire .commit) s = .next t ∧ t.cfg = { s.cfg with commit := some { m with holdNs := some s.localNs } } ∧
         t = { s with regs := t.regs, queues := t.queues, cfg := t.cfg }) ∧
     (m.applied = true → (persistBank s).len ≤ bankSize 2 - 0x1000 →
       ∃ t b, exec (.cfgPersist true) s = .next t ∧ t.cfg = { s.cfg with commit := none } ∧
         flashBank t (2 + loser (flashWinner s 2)) = some b ∧ b.list = persistList s ∧ rget t (.cfgCtr 4) = rget s (.cfgCtr 4) + 1)) ∧
  (∀ (s : State) (off : BitVec 28) (mask value : Word64) (r : Reg), cfgReg off.toNat = some r → regOffset r = off.toNat →
     plainReg r = true →
     (let e : CfgEntry := { off := off.toNat, mask := mask &&& rwsBits r, value := value &&& (mask &&& rwsBits r) }
      e.mask ≠ 0 → shadowOf s.cfg.pend off.toNat = none → commitCheck s [e] = none →
       (applyPoint s r = true →
         ∃ t, exec (.directWrite off mask value) s = .next t ∧ rget t r = (rget s r &&& ~~~e.mask) ||| (value &&& e.mask) ∧
           RegsBut s t [r] ∧ t = { s with regs := t.regs, sec := t.sec, cfg := t.cfg, freeCtr := s.freeCtr + 1 }) ∧
       (applyPoint s r = false → s.cfg.pend.length < 256 →
         exec (.directWrite off mask value) s = .next { s with cfg := { s.cfg with pend := s.cfg.pend ++ [e] } })) ∧
     (∀ e, shadowOf s.cfg.pend off.toNat = some e → e.mask &&& ~~~rwsBits r = 0 → applyPoint s r = true → commitCheck
         { s with cfg := { s.cfg with pend := s.cfg.pend.filter fun x => decide (x.off ≠ off.toNat) } } [e] = none →
       ∃ t, exec (.pendingApply off) s = .next t ∧ rget t r = (rget s r &&& ~~~e.mask) ||| (e.value &&& e.mask) ∧ RegsBut s t [r] ∧
         t.cfg = { s.cfg with pend := s.cfg.pend.filter fun x => decide (x.off ≠ off.toNat) } ∧
         t = { s with regs := t.regs, sec := t.sec, cfg := t.cfg, freeCtr := s.freeCtr + 1 })) ∧
  (∀ (s : State) (g : Fin 256) (off : BitVec 28) (mask value : Word64), cfgReg off.toNat = some (.evtOwner g) →
     (let e : CfgEntry := { off := off.toNat, mask := mask &&& rwsBits (.evtOwner g), value := value &&& (mask &&& rwsBits (.evtOwner g)) }
      e.mask ≠ 0 → shadowOf s.cfg.pend off.toNat = none → commitCheck s [e] = none →
      ∃ t, exec (.directWrite off mask value) s = .next t ∧
        rget t (.evtOwner g) = (rget s (.evtOwner g) &&& ~~~e.mask) ||| (value &&& e.mask) ∧ RegsBut s t [.evtOwner g] ∧
        t = { s with regs := t.regs, sec := t.sec, cfg := t.cfg, evt := t.evt, evtFault := t.evtFault, freeCtr := s.freeCtr + 1 } ∧
        ∀ k, (if rfld t (.evtOwner g) 0 9 ≠ rfld s (.evtOwner g) 0 9 ∧ k / 256 = g.val then evtOf t k = 0 ∧ evtMark t k = none
              else evtOf t k = evtOf s k ∧ evtMark t k = evtMark s k)))

/-! ## The queue engine and the event unit (spec/10) -/

/-- R313 to R315, R328: a wake or a poll of an enabled queue reads TAIL from its line, and records up to a ring beyond F are
new work; a wake that finds TAIL unchanged is counted, also where its read had to wait; enabling a DISABLED queue and resuming a STOPPED one do the same and
the queue runs, or is FAILED where a die of its partition is out of service (R329). R328, R658: disabling a queue drops what has not started, F going back to the first of it; with nothing in
flight it is DISABLED at once. -/
def Obligations.QueueControl : Prop :=
  (∀ (s : State) (q : Fin 4096) (tail : Word32),
     let k := queueOf s q.val
     let page (k : Queue) : Queue := { k with tail := tail, wake := false, woken := false, lineHeld := tailCoherent s q.val }
     NoBitErrors s → readTail s q.val = .ok tail → (tail - qFetch s q.val).toNat ≤ qSize s q.val → k.disabling = false →
     (k.state ≠ .disabled → k.cancelAsked = false → (k.lineHeld = true ∨ k.wake = true) →
       (k.lineHeld = true ∨ k.woken = true → tail ≠ k.tail) → exec (.tailWake q) s = .next (setQueue s q.val (page k))) ∧
     (k.state ≠ .disabled → k.cancelAsked = false → tail = k.tail →
       (k.lineHeld = true → exec (.tailWake q) s = .next (rset s .cqSpurious (rget s .cqSpurious + 1))) ∧
       (k.lineHeld = false → k.wake = true → k.woken = true →
         exec (.tailWake q) s = .next (rset (setQueue s q.val (page k)) .cqSpurious (rget s .cqSpurious + 1)))) ∧
     (k.state ≠ .disabled → (rbit s (.cqCtrl q.val) 1 = true ∨ tailCoherent s q.val = false) →
       k.pollNs + 1000 * max 1 (rfld s .cqPollCtrl 0 16) ≤ s.localNs →
       exec (.tailPoll q) s = .next (setQueue s q.val (page { k with pollNs := s.localNs }))) ∧
     (k.state = .stopped → k.cancelTo = none → k.cancelAsked = false → exec (.resume q) s = .next (setQueue s q.val (page { k with state := .running }))) ∧
     (k.state = .disabled →
       ∃ t, exec (.queueEnable q) s = .next t ∧ t = { s with queues := t.queues, regs := t.regs } ∧
         queueOf t q.val = page { k with
           state := if ∃ n : Fin 4, partOnDie s (qPart s q.val) n.val = true ∧ dieServes s n.val = false then .failed else .running
           pollNs := s.localNs } ∧ (∀ n, n ≠ q.val → queueOf t n = queueOf s n) ∧
         rbit t (.cqCtrl q.val) 0 = true ∧ RegsBut s t [.cqCtrl q.val])) ∧
  (∀ (s : State) (q : Fin 4096), (queueOf s q.val).state ≠ .disabled →
     let k := queueOf s q.val
     ∃ t, exec (.queueDisable q) s = .next t ∧ (queueOf t q.val).queued = [] ∧ rbit t (.cqCtrl q.val) 0 = false ∧
       (k.flight = [] → (queueOf t q.val).state = .disabled) ∧ (k.flight ≠ [] → (queueOf t q.val).disabling = true) ∧
       (∀ c rest, k.queued = c :: rest → qFetch t q.val = c.seq) ∧ (k.queued = [] → qFetch t q.val = qFetch s q.val) ∧
       (queueOf t q.val).flight = k.flight ∧ (∀ n, n ≠ q.val → queueOf t n = queueOf s n) ∧
       RegsBut s t [.cqCtrl q.val, .cqFetch q.val] ∧ t = { s with queues := t.queues, regs := t.regs })

/-- R315, R316, R319, R657: the engine copies the record of slot F mod the ring's size and advances F; a record at the head
that fails a check becomes a command that completes with that status and does not run; a cancel completes every fetched
command that has not started with CANCELLED. R321 to R323: the command at the head of a queue whose start conditions hold, and
that comes first among the queues that need the same resource, starts: it is in flight with its cores reserved, and a movement
takes the copy unit of its cluster. R403, R408, R438: a COLLECTIVE takes its place in the seal table, a reduction with CUM 1 its turn to claim
slots, and CUM_SVT_BASE is read as the command starts. -/
def Obligations.FetchAndStart : Prop :=
  (∀ (s : State) (q : Fin 4096) (bs : List Byte) (c : CmdRec) (rest : List CmdRec) (st : Status) (tail : Word32),
     let k := queueOf s q.val
     let f := qFetch s q.val
     let never (st : Status) (c : CmdRec) : Flight :=
       { cmd := c, started := false, done := true, status := st, startNs := s.localNs, kindBlk := kindStart c }
     (NoBitErrors s → k.state = .running → k.disabling = false → k.cancelTo = none → f ≠ k.tail → k.queued.length < 32 → queuedTotal s < 16384 →
       ringRead s q.val (f.toNat % qSize s q.val * 128) 128 = .ok bs →
       ∃ t, exec (.commandFetch q) s = .next t ∧
         queueOf t q.val = { k with queued := k.queued ++ [{ seq := f, raw := BitVec.ofNat 1024 (leNat bs) }] } ∧
         (∀ n, n ≠ q.val → queueOf t n = queueOf s n) ∧ qFetch t q.val = f + 1 ∧ RegsBut s t [.cqFetch q.val] ∧
         t = { s with queues := t.queues, regs := t.regs }) ∧
     (k.queued = c :: rest → k.state = .running → k.disabling = false → (∀ x ∈ k.flight, x.started = true) →
       headFault s q.val c = some st →
       exec (.commandCheck q) s = .next (setQueue s q.val { k with queued := rest, flight := k.flight ++ [never st c] })) ∧
     (NoBitErrors s → k.state = .stopped → k.disabling = false → k.cancelTo = none → readTail s q.val = .ok tail → (tail - f).toNat ≤ qSize s q.val → tail ≠ f →
       exec (.cancel q) s =
         .next (setQueue s q.val { k with queued := [], flight := k.flight ++ k.queued.map (never .cancelled), cancelTo := some tail, tail := tail
                                          cancelAsked := false, wake := false, woken := false, lineHeld := tailCoherent s q.val }))) ∧
  (∀ (s : State) (q : Fin 4096) (c : CmdRec), canStart s q.val = some c → startsFirst s q.val c = true →
     let k := queueOf s q.val
     let moves : Prop := 1 ≤ cmdKind c ∧ cmdKind c ≤ 3
     ∃ t g, exec (.commandStart q) s = .next t ∧ t.lastGrant = q.val ∧
       queueOf t q.val = { k with queued := k.queued.drop 1, flight := k.flight ++ [g] } ∧ (∀ n, n ≠ q.val → queueOf t n = queueOf s n) ∧
       g.svt = rget s .cumSvtBase ∧ (cmdKind c ≠ 5 → t.coll = s.coll) ∧
       (cmdKind c = 5 → t.coll.entries.Sublist s.coll.entries ∧ t.coll.colls.Sublist s.coll.colls ∧
         t.coll = { s.coll with entries := t.coll.entries, colls := t.coll.colls
                                starts := if wantsClaim c then claimsDue s ++ [(q.val, c.seq)] else s.coll.starts }) ∧
       g.cmd = c ∧ g.started = true ∧ g.begun = false ∧ g.done = false ∧ g.startNs = s.localNs ∧
       g.launched.map (·.1) = neededCores s c ∧
       (moves → g.copyUnit = some (qCopy s q.val) ∧ (clusterOf t (qCopy s q.val)).copyCmd = some (q.val, c.seq)) ∧
       (¬ moves → g.copyUnit = none ∧ t.clusters = s.clusters) ∧
       t = { s with queues := t.queues, clusters := t.clusters, lastGrant := t.lastGrant, regs := t.regs, coll := t.coll })

/-- R324, R326, R327: the oldest command of a queue, done with SUCCESS, applies its signals, and then its 64-byte record is
written to slot SEQ mod the ring's size of the completion ring; it is no longer in flight and CQ_COMPLETED counts it. -/
def Obligations.CommandFinishes : Prop :=
  ∀ (s : State) (q : Fin 4096) (seq : Word32) (f : Flight) (rest : List Flight),
    let k := queueOf s q.val
    k.flight = f :: rest → f.cmd.seq = seq → f.done = true → f.signalled = false → flightStatus f = .success → k.shut = false →
    k.disabling = false → stewardsHalted s f.cmd = false → collOf s q.val seq = none → cmdNsig f.cmd = 1 → cmdFld f.cmd 0 10 1 = 0 →
    (∀ g ∈ rest, g.cmd.seq ≠ seq) →
    (let w := hdWrite (finishWork s q.val f) (ptrHost (rget s (.cqCompl q.val)))
        (ptrAddr (rget s (.cqCompl q.val)) 12 + seq.toNat % qSize s q.val * 64)
        (completionBytes (finishWork s q.val f) { f with signalled := true, launched := [] })
     w.2 = none →
      ∃ t, exec (.commandFinish q seq) s = .next t ∧ (queueOf t q.val).flight = rest ∧ (queueOf t q.val).state = k.state ∧
        t.dev = w.1.dev ∧ t.hostMem = w.1.hostMem ∧
        rget t (.cqCompleted q.val) = ((rget s (.cqCompleted q.val)).extractLsb' 0 32 + 1).setWidth 64 ∧
        (∀ n, (evtOf t n).toNat = if n = sigCtr f.cmd 0 then min (2 ^ 64 - 1) ((evtOf s n).toNat + sigInc f.cmd 0) else (evtOf s n).toNat))

/-! ## Cluster time (spec/10) -/

/-- R337 to R341, R347: at an expected edge with both references good the value due applies: a difference above 1 ms forward steps,
and the actions that the step passes over fire; one above 5 ns slews, a smaller one leaves cluster time. Losing a reference in LOCKED or
SLEWING (TIMEPPS: two edges missed) begins HOLDOVER, which ends in UNSYNC after 10 s; eight good edges make both good again; a second
without a message sets EPOCH_STALE. R338, R347: on the master a written multiple of 1,000,000 becomes the time of the next edge, and each
millisecond, at least 500 µs before the edge it names, one TIME packet goes out along tree 0; on another package a message of its
MASTER_NODE sets the next edge, and one that names a past edge is discarded and counted. What the payload of a message holds is the
model's choice (log entry 12). -/
def Obligations.ClusterTime : Prop :=
  (∀ (s : State) (v : Word64),
     let t0 := s.time
     let diff : Int := (v.toNat : Int) - t0.now.toNat
     (∀ k, t0.refOk = true → t0.ppsOk = true → t0.nextEdge = some v → edgeExpected s = (true, k) →
       let edge : TimeUnit := { t0 with edgeNs := some s.localNs, nextEdge := none
                                        goodEdges := if k = 1 then min 8 (t0.goodEdges + 1) else 1 }
       (1000000 < diff → ∃ u, exec (.timeppsEdge true) s = .next (firePassed u t0.now.toNat) ∧
         u = { s with time := u.time, regs := u.regs, gov := { s.gov with lastEnd := max s.gov.lastEnd v.toNat } } ∧
         u.time = { edge with now := v, st := .locked, slew := 0, stepped := true, steps := t0.steps ++ [(t0.now.toNat, v.toNat)] } ∧
         rget u (.timeCtr 2) = rget s (.timeCtr 2) + 1 ∧ RegsBut s u [.timeCtr 2]) ∧
       (diff ≤ 1000000 → 5 < diff.natAbs →
         exec (.timeppsEdge true) s = .next { s with time := { edge with st := .slewing, slew := diff } }) ∧
       (diff.natAbs ≤ 5 → exec (.timeppsEdge true) s = .next { s with time := { edge with st := .locked, slew := 0 } })) ∧
     (∀ pps : Bool, (if pps then t0.ppsOk else t0.refOk) = true → (pps = true → edgesMissed s = true) →
       (t0.st = .locked ∨ t0.st = .slewing) →
       ∃ t, exec (.timeRefLost pps) s = .next t ∧ t.time.nextEdge = none ∧ t.time.st = .holdover ∧ t.time.lossNs = s.localNs ∧ t.time.lossBound = errBound s ∧
         t.time.now = t0.now ∧ t.time.goodEdges = 0 ∧ t.time.ppsOk = (t0.ppsOk && !pps) ∧ t.time.refOk = (t0.refOk && pps) ∧
         rget t (.timeCtr 3) = rget s (.timeCtr 3) + 1) ∧
     (8 ≤ t0.goodEdges → ¬ (t0.refOk = true ∧ t0.ppsOk = true) →
       exec .timeRefReturn s = .next { s with time := { t0 with refOk := true, ppsOk := true, nextEdge := none } }) ∧
     (t0.st = .holdover → t0.lossNs + 10 ^ 10 ≤ s.localNs → exec .holdoverExpiry s = .next { s with time := { t0 with st := .unsync } }) ∧
     (t0.epochStale = false → t0.lastMsgNs + 10 ^ 9 ≤ s.localNs → exec .epochStale s = .next { s with time := { t0 with epochStale := true } })) ∧
  (∀ (s : State) (v : Word64) (n : Nat) (x : InPkt),
     (rbit s .timeCtrl 0 = true → v.toNat % 1000000 = 0 →
       ∃ t, exec (.timeSet v) s = .next t ∧ t.time = { s.time with nextEdge := some v, masterBound := 0 } ∧ rget t .timeSet = v ∧
         RegsBut s t [.timeSet] ∧ t = { s with time := t.time, regs := t.regs }) ∧
     (let edge := match s.time.nextEdge with
          | some w => w.toNat
          | none => (nearestMs (s.time.now + BitVec.ofNat 64 (edgeIn s))).toNat
      rbit s .timeCtrl 0 = true → s.time.msgMs ≠ edge / 1000000 → 500000 ≤ edgeIn s →
       ∃ t y, exec .timeMessageSend s = .next t ∧ t.time = { s.time with msgMs := edge / 1000000 } ∧
         t.fab = { s.fab with sw := s.fab.sw ++ [y] } ∧ y.port = none ∧ y.pkt.ptype = 0x0B ∧ y.pkt.bcast = true ∧ y.pkt.btree = 0 ∧
         y.pkt.hops = 15 ∧ y.pkt.srcNode = ownNode s ∧ y.pkt.payload = timePayload edge (errBound s) ∧
         t = { s with time := t.time, fab := t.fab }) ∧
     (rbit s .timeCtrl 0 = false → arrivedAt s n 0x0B = some x → x.pkt.srcNode.toNat = rfld s .timeCtrl 48 16 →
       leNat x.pkt.payload % 2 ^ 64 < s.time.now.toNat →
       exec (.time n) s = .next (rset (takeArrived s n) (.timeCtr 0) (rget (takeArrived s n) (.timeCtr 0) + 1))) ∧
     (rbit s .timeCtrl 0 = false → arrivedAt s n 0x0B = some x → x.pkt.srcNode.toNat = rfld s .timeCtrl 48 16 →
       s.time.now.toNat ≤ leNat x.pkt.payload % 2 ^ 64 →
       ∃ t, exec (.time n) s = .next t ∧ t.fab = (takeArrived s n).fab ∧ t = { s with time := t.time, fab := t.fab } ∧
         t.time = { s.time with nextEdge := some (BitVec.ofNat 64 (leNat x.pkt.payload)), lastMsgNs := s.localNs, epochStale := false,
                                masterBound := leNat x.pkt.payload / 2 ^ 64 % 2 ^ 64 }))

/-! ## On-chip memory (spec/07) -/

/-- R232 to R237, R250, R256: in a cycle of a scratchpad's bank a core-class request comes before a DMA-class one, and of two of the core
class the one earlier in the fixed order, whichever is asked first; a request for another line is refused and counted, a refused engine
counts its stall too (R110), and a DMA-class wait grows, of which the longest is kept. Reads of one line and its first write are granted
together, requests to different banks do not meet, and a clearing grants nothing. R234: a bank of a cluster memory grants the cores and
the steward round-robin after the one granted last. R242, R243, R245: a corrected word of a cluster memory is counted and its contents
stay; a patrolled line counts every word it corrects and nothing else changes of the memory; a word it finds uncorrectable is poisoned,
noted and recorded. -/
def Obligations.OnChipBanks : Prop :=
  (∀ (s : State) (unit : BitVec 13) (a b l : Nat), logicalOf s unit.toNat = some l → unit.toNat / 66 < 64 →
     clusterRuns s (unit.toNat / 66) = true → a ≠ b →
     let u := unit.toNat
     let c := coreOf s u
     let order : List BankUnit := [.sequencer, .atomicPort, .fe, .be0, .be1, .vector, .loadUnit, .fabric]
     let quiet := setCore s u { c with dmaWaiting := false }
     ((clusterOf s (u / 66)).clearing = false → a % 16 = b % 16 →
       (∀ x ∈ order, ∀ id : Nat, ∀ reqs ∈ [[BankReq.mk x a false, ⟨.dma id, b, false⟩], [⟨.dma id, b, false⟩, ⟨x, a, false⟩]],
         ∀ core dma, core ++ dma = reqs → ∃ t, exec (.bankGrant true unit core dma) s = .next t ∧
           coreOf t u = { c with dmaWaiting := true, dmaWaits := (coreOf t u).dmaWaits } ∧ (∀ q, q ≠ u → coreOf t q = coreOf s q) ∧
           (∀ k, tget (fun _ => 0) (coreOf t u).dmaWaits k = tget (fun _ => 0) c.dmaWaits k + if k = id then 1 else 0) ∧
           rget t (.coreSpadDmaWait l) = rget s (.coreSpadDmaWait l) + 1 ∧
           (let longest := ((coreOf t u).dmaWaits.map (·.2)).foldl max 0
            (rget t (.coreSpadDmaMax l)).toNat =
              if (rget s (.coreSpadDmaMax l)).toNat < longest then longest % 2 ^ 64 else (rget s (.coreSpadDmaMax l)).toNat) ∧
           RegsBut s t [.coreSpadDmaWait l, .coreSpadDmaMax l] ∧ t = { s with cores := t.cores, regs := t.regs }) ∧
       (∀ (i j : Nat) (x y : BankUnit), i < j → order[i]? = some x → order[j]? = some y → c.dmaWaits = [] →
         ∀ reqs ∈ [[BankReq.mk x a false, ⟨y, b, true⟩], [⟨y, b, true⟩, ⟨x, a, false⟩]],
         ∀ core dma, core ++ dma = reqs → ∃ t, exec (.bankGrant true unit core dma) s = .next t ∧ coreOf t u = { c with dmaWaiting := false } ∧
           rget t (.coreSpadConflict l) = rget s (.coreSpadConflict l) + 1 ∧
           rget t (.coreFeCtr l 3) = rget s (.coreFeCtr l 3) + (if y = .fe then 1 else 0) ∧
           rget t (.coreBeCtr l 3) = rget s (.coreBeCtr l 3) + (if y = .be0 then 1 else 0) ∧
           rget t (.coreBeCtr l 4) = rget s (.coreBeCtr l 4) + (if y = .be1 then 1 else 0) ∧
           RegsBut s t [.coreSpadConflict l, .coreFeCtr l 3, .coreBeCtr l 3, .coreBeCtr l 4] ∧ t = { s with cores := t.cores, regs := t.regs })) ∧
     ((clusterOf s (u / 66)).clearing = false → c.dmaWaits = [] → ∀ x ∈ order, ∀ y ∈ order, ∀ id : Nat,
       exec (.bankGrant true unit [⟨x, a, false⟩, ⟨x, a, true⟩] [⟨.dma id, a, false⟩]) s = .next quiet ∧
       (a % 16 ≠ b % 16 → exec (.bankGrant true unit [⟨x, a, false⟩, ⟨y, b, true⟩] []) s = .next quiet)) ∧
     ((clusterOf s (u / 66)).clearing = true → c.dmaWaits = [] →
       exec (.bankGrant true unit [⟨.sequencer, a, false⟩] []) s =
         .next (rset quiet (.coreSpadConflict l) (rget quiet (.coreSpadConflict l) + 1)))) ∧
  (∀ (s : State) (unit : BitVec 13) (a b : Nat) (i j : Fin 64), unit.toNat < 64 → clusterRuns s unit.toNat = true → a ≠ b →
     let k := clusterOf s unit.toNat
     let bank (x : Nat) : Nat := x % (if k.half then 32 else 64)
     let last := tget (fun _ => 64) k.rr (bank a)
     let turn (x : Nat) : Nat := (x + 64 - last) % 65
     k.clearing = false → bank a = bank b → turn i < turn j →
     ∀ reqs ∈ [[BankReq.mk (.core i) a false, ⟨.core j, b, false⟩], [⟨.core j, b, false⟩, ⟨.core i, a, false⟩]],
     ∀ core dma, core ++ dma = reqs → ∃ t, exec (.bankGrant false unit core dma) s = .next t ∧ tget (fun _ => 64) (clusterOf t unit.toNat).rr (bank a) = i ∧
       (∀ x, x ≠ bank a → tget (fun _ => 64) (clusterOf t unit.toNat).rr x = tget (fun _ => 64) k.rr x) ∧
       (clusterOf t unit.toNat).cmem = k.cmem ∧ t = { s with clusters := t.clusters, regs := t.regs }) ∧
  (∀ (s : State) (c : BitVec 13) (w : BitVec 20) (line : BitVec 17), c.toNat < 64 → sramServes s false c.toNat = true →
     let k := clusterOf s c.toNat
     let clean (w : Nat) : Prop := w ∉ k.cmemPoison ∧ w ∉ k.cmemBad
     (w.toNat * 8 < 0x800000 → clean w.toNat →
       ∃ t, exec (.eccWriteback false c w) s = .next t ∧ rget t (.cluCmemEcc c.toNat) = rget s (.cluCmemEcc c.toNat) + 1 ∧
         RegsBut s t [.cluCmemEcc c.toNat] ∧ (clusterOf t c.toNat).cmem = k.cmem ∧
         (clusterOf t c.toNat).cmemPoison = k.cmemPoison ∧ t = { s with clusters := t.clusters, regs := t.regs }) ∧
     (∀ a b : BitVec 3, line.toNat * 64 < 0x800000 → (∀ i, i < 8 → clean (8 * line.toNat + i)) →
       (a ≠ b → ∃ t, exec (.sramPatrol false c line { bad := [(a, false), (b, false)] }) s = .next t ∧
         rget t (.cluCmemEcc c.toNat) = rget s (.cluCmemEcc c.toNat) + 2 ∧ RegsBut s t [.cluCmemEcc c.toNat] ∧
         (clusterOf t c.toNat).cmem = k.cmem ∧ t = { s with clusters := t.clusters, regs := t.regs }) ∧
       (let w := 8 * line.toNat + a.toNat
        ∃ t, exec (.sramPatrol false c line { bad := [(a, true)] }) s = .next t ∧ (∀ x, x ∈ (clusterOf t c.toNat).cmemPoison ↔ x = w ∨ x ∈ k.cmemPoison) ∧
         (clusterOf t c.toNat).cmem = k.cmem ∧ rbit t (.cluCmemUe c.toNat) 63 = true ∧
         Recorded s t .cmemUncorrectable (resource 0x03 (66 * c.toNat + physBank k (cmemBank k.half w))) 0)))

/-- R247, R249, R250 to R252: a bank that is due is copied to the first spare, and then the spare serves its logical number, and the words that the copy
found uncorrectable are poisoned (R243); a clearing empties the scratchpads, code buffers and cluster memory of its cluster with every poison mark, and those alone; a
requested clearing waits until the cluster is idle. R253: the steward of a cluster loads, stores and makes AMOs on its cluster
memory at natural alignment; LR and SC take an access fault. -/
def Obligations.ClearingAndStewards : Prop :=
  (∀ (s : State) (cl : BitVec 6) (b sp : Nat) (rest : List Nat),
     let c := cl.toNat
     let k := clusterOf s c
     let cleared (t : State) : Prop :=
       (clusterOf t c).cmem = [] ∧ (clusterOf t c).cmemPoison = [] ∧ (clusterOf t c).cmemBad = [] ∧
       (∀ p, 66 * c ≤ p → p < 66 * c + 66 → (coreOf t p).spad = [] ∧ (coreOf t p).spadPoison = [] ∧ (coreOf t p).spadBad = [] ∧
         (coreOf t p).code = [] ∧
         (coreOf t p).sregs = (coreOf s p).sregs) ∧
       (∀ p, p < 66 * c ∨ 66 * c + 66 ≤ p → coreOf t p = coreOf s p) ∧ (∀ n, n ≠ c → clusterOf t n = clusterOf s n) ∧
       t = { s with cores := t.cores, clusters := t.clusters }
     (∀ follow later, k.dues = (b, follow) :: later → k.half = false → k.migrating = none → cmemSpares k = sp :: rest →
       sramServes s false c = true → exec (.cmemBankMigrate cl) s = .next (setCluster s c { k with migrating := some (b, sp) })) ∧
     (k.migrating = some (b, sp) → sramServes s false c = true →
       ∃ t, exec (.cmemBankMigrated cl) s = .next t ∧ tget (fun x => x) (clusterOf t c).bankMap b = sp ∧
         (∀ x, x ≠ b → tget (fun x => x) (clusterOf t c).bankMap x = tget (fun x => x) k.bankMap x) ∧ (clusterOf t c).cmem = k.cmem ∧
         (∀ w, w ∈ (clusterOf t c).cmemPoison ↔ w ∈ k.cmemPoison ∨ (w ∈ k.cmemBad ∧ cmemBank k.half w = b)) ∧
         (clusterOf t c).migrating = none) ∧
     (k.clearing = true →
       (∃ t, exec (.clusterClear cl) s = .next t ∧ cleared t ∧ (clusterOf t c).clearing = true) ∧
       (cluOff s c = false → s.gov.flow ≠ .lost → ∃ t, exec (.clusterClearDone cl) s = .next t ∧ cleared t ∧ (clusterOf t c).clearing = false)) ∧
     (dieServes s (clusterDie c) = true →
       (clusterIdle s c = true →
         ∃ t, exec (.clear cl) s = .next t ∧ cleared t ∧ (clusterOf t c).clearReq = true ∧ (clusterOf t c).clearing = true) ∧
       (clusterIdle s c = false → exec (.clear cl) s = .next (setCluster s c { k with clearReq := true })))) ∧
  (∀ (s : State) (cl : BitVec 6) (off : BitVec 25) (n : BitVec 2) (v : Word64) (fn : AmoFn) (wide : Bool),
     let c := cl.toNat
     let k := clusterOf s c
     let a := off.toNat
     let len := 2 ^ n.toNat
     let w := if wide then 8 else 4
     k.stewardOut = false → clusterRuns s c = true → k.clearing = false → k.half = false → k.cmemPoison = [] → k.cmemBad = [] →
     (a % len = 0 → a + len ≤ 0x800000 →
       (exec (.stewardCmemAccess cl off (.load n)) s =
         .next (setCluster s c { k with stewardData := BitVec.ofNat 64 (leNat (mread k.cmem a len)), lastFault := none })) ∧
       (exec (.stewardCmemAccess cl off (.store n v)) s =
         .next (setCluster s c { k with cmem := mwrite k.cmem a (leBytes len v.toNat), lastFault := none }))) ∧
     (a % w = 0 → a + w ≤ 0x800000 →
       exec (.stewardCmemAccess cl off (.amo fn wide v)) s =
         .next (setCluster s c { k with cmem := mwrite k.cmem a (leBytes w (amoNew fn (8 * w) (leNat (mread k.cmem a w)) v.toNat)),
                                        stewardData := BitVec.ofNat 64 (leNat (mread k.cmem a w)), lastFault := none })) ∧
     (exec (.stewardCmemAccess cl off .lr) s = .next (setCluster s c { k with lastFault := some 5 })) ∧
     (exec (.stewardCmemAccess cl off .sc) s = .next (setCluster s c { k with lastFault := some 7 })))

/-! ## Memory stacks (spec/08) -/

/-- R258, R263, R271: a word request to a stack that can be accessed, on a word that is neither poisoned nor parked, while no bit error
stands in device memory: a read returns the word's 32 bytes, those of a holding slot where the word lies in one's block of the holding
region (R278); a write changes the bytes under its byte enables and no other byte of device memory. R262, R263, R265: a read that
finds one bad symbol returns the corrected bytes, writes the word back and is counted for the stack and the channel; at 1,024
corrections of a channel in 24 hours it becomes due. -/
def Obligations.StackWords : Prop :=
  ∀ (s : State) (word : BitVec 36) (mask : BitVec 32) (data : BitVec 256),
    let w := word.toNat
    let n := devStack (32 * w)
    let k := stackOf s n
    let c := physChan k (devChan k.half (32 * w))
    devParked s (32 * w) = false → devPoisoned s w = false →
    (devFault s false w = none → NoBitErrors s →
      exec (.stackRequest word .read) s =
        .next (setStack s n { k with lastRead := BitVec.ofNat 256 (leNat (match slotAt s (32 * w) with
          | some x => mread x.data (32 * w % 4096) 32
          | none => mread s.dev (32 * w) 32)) })) ∧
    (devFault s false w = none → slotAt s (32 * w) = none → devPattern s w ≠ 0 → rsFound (devPattern s w) = .corrected →
      rsLeft (devPattern s w) = 0 →
      let due := (noteCorr k.corr s.time.now.toNat c 86400000000000 1024).2
      ∃ t, exec (.stackRequest word .read) s = .next t ∧
        (stackOf t n).lastRead = BitVec.ofNat 256 (leNat (mread s.dev (32 * w) 32)) ∧ devPattern t w = 0 ∧
        t.dev = s.dev ∧ t.devPoison = s.devPoison ∧ rget t (.memEcc n) = rget s (.memEcc n) + 1 ∧
        rget t (.memChCorr n c) = rget s (.memChCorr n c) + 1 ∧
        (due = false → RegsBut s t [.memEcc n, .memChCorr n c] ∧ (stackOf t n).due = k.due) ∧
        (due = true → k.due = none → spareFree k = true → (stackOf t n).due = some (devChan k.half (32 * w)))) ∧
    (devFault s true w = none → NoBitErrors s →
      ∃ t, exec (.stackRequest word (.write mask data)) s = .next t ∧ t = { s with dev := t.dev, devPoison := t.devPoison } ∧
        (∀ x, devPoisoned t x = devPoisoned s x) ∧
        ∀ a, mget t.dev a = if a / 32 = w ∧ mask.getLsbD (a % 32) = true then (leBytes 32 data.toNat).getD (a % 32) 0 else mget s.dev a)

/-- R270 to R273, R283: an accumulating write adds its enabled elements to a word that can be accessed and leaves the others;
the word has the newest entry of its channel's merge buffer and the add is counted. A written-back or flushed entry leaves the
buffer, the oldest first and 2 µs after its last add; contents do not change. R264: a patrol reads the next word of its
channel and counts a whole pass; a corrected word is counted for its stack and its channel; an uncorrectable one is poisoned, its
address kept in MEM_UE_ADDR and a record written (R263). INTERVAL 0 stops the patrol, so it is not 0 here. R510: it waits while the host holds
the line of the word. The bits that have gone bad are an operand of the patrol (log entry 41). -/
def Obligations.AccumulationAndPatrol : Prop :=
  (∀ (s : State) (word : BitVec 36) (f32 : Bool) (mask : BitVec 16) (data : BitVec 256) (mode : RoundMode) (stack : BitVec 5) (e : MergeEntry),
     (let w := word.toNat
      let n := devStack (32 * w)
      let f := if f32 then Fmt.f32 else .g16
      let m := if f32 then mask.toNat % 256 else mask.toNat
      devParked s (32 * w) = false → devPoisoned s w = false → devFault s true w = none → NoBitErrors s →
      ∃ t, exec (.accumulatingWrite word f32 mask data mode) s = .next t ∧
        mread t.dev (32 * w) 32 = (accBytes mode f m (mread s.dev (32 * w) 32) (leBytes 32 data.toNat)).flatMap (·.1) ∧
        (∀ a, a / 32 ≠ w → mget t.dev a = mget s.dev a) ∧
        (stackOf t n).merge.getLast? = some { word := w, chan := devChan (stackOf s n).half (32 * w), lastNs := s.localNs } ∧
        rget t (.memAccWords n) = rget s (.memAccWords n) + 1 ∧ RegsBut s t [.memAccWords n, .memMergeHits n]) ∧
     (exec (.flush stack) s = .next (setStack s stack.toNat { stackOf s stack.toNat with merge := [] })) ∧
     ((stackOf s stack.toNat).merge = [e] → e.lastNs + 2000 ≤ s.localNs →
       exec (.mergeWriteback stack) s = .next (setStack s stack.toNat { stackOf s stack.toNat with merge := [] }))) ∧
  (∀ (s : State) (stack ch : BitVec 5),
     let n := stack.toNat
     let k := stackOf s n
     let i := tget (fun _ => 0) k.patrolPos ch.toNat
     let h := chanWord n false ch.toNat i
     let c := physChan k ch.toNat
     k.ready = true → dieServes s (n / 8) = true → rfld s (.memPatrol n) 0 20 ≠ 0 → k.half = false → NoBitErrors s →
     devPoisoned s h = false →
     (s.host.snoop.contains (h / 2) = true → exec (.stackPatrol stack ch []) s = .next s) ∧
     (s.host.snoop.contains (h / 2) = false → i + 1 < 67108864 →
       exec (.stackPatrol stack ch []) s = .next (setStack s n { k with patrolPos := tset (fun _ => 0) k.patrolPos ch.toNat (i + 1) })) ∧
     (s.host.snoop.contains (h / 2) = false → 67108864 ≤ i + 1 →
       ∃ t, exec (.stackPatrol stack ch []) s = .next t ∧ tget (fun _ => 0) (stackOf t n).patrolPos ch.toNat = 0 ∧
         rget t (.memPatrolPasses n) = rget s (.memPatrolPasses n) + 1 ∧ RegsBut s t [.memPatrolPasses n] ∧ t.dev = s.dev) ∧
     (∀ (w : BitVec 36) (p : BitVec 288), s.host.snoop.contains (h / 2) = false → w.toNat = h → i + 1 < 67108864 → k.merge = [] → devStack (32 * h) = n →
       devChan false (32 * h) = ch.toNat → devParked s (32 * h) = false → devDead s h = false → slotAt s (32 * h) = none →
       (rsFound p = .corrected → rsLeft p = 0 →
         ∃ t, exec (.stackPatrol stack ch [(w, p)]) s = .next t ∧ rget t (.memEcc n) = rget s (.memEcc n) + 1 ∧
           rget t (.memChCorr n c) = rget s (.memChCorr n c) + 1 ∧ t.dev = s.dev ∧ t.devPoison = s.devPoison ∧ devPattern t h = 0) ∧
       (rsFound p = .uncorrectable → chanPoison s n ch.toNat < 16 →
         ∃ t, exec (.stackPatrol stack ch [(w, p)]) s = .next t ∧ devPoisoned t h = true ∧ t.dev = s.dev ∧
           rbit t (.memUe n) 63 = true ∧ Recorded s t .memUncorrectable (resource 0x04 (33 * n + c)) 0)))

/-- R266, R267: the copy of a due channel goes to the spare, and CH32 then serves its logical number; when a channel's
interface fails with the spare unused, CH32 takes the number at once and every word of the channel is poisoned. R275, R278,
R279, R281: a trained stack of a lost die enters self-refresh with its contents; a write to a parked block without a slot
takes a FREE one set to +0, which one the spec does not say (log entry 5), and waits behind the requests that wait already; the head of the
park queue leaves it when a slot is FREE, and fails with HOLD_OVERRUN once it has
waited for TIMEOUT. -/
def Obligations.SparingAndParking : Prop :=
  (∀ (s : State) (stack : BitVec 5) (chan : BitVec 6) (ch : Nat),
     let n := stack.toNat
     let k := stackOf s n
     (k.due = some ch → k.ready = true → spareFree k = true → k.migrating = none →
       exec (.channelSpareCopy stack) s = .next (setStack s n { k with migrating := some ch })) ∧
     (k.migrating = some ch → k.ready = true →
       ∃ t, exec (.channelSpared stack) s = .next t ∧ (stackOf t n).spareUsed = true ∧ (stackOf t n).spareFor = ch ∧
         (stackOf t n).migrating = none ∧ ch ∈ (stackOf t n).failedCh ∧
         (NoBitErrors s → t.dev = s.dev ∧ t.devPoison = s.devPoison)) ∧
     (chan.toNat < 32 → k.half = false → spareFree k = true → chan.toNat ∉ k.failedCh →
       ∃ t, exec (.channelInterfaceFail stack chan) s = .next t ∧ (stackOf t n).spareUsed = true ∧ (stackOf t n).spareFor = chan.toNat ∧
         physChan (stackOf t n) chan.toNat = 32 ∧ t.dev = s.dev ∧
         (∀ w, devStack (32 * w) = n → devChan false (32 * w) = chan.toNat → devPoisoned t w = true) ∧
         ∀ w, devStack (32 * w) ≠ n → devPoisoned t w = devPoisoned s w)) ∧
  (∀ (s : State) (stack : BitVec 5) (word : BitVec 36) (data : BitVec 256) (r : ParkReq) (rest : List ParkReq) (core order : Nat),
     let n := stack.toNat
     let k := stackOf s n
     (k.ready = true → (dieOf s (n / 8)).st = .out →
       exec (.selfRefreshEntry stack) s = .next (setStack s n { k with merge := [], ready := false, selfRefresh := true, kept := true })) ∧
     (let a := 32 * word.toNat
      let m := devStack a
      devParked s a = true → slotOf s a = none → (stackOf s m).slots.length < 65536 → devFault s true word.toNat = none → parkHeld s m = false →
      (stackOf s m).deadCh = [] → NoBitErrors s →
      ((stackOf s m).parkQ ≠ [] → (stackOf s m).parkQ.length < 64 →
        exec (.parkSlotFill word 0xFFFFFFFF data) s = .next (setStack s m { stackOf s m with parkQ := (stackOf s m).parkQ ++
          [{ addr := word.toNat, accFmt := none, mask := 0xFFFFFFFF, data := leBytes 32 data.toNat, sinceNs := s.localNs }] })) ∧
      ((stackOf s m).parkQ = [] → ∃ t i, exec (.parkSlotFill word 0xFFFFFFFF data) s = .next t ∧ i < 65536 ∧ (∀ x ∈ (stackOf s m).slots, x.idx ≠ i) ∧
        (stackOf t m).slots =
          (stackOf s m).slots ++ [{ tag := a / 4096, idx := i, data := mwrite [] (a % 4096) (leBytes 32 data.toNat) }] ∧
        t.dev = s.dev ∧ RegsBut s t [.memParkPeak m] ∧
        t = { s with stks := t.stks, regs := t.regs, devPoison := t.devPoison, freeCtr := s.freeCtr + 1 })) ∧
     (k.parkQ = r :: rest → r.origin = some (core, order) →
       (devParked s (32 * r.addr) = false ∨ (∃ x, slotOf s (32 * r.addr) = some x ∧ x.updating = false) →
         ∃ t, exec (.parkQueueGrant stack) s = .next t ∧ stackOf t n = { k with parkQ := rest } ∧ (∀ m, m ≠ n → stackOf t m = stackOf s m) ∧
           t = { s with stks := t.stks }) ∧
       (devParked s (32 * r.addr) = true → devStack (32 * r.addr) = n → slotOf s (32 * r.addr) = none → k.slots.length < 65536 →
         parkHeld s n = false →
         ∃ t i, exec (.parkQueueGrant stack) s = .next t ∧ i < 65536 ∧ (∀ x ∈ k.slots, x.idx ≠ i) ∧
           stackOf t n = { k with parkQ := rest, slots := k.slots ++ [{ tag := 32 * r.addr / 4096, idx := i }] } ∧
           (∀ m, m ≠ n → stackOf t m = stackOf s m) ∧ RegsBut s t [.memParkPeak n] ∧
           t = { s with stks := t.stks, regs := t.regs, devPoison := t.devPoison, devErrs := t.devErrs, freeCtr := s.freeCtr + 1 }) ∧
       ((∃ x, slotOf s (32 * r.addr) = some x ∧ x.updating = true) → devParked s (32 * r.addr) = true →
         exec (.parkQueueGrant stack) s = .next s) ∧
       (cmdOrigin ≤ core → core < collOrigin → rfld s (.memPark n) 0 32 ≠ 0 → r.sinceNs + 1000 * rfld s (.memPark n) 0 32 < s.localNs →
         ∃ t, exec (.holdOverrun stack) s = .next t ∧ (stackOf t n).parkQ.Sublist rest ∧
           FlightEnds s t (core - cmdOrigin) (BitVec.ofNat 32 order) (ended .holdOverrun) ∧
           t = { s with stks := t.stks, queues := t.queues })))

/-! ## Update units (spec/09) -/

/-- R286, R289, R291, R410: an UPDATE whose group is good and whose reduction is sealed, or that names none, enters every unit
whose stack holds blocks of it, from its first own block to its last; with SEAL_REF unknown for SEAL_WAIT µs it fails. R291,
R299: the five steps of a device-tier block: it is dispatched with the unit's next own block; its record is written (step 2)
and committed (step 3); the new state goes in place (step 4); it is retired, counted, and reported to its command (step 5).
Only one block moves at a step, and none before the writes of its last step are acknowledged: a write that waits keeps the step waiting, and
one that is not applied keeps the block from step 5 (which block then moves is log entry 50). A block that its stamp skips leaves with the clear of its gradients, and is counted and reported too
(R294). A block is dispatched while a journal record is FREE (R303) and none of its gradient block is unretired (R291). -/
def Obligations.UpdateBlocks : Prop :=
  (∀ (s : State) (q : Fin 4096) (seq : Word32) (f : Flight) (raw : BitVec 1024), workOf s q.val seq 6 = some f → f.begun = false →
     f.descs = [raw] →
     (let first := cmdFld f.cmd 0x50 0 32
      let count := cmdFld f.cmd 0x50 32 32
      groupFault s (groupOf raw) first count = none → count ≠ 0 → cmdWord f.cmd 0x58 = 0 →
      (∀ n, n < 32 → (nextOwn (groupOf raw) n first (first + count)).isSome → unitServes s n = true) →
      ((groupOf raw).tier = true → ∀ n, ∀ x ∈ (stackOf s n).slots, x.fetch ≠ .failed) →
      ∃ t, exec (.update q seq) s = .next t ∧ t = { s with queues := t.queues, upds := t.upds } ∧
        (∀ n i, n < 32 → nextOwn (groupOf raw) n first (first + count) = some i →
          ∃ x ∈ (updOf t n).tasks, x.q = q.val ∧ x.seq = seq ∧ x.group = raw ∧ x.next = i ∧ x.last = first + count ∧
            x.step = BitVec.ofNat 32 (cmdFld f.cmd 0x48 0 32) ∧ x.key = f.startNs) ∧
        (∀ n, (32 ≤ n ∨ nextOwn (groupOf raw) n first (first + count) = none) → updOf t n = updOf s n) ∧
        FlightIs s t q.val seq (fun y => { y with begun := true })) ∧
     (cmdWord f.cmd 0x58 ≠ 0 → entryOf s (cmdWord f.cmd 0x58) = none → f.tried + 1000 * max 1 (rfld s .cumCtrl 32 32) ≤ s.localNs →
       ∃ t, exec (.collRefUnknown q seq) s = .next t ∧ FlightEnds s t q.val seq (ended .collRefUnknown) ∧
         t = { s with queues := t.queues, stks := t.stks })) ∧
  (∀ (s : State) (stack : BitVec 5) (b : UpdBlock) (bs : List UpdBlock),
     let n := stack.toNat
     let u := updOf s n
     unitServes s n = true →
     (∀ (x : UpdTask) (rest : List UpdTask) (i : Nat) (ps : List (Nat × List Byte)), u.tasks = x :: rest → (groupOf x.group).tier = false →
       (groupOf x.group).stamp = false → nextOwn (groupOf x.group) n x.next x.last = some i → u.blocks = [] →
       (freeRecord s n).isSome → recordOpen s n (pieceAddr (groupOf x.group) 0 i) = false → NoBitErrors s →
       readPieces s (groupOf x.group) i (0 :: pieces (groupOf x.group)) = .ok ps → (∀ y ∈ rest, ¬ (y.q = x.q ∧ y.seq = x.seq)) →
       ∃ t c, exec (.updBlockDispatch stack) s = .next t ∧ t = { s with upds := t.upds } ∧ (∀ m, m ≠ n → updOf t m = updOf s m) ∧
         updOf t n = { u with tasks := { x with next := i + 8 } :: rest, blocks := [c] } ∧ c.q = x.q ∧ c.seq = x.seq ∧ c.index = i ∧
         c.step = .dispatched ∧ c.skip = false ∧ c.gAddr = pieceAddr (groupOf x.group) 0 i ∧
         c.writes = (updBlock (groupOf x.group) n i x.step (pieceOf ps 0) (pieceOf ps)).out.map (fun y => (pieceAddr (groupOf x.group) y.1 i, y.2))) ∧
     (u.blocks = b :: bs → b.step = .dispatched → ∀ r, freeRecord s n = some r →
       (let b' := { b with step := .written, journalRec := some r, recSeq := u.nextSeq }
        (localPut s n (recBase s n r) (commitWord b' 1 (recCrc b') ++ headerTail b' ++ b'.payload)).2 = none) →
       ∃ t, exec (.updJournalWrite stack) s = .next t ∧ t.queues = s.queues ∧
         updOf t n = { u with nextSeq := u.nextSeq + 1, ringPos := (r + 1) % 4096,
                              blocks := { b with step := .written, journalRec := some r, recSeq := u.nextSeq } :: bs }) ∧
     (u.blocks = b :: bs → b.step = .written → b.slow = false → (setCommit s n b 2).2 = none →
       ∃ t, exec (.updCommit stack) s = .next t ∧ updOf t n = { u with blocks := { b with step := .committed } :: bs } ∧
         t.queues = s.queues) ∧
     (u.blocks = b :: bs → b.step = .committed → b.slow = false → b.skip = false →
       (memWrites 2 0 (b.writes ++ if b.gradClear then [(b.gAddr, List.replicate 4096 0)] else []) s).2 = none →
       ∃ t, exec (.updInPlace stack) s = .next t ∧ updOf t n = { u with blocks := { b with step := .inPlace } :: bs } ∧
         t.dev = (memWrites 2 0 (b.writes ++ if b.gradClear then [(b.gAddr, List.replicate 4096 0)] else []) s).1.dev ∧ t.queues = s.queues) ∧
     (u.blocks = b :: bs → b.step = .committed → b.slow = false → b.skip = true →
       (memWrites 2 0 (b.writes ++ if b.gradClear then [(b.gAddr, List.replicate 4096 0)] else []) s).2 = none →
       ∃ t, exec (.updInPlace stack) s = .next t ∧ updOf t n = { u with blocks := bs } ∧ rget t (.updCtr n 1) = rget s (.updCtr n 1) + 1 ∧
         t.dev = (memWrites 2 0 (b.writes ++ if b.gradClear then [(b.gAddr, List.replicate 4096 0)] else []) s).1.dev ∧
         ∀ f, flightOf s b.q b.seq = some f → ∃ g, flightOf t b.q b.seq = some g ∧ g.cmd = f.cmd ∧ g.progress = f.progress + 1) ∧
     (∀ e, u.blocks = b :: bs → b.step = .committed → b.slow = false →
       (memWrites 2 0 (b.writes ++ if b.gradClear then [(b.gAddr, List.replicate 4096 0)] else []) s).2 = some e →
       (e.wait = true → exec (.updInPlace stack) s = .next s) ∧
       (e.wait = false → ∃ t, exec (.updInPlace stack) s = .next t ∧ updOf t n = { u with blocks := bs ++ [b] } ∧
         t.dev = (memWrites 2 0 (b.writes ++ if b.gradClear then [(b.gAddr, List.replicate 4096 0)] else []) s).1.dev)) ∧
     (u.blocks = b :: bs → b.step = .inPlace → b.slow = false → b.skip = false → (setCommit s n b 0).2 = none →
       ∃ t, exec (.updRetire stack) s = .next t ∧ updOf t n = { u with blocks := bs } ∧ rget t (.updCtr n 0) = rget s (.updCtr n 0) + 1 ∧
         rget t (.updCtr n 7) = rget s (.updCtr n 7) + BitVec.ofNat 64 b.large.length ∧
         ∀ f, flightOf s b.q b.seq = some f → ∃ g, flightOf t b.q b.seq = some g ∧ g.cmd = f.cmd ∧ g.progress = f.progress + 1))

/-- R298, R300 to R302: a stack that returns with its contents and with no record to recover, whose next record number stands above all that
its journal holds, and one that starts without its
contents, serve again; the second has no slots, nothing in its merge buffer, and no stored byte. A committed slow-tier record
is replayed and counted once the host link is up. R304, R305: the oldest queued fetch that a started UPDATE names begins; the
oldest fetch under way arrives with its bytes and is counted, or fails, as the command says (R514), and its slot stays; failed slots
are released on request. -/
def Obligations.JournalAndSlowTier : Prop :=
  (∀ (s : State) (stack : BitVec 5) (r : Nat) (rest : List Nat),
     let n := stack.toNat
     let s1 := setUpd s n { updOf s n with nextSeq := seqAfter s n }
     (((updOf s n).recovering = true → dieCalled s (n / 8) = false → recoveryHeld s n = false → recoveryOrder s n = [] → NoBitErrors s →
       exec (.journalRecovery stack) s = .next (setUpd (setStack s1 n { stackOf s n with ready := true, selfRefresh := false, kept := false }) n
         { updOf s n with nextSeq := seqAfter s n, ready := true, recovering := false, journalInit := false })) ∧
     ((updOf s n).journalInit = true →
       ∃ t, exec (.journalInit stack) s = .next t ∧ (stackOf t n).ready = true ∧ (stackOf t n).slots = [] ∧ (stackOf t n).merge = [] ∧
         (stackOf t n).parkQ = [] ∧ (updOf t n).ready = true ∧ (updOf t n).journalInit = false ∧
         (∀ a, devStack a = n → mget t.dev a = 0) ∧ ∀ a, devStack a ≠ n → mget t.dev a = mget s.dev a) ∧
     ((updOf s n).slowReplay = r :: rest → unitServes s n = true → hostServes s = true → s.host.snoop = [] →
       ∃ t, exec (.slowReplay stack) s = .next t ∧ (updOf t n).slowReplay = rest ∧ rget t (.updCtr n 2) = rget s (.updCtr n 2) + 1))) ∧
  (∀ (s : State) (stack : BitVec 5) (x : HoldSlot) (rest : List HoldSlot),
     let n := stack.toNat
     let k := stackOf s n
     (k.slots = x :: rest → x.updating = false → x.fetch = .queued → (slowGroup s x.tag).isSome = true → unitServes s n = true → buffersUsed s n < 64 →
       exec (.slowFetch stack) s = .next (setStack s n { k with slots := { x with fetch := .active s.localNs } :: rest })) ∧
     (∀ since g bs, k.slots = x :: rest → x.fetch = .active since → slowGroup s x.tag = some g → unitServes s n = true → fetchLate s n x = false →
       slowPieces s g (groupIndex g x.tag) (pieces g) = .ok bs → (updOf s n).tasks = [] →
       ∃ t, exec (.slowFetchDone stack) s = .next t ∧ stackOf t n = { k with slots := { x with fetch := .arrived bs } :: rest } ∧
         rget t (.updCtr n 4) = rget s (.updCtr n 4) + 1 ∧ RegsBut s t [.updCtr n 4] ∧ t = { s with stks := t.stks, regs := t.regs }) ∧
     (∀ since, k.slots = x :: rest → x.fetch = .active since → unitServes s n = true → (updOf s n).tasks = [] →
       ∃ t, exec (.slowFetchFail stack) s = .next t ∧ stackOf t n = { k with slots := { x with fetch := .failed } :: rest } ∧
         t.upds = s.upds ∧ rget t (.updCtr n 5) = rget s (.updCtr n 5) + 1 ∧ RegsBut s t [.updCtr n 5]) ∧
     (∃ t, exec (.releaseFailed stack) s = .next t ∧ (stackOf t n).slots = k.slots.filter (fun y => decide (y.fetch ≠ .failed)) ∧
       RegsBut s t [.memParkPeak n] ∧ t = { s with stks := t.stks, regs := t.regs }))

/-! ## Fabric ports and the switch (spec/11) -/

/-- R353, R354, R385: enabling trains a port that has a node number and disabling stops it; a RETIRED port is left by RETRAIN, which tests
every lane again. A training ends with the width that the good lanes of the weaker direction allow, or goes on; the lanes that failed before
stay failed, and the lanes in use are the first good ones of each direction, the receiver's in reversed order where training found it so.
RECOVERY ends with the replay buffer resent and the same lanes, or trains after 10 ms; a training without a width restarts every second.
Leaving a state for TRAINING drops the replay buffer and partial packets (R362), and the port tells its peer its node, number and
allocation. Another port changes at most in the credits it owes. R355, R356, R576: a lane that loses lock, or corrects more than SER_LIMIT
symbols in a second, is failed; an idle flit of an ACTIVE port reports the failed lanes, and a swap is due where the lane is in use. The swap
takes the place of that lane alone; the port narrows and re-stripes where fewer allow it, each through RECOVERY at an agreed FSEQ; below x2
it retires; each writes its record, which names the lane. The places in LINK_AUX and the agreed FSEQ are the model's (log entry 46). -/
def Obligations.FabricPorts : Prop :=
  (∀ (s : State) (port : Fin 24) (rxBad txBad inv : BitVec 10) (rev : Bool) (peer : Half) (peerPort : BitVec 5) (alloc : List Half),
     let p := port.val
     let k := portOf s p
     let done := Instr.trainingDone port { bad := rxBad, inv := inv, rev := rev } txBad peer peerPort alloc
     let tell : PortTold := { node := BitVec.ofNat 16 (rfld s .fabNodeId 0 16), port := p, alloc := (upto 0 8).map (allocOf s p) }
     let same (t : State) (st : PortSt) (l : List Reg) : Prop :=
       (portOf t p).st = st ∧ (∀ q, q ≠ p → portOf t q = portOf s q) ∧ RegsBut s t l ∧ t = { s with fab := t.fab, regs := t.regs }
     let active (t : State) (l : List Reg) : Prop :=
       (portOf t p).st = .active ∧ (∀ q, q ≠ p → portOf t q = { portOf s q with owed := (portOf t q).owed }) ∧ RegsBut s t l ∧
         t = { s with fab := t.fab, regs := t.regs, fld := t.fld }
     let fresh (x : Port) : Prop :=
       x.replay = [] ∧ x.partials = [] ∧ x.orphan = [] ∧ x.swapDue = [] ∧ x.width = 0 ∧ x.sinceNs = s.localNs ∧ x.cur = k.cur ∧ x.told = some tell
     let rx := k.rxFailed ||| rxBad
     let tx := k.txFailed ||| txBad
     let w := widthFor (min (10 - countBits rx) (10 - countBits tx))
     (k.st = .disabled → rfld s .fabNodeId 0 16 ≠ 0xFFFF →
       ∃ t, exec (.portEnable port true) s = .next t ∧ same t .training [.fabPortCtrl p] ∧ fresh (portOf t p)) ∧
     (k.st ≠ .disabled → ∃ t, exec (.portEnable port true) s = .next t ∧ same t k.st [.fabPortCtrl p] ∧ portOf t p = k) ∧
     (k.st ≠ .retired → ∃ t, exec (.portEnable port false) s = .next t ∧ same t .disabled [.fabPortCtrl p] ∧ (portOf t p).replay = [] ∧
       (portOf t p).partials = [] ∧ (portOf t p).cur = k.cur ∧ (portOf t p).width = 0) ∧
     (k.st = .retired → ∃ t, exec (.portEnable port false) s = .next t ∧ same t .retired [.fabPortCtrl p] ∧ portOf t p = k) ∧
     (k.st ≠ .disabled → ∃ t, exec (.retrain port) s = .next t ∧ same t .training [] ∧ fresh (portOf t p) ∧
       (portOf t p).rxFailed = 0 ∧ (portOf t p).txFailed = 0 ∧ (portOf t p).retrain = true) ∧
     (k.st = .training → w = 0 → exec done s = .next s) ∧
     (k.st = .training → w ≠ 0 →
       ∃ t, exec done s = .next t ∧ active t [.fabPortCtr p 0] ∧
         (let x := portOf t p
          x.width = w ∧ x.rxFailed = rx ∧ x.txFailed = tx ∧ x.peerNode = peer ∧ x.peerPort = peerPort ∧ x.rxNext = 0 ∧ x.retrain = false ∧
          x.inv = inv ∧ x.rev = rev ∧ x.lanes = ((if rev then (upto 0 10).reverse else upto 0 10).filter fun i => !rx.getLsbD i).take w ∧
          x.txLanes = ((upto 0 10).filter fun i => !tx.getLsbD i).take w ∧ x.allocs = creditsFrom alloc)) ∧
     (k.st = .recovery →
       ∃ t, exec done s = .next t ∧ active t [.fabPortCtr p 0, .fabPortCtr p 3] ∧
         (let x := portOf t p
          x.width = k.width ∧ x.lanes = k.lanes ∧ x.txLanes = k.txLanes ∧ x.rxFailed = k.rxFailed ∧ x.txFailed = k.txFailed ∧
          x.rxNext = k.rxNext ∧ x.allocs = (if alloc = [] then k.allocs else creditsFrom alloc) ∧
          (∃ more, x.replay = k.replay ++ more) ∧
          ∃ more, t.fab.wire = s.fab.wire ++ k.replay.map (fun y => (p, laneBytes k (resent k y))) ++ more)) ∧
     (k.st = .training → k.sinceNs + 10 ^ 9 ≤ s.localNs →
       ∃ t, exec (.trainingRestart port) s = .next t ∧ same t .training [] ∧ fresh (portOf t p)) ∧
     (k.st = .recovery → k.sinceNs + 10 ^ 7 ≤ s.localNs →
       ∃ t, exec (.recoveryTimeout port) s = .next t ∧ same t .training [] ∧ fresh (portOf t p))) ∧
  (∀ (s : State) (port : Fin 24) (lane : BitVec 4) (lock : Bool),
     let p := port.val
     let k := portOf s p
     let l := lane.toNat
     let bad := { k with rxFailed := k.rxFailed ||| (1#10 <<< lane.toNat)
                         swapDue := (if k.lanes.contains lane.toNat then setAdd lane.toNat k.swapDue else k.swapDue) }
     let failing : Prop := lane.toNat < 10 ∧ k.rxFailed.getLsbD lane.toNat = false ∧
       (lock = true ∨ (max 1 (rfld s (.fabPortLane p) 0 32) < tget (fun _ => 0) k.symCount lane.toNat ∧ s.localNs ≤ k.symStart + 10 ^ 9))
     (k.st = .recovery → failing → exec (.laneFail port lane lock) s = .next (setPort s p bad)) ∧
     (k.st = .active → failing →
       ∃ t f, exec (.laneFail port lane lock) s = .next t ∧ portOf t p = { bad with owed := (portOf t p).owed } ∧
         t.fab.wire = s.fab.wire ++ [(p, laneBytes k f)] ∧ f.kind = 1 ∧ f.fseq = k.txSeq ∧ f.ackSeq = k.rxNext - 1 ∧ f.nak = false ∧
         f.aux.extractLsb' 0 10 = peerLanes k.rev bad.rxFailed ∧ f.aux.getLsbD 10 = false ∧
         (∀ q, q ≠ p → portOf t q = portOf s q) ∧ t = { s with fab := t.fab }) ∧
     (portUsable k = true → l ∈ k.swapDue →
       let w := portWidth k
       let swapped (t : State) (event : Status) (r : List Reg) : Prop :=
         (∀ q, q ≠ p → portOf t q = portOf s q) ∧ Recorded s t event (resource 0x06 (10 * p + l)) 0 ∧ RegsBut s t (r ++ recordRegs 4)
       let through (t : State) : Prop :=
         (portOf t p).st = .recovery ∧ rget t (.fabPortCtr p 6) = rget s (.fabPortCtr p 6) + 1 ∧ (portOf t p).replay = k.replay ∧
         (k.st = .recovery → (portOf t p).sinceNs = k.sinceNs ∧ t.fab.wire = s.fab.wire) ∧
         (k.st = .active → (portOf t p).sinceNs = s.localNs ∧ rget t (.fabPortCtr p 7) = rget s (.fabPortCtr p 7) + 1 ∧
           ∃ f, t.fab.wire = s.fab.wire ++ [(p, laneBytes k f)] ∧ f.kind = 1 ∧ f.aux.getLsbD 10 = true ∧ f.aux.extractLsb' 11 12 = k.txSeq)
       (w = k.width → w ≠ 0 →
         ∃ t, exec (.laneSwap port lane) s = .next t ∧ swapped t .fabLaneSpared [.fabPortCtr p 6, .fabPortCtr p 7] ∧ through t ∧
           (portOf t p).width = w ∧ (∀ x, x ∈ (portOf t p).swapDue ↔ x ∈ k.swapDue ∧ x ≠ l) ∧
           (portOf t p).lanes = (if k.rxFailed.getLsbD l then laneReplace k.rev k.rxFailed l k.lanes else k.lanes) ∧
           (portOf t p).txLanes = (if k.txFailed.getLsbD l then laneReplace false k.txFailed l k.txLanes else k.txLanes)) ∧
       (w ≠ k.width → w ≠ 0 →
         ∃ t, exec (.laneSwap port lane) s = .next t ∧ swapped t .fabPortNarrowed [.fabPortCtr p 6, .fabPortCtr p 7] ∧ through t ∧
           (portOf t p).width = w ∧ (portOf t p).swapDue = [] ∧ (portOf t p).lanes = laneMap k.rev k.rxFailed w ∧
           (portOf t p).txLanes = laneMap false k.txFailed w) ∧
       (w = 0 →
         ∃ t, exec (.laneSwap port lane) s = .next t ∧ swapped t .fabPortRetired [] ∧ (portOf t p).st = .retired ∧ (portOf t p).width = 0 ∧
           (portOf t p).lanes = [] ∧ (portOf t p).txLanes = [] ∧ (portOf t p).replay = [] ∧ t.fab.wire = s.fab.wire)))

/-- R351, R357 to R361: a flit whose CRC and codewords are good, and that is the next data flit, is accepted and counted, and the packets
that it completes go to the switch; a bad one, or one that a codeword with more than 15 bad symbols touches, is discarded, and one NAK goes
out that names the last accepted flit; a resend puts every unacknowledged flit on the wire again, and at RETRY_LIMIT resends the port enters
RECOVERY with its replay buffer. R352, R357, R363: a packet's slots, a flit's 288 bytes and the striping over the lanes lose nothing. -/
def Obligations.FlitRetry : Prop :=
  (∀ (s : State) (port : Fin 24) (on : List (BitVec 4)) (data : List (List Byte)) (f : Flit) (x : BitVec 4 × BitVec 10) (pk : Packet),
    let p := port.val
    let k := portOf s p
    let limit := max 1 (rfld s (.fabPortCtrl p) 8 8)
    let lanes := on.zip data
    k.st = .active →
    (flitIn k lanes [] = some f → f.kind = 0 → f.fseq = k.rxNext →
      ∃ t, exec (.flitReceive port on data [] []) s = .next t ∧ (portOf t p).rxNext = k.rxNext + 1 ∧ (portOf t p).st = .active ∧
        rget t (.fabPortCtr p 1) = rget s (.fabPortCtr p 1) + 1 ∧ RegsBut s t [.fabPortCtr p 0, .fabPortCtr p 1, .fabDrop 3] ∧
        (∀ q, q ≠ p → portOf t q = { portOf s q with owed := (portOf t q).owed }) ∧ t = { s with fab := t.fab, regs := t.regs } ∧
        (f.slots = packetSlots pk → pk.payload.length ≤ 4096 → t.fab.sw = s.fab.sw ++ [{ pkt := pk, port := some p }])) ∧
    (flitIn k lanes [] = none → k.nakSent = false →
      ∃ t g, exec (.flitReceive port on data [] []) s = .next t ∧ t.fab.wire = s.fab.wire ++ [(p, laneBytes k g)] ∧ g.nak = true ∧
        g.ackSeq = k.rxNext - 1 ∧ g.kind = 1 ∧ (portOf t p).nakSent = true ∧ (portOf t p).rxNext = k.rxNext ∧ t.fab.sw = s.fab.sw ∧
        rget t (.fabPortCtr p 2) = rget s (.fabPortCtr p 2) + 1 ∧ RegsBut s t [.fabPortCtr p 2]) ∧
    (flitIn k lanes [] = none → k.nakSent = true → exec (.flitReceive port on data [] []) s = .next s) ∧
    (15 < x.2.toNat → k.nakSent = true → exec (.flitReceive port on data [] [x]) s = .next s ∧
      ∃ t, exec (.flitReceive port on data [x] []) s = .next t ∧ t = { s with regs := t.regs } ∧
        rget t (.fabPortCtr p 5) = rget s (.fabPortCtr p 5) + 1 ∧ RegsBut s t [.fabPortCtr p 5]) ∧
    (k.replay ≠ [] → (k.nakSeen = true ∨ k.ackNs + 2000 ≤ s.localNs) →
      (k.resends < limit →
        ∃ t, exec (.flitReplay port) s = .next t ∧ t.fab.wire = s.fab.wire ++ k.replay.map (fun y => (p, laneBytes k (resent k y))) ∧
          portOf t p = { k with nakSeen := false, resends := k.resends + 1, ackNs := s.localNs } ∧
          rget t (.fabPortCtr p 3) = rget s (.fabPortCtr p 3) + BitVec.ofNat 64 k.replay.length ∧
          RegsBut s t [.fabPortCtr p 0, .fabPortCtr p 3]) ∧
      (limit ≤ k.resends →
        ∃ t, exec (.flitReplay port) s = .next t ∧
          portOf t p = { k with st := .recovery, sinceNs := s.localNs, resends := 0, told := (portOf t p).told, curNs := [] } ∧
          rget t (.fabPortCtr p 7) = rget s (.fabPortCtr p 7) + 1 ∧ RegsBut s t [.fabPortCtr p 7] ∧ t.fab.wire = s.fab.wire))) ∧
  (∀ f : Flit, f.creds.length = 8 → f.slots.length ≤ 15 → (∀ x ∈ f.slots, slotEntry x ≠ emptySlot) → parseFlit (flitBytes f) = some f) ∧
  (∀ (w : Nat) (bs : List Byte), (w = 2 ∨ w = 4 ∨ w = 8) → bs.length = 288 → unstripe (stripe w bs) = bs) ∧
  (∀ pk : Packet, pk.payload.length ≤ 4096 → packetFrom (packetSlots pk) = pk)

/-- R360, R373 to R377: the switch delivers a packet for its own node, sends another to the output of its route with HOPS lowered
and the class raised at a dateline, and drops one that has no hop left, no known type or no route; a packet that leaves its input buffer
changes that port's credits owed and nothing else but the wire. A broadcast that a package starts is not delivered to it and goes to the
outputs of its tree; one that comes by a port outside its tree is dropped, and one at a leaf is delivered; a packet that has waited STALL_LIMIT for credits
is dropped and recorded. R401: a member's contribution goes to cumulus whatever node it names. The packet is not one that would overtake
(R376) and its lanes of the die's FAB stream are there (R447). -/
def Obligations.Switching : Prop :=
  ∀ (s : State) (n : Nat) (x : InPkt) (p : Nat) (port : Fin 24) (o : OutPkt),
    let s1 := { s with fab := { s.fab with sw := dropNth n s.fab.sw } }
    let delivered := { s1 with fab := { s1.fab with arrived := s.fab.arrived ++ [x] } }
    let left := leaveInput s1 x
    let dropped (i : Nat) : State := rset left (.fabDrop i) (rget left (.fabDrop i) + 1)
    let k := portOf s port.val
    let noWaits (w : Table Nat) : Prop := ∀ key, key < 16 → tget (fun _ => 0) w key = 0
    ((x.port = none → left = s1) ∧
     (∀ q, x.port = some q → left = { s1 with fab := left.fab } ∧ left.fab.sw = s1.fab.sw ∧ left.fab.arrived = s.fab.arrived ∧
       portOf left q = { portOf s q with owed := (portOf left q).owed } ∧ (∀ r, r ≠ q → portOf left r = portOf s r) ∧
       ((portOf s q).st ≠ .active → left = setPort s1 q { portOf s q with
         owed := tset (fun _ => 0) (portOf s q).owed (keyOf x.pkt.vc x.pkt.cls)
           (tget (fun _ => 0) (portOf s q).owed (keyOf x.pkt.vc x.pkt.cls) + 2 + payloadSlots x.pkt) }))) ∧
    (s.fab.sw[n]? = some x → x.pkt.bcast = false → overtakes (routeStrict s x) s.fab.sw n x = false → fabHeld s x = false →
      (knownType x.pkt.ptype = true → toCumulus s x = true → exec (.packetForward n) s = .next delivered) ∧
      (knownType x.pkt.ptype = true → x.pkt.destNode = ownNode s → (x.pkt.destUnit = 0xFFF ∨ dieServes s (dieOfUnit x.pkt.destUnit) = true) →
        exec (.packetForward n) s = .next delivered) ∧
      (knownType x.pkt.ptype = false → exec (.packetForward n) s = .next (dropped 6)) ∧
      (knownType x.pkt.ptype = true → x.pkt.destNode ≠ ownNode s → toCumulus s x = false → x.port.isSome = true → x.pkt.hops = 0 →
        exec (.packetForward n) s = .next (dropped 1)) ∧
      (knownType x.pkt.ptype = true → x.pkt.destNode ≠ ownNode s → toCumulus s x = false → (x.port = none ∨ x.pkt.hops ≠ 0) → routeOf s x.pkt = none →
        isRequest x.pkt.ptype = false → exec (.packetForward n) s = .next (dropped 0)) ∧
      (knownType x.pkt.ptype = true → x.pkt.destNode ≠ ownNode s → toCumulus s x = false → (x.port = none ∨ x.pkt.hops ≠ 0) → routeOf s x.pkt = some p →
        (portOf s p).st = .recovery →
        ∃ w, noWaits w ∧ exec (.packetForward n) s = .next (setPort s1 p { portOf s p with curNs := w, outq := (portOf s p).outq ++ [{
            pkt := { x.pkt with hops := x.pkt.hops - 1, cls := if rbit s (.fabRoute x.pkt.destNode.toNat) (24 + p) then 1 else x.pkt.cls }
            sinceNs := s.localNs, inp := inputOf x, inCls := x.pkt.cls, held := x.port.isSome }] }))) ∧
    (s.fab.sw[n]? = some x → x.pkt.bcast = true → knownType x.pkt.ptype = true → overtakes true s.fab.sw n x = false →
      let tree := x.pkt.btree.toNat
      let outs := (upto 0 24).filter fun p => rbit s (.fabBcast tree) (32 + p) && decide (x.port ≠ some p)
      (x.port = none → outs = [p] → (portOf s p).st ≠ .active →
        ∃ w, noWaits w ∧ exec (.broadcastForward n) s = .next (setPort s1 p { portOf s p with curNs := w, outq := (portOf s p).outq ++
          [{ pkt := { x.pkt with hops := x.pkt.hops - 1 }, sinceNs := s.localNs, inp := inputOf x, inCls := x.pkt.cls }] })) ∧
      (∀ q, x.port = some q → rbit s (.fabBcast tree) q = false → exec (.broadcastForward n) s = .next (dropped 4)) ∧
      (∀ q, x.port = some q → rbit s (.fabBcast tree) q = true → rbit s (.fabBcast tree) 56 = true → outs = [] →
        exec (.broadcastForward n) s = .next delivered)) ∧
    (k.st = .active → k.cur = [] → k.outq = [o] → creditOf k (keyOf o.pkt.vc o.pkt.cls) = 0 → rfld s .fabReqCtrl 32 32 ≠ 0 →
      0 < tget (fun _ => 0) k.curNs (keyOf o.pkt.vc o.pkt.cls) →
      tget (fun _ => 0) k.curNs (keyOf o.pkt.vc o.pkt.cls) - 1 + 1000 * rfld s .fabReqCtrl 32 32 ≤ s.localNs →
      ∃ t, exec (.fabStall port) s = .next t ∧
        portOf t port.val = { k with outq := [], owed := (portOf t port.val).owed, curNs := (portOf t port.val).curNs } ∧
        noWaits (portOf t port.val).curNs ∧
        (o.held = false → (portOf t port.val).owed = k.owed ∧ t.fab.wire = s.fab.wire) ∧
        rget t (.fabDrop 5) = rget s (.fabDrop 5) + 1 ∧ RegsBut s t ([.fabDrop 5] ++ recordRegs 4) ∧
        Recorded s t .fabStall (resource 0x07 port.val) 0)

/-! ## Packets at their units (spec/11) -/

/-- R364, R369: a request that a remote window admits, and whose unit reaches the memory, is carried out and answered: READ_REQ with its
data and SUCCESS, WRITE with SUCCESS once its bytes are in device memory, ACC_WRITE, in its rounding mode, with SUCCESS and its count of
saturations (the place of the first non-finite result in the answer is the model's, log entry 44), or with FORMAT_BAD for another format than
G16 and F32; one that no window admits changes no memory, is counted, and is answered with FAB_ACCESS_DENIED. -/
def Obligations.RemoteRequests : Prop :=
  ∀ (s : State) (n : Nat) (x : InPkt) (bs : List Byte) (f : Fmt),
    let u := takeArrived s n
    let pk := x.pkt
    let answer (v : State) (st : Status) (sat : Nat) : InPkt :=
      { port := none
        pkt := { destNode := pk.srcNode, srcNode := ownNode v, destUnit := pk.srcUnit, srcUnit := pk.destUnit, vc := pk.vc, ptype := 0x05
                 last := true, tag := pk.tag, aux := BitVec.ofNat 64 ((statusCode st).toNat + min sat 0xFFFFFFFF * 2 ^ 16) } }
    let denied (c : Instr) : Prop :=
      ∃ t, exec c s = .next t ∧ t.fab = { u.fab with sw := s.fab.sw ++ [answer s .fabAccessDenied 0] } ∧
        rget t (.fabDrop 2) = rget s (.fabDrop 2) + 1 ∧ RegsBut s t [.fabDrop 2] ∧ t = { s with fab := t.fab, regs := t.regs }
    (arrivedAt s n 0x01 = some x →
      (windowAdmits s pk (pk.aux.toNat % 8192) 63 = true → requestReaches s pk (pk.aux.toNat % 8192) = true → NoBitErrors s → devRead u pk.addr.toNat (pk.aux.toNat % 8192) = .ok bs →
        ∃ t d, exec (.readReq n) s = .next t ∧ t.fab = { u.fab with sw := s.fab.sw ++ [d, answer s .success 0] } ∧ d.pkt.ptype = 0x02 ∧
          d.pkt.payload = bs ∧ d.pkt.tag = pk.tag ∧ d.pkt.destNode = pk.srcNode ∧ d.pkt.destUnit = pk.srcUnit ∧ t = { s with fab := t.fab }) ∧
      (windowAdmits s pk (pk.aux.toNat % 8192) 63 = false → denied (.readReq n))) ∧
    (arrivedAt s n 0x03 = some x →
      (windowAdmits s pk pk.payload.length 62 = true → requestReaches s pk pk.payload.length = true → (devWrite u pk.addr.toNat pk.payload).2 = none →
        ∃ t, exec (.write n) s = .next t ∧ t.fab.sw = (devWrite u pk.addr.toNat pk.payload).1.fab.sw ++ [answer (devWrite u pk.addr.toNat pk.payload).1 .success 0] ∧
          t = { (devWrite u pk.addr.toNat pk.payload).1 with fab := t.fab, stks := t.stks } ∧ ParkGone (devWrite u pk.addr.toNat pk.payload).1 t) ∧
      (windowAdmits s pk pk.payload.length 62 = false → denied (.write n))) ∧
    (arrivedAt s n 0x04 = some x →
      (let a := accAll (accModeOf pk.aux) f (accRequests f pk.addr.toNat pk.payload) u
       windowAdmits s pk pk.payload.length 61 = true → requestReaches s pk pk.payload.length = true → (f = .g16 ∨ f = .f32) →
       fmtOfCode (pk.aux.extractLsb' 0 4) = some f → a.err = none →
       ∃ t y, exec (.accWrite n) s = .next t ∧ t.fab.sw = a.st.fab.sw ++ [y] ∧ t = { a.st with fab := t.fab, stks := t.stks } ∧ ParkGone a.st t ∧
         y = { answer a.st .success (accSat a.outs) with
               pkt := { (answer a.st .success (accSat a.outs)).pkt with addr := y.pkt.addr, aux := y.pkt.aux } } ∧
         y.pkt.aux.extractLsb' 0 48 = (answer a.st .success (accSat a.outs)).pkt.aux.extractLsb' 0 48) ∧
      (windowAdmits s pk pk.payload.length 61 = true → requestReaches s pk pk.payload.length = true →
       fmtOfCode (pk.aux.extractLsb' 0 4) ≠ some .g16 → fmtOfCode (pk.aux.extractLsb' 0 4) ≠ some .f32 →
       ∃ t, exec (.accWrite n) s = .next t ∧ t = { u with fab := t.fab } ∧ t.fab = { u.fab with sw := s.fab.sw ++ [answer s .formatBad 0] }) ∧
      (windowAdmits s pk pk.payload.length 61 = false → denied (.accWrite n)))

/-- R366 to R371: the data of a read lands at its place in the destination; a response that is not SUCCESS fails its
instruction; requests that waited for room are sent once others are answered; a CTS is held by the sending core, up to 64; the data of a send is stored and counted; a WITHDRAW takes a CTS
back or fails the receive, and the send it meets part way ends after the packets that have gone, a free number (log entry 46); an event message that REVT admits advances its counter, a message for a steward enters its mailbox,
up to 64, and interrupts it; a management packet waits for the service cores; a packet that matches nothing is counted. -/
def Obligations.PacketsAtUnits : Prop :=
  ∀ (s : State) (n : Nat) (x : InPkt) (p : Nat) (j : Job) (o : Outst) (post : Posted),
    let u := takeArrived s n
    let pk := x.pkt
    let core := pk.destUnit.toNat
    let c := coreOf s p
    let counts (i : Instr) (k : Nat) : Prop :=
      ∃ t, exec i s = .next t ∧ t = { u with regs := t.regs } ∧ rget t (.fabDrop k) = rget s (.fabDrop k) + 1 ∧ RegsBut s t [.fabDrop k]
    -- what is answered leaves, and requests that had to wait are sent in its place
    let settled (t : State) (c' : Core) : Prop :=
      ∃ more, (coreOf t p).outst = (settleOutst c' (isGetJob c')).outst ++ more ∧ ∀ y ∈ more, y.resp = false ∧ y.got = false ∧ y.sentNs = s.localNs
    (arrivedAt s n 0x02 = some x →
      (outstOf s pk = some (p, o) → (c.frq.find? fun j => decide (j.order = o.order)) = some j →
        (writeStream u (jobTensor core j 0) o.pos pk.payload).2 = none →
        ∃ t, exec (.readResp n) s = .next t ∧
          t = { (writeStream u (jobTensor core j 0) o.pos pk.payload).1 with cores := t.cores, fab := t.fab } ∧
          (∀ q, (coreOf t q).spad = (coreOf (writeStream u (jobTensor core j 0) o.pos pk.payload).1 q).spad) ∧
          settled t { c with outst := c.outst.map fun y => if y.txn = o.txn then { y with got := true } else y }) ∧
      (outstOf s pk = none → counts (.readResp n) 8)) ∧
    (arrivedAt s n 0x05 = some x →
      (outstOf s pk = some (p, o) → ((c.fsq ++ c.frq).find? fun j => decide (j.order = o.order)) = some j →
        (pk.aux.extractLsb' 0 16 ≠ 0 →
          exec (.resp n) s = .next (programFault (if jobOp j = some .acc
              then setCore u p (addRemote c .fs (ackBlock (descFmt (jobDesc j 0)) (jobArg j 1) pk)) else u)
            core p (statusOfCode (pk.aux.extractLsb' 0 16)) j.pc)) ∧
        (pk.aux.extractLsb' 0 16 = 0 →
          ∃ t, exec (.resp n) s = .next t ∧ t = { u with cores := t.cores, fab := t.fab } ∧ (∀ q, q ≠ p → coreOf t q = coreOf s q) ∧
            settled t { c with outst := c.outst.map fun y => if y.txn = o.txn then { y with resp := true } else y })) ∧
      (outstOf s pk = none → counts (.resp n) 8)) ∧
    (arrivedAt s n 0x06 = some x → physOf s core = some p → c.cts.length < 64 → memberOfCore s core = none →
      exec (.cts n) s = .next (setCore u p { c with cts := c.cts ++
        [{ node := pk.srcNode, unit := pk.srcUnit, tag := pk.tag, rxn := pk.rxn, size := pk.aux.toNat % 2 ^ 40 }] })) ∧
    (arrivedAt s n 0x07 = some x →
      (let w := writeStream u (jobTensor core j 0) pk.addr.toNat (pk.payload.take (post.size - pk.addr.toNat))
       postedOf s pk = some (p, post) → (c.frq.find? fun j => decide (j.order = post.order)) = some j → jobMode j ≠ 1 → w.2 = none →
       ∃ t, exec (.sendData n) s = .next t ∧ t = { w.1 with cores := t.cores } ∧ (∀ q, (coreOf t q).spad = (coreOf w.1 q).spad) ∧
         ∀ y ∈ (coreOf t p).posted, y.rxn = post.rxn → ∃ z ∈ (coreOf w.1 p).posted, z.rxn = post.rxn ∧ y.got = z.got + pk.payload.length) ∧
      (postedOf s pk = none → counts (.sendData n) 3)) ∧
    (arrivedAt s n 0x09 = some x → (∀ r, postedOf s pk = some r → r.2.tag ≠ pk.tag) → physOf s core = some p →
      let named := c.cts.find? fun y => decide (y.rxn = pk.rxn) && decide (y.tag = pk.tag) && decide (y.node = pk.srcNode) && decide (y.unit = pk.srcUnit)
      let sending (y : HeldCts) (j : Job) : Bool := decide (jobOp j = some .send) && decide (j.st = .started) && decide (matchCts s c j = some y)
        && decide (y.size = jobSize core j) && !c.inColl
      (named = none → ∃ t, exec (.withdraw n) s = .next t ∧ t = { u with coll := { s.coll with colls := t.coll.colls } }) ∧
      (∀ y, named = some y →
        let v := setCore u p { c with cts := dropFirst (fun z => decide (z = y)) c.cts }
        (c.fsq.head?.filter (sending y) = none → exec (.withdraw n) s = .next v) ∧
        (∀ bs, c.fsq.head?.filter (sending y) = some j → readStream v (jobTensor core j 0) = .ok bs →
          ∃ k, k < max 1 ((bs.length + 4095) / 4096) ∧ exec (.withdraw n) s = .next (if k = 0 then tickFree v
            else programFault (sendData (tickFree v) core j y.rxn none (decide (jobMode j = 2)) bs (some k)) core p .fabPeerWithdrawn j.pc)))) ∧
    (arrivedAt s n 0x09 = some x → postedOf s pk = some (p, post) → post.tag = pk.tag → c.inColl = false →
      (c.frq.find? fun j => decide (j.order = post.order)) = some j →
      exec (.withdraw n) s = .next (programFault u core p (statusOfCode (pk.aux.extractLsb' 0 16)) j.pc)) ∧
    (arrivedAt s n 0x0A = some x →
      (pk.destUnit = 0xFFF → rbit s (.fabRevt ((pk.aux.extractLsb' 0 16).toNat / 256 / 64)) ((pk.aux.extractLsb' 0 16).toNat / 256 % 64) = true →
        ∃ t, exec (.msg n) s = .next t ∧ t = { u with evt := t.evt } ∧ ∀ k, (evtOf t k).toNat =
          if k ≠ (pk.aux.extractLsb' 0 16).toNat then (evtOf s k).toNat
          else if pk.aux.getLsbD 16 then max (evtOf s k).toNat (pk.aux.extractLsb' 32 32).toNat
          else min (2 ^ 64 - 1) ((evtOf s k).toNat + (pk.aux.extractLsb' 32 32).toNat)) ∧
      (pk.destUnit = 0xFFF → rbit s (.fabRevt ((pk.aux.extractLsb' 0 16).toNat / 256 / 64)) ((pk.aux.extractLsb' 0 16).toNat / 256 % 64) = false →
        counts (.msg n) 2) ∧
      (pk.destUnit ≠ 0xFFF → (clusterOf s (core / 64)).mailbox.length < 64 →
        exec (.msg n) s = .next (setCluster u (core / 64) { clusterOf s (core / 64) with
          stewardIrq := true
          mailbox := (clusterOf s (core / 64)).mailbox ++ [{ value := pk.aux, node := pk.srcNode, unit := pk.srcUnit }] })) ∧
      (pk.destUnit ≠ 0xFFF → 64 ≤ (clusterOf s (core / 64)).mailbox.length → counts (.msg n) 7)) ∧
    (arrivedAt s n 0x0D = some x → exec (.mgmt n) s = .next { u with fab := { u.fab with mgmt := s.fab.mgmt ++ [pk] } }) ∧
    (∀ core : Fin 4096, liveCore s core = some p → c.outst = [o] → rfld s .fabReqCtrl 0 32 ≠ 0 →
      o.sentNs + 1000 * rfld s .fabReqCtrl 0 32 ≤ s.localNs → ((c.fsq ++ c.frq).find? fun j => decide (j.order = o.order)) = some j →
      exec (.fabTimeout core) s = .next (programFault s core.val p .fabTimeout j.pc))

/-! ## Collectives (spec/12) -/

/-- R391 to R394, R406, R409, R416: a COLLECTIVE whose body or list fails a check ends with that status; one whose checks pass
starts (collStart); a reduction with CUM 1 claims, or falls back, in the order of the starts (R403); a reduction of one member in place is
sealed at once and ends with SUCCESS; the kind block of one that is done holds its chunks, its slots and the reason of its taint as its
signals are applied, with WAIT_US and CAP_US in whole µs; WAIT_US is added to the waits of the queue's partition (R417). Which waits and caps
count is log entry 11. -/
def Obligations.CollectiveCommand : Prop :=
  ∀ (s : State) (q : Fin 4096) (seq : Word32) (f : Flight) (es : List (Nat × Nat × Word64 × Word64)) (raws : List (BitVec 1024)),
    let ref := cmdWord f.cmd 0x48
    let op := cmdFld f.cmd 0x50 16 4
    let mine := (es.mapIdx fun i e => (i, e)).filter fun x => decide (nfld x.2.1 48 16 = (ownNode s).toNat)
    let ms := mine.mapIdx fun j x => (x.1, raws.getD (2 * j) 0, raws.getD (2 * j + 1) 0)
    (workOf s q.val seq 5 = some f → f.begun = false → (q.val, seq) ∈ claimsDue s → (claimsDue s).head? ≠ some (q.val, seq) →
      exec (.collective q seq) s = .next s) ∧
    (workOf s q.val seq 5 = some f → f.begun = false → ((q.val, seq) ∈ claimsDue s → (claimsDue s).head? = some (q.val, seq)) →
      NoBitErrors s → memberList s f.cmd = .ok es →
      (∀ st, collBodyFault s q.val f.cmd es = some st →
        ∃ t, exec (.collective q seq) s = .next t ∧ FlightEnds s t q.val seq (ended st) ∧ t = { s with queues := t.queues, stks := t.stks }) ∧
      (collBodyFault s q.val f.cmd es = none → ptrDescs s (mine.flatMap fun x => [x.2.2.2.1, x.2.2.2.2]) = .ok raws →
        collMemberFault op (cmdFld f.cmd 0x50 20 4) es.length ms = none → op ≠ 2 →
        exec (.collective q seq) s = .next (collStart s q.val f es ms) ∧
        (∀ a e, es = [e] → ms = [(0, a, a)] → op ≤ 1 → collElems op (parseDesc a) (parseDesc a) ≠ 0 → entryOf s ref = none →
          s.coll.entries.length < 1024 → s.coll.colls = [] → f.status = .success → cmdFld f.cmd 0x50 24 1 = 0 →
          ∃ t x, exec (.collective q seq) s = .next t ∧ entryOf t ref = some x ∧ x.st = .sealedOk ∧ x.attempt.toNat = cmdFld f.cmd 0x50 32 8 ∧
            rget t (.cumCtr 7) = rget s (.cumCtr 7) + 1 ∧ RegsBut s t [.cumCtr 7] ∧ t.dev = s.dev ∧ t.cores = s.cores ∧
            ∀ g, flightOf s q.val seq = some g → ∃ h, flightOf t q.val seq = some h ∧ h.done = true ∧ h.status = .success))) ∧
    (∀ cl g0 rest, flightOf s q.val seq = some f → collOf s q.val seq = some cl → f.done = true → f.begun = true → f.signalled = false →
      cmdKind f.cmd = 5 → f.copyUnit = none → stewardsHalted s f.cmd = false → (queueOf s q.val).flight = g0 :: rest → g0.cmd.seq ≠ seq →
      ∃ t g, exec (.commandFinish q seq) s = .next t ∧ flightOf t q.val seq = some g ∧ g.signalled = true ∧
        g.kindBlk.extractLsb' 0 32 = BitVec.ofNat 32 cl.checked ∧ g.kindBlk.extractLsb' 32 13 = f.kindBlk.extractLsb' 32 13 ∧
        g.kindBlk.extractLsb' 64 32 = BitVec.ofNat 32 (min (cl.waitNs / 1000) (2 ^ 32 - 1)) ∧
        g.kindBlk.extractLsb' 96 32 = BitVec.ofNat 32 (min (cl.capNs / 1000) (2 ^ 32 - 1)) ∧
        rget t (.cumPartWait (qPart s q.val)) = rget s (.cumPartWait (qPart s q.val)) + BitVec.ofNat 64 (min (cl.waitNs / 1000) (2 ^ 32 - 1)))

/-- R411, R413, R414, R420, R405: a collective without progress for its TIMEOUT, and one with an uncorrectable word in a slot,
is tainted: its entry becomes FAILED with that reason, its command ends, and one TAINT packet goes out along tree 1; a TAINT
that arrives for a reference not known makes an entry of its state, and one for an older attempt or a sealed entry only
counts. -/
def Obligations.Taints : Prop :=
  ∀ (s : State) (q : Fin 4096) (seq : Word32) (cl : Coll) (e : SealEntry) (n : Nat) (x : InPkt) (ref : Word64) (chunk : Word32) (reason : Half)
    (attempt : Byte),
    let failed (t : State) (st : Status) (cmd : Status) (l : List Reg) : Prop :=
      (∃ e', entryOf t cl.ref = some e' ∧ e'.st = .failed ∧ e'.attempt = cl.attempt ∧ e'.reason = statusCode st) ∧
        (∀ f, flightOf s q.val seq = some f → f.done = false → f.status = .success → ∃ g, flightOf t q.val seq = some g ∧ g.done = true ∧ g.status = cmd) ∧
        (s.coll.tainted.contains (cl.ref, cl.attempt) = false → ∃ y ∈ t.fab.sw, y.pkt.ptype = 0x0C ∧ y.pkt.bcast = true ∧ y.pkt.btree = 1 ∧
          y.pkt.vc = 7 ∧ y.pkt.srcNode = ownNode s) ∧
        RegsBut s t ([.cumCtr 4, .cumTaint0, .cumTaint1] ++ l) ∧ t.dev = s.dev ∧ t.evt = s.evt
    (collOf s q.val seq = some cl → (s.coll.colls.filter fun c => decide (c.ref = cl.ref)) = [cl] → cl.failing = none →
      (∀ i ∈ ownMembers s cl, (memberAt cl i).ended = false →
        clusterRuns s ((memberAt cl i).unit.toNat / 64) = true ∨ dieServes s ((memberAt cl i).unit.toNat / 1024) = false) →
      entryOf s cl.ref = some e → e.st = .opened → e.attempt = cl.attempt →
      (cl.timeoutUs ≠ 0 → cl.progressNs + 1000 * max 500 cl.timeoutUs ≤ s.localNs →
        ∃ t, exec (.collTimeout q seq) s = .next t ∧ failed t .collTimeout .collTimeout []) ∧
      (∀ slot : BitVec 13, (∃ j ∈ cl.joins, j.chunk = chunk.toNat) →
        let good : Prop := slot.toNat < 4160 ∧ slot.toNat ∉ s.coll.retired ∧ ∀ c ∈ s.coll.colls, slot.toNat ∉ c.retire
        (good → ∃ t, exec (.cumUncorrectable q seq chunk slot) s = .next t ∧ failed t .cumUncorrectable .tainted (recordRegs 4)) ∧
        (¬ good → exec (.cumUncorrectable q seq chunk slot) s = .next s))) ∧
    (arrivedAt s n 0x0C = some x → x.pkt.payload = taintPayload ref chunk reason attempt →
      (entryOf s ref = none → (∀ c ∈ s.coll.colls, c.ref ≠ ref) → sealUsed s < 1024 →
        ∃ t, exec (.taint n) s = .next t ∧ t = { takeArrived s n with regs := t.regs, coll := { s.coll with entries := s.coll.entries ++ [{
            ref := ref, attempt := attempt, st := (taintEffect reason false).1, reason := reason, status := (taintEffect reason false).2,
            openNs := s.localNs, endNs := s.localNs }] } } ∧
          rget t (.cumCtr 5) = rget s (.cumCtr 5) + 1 ∧ (rbit s .cumTaint1 63 = false → rget t .cumTaint0 = ref) ∧
          RegsBut s t [.cumCtr 5, .cumTaint0, .cumTaint1]) ∧
      (entryOf s ref = some e → (attempt.toNat < e.attempt.toNat ∨ (attempt = e.attempt ∧ e.st = .sealedOk)) →
        ∃ t, exec (.taint n) s = .next t ∧ t = { takeArrived s n with regs := t.regs } ∧ rget t (.cumCtr 5) = rget s (.cumCtr 5) + 1 ∧
          rget t (.cumCtr 6) = rget s (.cumCtr 6) + 1 ∧ RegsBut s t [.cumCtr 5, .cumCtr 6]))

/-- R406, R407: a confirm token that reaches a package whose consumers have confirmed everything goes on to the next package,
and waits where they have not; back at member 0's package it seals, and a seal token goes out. A seal token seals a package
and goes on; at the first package it ends the pass. Every 100 µs of a pass the first package sends its latest token again. -/
def Obligations.Tokens : Prop :=
  ∀ (s : State) (n : Nat) (x : InPkt) (cl : Coll) (e : SealEntry) (q : Fin 4096) (seq : Word32),
    let u := takeArrived s n
    let confirm : Word64 := 0xFFFFFFFE00000000
    let sealWord : Word64 := 0xFFFFFFFF00000000
    let token (t : State) (aux : Word64) : Prop :=
      ∃ y, t.fab.sw = s.fab.sw ++ [y] ∧ y.pkt.ptype = 0x08 ∧ y.pkt.payload = [] ∧ y.pkt.aux = aux ∧ y.pkt.addr = cl.ref ∧ y.pkt.destUnit = 0xFFF ∧
        y.pkt.srcNode = ownNode s
    let held (t : State) (f : Coll → Coll) : Prop :=
      t.coll.colls = s.coll.colls.map fun c => if c.q = cl.q ∧ c.seq = cl.seq then f cl else c
    let sealed (t : State) : Prop :=
      (∃ e', entryOf t cl.ref = some e' ∧ e'.st = .sealedOk ∧ e'.attempt = cl.attempt) ∧ rget t (.cumCtr 7) = rget s (.cumCtr 7) + 1 ∧
        ∀ g, flightOf s cl.q cl.seq = some g → ∃ h, flightOf t cl.q cl.seq = some h ∧ h.done = true ∧
          h.status = if cl.fallback then .cumFallback else g.status
    (arrivedAt s n 0x08 = some x → isToken x.pkt = true → tokenColl u x.pkt = some (cl, e) → collOf s cl.q cl.seq = some cl →
      (x.pkt.aux = confirm → isFirst s cl = false → e.st = .opened → 1 < (packagesOf cl).length →
        (allConfirmed s cl = true → ∃ t, exec (.confirmToken n) s = .next t ∧ token t confirm ∧
          held t (fun c => { c with progressNs := s.localNs, confirmAt := true, confirmSent := true, tokenNs := s.localNs }) ∧
          t.coll.entries = s.coll.entries ∧ t = { s with fab := t.fab, coll := t.coll }) ∧
        (allConfirmed s cl = false → ∃ t, exec (.confirmToken n) s = .next t ∧ t.fab = u.fab ∧
          held t (fun c => { c with progressNs := s.localNs, confirmAt := true, confirmSent := false }) ∧
          t = { s with fab := t.fab, coll := t.coll })) ∧
      (x.pkt.aux = confirm → isFirst s cl = true → e.st = .opened → cl.confirmSent = true →
        ∃ t, exec (.confirmToken n) s = .next t ∧ token t sealWord ∧ sealed t) ∧
      (x.pkt.aux = sealWord → isFirst s cl = false → e.st = .opened → ∃ t, exec (.sealToken n) s = .next t ∧ token t sealWord ∧ sealed t) ∧
      (x.pkt.aux = sealWord → isFirst s cl = true → ∃ t, exec (.sealToken n) s = .next t ∧ t.fab = u.fab ∧
        held t (fun c => { c with progressNs := s.localNs, passEnded := true }) ∧ t.coll.entries = s.coll.entries)) ∧
    (collOf s q.val seq = some cl → entryOf s cl.ref = some e → isFirst s cl = true → cl.confirmSent = true → cl.passEnded = false →
      e.attempt = cl.attempt → (e.st = .opened ∨ e.st = .sealedOk) → cl.tokenNs + 100000 ≤ s.localNs →
      ∃ t, exec (.tokenResend q seq) s = .next t ∧ token t (if e.st = .sealedOk then sealWord else confirm) ∧
        held t (fun c => { c with tokenNs := s.localNs }) ∧ t = { s with fab := t.fab, coll := t.coll })

/-- R398, R399, R401: a packet for an input of a join is put there; a complete input whose check agrees is added and counted
by its bytes, one whose check does not taints its chunk with COLL_CRC_BAD; a join whose inputs are all added sends its sum on, under
the CTS that its chunk's FCSEND took, and leaves, the words of its slot that were corrected on the way being counted (R405). The receive of a tile program takes a chunk's data, and a packet that matches nothing is counted. -/
def Obligations.ChunksAndJoins : Prop :=
  ∀ (s : State) (n : Nat) (x : InPkt) (cl : Coll) (j : Join) (i : JoinIn) (p : Nat) (post : Posted) (corrected : BitVec 12),
    let h := joinHop j
    let sc := rbump s (.cumCtr 8) corrected.toNat
    let bs := mread i.data 0 (hopBytes cl h)
    let sum := j.sum.flatMap fun v => leBytes (fmtBits cl.fmt / 8) (encodeScalar (scalarFmt cl.fmt) v)
    let last := memberAt cl (j.seg.getLastD 0)
    let gone (c : Coll) : Coll := { c with joins := dropFirst (fun k => decide (k = j)) c.joins, progressNs := s.localNs }
    (arrivedAt s n 0x08 = some x → isToken x.pkt = false →
      (∀ t, claimOf s x.pkt.tag = some cl → joinFeed (takeArrived s n) cl x.pkt = some t → exec (.chunkData n) s = .next t) ∧
      (claimOf s x.pkt.tag = none → postedOf s x.pkt = none →
        ∃ t, exec (.chunkData n) s = .next t ∧ t = { takeArrived s n with regs := t.regs } ∧ rget t (.fabDrop 3) = rget s (.fabDrop 3) + 1 ∧
          RegsBut s t [.fabDrop 3]) ∧
      (claimOf s x.pkt.tag = none → postedOf s x.pkt = some (p, post) → (coreOf s p).inColl = true →
        ∃ t, exec (.chunkData n) s = .next t ∧ t = { takeArrived s n with cores := t.cores } ∧ (∀ k, k ≠ p → coreOf t k = coreOf s k) ∧
          ∃ y ∈ (coreOf t p).posted, y.rxn = post.rxn ∧ y.got = post.got + x.pkt.payload.length ∧
            y.data = mwrite post.data x.pkt.addr.toNat x.pkt.payload)) ∧
    ((joinChecks s)[n]? = some (cl, j, i) →
      (chunkGood i.auxSeen j.chunk bs = true → collOf s cl.q cl.seq = some cl →
        ∃ t, exec (.chunkCheck true n) s = .next t ∧ t = { s with regs := t.regs, queues := t.queues, coll := t.coll } ∧
          rget t (.cumCtr 2) = rget s (.cumCtr 2) + BitVec.ofNat 64 bs.length ∧ RegsBut s t [.cumCtr 2] ∧
          t.coll.entries = s.coll.entries ∧
          ∃ c, collOf t cl.q cl.seq = some c ∧ c.checked = cl.checked + 1 ∧ c.progressNs = s.localNs ∧ c.joins.length = cl.joins.length) ∧
      (∀ e, chunkGood i.auxSeen j.chunk bs = false → entryOf s cl.ref = some e → e.st = .opened → e.attempt = cl.attempt →
        ∃ t e', exec (.chunkCheck true n) s = .next t ∧ entryOf t cl.ref = some e' ∧ e'.st = .tainted ∧ e'.attempt = cl.attempt ∧
          e'.reason = statusCode .collCrcBad)) ∧
    ((joinsReady s)[n]? = some (cl, j) → physOf s last.unit.toNat = some p →
      (∀ y, j.succ = none → ((coreOf s p).posted.find? fun x => decide (x.chunk = some (BitVec.ofNat 32 j.chunk)) && decide (x.tag = cl.tag) &&
          decide (x.got = 0)) = some y →
        exec (.joinEmit ⟨n, corrected⟩) s = .next (collAdvance (putColl (rbump (sendChunk true sc cl last.unit.toNat (ownNode s) last.unit y.rxn j.chunk false sum)
          (.cumCtr 3) 1) (gone cl)) cl.q cl.seq)) ∧
      (∀ y si, j.succ = some si → j.cts = some y →
        exec (.joinEmit ⟨n, corrected⟩) s = .next (collAdvance (putColl (rbump (sendChunk true sc cl last.unit.toNat (memberAt cl si).node
          (memberAt cl si).unit y.rxn j.chunk false sum) (.cumCtr 3) 1) (gone cl)) cl.q cl.seq)))

/-! ## Errors, retirement, failover, debug (spec/18) -/

/-- R569 to R573, R576: a record is put into the queue of the die of its resource with its time and flags, and counted; where
the queue holds a record of the resource already it is raised by one class; a full queue loses it with no raised action (the model's
reading, log entry 52), counts it, and is escalated: its die, or the welkin die, is fatal. The record of a full queue of a die is raised
where the welkin queue holds one of that die. A record whose raise makes a channel due for retirement may be followed by that record
(R268, R571); here it is not. The handler logs the oldest record, if the log is on, and frees it. -/
def Obligations.ErrorRecords : Prop :=
  ∀ (s : State) (r : ErrRec) (queue : Fin 5) (x : ErrRec) (rest : List ErrRec),
    let t := raiseRecord s r
    let q := errQ s r.source
    let put : ErrRec := { r with
      cls := min 5 (if (q.recs.any fun x => decide (x.resource = r.resource)) && !r.followOn then r.cls + 1 else r.cls)
      raised := (q.recs.any fun x => decide (x.resource = r.resource)) && !r.followOn, time := s.time.now, timeFlags := timeFlags s }
    let alone : Prop := put.raised = true → put.cls = 3 → r.resource.toNat / 2 ^ 24 ≠ 4
    (alone → q.recs.length < 32 → (errQ t r.source).recs = q.recs ++ [put] ∧ (errQ t r.source).lastStatus = some r.status ∧
      rget t (.errRecords r.source) = rget s (.errRecords r.source) + 1 ∧
      RegsBut s t [.errRecords r.source, .errRaised r.source] ∧ (∀ n, n ≠ r.source → errQ t n = errQ s n)) ∧
    (32 ≤ q.recs.length → r.source = 4 → (errQ t 4).recs = q.recs ∧ (errQ t 4).escalated = true ∧ Due.welkinFatal ∈ t.err.due ∧
      rget t (.errOverflow 4) = rget s (.errOverflow 4) + 1) ∧
    (32 ≤ q.recs.length → r.source < 4 → (errQ s 4).recs.length < 32 → (errQ t r.source).recs = q.recs ∧
      Due.dieFatal r.source causeReset ∈ t.err.due ∧ rget t (.errOverflow r.source) = rget s (.errOverflow r.source) + 1 ∧
      ∃ o, (errQ t 4).recs = (errQ s 4).recs ++ [o] ∧ o.status = .errQueueOverflow ∧ o.resource = resource 0x0E r.source ∧
        o.raised = (errQ s 4).recs.any (fun x => decide (x.resource = o.resource)) ∧ o.cls = (if o.raised then 5 else 4) ∧
        (o.raised = true → Due.packageFatal .errQueueOverflow ∈ t.err.due)) ∧
    (handlerServes s queue.val = true → (errQ s queue.val).recs = x :: rest → x.cls < 3 →
      (rbit s .errCtrl 3 = false → ∃ t, exec (.errRecordFree queue) s = .next t ∧ t = { s with err := t.err } ∧ t.err.due = s.err.due ∧
        t.err.logSeq = s.err.logSeq ∧ errQ t queue.val = { errQ s queue.val with recs := rest } ∧ ∀ n, n ≠ queue.val → errQ t n = errQ s n) ∧
      (rbit s .errCtrl 3 = true → rfld s .errCtrl 0 3 = 0 → (writeLog s x).2 = none →
        ∃ t, exec (.errRecordFree queue) s = .next t ∧ t.dev = (writeLog s x).1.dev ∧ t.hostMem = (writeLog s x).1.hostMem ∧
          t.err.logSeq = s.err.logSeq + 1 ∧ rget t .errLogWritten = s.err.logSeq ∧ (errQ t queue.val).recs = rest)) ∧
    (handlerServes s queue.val = true → (errQ s queue.val).recs = x :: rest → rbit s .errCtrl 3 = false → x.cls = 4 →
      ∃ t, exec (.errRecordFree queue) s = .next t ∧ (errQ t queue.val).recs = rest ∧ t.fld.live.eventNext = fldAdd 32 s.fld.live.eventNext 1 ∧
        t = { s with err := t.err, fld := t.fld, regs := t.regs })

/-- R579, R580, R249: a core that finds an error in its state ends its program with CORE_HW_FAULT, is recorded, and is due for
retirement; its logical number then passes to an unused good spare of its cluster, whose page is zero and whose scratchpad is
zero or, where a scratchpad bank was due, the core's; with no spare the number becomes absent. -/
def Obligations.CoreRetirement : Prop :=
  ∀ (s : State) (core : Fin 4224) (l i : Nat),
    let p := core.val
    let c := p / 66
    let k := clusterOf s c
    let sp := 66 * c + 64 + i
    let page := regOffset (.coreFeState l)
    let quiet : Prop := (coreOf s p).phase = .idle ∧ (coreOf s p).inColl = false ∧ coreListed s p = true ∧ p % 66 < 64 ∧ logicalOf s p = some l
    let passed (t : State) (spad : List Host.Cell) (poison : List Nat) : Prop :=
      (coreOf t p).failed = true ∧ Recorded s t .coreRetired (coreRes p) (BitVec.ofNat 64 (l % 64)) ∧
        clusterOf t c = (if i = 0 then { k with spare0 := BitVec.ofNat 8 (l % 64) } else { k with spare1 := BitVec.ofNat 8 (l % 64) }) ∧
        (∀ n, n ≠ c → clusterOf t n = clusterOf s n) ∧ (coreOf t sp).spad = spad ∧ (coreOf t sp).spadPoison = poison ∧
        (∀ q, q ≠ p → q ≠ sp → coreOf t q = coreOf s q) ∧ t.dev = s.dev
    ((coreOf s p).failed = false → dieServes s (p / 66 / 16) = true → coreListed s p = true → logicalOf s p = some l → (coreOf s p).inColl = false →
      (coreOf s p).phase ≠ .idle → (coreOf s p).fault = none → (coreOf s p).atq = [] → (errQ s (resourceDie (coreRes p))).recs.length < 32 →
      ∃ t, exec (.coreHwFault core) s = .next t ∧ (coreOf t p).failed = true ∧ (coreOf t p).phase = .idle ∧
        (coreOf t p).lastStatus = .coreHwFault ∧ (coreOf t p).pc = (coreOf s p).pc ∧ Due.retire (coreRes p) ∈ t.err.due ∧
        ∃ r ∈ (errQ t (resourceDie (coreRes p))).recs, r.status = .coreHwFault ∧ r.resource = coreRes p) ∧
    (quiet → Due.retire (coreRes p) ∈ s.err.due → dieServes s (p / 66 / 16) = true → freeSpare s c = some i →
      ∃ t, exec (.coreRetired core) s = .next t ∧ passed t [] []) ∧
    (quiet → (coreOf s p).retirePending = true → (coreOf s p).failed = false → sramServes s true p = true → freeSpare s c = some i →
      ∃ t, exec (.spadRetireCopy core) s = .next t ∧ passed t (coreOf s p).spad (bothMarks (coreOf s p).spadPoison (coreOf s p).spadBad)) ∧
    (quiet → Due.retire (coreRes p) ∈ s.err.due → dieServes s (p / 66 / 16) = true → freeSpare s c = none →
      ∃ t, exec (.coreRetired core) s = .next t ∧ clusterOf t c = { k with absent := k.absent ||| (1 <<< (l % 64)) } ∧
        Recorded s t .coreLost (coreRes p) (BitVec.ofNat 64 (l % 64)) ∧ (∀ q, q ≠ p → coreOf t q = coreOf s q) ∧
        ∀ r, (regOffset r < page ∨ page + 0x400 ≤ regOffset r) → (∀ x ∈ recordRegs (resourceDie (coreRes p)), regOffset r ≠ regOffset x) →
          rget t r = rget s r)

/-- R581, R608, R624: a fault takes an application core out of service with its record; the partner of a steward takes over, a
pair out makes its die fatal, and all service cores out the welkin die; a core that a second fault within 1 s does not keep
out resumes, its registers as at a reset. A steward reaches its partner's cluster memory while that steward is out, and takes an access fault otherwise.
R549, R601, R607, R608: under an open COMPUTE_CORES scope a sequencer is halted, and when halted issues one instruction;
without the scope nothing happens; a resumed one does not count the time that it was halted. An APP_CORES scope halts
application cores. -/
def Obligations.FailoverAndDebug : Prop :=
  (∀ (s : State) (k : Fin 4) (cl : BitVec 6) (off : BitVec 25) (n : BitVec 2) (v : Word64),
     let c := cl.toNat
     let o := partnerOf c
     let svc : Fin 68 := ⟨k.val, by omega⟩
     let steward : Fin 68 := ⟨4 + cl.toNat, by have := cl.isLt; omega⟩
     let len := 2 ^ n.toNat
     ((svcOf s k.val).out = false →
       ∃ t, exec (.appCoreFault svc false) s = .next t ∧ (svcOf t k.val).out = true ∧ (svcOf t k.val).lastFault = some s.localNs ∧
         Recorded s t .appCoreFault (appRes k.val) 0 ∧ t.clusters = s.clusters ∧ (∀ i, i ≠ k.val → svcOf t i = svcOf s i) ∧
         ((∀ i, i < 4 → i ≠ k.val → (svcOf s i).out = true) → Due.welkinFatal ∈ t.err.due)) ∧
     ((clusterOf s c).stewardOut = false → dieServes s (clusterDie c) = true → (svcOf s (4 + c)).halted = false →
       ∃ t, exec (.appCoreFault steward true) s = .next t ∧ (clusterOf t c).stewardOut = true ∧
         ((clusterOf s o).stewardOut = false → (clusterOf t c).partnerServes = true ∧ clusterOf t o = clusterOf s o ∧
           Recorded s t .appCoreFault (appRes (4 + c)) 0) ∧
         ((clusterOf s o).stewardOut = true → (clusterOf t c).partnerServes = false ∧ (clusterOf t o).partnerServes = false ∧
           Due.dieFatal (clusterDie c) causeReset ∈ t.err.due)) ∧
     ((clusterOf s c).stewardOut = false → (svcOf s (4 + c)).halted = true → exec (.appCoreFault steward true) s = .next s) ∧
     ((svcOf s k.val).locked = false → exec (.appCoreResume svc) s = .next (setSvc s k.val { svcOf s k.val with hart := {}, out := false })) ∧
     ((svcOf s k.val).locked = true → exec (.appCoreResume svc) s = .next s) ∧
     ((svcOf s (4 + c)).locked = false → (clusterOf s c).stewardOut = true → (clusterOf s o).stewardOut = false →
       exec (.appCoreResume steward) s = .next (setCluster (setSvc s (4 + c) { svcOf s (4 + c) with hart := {} }) c { clusterOf s c with stewardOut := false, partnerServes := false })) ∧
     ((clusterOf s c).stewardOut = false → dieServes s (clusterDie c) = true →
       ((clusterOf s o).partnerServes = true → (clusterOf s o).clearing = false → clusterRuns s o = true → (clusterOf s o).half = false →
         (clusterOf s o).cmemPoison = [] → (clusterOf s o).cmemBad = [] → off.toNat % len = 0 → off.toNat + len ≤ 0x800000 →
         (exec (.stewardPartnerAccess cl off (.load n)) s = .next (setCluster s c { clusterOf s c with
           stewardData := BitVec.ofNat 64 (leNat (mread (clusterOf s o).cmem off.toNat len)), lastFault := none })) ∧
         (∃ t, exec (.stewardPartnerAccess cl off (.store n v)) s = .next t ∧ (clusterOf t o).cmem =
             mwrite (clusterOf s o).cmem off.toNat (leBytes len v.toNat) ∧ (clusterOf t c).lastFault = none ∧ t = { s with clusters := t.clusters })) ∧
       ((clusterOf s o).partnerServes = false →
         exec (.stewardPartnerAccess cl off (.load n)) s = .next (setCluster s c { clusterOf s c with lastFault := some 5 }) ∧
         exec (.stewardPartnerAccess cl off (.store n v)) s = .next (setCluster s c { clusterOf s c with lastFault := some 7 })))) ∧
  (∀ (s : State) (core : Fin 4096) (p : Nat) (cl : Fin 64) (k : Fin 4) (step : Bool),
     let c := coreOf s p
     (s.sec.scopes.getLsbD 1 = true → dieServes s (clusterDie (core.val / 64)) = true → physOf s core.val = some p →
       (c.halted = false → exec (.debugHalt (.sequencer core) step) s =
         .next (setCore s p { c with halted := true, stepping := false, haltNs := s.localNs })) ∧
       (c.halted = true → exec (.debugHalt (.sequencer core) true) s = .next (setCore s p { c with stepping := true }))) ∧
     (s.sec.scopes.getLsbD 1 = false → exec (.debugHalt (.sequencer core) step) s = .next s) ∧
     (s.sec.scopes.getLsbD 0 = true →
       exec (.debugHalt (.steward cl) false) s = .next (setSvc s (4 + cl.val) { svcOf s (4 + cl.val) with halted := true }) ∧
       exec (.debugHalt (.service k) false) s = .next (setSvc s k.val { svcOf s k.val with halted := true })) ∧
     (s.sec.scopes.getLsbD 0 = false → exec (.debugHalt (.steward cl) step) s = .next s ∧ exec (.debugHalt (.service k) step) s = .next s) ∧
     (dieServes s (clusterDie (core.val / 64)) = true → physOf s core.val = some p → c.halted = true →
       exec (.debugResume (.sequencer core)) s =
         .next (setCore s p { c with halted := false, stepping := false, startNs := c.startNs + (s.localNs - c.haltNs) })) ∧
     exec (.debugResume (.steward cl)) s = .next (setSvc s (4 + cl.val) { svcOf s (4 + cl.val) with halted := false }) ∧
     exec (.debugResume (.service k)) s = .next (setSvc s k.val { svcOf s k.val with halted := false }))

/-! ## Die links and dies (spec/14) -/

/-- R443 to R446, R455, R456: a word of a stream goes out on the lane whose turn it is, and the turn passes on, while nothing pauses the
direction; a beat that comes as it was sent is accepted, with the CREDIT and the NAK that it carries for the paired lane, and its word goes to
the receiver port of its stream in the lane's turn; one whose CHECK fails makes the lane discard and send NAK once; a replay resends the
unacknowledged words, which are then accepted, and with none of them ends the discarding (log entry 47); after four replays within 1 µs the
walking patterns send the wires that they find failed to the remap, and are counted when they find none; the loss of a first clock wire is only
noted; an idle spare that fails is marked. R457 to R459: while spares are left, the next failed wire of a FULL bundle is replaced by one,
counted and recorded, and the words of the direction that no port has taken are resent and taken in order, but those of a stream left without
lanes, which wait; with none left the bundle becomes HALF, rebuilt from its good wires, or is DISABLED with too few of them. What the
wires change is an operand (log entry 8); the order in which streams hold lanes is the model's (log entry 47). -/
def Obligations.DieLinks : Prop :=
  (∀ (s : State) (link : Fin 8) (dir : Bool) (bundle : BitVec 2) (lane : BitVec 3) (stream : BitVec 4) (w : BitVec 512) (flips : BitVec 528)
      (wires : List (Fin 282)) (spare : BitVec 4),
     let l := link.val
     let d := b01 dir
     let b := bundle.toNat
     let i := lane.toNat
     let k := bundleOf (linkOf s l d) b
     let x := laneAt k i
     let r := laneAt (bundleOf (linkOf s l (1 - d)) b) i
     let here (t : State) : Bundle := bundleOf (linkOf t l d) b
     let holds := (streamHolds (linkOf s l d) stream.toNat).length
     let turned (t : State) : Prop :=
       tget (fun _ => 0) (linkOf t l d).turn stream.toNat = (tget (fun _ => 0) (linkOf s l d).turn stream.toNat + 1) % holds
     let heard (t : State) : Prop := laneAt (bundleOf (linkOf t l (1 - d)) b) i = { r with
       unacked := r.unacked.drop (min 63 r.credit), credit := r.credit - min 63 r.credit, nakSeen := r.nakSeen || r.nakDue, nakDue := false }
     let portNext (y : LinkDir) (j : Nat) : Option (Nat × Nat) := (streamHolds y j)[tget (fun _ => 0) y.rturn j % (streamHolds y j).length]?
     let received (y : LinkDir) (j : Nat) : List (BitVec 512) := tget (fun _ => []) y.rx j
     let others (t : State) : Prop := ∀ l' d', ¬ (l' = l ∧ (d' = d ∨ d' = 1 - d)) → d' < 2 → linkOf t l' d' = linkOf s l' d'
     (i < bundleLanes k → x.unacked.length < 32 → x.nakSeen = false → dirPaused (linkOf s l d) = false → x.discard = false →
       turnLane s l d stream.toNat = some (b, i) →
       (∃ t, exec (.linkBeatReceive link dir bundle lane (some (stream, w)) 0) s = .next t ∧
         laneAt (here t) i = { x with unacked := x.unacked ++ [w], credit := x.credit + 1, got := (laneAt (here t) i).got } ∧ heard t ∧ turned t ∧
         (laneStream (linkOf s l d) (b, i) = some stream.toNat → gotWords (linkOf s l d) = 0 →
           (portNext (linkOf s l d) stream.toNat = some (b, i) → (laneAt (here t) i).got = [] ∧
             received (linkOf t l d) stream.toNat = received (linkOf s l d) stream.toNat ++ [w]) ∧
           (portNext (linkOf s l d) stream.toNat ≠ some (b, i) → (laneAt (here t) i).got = [w] ∧
             received (linkOf t l d) stream.toNat = received (linkOf s l d) stream.toNat)) ∧
         rget t (.dlkCtr l d 3) = rget s (.dlkCtr l d 3) + 1 ∧ RegsBut s t [.dlkCtr l d 3] ∧ others t) ∧
       (beatGood (onWires (beatOf s l d b i (some w) false) flips) = false →
         ∃ t, exec (.linkBeatReceive link dir bundle lane (some (stream, w)) flips) s = .next t ∧
           laneAt (here t) i = { x with unacked := x.unacked ++ [w], discard := true, nakDue := true } ∧ turned t ∧
           t = { s with links := t.links } ∧ others t)) ∧
     (i < bundleLanes k → x.discard = false →
       ∃ t, exec (.linkBeatReceive link dir bundle lane none 0) s = .next t ∧ laneAt (here t) i = x ∧ heard t ∧
         t = { s with links := t.links } ∧ others t) ∧
     ((32 ≤ x.unacked.length ∨ x.nakSeen = true ∨ dirPaused (linkOf s l d) = true ∨ turnLane s l d stream.toNat ≠ some (b, i)) →
       exec (.linkBeatReceive link dir bundle lane (some (stream, w)) flips) s = .next s) ∧
     (i < bundleLanes k → x.nakSeen = true → dirPaused (linkOf s l d) = false → x.unacked = [] →
       ∃ t, exec (.linkReplay link dir bundle lane []) s = .next t ∧
         laneAt (here t) i = { x with nakSeen := false, discard := false, replays := (s.localNs :: x.replays).take 4 } ∧
         rget t (.dlkCtr l d 0) = rget s (.dlkCtr l d 0) + 1 ∧ RegsBut s t [.dlkCtr l d 0] ∧ others t) ∧
     (i < bundleLanes k → x.nakSeen = true → dirPaused (linkOf s l d) = false → x.unacked ≠ [] →
       ∃ t, exec (.linkReplay link dir bundle lane []) s = .next t ∧
         laneAt (here t) i = { x with
           credit := x.credit + x.unacked.length, nakSeen := false, discard := false, replays := (s.localNs :: x.replays).take 4
           got := (laneAt (here t) i).got } ∧
         (laneStream (linkOf s l d) (b, i) = some stream.toNat → streamHolds (linkOf s l d) stream.toNat = [(b, i)] →
           (laneAt (here t) i).got = [] ∧
           received (linkOf t l d) stream.toNat = received (linkOf s l d) stream.toNat ++ x.got ++ x.unacked) ∧
         rget t (.dlkCtr l d 0) = rget s (.dlkCtr l d 0) + 1 ∧
         rget t (.dlkCtr l d 3) = rget s (.dlkCtr l d 3) + BitVec.ofNat 64 x.unacked.length ∧
         RegsBut s t [.dlkCtr l d 0, .dlkCtr l d 3] ∧ others t) ∧
     (i < bundleLanes k → x.replays.length = 4 → x.replays.getD 0 0 ≤ x.replays.getD 3 0 + 1000 →
       (∃ t, exec (.laneDiagnosis link dir bundle lane []) s = .next t ∧ laneAt (here t) i = { x with replays := [] } ∧
         (here t).due = k.due ∧ rget t (.dlkCtr l d 1) = rget s (.dlkCtr l d 1) + 1 ∧ RegsBut s t [.dlkCtr l d 1]) ∧
       (wires ≠ [] → wires.Nodup → (∀ w ∈ wires, w.val < 280) →
         ∃ t, exec (.laneDiagnosis link dir bundle lane wires) s = .next t ∧ t = { s with links := t.links } ∧
           (here t).due = k.due ++ (wires.map (·.val)).filter (fun w => !k.failed.contains w && !k.due.contains w) ∧
           (here t).failed = k.failed ∧ (here t).mode = k.mode) ∧
       (∀ w : Fin 282, wires = [w] → 280 ≤ w.val → w.val ∉ k.due → failedClocks k = 0 →
         ∃ t, exec (.laneDiagnosis link dir bundle lane wires) s = .next t ∧ t = { s with links := t.links } ∧
           (here t).due = k.due ∧ (here t).failed = setAdd w.val k.failed ∧ (here t).mode = k.mode)) ∧
     (∀ c : BitVec 1, (k.mode = .full ∨ k.mode = .half) → failedClocks k = 0 →
       ∃ t, exec (.wireRemap link dir ⟨bundle, some c⟩) s = .next t ∧ t = { s with links := t.links } ∧
         here t = { k with failed := setAdd (280 + c.toNat) k.failed } ∧ others t) ∧
     (k.mode = .full → 0 < sparesLeft k → k.failed.contains (264 + spare.toNat) = false →
       ∃ t, exec (.spareWireFail link dir bundle spare) s = .next t ∧ t = { s with links := t.links } ∧
         here t = { k with failed := setAdd (264 + spare.toNat) k.failed } ∧ others t)) ∧
  (∀ (s : State) (link : Fin 8) (dir : Bool) (bundle : BitVec 2) (w : Nat) (rest : List Nat),
     let l := link.val
     let d := b01 dir
     let b := bundle.toNat
     let k := bundleOf (linkOf s l d) b
     let here (t : State) : Bundle := bundleOf (linkOf t l d) b
     let x := linkOf s l d
     let held (j : Nat) : List (Bool × BitVec 512) := tget (fun _ => []) x.held j ++ undealt x j
     let marked := rest.foldl (fun t w => setAdd w t) (setAdd w k.failed)
     k.due = w :: rest → w ∉ rest → w < 264 → k.mode = .full →
     (0 < sparesLeft k → (∀ g ∈ grants s l d, g.2 = 0 → 0 < streamLanes s l d g.1 → g.1 ∈ x.starved) →
       ∃ t, exec (.wireRemap link dir ⟨bundle, none⟩) s = .next t ∧
         here t = { k with failed := setAdd w k.failed, due := rest, lanes := (here t).lanes } ∧
         (∀ i, i < 8 → laneAt (here t) i = { replays := (laneAt k i).replays }) ∧
         (∀ j, j < 16 →
           (streamHolds (linkOf t l d) j ≠ [] → tget (fun _ => []) (linkOf t l d).rx j = tget (fun _ => []) x.rx j ++ (held j).map (·.2) ∧
             tget (fun _ => []) (linkOf t l d).held j = []) ∧
           (streamHolds (linkOf t l d) j = [] → tget (fun _ => []) (linkOf t l d).rx j = tget (fun _ => []) x.rx j ∧
             tget (fun _ => []) (linkOf t l d).held j = held j)) ∧
         rget t (.dlkCtr l d 2) = rget s (.dlkCtr l d 2) + 1 ∧ Recorded s t .dlkWireSpared (wireRes l d b w) 0 ∧
         RegsBut s t ([.dlkCtr l d 2, .dlkCtr l d 3] ++ recordRegs (resourceDie (wireRes l d b w)))) ∧
     (sparesLeft k = 0 → trainMode { k with failed := marked } false ≠ .disabled →
       ∃ t, exec (.wireRemap link dir ⟨bundle, none⟩) s = .next t ∧ (here t).mode = .half ∧ (here t).failed = marked ∧ (here t).due = [] ∧
         (here t).lanes = []) ∧
     (sparesLeft k = 0 → trainMode { k with failed := marked } false = .disabled →
       ∃ t, exec (.wireRemap link dir ⟨bundle, none⟩) s = .next t ∧ (here t).mode = .disabled ∧ (here t).failed = marked ∧ (here t).due = []))

/-- R462 to R467, R656: a cause that is detected makes a die in service FENCING, with its record, and the fence runs to its end: the
die is out, its links are fenced, its window is closed, its cores are idle and
hold nothing; RESET asks for that with cause RESET and reads 1 until then; a die that is out begins its return, and is READY
once its clearing and its recovery have ended. Here no command of the package is started. -/
def Obligations.DiesOutAndBack : Prop :=
  ∀ (s : State) (die : Fin 4) (cause : BitVec 3) (kept : Bool),
    let n := die.val
    let c : Byte := cause.setWidth 8
    ((cause = 2 ∨ cause = 4) → dieState s n = .inService →
      ∃ t, exec (.dieFence die cause kept) s = .next t ∧ dieState t n = .fencing ∧ Due.dieFatal n c ∈ t.err.due ∧
        Recorded s t .dieOut (resource 0x0E n) (c.setWidth 64) ∧ RegsBut s t (recordRegs 4) ∧ t = { s with err := t.err, regs := t.regs }) ∧
    (dieState s n = .fencing → Due.dieFatal n c ∈ s.err.due → (∀ q, (queueOf s q).flight = [] ∧ (queueOf s q).queued = []) → s.queues = [] →
      s.coll.colls = [] → s.cfg.commit = none → (∀ k, (updOf s k).tasks = [] ∧ (updOf s k).blocks = []) →
      ∃ t, exec (.dieFence die cause kept) s = .next t ∧ (dieOf t n).st = .out ∧ (dieOf t n).cause = c ∧ (dieOf t n).stacksKept = kept ∧
        (dieOf t n).linksUp = false ∧ (errQ t n).takenOver = true ∧ (∀ m, m ≠ n → dieOf t m = dieOf s m) ∧
        (∀ p, p / 66 / 16 = n → (coreOf t p).phase = .idle ∧ (coreOf t p).spad = [] ∧ (coreOf t p).retirePending = false ∧
          (tcanon (fun _ => {}) s.cores = true → (coreOf t p).failed = (coreOf s p).failed)) ∧
        (∀ m, m / 16 = n → cluOff t m = false) ∧
        (∀ p, p / 66 / 16 ≠ n → coreOf t p = coreOf s p) ∧ (∀ m, m / 16 ≠ n → clusterOf t m = clusterOf s m) ∧
        (∀ x ∈ dieDirs n, ∀ b, b < 4 → (bundleOf (linkOf t x.1 x.2) b).mode = .fenced) ∧ Due.dieFatal n c ∉ t.err.due ∧ t.dev = s.dev) ∧
    ((dieOf s n).st ≠ .out → rbit s (.dlkDieCtrl n) 1 = false →
      ∃ t, exec (.dieReset die) s = .next t ∧ rbit t (.dlkDieCtrl n) 1 = true ∧
        (dieState s n ≠ .fencing → Due.dieFatal n causeReset ∈ t.err.due ∧ Recorded s t .dieOut (resource 0x0E n) 1) ∧
        (dieState s n = .fencing → t.err = s.err) ∧ t.dies = s.dies ∧ t.cores = s.cores ∧ t.dev = s.dev) ∧
    (s.pkg.fatal = none → (dieOf s n).st = .out → (∀ k, 8 * n ≤ k → k < 8 * n + 8 → (stackOf s k).ready = false ∧ (stackOf s k).failedCh = []) →
      ∃ t, exec (.dieReturn die [] []) s = .next t ∧ (dieOf t n).st = .returning ∧ (dieOf t n).linksUp = true ∧
        (∀ m, m ≠ n → dieOf t m = dieOf s m) ∧ (∀ m, 16 * n ≤ m → m < 16 * n + 16 → (clusterOf t m).clearing = true) ∧
        (∀ k, 8 * n ≤ k → k < 8 * n + 8 → (updOf t k).recovering = (stackOf s k).kept ∧ (updOf t k).journalInit = !(stackOf s k).kept)) ∧
    (s.pkg.fatal = none → (dieOf s n).st = .returning → dieDone s n = true →
      exec (.dieReturn die [] []) s = .next (setDie s n { dieOf s n with st := .ready }))

/-! ## The governor and the coolant loop (spec/15) -/

/-- R476 to R478, R481, R483, R486, R490, R491: a droop above the threshold stretches the clock and is counted once, and its
end enters its bin and charges the interval with the cycles not charged yet; the guard level recovers by one; a grace window that
runs out lowers its cluster; an idle cluster turns off, which ends a droop event that runs, and a command that needs it wakes it and
clears it; the step hold and the ramp windows begin and end at their instants, in cluster time (the model's choice, log entry 11).
The governor holds after a thermal trip and in a package-fatal state (R485, R578). -/
def Obligations.ClusterPower : Prop :=
  ∀ (s : State) (cluster : Fin 64) (mv : BitVec 16) (cycles : BitVec 32) (d since us : Nat) (w : BitVec 2),
    let c := cluster.val
    let g := cluGovOf s c
    let fl := tget (fun _ => 0) s.gov.winFlags w.toNat
    let now := s.time.now.toNat
    let bin := clusterDie c
    (clusterRuns s c = true → droopThresh s < mv.toNat →
      (g.droop = none → exec (.droopDetect cluster mv) s = .next (setCluGov (rbump s (.govEv 5) 1) c
        { g with droop := some mv.toNat, droopNs := s.localNs, droopCyc := 0 })) ∧
      (g.droop = some d → exec (.droopDetect cluster mv) s = .next (setCluGov s c { g with droop := some (max d mv.toNat) }))) ∧
    (g.droop = some d → 16 ≤ cycles.toNat →
      ∃ t, exec (.stretchRecover cluster cycles) s = .next t ∧
        cluGovOf t c = { g with droop := none, droopCyc := 0, stretched := g.stretched + (cycles.toNat - g.droopCyc) } ∧
        rget t (.govDroop bin (droopBin d)) = rget s (.govDroop bin (droopBin d)) + 1 ∧
        rget t (.govEv 6) = rget s (.govEv 6) + cycles.setWidth 64 ∧ RegsBut s t [.govDroop bin (droopBin d), .govEv 6] ∧
        t = { s with regs := t.regs, gov := t.gov, fld := t.fld }) ∧
    (govHeld s = false → g.lg < 24 → g.trigNs + 1000000 ≤ s.localNs →
      exec (.guardRecover cluster) s = .next (setCluGov s c { g with lg := g.lg + 1, trigNs := s.localNs })) ∧
    (govHeld s = false → g.deferSince = some since → since + 1000 * graceUs s ≤ s.localNs →
      exec (.graceExpiry cluster) s = .next (setCluGov (rbump s (.govEv 1) 1) c
        { g with level := min g.level g.wanted, deferSince := none, graceOut := some s.localNs })) ∧
    (govHeld s = false → dieServes s (clusterDie c) = true → clusterActive s c = false → rfld s (.govCluCtrl c) 0 32 = us → us ≠ 0 →
      g.off = false → g.idleSince + 1000 * us ≤ s.localNs →
      (g.droop = none → exec (.idleOff cluster) s = .next (setCluGov s c { g with off := true, stretched := 0 })) ∧
      (g.droop = some d →
        ∃ t, exec (.idleOff cluster) s = .next t ∧ cluGovOf t c = { g with off := true, droop := none, droopCyc := 0, stretched := 0 } ∧
          rget t (.govDroop bin (droopBin d)) = rget s (.govDroop bin (droopBin d)) + 1 ∧
          rget t (.govEv 6) = rget s (.govEv 6) + BitVec.ofNat 64 (g.droopCyc + stretchedSince s g) ∧
          RegsBut s t [.govDroop bin (droopBin d), .govEv 6] ∧ t = { s with regs := t.regs, gov := t.gov, fld := t.fld })) ∧
    (∀ q k r rest, govHeld s = false → g.off = true → dieServes s (clusterDie c) = true → s.queues = [(q, k)] → k.state = .running → k.queued = r :: rest →
      (neededClusters s q r).contains c = true →
      ∃ t, exec (.clusterWake cluster) s = .next t ∧ (cluGovOf t c).off = false ∧ (cluGovOf t c).level ≤ s.gov.lhard ∧
        (clusterOf t c).clearing = true ∧ (clusterOf t c).cmem = [] ∧ ∀ n, n ≠ c → cluGovOf t n = cluGovOf s n) ∧
    (∀ t, s.gov.holdEnd = some t → t ≤ now → exec .stepHoldExpiry s = .next { s with gov := { s.gov with holdEnd := none } }) ∧
    (rbit s (.govWinCtrl w.toNat) 63 = true → nbit fl 62 = false → (rget s (.govWinStart w.toNat)).toNat ≤ now →
      ∃ t, exec (.timedActionFire (.window w)) s = .next t ∧ t = { s with gov := t.gov, regs := t.regs } ∧
        nbit (tget (fun _ => 0) t.gov.winFlags w.toNat) 62 = true ∧
        nbit (tget (fun _ => 0) t.gov.winFlags w.toNat) 61 = decide (rfld s (.govWinCtrl w.toNat) 0 27 = 0) ∧
        ∀ v, v ≠ w.toNat → tget (fun _ => 0) t.gov.winFlags v = tget (fun _ => 0) s.gov.winFlags v) ∧
    (nbit fl 62 = true → nbit fl 61 = false → (rget s (.govWinStart w.toNat)).toNat + 1000 * rfld s (.govWinCtrl w.toNat) 0 27 ≤ now →
      exec (.rampWindowEnd w) s =
        .next { s with gov := { s.gov with winFlags := tset (fun _ => 0) s.gov.winFlags w.toNat (fl + 2 ^ 61) } })

/-- R479, R481, R485, R488: three samples above the hard cap lower the hard level and every cluster by four levels at once, and again 1 µs later at the soonest; a
write of GOV_CAP keeps its reserved bits, and a soft cap that falls is shaped from the present draw; at 115 °C every regulator
turns off, THERMTRIP_N is asserted, the valve opens, the record is written, and the package stops. -/
def Obligations.HardCaps : Prop :=
  ∀ (s : State) (a b c : BitVec 32) (v : Word64) (die : Fin 5) (temp : Half),
    (govHeld s = false → hardCap s < a.toNat → hardCap s < b.toNat → hardCap s < c.toNat →
      (∀ f, s.gov.fastNs = some f → f + 1000 ≤ s.localNs) →
      ∃ t, exec (.hardCapFastPath a b c) s = .next t ∧ t = { s with gov := t.gov, regs := t.regs } ∧ t.gov.lhard = s.gov.lhard - 4 ∧
        t.gov.hardLimited = true ∧ t.gov.fastNs = some s.localNs ∧ rget t (.govEv 2) = rget s (.govEv 2) + 1 ∧ RegsBut s t [.govEv 2] ∧
        ∀ n, n < 64 → cluGovOf t n = { cluGovOf s n with level := min (cluGovOf s n).level (s.gov.lhard - 4) }) ∧
    (a.toNat ≤ hardCap s → exec (.hardCapFastPath a b c) s = .next s) ∧
    (∀ f, s.gov.fastNs = some f → s.localNs < f + 1000 → exec (.hardCapFastPath a b c) s = .next s) ∧
    (barReachable s true = true → barServes s true (regOffset .govCap) = true →
      (let w : Word64 := (rget s .govCap &&& ~~~(0xFFFF0000FFFF : Word64)) ||| (v &&& (0xFFFF0000FFFF : Word64))
       hardCap s ≤ hardCap (rset s .govCap w) →
       exec (.govCapWrite (.whole v)) s = .next (if softCap (rset s .govCap w) < softCap s
         then { rset s .govCap w with gov := { s.gov with effSoft := max (softCap (rset s .govCap w)) s.gov.draw } } else rset s .govCap w))) ∧
    (115 * 256 ≤ temp.toInt → s.pkg.fatal = none →
      ∃ t, exec (.thermalTrip die temp) s = .next t ∧ t.pkg = { s.pkg with thermTrip := true } ∧ (∀ n, n < 64 → (cluGovOf t n).off = true) ∧
        t.gov.duty = (dutyOf 1023).toNat ∧ Due.packageFatal .thermalTrip ∈ t.err.due ∧ t.fld.live.trips = fldAdd 32 s.fld.live.trips 1 ∧
        Recorded s t .thermalTrip (facility (0x10 + die.val)) 0 ∧ RegsBut s t (recordRegs 4) ∧ t.cores = s.cores ∧ t.dev = s.dev) ∧
    (temp.toInt < 115 * 256 → exec (.thermalTrip die temp) s = .next s)

/-- R492 to R495: every 100 ms the sensors are read and the duty stays within D_MIN and D_MAX, at D_MAX where it is forced; each
sensor that failed three reads is recorded and forces it; the flow is computed from the pulses, two computations below MIN
make it LOW, and no pulses LOST, each recorded and counted, and with K_FLOW 0 nothing is monitored; leaving LOST, the clocks restart
at level 0. After a thermal trip and in a package-fatal state nothing of this moves (R485, R578). The fields of GOV_COOL_CTRL count as
the last interval end found them (R499). -/
def Obligations.CoolantLoop : Prop :=
  ∀ (s : State) (tIn tOut : Option Half) (outlet : Bool) (pulses : BitVec 32),
    let k := nfld s.gov.cool.toNat 32 16
    let mn := nfld s.gov.cool.toNat 48 16
    let moved (t : State) (f : FlowSt) (st : Status) : Prop :=
      t.gov.flow = f ∧ Recorded s t st (facility 2) 0 ∧
        rget t (.govEv 4) = rget s (.govEv 4) + 1 ∧ RegsBut s t ([.govEv 4] ++ recordRegs 4)
    (govHeld s = true → exec (.valveUpdate tIn tOut) s = .next s ∧ exec (.coolSensorFail outlet) s = .next s ∧
      exec (.flowComputation pulses) s = .next s) ∧
    (s.pkg.stage = 5 → govHeld s = false → s.gov.valveNs + 10 ^ 8 ≤ s.localNs →
      ∃ t, exec (.valveUpdate tIn tOut) s = .next t ∧ t = { s with gov := t.gov } ∧ t.gov.valveNs = s.localNs ∧ t.gov.tIn = tIn.getD s.gov.tIn ∧
        t.gov.tOut = tOut.getD s.gov.tOut ∧ t.gov.badIn = (if tIn.isSome then 0 else s.gov.badIn + 1) ∧
        t.gov.badOut = (if tOut.isSome then 0 else s.gov.badOut + 1) ∧
        dutyOf (dMin s) ≤ (t.gov.duty : Int) ∧ (t.gov.duty : Int) ≤ dutyOf (dMax s) ∧
        (throttled s = true ∨ s.gov.flow = .low ∨ s.gov.flow = .lost → (t.gov.duty : Int) = dutyOf (dMax s))) ∧
    (3 ≤ (if outlet then s.gov.badOut else s.gov.badIn) → (if outlet then s.gov.outNoted else s.gov.inNoted) = false → govHeld s = false →
      ∃ t, exec (.coolSensorFail outlet) s = .next t ∧ t.gov = { s.gov with
          sensorFail := true, inNoted := s.gov.inNoted || !outlet, outNoted := s.gov.outNoted || outlet, duty := (dutyOf (dMax s)).toNat } ∧
        Recorded s t .coolSensorFail (facility (b01 outlet)) 0 ∧ RegsBut s t (recordRegs 4)) ∧
    (govHeld s = false → s.gov.flowNs + 10 ^ 8 ≤ s.localNs →
      (k = 0 → s.gov.flow = .lost →
        ∃ t, exec (.flowComputation pulses) s = .next t ∧ t = { s with gov := t.gov } ∧ t.gov.flow = .notMonitored ∧ t.gov.lpkg = 0 ∧
          ∀ c, c < 64 → cluGovOf t c = { cluGovOf s c with level := 0 }) ∧
      (k = 0 → s.gov.flow ≠ .lost → exec (.flowComputation pulses) s = .next { s with gov := { s.gov with
        flowNs := s.localNs, flow := .notMonitored, flowRate := 0, nLow := 0, nLost := 0, nOk := 0, nBack := 0 } }) ∧
      (k ≠ 0 → mn * k ≤ pulses.toNat * 120000 → pulses ≠ 0 → s.gov.flow = .ok →
        ∃ t, exec (.flowComputation pulses) s = .next t ∧ t = { s with gov := t.gov } ∧ t.gov.flow = .ok ∧
          t.gov.flowRate = pulses.toNat * 120000 / k ∧ t.gov.nLow = 0) ∧
      (k ≠ 0 → pulses.toNat * 120000 < mn * k → mn * k ≤ 4 * (pulses.toNat * 120000) → pulses ≠ 0 → s.gov.flow = .ok → 1 ≤ s.gov.nLow →
        s.gov.draw ≤ 300000 → s.gov.draw ≤ hardCap s → ∃ t, exec (.flowComputation pulses) s = .next t ∧ moved t .low .flowLow) ∧
      (k ≠ 0 → pulses = 0 → s.gov.flow = .ok → ∃ t, exec (.flowComputation pulses) s = .next t ∧ moved t .lost .flowLost))

/-- R478 to R484, R496, R498, R499: at the first tick past a multiple of 10 µs the interval closes: what the package drew is
charged; every cluster keeps the temperature read, its thermal level moves by its rule, and no cluster runs above its hard
level. An ENERGY_MARK writes the snapshot of its interval end and is done with the energies of its queue and partition. -/
def Obligations.HeartIntervals : Prop :=
  ∀ (s : State) (e : Nat) (temps : List Half) (wt : Half) (q : Fin 4096) (seq : Word32) (f : Flight) (snap : BitVec 1024),
    let now := s.time.now.toNat
    let xs : List Consumer := [{ kind := .other, energy := e, cycles := 0, uses := [] }]
    let due := tget (fun _ => 0) s.gov.rem (regOffset (.govE 0)) + e
    (govHeld s = false → s.gov.lastEnd / 10000 < now / 10000 →
      ∃ t, exec (.heartIntervalEnd xs temps wt) s = .next t ∧ t.gov.lastEnd = now ∧ t.gov.lastLocal = s.localNs ∧
        t.gov.heart = rget s .govHeart ∧ t.gov.cool = rget s .govCoolCtrl ∧ t.gov.law = rget s .govCoolLaw ∧
        rget t (.govE 0) = rget s (.govE 0) + BitVec.ofNat 64 (due / 1024) ∧
        tget (fun _ => 0) t.gov.rem (regOffset (.govE 0)) = due % 1024 ∧
        (∀ c, c < 64 → (cluGovOf t c).temp = temps.getD c 0 ∧
          (cluGovOf t c).lt = thermalStep (min 105 (rfld s .govHeart 16 8)) (cluGovOf s c).lt (temps.getD c 0) wt ∧ (cluGovOf t c).stretched = 0 ∧
          (s.gov.flow ≠ .lost → (cluGovOf t c).level ≤ min t.gov.lhard (min (cluGovOf t c).lt (cluGovOf t c).lg))) ∧
        t.cores = s.cores ∧ t.dev = s.dev ∧ t.clusters = s.clusters) ∧
    (now / 10000 ≤ s.gov.lastEnd / 10000 → exec (.heartIntervalEnd xs temps wt) s = .next s) ∧
    (workOf s q.val seq 0xC = some f → f.descs = [snap] →
      (let a := cmdWord f.cmd 0x40
       let w := hdWrite s (ptrHost a) (ptrAddr a 6) (leBytes 64 (snap.toNat % 2 ^ 512))
       let finishes (u t : State) : Prop := t = { u with queues := t.queues, stks := t.stks } ∧
         FlightEnds u t q.val seq fun y => { ended .success y with kindBlk := snap.extractLsb' 128 128 }
       (a = 0 → ∃ t, exec (.energyMark q seq) s = .next t ∧ finishes s t) ∧
       (a ≠ 0 → w.2 = none → ∃ t, exec (.energyMark q seq) s = .next t ∧ finishes w.1 t)))

/-! ## The host port (spec/16) -/

/-- R506 to R511, R522: while the way to the die of the line is open (R23), a host read of a line that is there answers its 64 bytes
without poison, and takes a snoop filter entry when it asks for a cacheable copy; where its set is full it waits, and an eviction
grants it; a line that is not there reads zero with poison; a write changes the enabled bytes and no other byte of device memory; a
refused write changes none, and is counted and recorded; a back-invalidate takes the line back, with its dirty data written first. -/
def Obligations.HostMemory : Prop :=
  ∀ (s : State) (hpa : Word64) (cacheable : Bool) (mask : BitVec 64) (data : BitVec 512) (line wl : Nat) (bi : BitVec 35) (k : Half)
    (e : Err) (rest : List Nat),
    let words (l : Nat) : List Nat := [2 * l, 2 * l + 1]
    let plain (l : Nat) : Prop := ∀ w ∈ words l, devPoisoned s w = false ∧ devParked s (32 * w) = false ∧ slotAt s (32 * w) = none
    let whole : Prop := plain line
    let open_ (write : Bool) (l : Nat) : Prop := ∀ w ∈ words l, hostWordFault s write w = none
    let without (x : Nat) (l : List Nat) : List Nat := l.filter fun y => decide (y ≠ x)
    (s.host.mode = 1 → hostLine s hpa = some line → ideAdmits s = true → reaches s 4 (devStack (64 * line) / 8) kindMem = true → NoBitErrors s →
      (whole → open_ false line →
        (cacheable = true → s.host.snoop.contains line = false → (setLines s (snoopSet line)).length < 16) →
        ∃ t, exec (.cxlMemRead hpa cacheable) s = .next t ∧ t.host = { s.host with lastRead := t.host.lastRead, lastPoison := false, snoop := t.host.snoop } ∧
          (∀ i, i < 64 → (leBytes 64 t.host.lastRead.toNat).getD i 0 = mget s.dev (64 * line + i)) ∧
          t.host.snoop = (if cacheable then without line s.host.snoop ++ [line] else s.host.snoop) ∧ t = { s with host := t.host }) ∧
      (cacheable = true → s.host.snoop.contains line = false → 16 ≤ (setLines s (snoopSet line)).length →
        exec (.cxlMemRead hpa cacheable) s = .next { s with host := { s.host with sfWait := without line s.host.sfWait ++ [line] } }) ∧
      (hostWordFault s false (2 * line) = some e → e.status ≠ .memUncorrectable → cacheable = false →
        ∃ t, exec (.cxlMemRead hpa cacheable) s = .next t ∧ t.host = { s.host with lastRead := 0, lastPoison := true } ∧
          rget t (.glbHostCtr 1) = rget s (.glbHostCtr 1) + 1 ∧ RegsBut s t [.glbHostCtr 1]) ∧
      (whole → open_ true line →
        ∃ t, exec (.cxlMemWrite hpa mask data) s = .next t ∧ t.host = s.host ∧
          ∀ a, mget t.dev a = if a / 64 = line ∧ mask.getLsbD (a % 64) = true then (leBytes 64 data.toNat).getD (a % 64) 0 else mget s.dev a) ∧
      (hostWordFault s true (2 * line) = some e → e.status ≠ .memUncorrectable →
        ∃ t, exec (.cxlMemWrite hpa mask data) s = .next t ∧ t.dev = s.dev ∧ t.host = { s.host with rasErrs := s.host.rasErrs + 1 } ∧
          rget t (.glbHostCtr 0) = rget s (.glbHostCtr 0) + 1 ∧ RegsBut s t ([.glbHostCtr 0, .glbHostRefused] ++ recordRegs 4))) ∧
    (s.host.snoop.contains bi.toNat = true → (∀ x ∈ s.host.sfWait, snoopSet x ≠ snoopSet bi.toNat) →
      exec (.bisnp bi none) s = .next (rbump { s with host := { s.host with snoop := without bi.toNat s.host.snoop } } (.glbHostCtr 2) 1) ∧
      (ideAdmits s = true → lineReached s bi.toNat = true → plain bi.toNat → open_ true bi.toNat →
        ∃ t, exec (.bisnp bi (some data)) s = .next t ∧ t.host.snoop = without bi.toNat s.host.snoop ∧
          ∀ a, mget t.dev a = if a / 64 = bi.toNat then (leBytes 64 data.toNat).getD (a % 64) 0 else mget s.dev a)) ∧
    ((∀ x ∈ s.host.sfWait, snoopSet x ≠ k.toNat) → exec (.sfEviction k none) s = .next s) ∧
    (setLines s k.toNat = line :: rest → rest.length = 15 → s.host.sfWait.find? (fun l => decide (snoopSet l = k.toNat)) = some wl →
      ideAdmits s = true → lineReached s wl = true → NoBitErrors s → plain wl → open_ false wl →
      ∃ t, exec (.sfEviction k none) s = .next t ∧
        t.host = { s.host with lastRead := t.host.lastRead, lastPoison := false, sfWait := without wl s.host.sfWait
                               snoop := without wl (without line s.host.snoop) ++ [wl] } ∧
        (∀ i, i < 64 → (leBytes 64 t.host.lastRead.toNat).getD i 0 = mget s.dev (64 * wl + i)) ∧
        rget t (.glbHostCtr 2) = rget s (.glbHostCtr 2) + 1 ∧ rget t (.glbHostCtr 3) = rget s (.glbHostCtr 3) + 1 ∧
        RegsBut s t [.glbHostCtr 2, .glbHostCtr 3] ∧ t.dev = s.dev)

/-- R502, R514, R520, R522 to R526, R541: the host link trains in a mode from the end of package reset, and once the package answers the
host enumerates the function, again over a link that is up, which sends the messages that nothing masks any more; the link goes down
with its record and its queues shut, failing the movement that has a tensor in host memory; a function level reset clears the command
register and the MSI-X table; an integrity failure makes its IDE stream insecure and is counted
and recorded; a host access without an answer fails its command, or the queue that made it, with HOST_ACCESS_FAIL. -/
def Obligations.HostLink : Prop :=
  ∀ (s : State) (cxl cacheEn : Bool) (speed : BitVec 3) (width : BitVec 2) (x : HostSetup) (v : Nat) (q : Fin 4096)
    (seq : Word32) (f : Flight),
    let m := if cxl then 1 else 2
    let trained : HostPort := { s.host with mode := m, speed := speed.toNat, width := width.toNat }
    let listed (h : HostPort) : HostPort := { h with
      cacheEn := cacheEn, cmdEn := true, decoders := x.decoders, bar0 := x.bar0 &&& 0xFFFFFFFFF0000000, msixEn := x.msixEn, msixMask := x.msixMask }
    let live : Prop := s.pkg.fatal = none ∧ s.pkg.powered = true ∧ s.pkg.inReset = false ∧ linkGood cxl speed width cacheEn x.decoders = true
    let answers : Prop := s.pkg.stage = 5 ∨ s.pkg.stage = 6
    let down (t : State) : Prop :=
      t.host = { sent := s.host.sent, viral := s.host.viral, rasErrs := s.host.rasErrs } ∧
        rget t (.glbHostCtr 4) = rget s (.glbHostCtr 4) + 1 ∧ Recorded s t .hostLinkDown (resource 0x0B 0) 0 ∧ t.dev = s.dev ∧ t.cores = s.cores ∧
        (∀ k, qOnHost s k = true → (queueOf s k).state ≠ .disabled → (∃ x, (k, x) ∈ s.queues) → (s.queues.map (·.1)).Nodup →
          (queueOf t k).queued = [] ∧ ((queueOf s k).flight = [] → (queueOf t k).state = .disabled))
    (live → s.host.mode = 0 →
      (¬answers → exec (.hostLinkUp cxl speed width cacheEn x) s = .next { s with host := trained }) ∧
      (answers → s.host.pba = [] → exec (.hostLinkUp cxl speed width cacheEn x) s = .next { s with host := listed trained })) ∧
    (live → s.host.mode = m →
      (¬answers → exec (.hostLinkUp cxl speed width cacheEn x) s = .next s) ∧
      (answers → s.host.pba = [] → exec (.hostLinkUp cxl speed width cacheEn x) s = .next { s with host := listed s.host }) ∧
      (answers → s.host.pba = [v] → (msixOf s v).masked = false → x.msixEn = true → x.msixMask = false →
        exec (.hostLinkUp cxl speed width cacheEn x) s = .next { s with host := { listed s.host with
          pba := [], sent := s.host.sent ++ [((msixOf s v).addr, (msixOf s v).data)] } })) ∧
    (s.host.mode ≠ 0 → (∀ x ∈ s.queues, ∀ g ∈ x.2.flight, moveOnHost g = false) → (∀ x ∈ s.cores, coreOnHost x.2 = false) →
      (∀ n, n < 32 → ∀ y ∈ (stackOf s n).slots, slotActive y = false) →
      (∃ t, exec .hostLinkDown s = .next t ∧ down t) ∧ ∃ t, exec .perstN s = .next t ∧ down t) ∧
    (s.host.mode ≠ 0 → s.cores = [] → flightOf s q.val seq = some f → moveOnHost f = true →
      ∃ t g, exec .hostLinkDown s = .next t ∧ flightOf t q.val seq = some g ∧ g.done = true ∧ g.status = .hostLinkDown ∧ t.host.mode = 0) ∧
    (s.host.mode = 0 → exec .hostLinkDown s = .next s ∧ exec .perstN s = .next s ∧ exec .flr s = .next s) ∧
    (s.host.mode ≠ 0 → s.queues = [] →
      exec .flr s = .next { s with host := { s.host with cmdEn := false, msix := [], msixEn := false, msixMask := false }, sec := { s.sec with out := [] } }) ∧
    (s.host.ideMem = true → ∃ t, exec (.ideFailure true) s = .next t ∧ t.host = { s.host with ideMem := false } ∧
      rget t (.glbHostCtr 5) = rget s (.glbHostCtr 5) + 1 ∧ Recorded s t .hostIdeFail (resource 0x0B 0) 0) ∧
    (s.host.ideIo = true → ∃ t, exec (.ideFailure false) s = .next t ∧ t.host = { s.host with ideIo := false } ∧
      rget t (.glbHostCtr 5) = rget s (.glbHostCtr 5) + 1 ∧ Recorded s t .hostIdeFail (resource 0x0B 0) 0) ∧
    (hostServes s = true → flightOf s q.val seq = some f → f.started = true → f.done = false → cmdOnHost s f = true →
      ∃ t, exec (.hostAccessTimeout (.command q seq)) s = .next t ∧ FlightEnds s t q.val seq (ended .hostAccessFail)) ∧
    (∀ (core : Fin 4096) p, hostServes s = true → physOf s core.val = some p → coreOnHost (coreOf s p) = true → (coreOf s p).lq = [] →
      exec (.hostAccessTimeout (.load core)) s = .next (programFault s core.val p .hostAccessFail (coreOf s p).pc)) ∧
    (hostServes s = true → qOnHost s q.val = true → (queueOf s q.val).state = .running →
      ∃ t, exec (.hostAccessTimeout (.engine q)) s = .next t ∧ (queueOf t q.val).state = .stopped ∧
        (queueOf t q.val).lastStatus = .hostAccessFail ∧ ∀ n, n ≠ q.val → queueOf t n = queueOf s n)

/-- R15, R283, R518 to R520, R614, R615: a read of 8 bytes of a register answers its value, zero at a reserved offset, and clears an
RC register (the peak of a stack's holding slots starts again at those in use); half of it is read in 4 bytes, with nothing cleared; an access of another size or alignment is counted and reads
all ones; where BAR0 is not served a read answers all ones and a write does nothing. An unmasked MSI-X vector sends its
pending message. A reset of the welkin die without its key is counted and resets nothing. -/
def Obligations.Bar0 : Prop :=
  ∀ (s : State) (off : BitVec 28) (a : BarAccess) (v : BitVec 11) (r : Reg) (d : Word64),
    let x := off.toNat
    let seen (u : State) (w : Word64) : Out := .next { u with host := { u.host with barData := w } }
    let restart (r : Reg) : Word64 := match r with | .memParkPeak n => BitVec.ofNat 64 (stackOf s n).slots.length | _ => 0
    (barReachable s true = false → exec (.bar0Access true off a) s = .next s) ∧
    (barReachable s true = true →
      (barServes s true x = true → x % 8 = 0 →
        (regAt x = some r → (regInfo r).rc = false → exec (.bar0Access true off .read8) s = seen (tickFree s) (barWord s x)) ∧
        (regAt x = some r → (regInfo r).rc = true → outOfReach s x = false →
          exec (.bar0Access true off .read8) s = seen (rset (tickFree s) r (restart r)) (barWord s x) ∧
          exec (.rcRead off) s = seen (rset (tickFree s) r (restart r)) (barWord s x)) ∧
        (regAt x = none → x < 0x600000 → exec (.bar0Access true off .read8) s = seen (tickFree s) 0) ∧
        exec (.bar0Access true off .read4) s = seen (tickFree s) (barWord s x &&& 0xFFFFFFFF)) ∧
      (x % 8 ≠ 0 → exec (.bar0Access true off .read8) s = seen (rbump s (.glbHostCtr 6) 1) 0xFFFFFFFFFFFFFFFF ∧
        exec (.bar0Access true off (.write8 d)) s = .next (rbump s (.glbHostCtr 6) 1)) ∧
      exec (.bar0Access true off .oddRead) s = seen (rbump s (.glbHostCtr 6) 1) 0xFFFFFFFFFFFFFFFF ∧
      (barServes s true x = false → x % 8 = 0 → exec (.bar0Access true off .read8) s = seen s 0xFFFFFFFFFFFFFFFF ∧
        exec (.bar0Access true off (.write8 d)) s = .next s)) ∧
    (barReachable s true = true → barServes s true (regOffset .cfgPeekData) = true →
      exec .cfgPeekData s = seen (tickFree s) (peekData s)) ∧
    (s.host.mode ≠ 0 → (msixOf s v.toNat).masked = true → v.toNat ∉ s.host.pba →
      exec (.msixUnmask v) s = .next { s with host := { s.host with msix := tset (fun _ => {}) s.host.msix v.toNat { msixOf s v.toNat with masked := false } } }) ∧
    (barReachable s true = true → barServes s true (regOffset .glbResetCtrl) = true →
      ∃ t, exec (.welkinReset (.whole 1)) s = .next t ∧ t = { s with regs := t.regs } ∧ rfld t .glbResetCtrl 16 16 = 0 ∧
        rget t .glbRegRejects = rget s .glbRegRejects + 1 ∧ RegsBut s t [.glbResetCtrl, .glbRegRejects]) ∧
    (barReachable s true = true → barServes s true (regOffset .glbResetCtrl) = true →
      ∃ t, exec (.welkinReset (.whole 0xD1E50001)) s = .next t ∧ t.dev = s.dev ∧ t.pkg.stage = 0 ∧ t.pkg.warm = true ∧ t.host.mode = 0 ∧
        t.sec.fuses = s.sec.fuses ∧ t.coll.retired = s.coll.retired)

/-! ## Security, boot and resets (spec/17, spec/18, spec/22) -/

/-- R545 to R548: outside of RUNNING the responder is silent; GET_VERSION starts the connection again, GET_CAPABILITIES and
NEGOTIATE_ALGORITHMS follow in order; then, and in an established session, the digest and the chain of slot 0, a challenge and
measurements are answered, a key exchange opens one of at most four sessions, FINISH establishes and END_SESSION ends it; a signed
response ends with the RSA signature over the transcript, and the companion signature is over the same transcript; anything else is
answered with ERROR. Certificates, digests and signatures are free (log entry 9). -/
def Obligations.SpdmMessages : Prop :=
  ∀ (s : State) (x : Session) (slot : BitVec 4) (index : Byte) (sign : Bool) (k : BitVec 2),
    let m := s.sec.spdm
    let replies (request : Nat) (body : List Byte) (signed : Bool) (m' : Spdm) : Out :=
      let l := m'.log ++ [(request, body)]
      .next { s with sec := { s.sec with
        out := s.sec.out ++ [.answer request (if signed then body ++ leBytes 384 (Config.rsaSign l) else body)]
        spdm := { m' with log := l, signed := if signed then some l else none } } }
    let refused : Out := .next { s with sec := { s.sec with out := s.sec.out ++ [.error], spdm := { m with signed := none } } }
    let block (i : Nat) : List Byte := leBytes 48 (Config.freeNat (tget (fun _ => 0) s.sec.measure i))
    (inRunning s = false →
      ∀ c ∈ [Instr.getVersion, .getCapabilities, .negotiateAlgorithms, .getDigests x, .getCertificate x slot, .challenge x slot,
        .getMeasurements x index sign, .keyExchange, .finish k, .endSession k, .companionSignature x], exec c s = .next s) ∧
    (inRunning s = true →
      exec .getVersion s = replies 0x84 [0x13, 0x12] false { step := 1 } ∧
      (m.step = 1 → exec .getCapabilities s = replies 0xE1 (leBytes 4 0x2D6) false { m with step := 2 }) ∧
      (m.step ≠ 1 → exec .getCapabilities s = refused) ∧
      (m.step = 2 → exec .negotiateAlgorithms s = replies 0xE3 (leBytes 4 8 ++ leBytes 4 2 ++ leBytes 2 0x10 ++ leBytes 2 2) false { m with step := 3 }) ∧
      (m.step ≠ 2 → exec .negotiateAlgorithms s = refused) ∧
      (spdmOpen s x = true →
        exec (.getDigests x) s = replies 0x81 (leBytes 48 Config.chainDigest) false m ∧
        exec (.getCertificate x 0) s = replies 0x82 Config.certChain false m ∧
        exec (.challenge x 0) s = replies 0x83 [] true m ∧
        exec (.getMeasurements x 0 sign) s = replies 0xE0 [6] sign m ∧
        (1 ≤ index.toNat → index.toNat ≤ 6 → exec (.getMeasurements x index sign) s = replies 0xE0 (index :: block index.toNat) sign m) ∧
        exec (.getMeasurements x 0xFF sign) s =
          replies 0xE0 ([1] ++ block 1 ++ [2] ++ block 2 ++ [3] ++ block 3 ++ [4] ++ block 4 ++ [5] ++ block 5 ++ [6] ++ block 6) sign m ∧
        (6 < index.toNat → index ≠ 0xFF → exec (.getMeasurements x index sign) s = refused) ∧
        (∀ l, m.signed = some l → exec (.companionSignature x) s = replies 0xFE (leBytes 16224 (Config.slhSign l)) false m) ∧
        (m.signed = none → exec (.companionSignature x) s = refused) ∧
        (slot ≠ 0 → exec (.challenge x slot) s = refused ∧ exec (.getCertificate x slot) s = refused)) ∧
      (spdmOpen s x = false → ∀ c ∈ [Instr.getDigests x, .getCertificate x slot, .challenge x slot, .getMeasurements x index sign,
        .companionSignature x], exec c s = refused) ∧
      (spdmOpen s none = true →
        (sessionsUsed s = [] → exec .keyExchange s = replies 0xE4 [] true { m with handshake := [0] }) ∧
        ((∀ i, i < 4 → i ∈ sessionsUsed s) → exec .keyExchange s = refused)) ∧
      (k.toNat ∈ m.handshake → exec (.finish k) s = replies 0xE5 [] false
        { m with handshake := m.handshake.filter (fun y => decide (y ≠ k.toNat)), sessions := m.sessions ++ [k.toNat] }) ∧
      (k.toNat ∉ m.handshake → exec (.finish k) s = refused) ∧
      (k.toNat ∈ m.sessions → exec (.endSession k) s = replies 0xEC [] false { m with sessions := m.sessions.filter (fun y => decide (y ≠ k.toNat)) }) ∧
      (k.toNat ∉ m.sessions → exec (.endSession k) s = refused))

/-- R521, R532, R534, R536 to R539, R544, R549, R598: inside a session, and only there, IDE keys make a stream active, and the field
record is read out; a debug grant that passes its checks opens its scopes, another sets DEBUG_GRANT_BAD, and both renew the nonce; GO
checks an image and has one of KIND 1 written into the losing bank of its pair, or ends with the status that refuses it; a write that
fails leaves that bank invalid. -/
def Obligations.SecurityEngine : Prop :=
  ∀ (s : State) (k : BitVec 2) (stream : IdeStream) (off len : Word32) (v : Verdict) (h : ImgHdr) (x : FlashBank) (bs : List Byte) (st : Status),
    let renewed (t : State) : Prop :=
      t.sec.nonce = BitVec.ofNat 128 ((Config.freeWord s.freeCtr).toNat + (Config.freeWord (s.freeCtr + 1)).toNat * 2 ^ 64)
    let kind := rfld s .secUpdateCtrl 1 3
    let n := rfld s .secUpdateCtrl 32 32
    let granted : Prop := imageRefused s.sec.fuses 6 h v = none ∧ h.bind ≠ 0 ∧ h.len = 0 ∧ h.nonce = s.sec.nonce
    (inRunning s = true → s.host.mode ≠ 0 → ∃ t, exec (.ideKeyProgram none stream) s = .next t ∧ t.host = s.host ∧ t.sec.out = s.sec.out ++ [.error]) ∧
    (inRunning s = true → spdmOpen s (some k) = true →
      ((stream = .io ∧ s.host.mode ≠ 0) ∨ s.host.mode = 1 →
        ∃ t, exec (.ideKeyProgram (some k) stream) s = .next t ∧ t = { s with host := t.host, sec := t.sec } ∧
          t.host = match stream with
            | .io => { s.host with ideIo := true, ideKeys := true }
            | .cachemem skid => { s.host with ideMem := true, ideKeys := true, ideSkid := skid }) ∧
      (1 ≤ len.toNat → len.toNat ≤ 4096 → off.toNat + len.toNat ≤ 0x20000 →
        ∃ t body, exec (.fieldRecordRead (some k) 0 off len) s = .next t ∧ body.length = len.toNat + 8 ∧
          t.sec.out = s.sec.out ++ [.answer 0xFE body] ∧ t = { s with sec := t.sec, freeCtr := t.freeCtr } ∧
          ∀ i, i < len.toNat → body.getD i 0 = imageByte s.fld.snap s.freeCtr (off.toNat + i))) ∧
    (inRunning s = true →
      (granted →
        ∃ t, exec (.present v false (some h)) s = .next t ∧ t.sec.scopes = s.sec.scopes ||| h.scopes.setWidth 3 ∧
          t.sec.dbgStatus = statusCode .success ∧ renewed t ∧ t.fld.live.eventNext = fldAdd 32 s.fld.live.eventNext 1) ∧
      (¬granted →
        ∃ t, exec (.present v false (some h)) s = .next t ∧ t.sec.scopes = s.sec.scopes ∧ t.sec.dbgStatus = statusCode .debugGrantBad ∧
          renewed t ∧ t = { s with sec := t.sec, freeCtr := s.freeCtr + 2 })) ∧
    (rbit s .secUpdateCtrl 0 = true → s.sec.toWrite = none → kind = 1 → NoBitErrors s →
      secRead s ((rget s .secUpdateAddr).toNat / 4096 * 4096) n = .ok bs → imageBytes (parseHdr bs true).len.toNat ≤ n →
      (imageRefused s.sec.fuses 1 (parseHdr bs true) v = none →
        exec (.go v true) s = .next { s with sec := { s.sec with
          toWrite := some { seq := 0, hdr := parseHdr bs true, list := [], len := n, crc := BitVec.ofNat 32 (crc32c bs) } } }) ∧
      (imageRefused s.sec.fuses 1 (parseHdr bs true) v = some st →
        ∃ t, exec (.go v true) s = .next t ∧ t.sec = { s.sec with updStatus := statusCode st, updSeq := 0, updDone := true, updBusy := false } ∧
          rbit t .secUpdateCtrl 0 = false ∧ RegsBut s t [.secUpdateCtrl] ∧ t = { s with sec := t.sec, regs := t.regs })) ∧
    (s.sec.toWrite = some x → s.pkg.stage = 5 →
      (let b := pairBase x.hdr.kind.toNat
       let w := flashWinner s b
       (bankGood (b + loser w) x = true →
         ∃ t y, exec (.flashPairWrite true) s = .next t ∧ flashBank t (b + loser w) = some y ∧ y = { x with seq := y.seq } ∧
           (∀ i z, w = some i → flashBank s (b + i) = some z → y.seq = z.seq + 1) ∧ (w = none → y.seq = 1) ∧
           (∀ i, i ≠ b + loser w → flashBank t i = flashBank s i) ∧ t.sec.toWrite = none ∧ t.sec.updDone = true ∧
           t.sec.updStatus = statusCode .success ∧ rbit t .secUpdateCtrl 0 = false) ∧
       ∃ t, exec (.flashPairWrite false) s = .next t ∧ flashBank t (b + loser w) = none ∧ (∀ i, i ≠ b + loser w → flashBank t i = flashBank s i) ∧
         t.fld.live.eventNext = fldAdd 32 s.fld.live.eventNext 1 ∧ t.sec.toWrite = none ∧ t.sec.updDone = true ∧ rbit t .secUpdateCtrl 0 = false))

/-- R538, R540 to R543, R588: the boot goes through its stages one at a time: ROM; FW_VERIFY, where the newer firmware bank is
tried first, each refused one is noted, and without an accepted one boot ends in RECOVERY_MODE with the field record being written;
TRAIN, where every cluster begins to clear; CONFIG, where a pair without a bank is noted and the reset values stand; and RUNNING once
clearing and recovery have ended, with the field record being written. -/
def Obligations.BootStages : Prop :=
  ∀ (s : State) (vs : List Verdict) (x y : FlashBank) (st : Status), s.pkg.powered = true → s.pkg.inReset = false → s.pkg.fatal = none →
    let goes (n : Nat) (P : State → Prop) : Prop :=
      ∃ t, exec (.boot vs [] [] []) s = .next t ∧ t.pkg.stage = n ∧ t.dev = s.dev ∧ P t
    let refuses (b : Nat) (z : FlashBank) : Option Status := imageRefused s.sec.fuses 1 z.hdr (vs.getD b badVerdict)
    (s.pkg.stage = 0 → goes 1 fun t => t.sec.fuses = s.sec.fuses ∧ t.sec.flash = s.sec.flash ∧ pinReady t = false) ∧
    (s.pkg.stage = 1 → s.pkg.warm = false →
      ((∀ b z, b < 2 → flashBank s b = some z → refuses b z ≠ none) →
        goes 6 fun t => t.fld.writing.isSome = true ∧ pinReady t = false ∧ t.sec.fuses = s.sec.fuses) ∧
      (flashBank s 0 = some x → flashBank s 1 = none → refuses 0 x = none →
        goes 2 fun t => t.pkg.fwBank = 0 ∧ t.pkg.failStatus = s.pkg.failStatus ∧ t.sec.fuses = s.sec.fuses) ∧
      (flashBank s 0 = some x → flashBank s 1 = some y → seqWinner s 0 = some 1 → refuses 1 y = some st → refuses 0 x = none →
        goes 2 fun t => t.pkg.fwBank = 0 ∧ t.pkg.failStatus = statusCode st ∧ t.sec.fuses = s.sec.fuses)) ∧
    (s.pkg.stage = 2 → flashBank s 6 = none → flashBank s 7 = none →
      goes 3 fun t => t.pkg.agentBank = none ∧ ∀ c, c < 64 → (clusterOf t c).clearing = true) ∧
    (s.pkg.stage = 3 → flashBank s 2 = none → flashBank s 3 = none →
      goes 4 fun t => t.pkg.cfgSource = 0 ∧ t.pkg.failStatus = statusCode .secImageBad) ∧
    (s.pkg.stage = 4 → bootDone s = false → exec (.boot vs [] [] []) s = .next s) ∧
    (s.pkg.stage = 4 → bootDone s = true →
      goes 5 fun t => t.pkg.runSince = s.localNs ∧ t.coll.ready = true ∧ pinReady t = true ∧ t.fld.writing.isSome = true ∧
        s.sec.fuses.fwSvn ≤ t.sec.fuses.fwSvn)

/-- R462, R469, R523, R577, R578, R633, R636 to R639: a pulse of PKG_RESET_N under 100 µs changes nothing, a longer one resets
everything but memories in self-refresh, fuses, flash and field record; VBUS rising brings package reset, and its removal
loses the stacks; a VBUS fault and the loss of the welkin clock are package-fatal, the loss of SYSCLK takes every die out; a
fatal welkin die is reset once and stops the package when it is fatal again too soon; a package-fatal stop turns everything
off. -/
def Obligations.ResetsAndStops : Prop :=
  ∀ (s : State) (us : BitVec 32) (rises : Bool) (mv : BitVec 16) (st : Status) (ok : Bool),
    let p := s.pkg
    let live : Prop := p.powered = true ∧ p.inReset = false ∧ p.fatal = none
    (p.powered = true → p.inReset = false →
      (us.toNat < 100 → exec (.pkgResetN us rises) s = .next s) ∧
      (100 ≤ us.toNat → ∃ t, exec (.pkgResetN us rises) s = .next t ∧ t.pkg = { inReset := !rises } ∧ t.regs = [] ∧ t.cores = [] ∧
        (∀ c, clusterOf t c = { dues := if c < 64 then (clusterOf s c).dues else [] }) ∧ t.queues = [] ∧ t.evt = [] ∧ t.cfg = {} ∧ t.coll = {} ∧ t.dev = s.dev ∧ t.devPoison = s.devPoison ∧
        t.sec.fuses = s.sec.fuses ∧ t.sec.flash = s.sec.flash ∧ t.sec.scopes = 0 ∧ t.fld.banks = s.fld.banks ∧
        ∀ n, n < 32 → (stackOf t n).ready = false ∧ (stackOf t n).kept = (stackHeld s n && !(stackOf s n).retirePending))) ∧
    (p.powered = true → p.inReset = true → exec (.pkgResetN us true) s = .next { s with pkg := { p with inReset := false } } ∧
      ∃ t, exec .vbusRemoved s = .next t ∧ t.pkg = { powered := false, inReset := true } ∧ t.dev = [] ∧ t.sec.fuses = s.sec.fuses ∧
        t.sec.flash = s.sec.flash ∧ t.fld.banks = s.fld.banks) ∧
    (p.powered = false → exec .vbusRise s = .next { s with pkg := { p with powered := true, inReset := true } }) ∧
    (live →
      (mv.toNat < 5400 ∨ 6600 < mv.toNat → ∃ t, exec (.vbusFault mv) s = .next t ∧ Recorded s t .vbusFault (facility 3) 0 ∧
        Due.packageFatal .vbusFault ∈ t.err.due ∧ t.cores = s.cores ∧ t.dev = s.dev ∧ RegsBut s t (recordRegs 4)) ∧
      (5400 ≤ mv.toNat → mv.toNat ≤ 6600 → exec (.vbusFault mv) s = .next s) ∧
      (∃ t, exec (.sysclkLoss false) s = .next t ∧ (∀ n, n < 4 → dieState s n ≠ .out → dieState s n ≠ .fencing → Due.dieFatal n 2 ∈ t.err.due) ∧ t.dies = s.dies ∧
        t.dev = s.dev) ∧
      (∃ t, exec (.sysclkLoss true) s = .next t ∧ Due.packageFatal .dieOut ∈ t.err.due) ∧
      (Due.welkinFatal ∈ s.err.due → p.fatalBefore = false →
        ∃ t, exec (.welkinFatal false ok) s = .next t ∧ t.pkg.stage = 0 ∧ t.pkg.warm = true ∧ t.pkg.fatalBefore = true ∧ t.cores.length ≤ s.cores.length ∧
          t.queues = [] ∧ t.dev = s.dev ∧ Due.welkinFatal ∉ t.err.due ∧ t.sec.fuses = s.sec.fuses ∧
          ∀ n, n < 64 → (clusterOf t n).absent = (clusterOf s n).absent ∧ (clusterOf t n).spare0 = (clusterOf s n).spare0) ∧
      (Due.welkinFatal ∈ s.err.due → p.fatalBefore = true → p.stage ≠ 5 →
        ∃ t, exec (.welkinFatal false ok) s = .next t ∧ Due.packageFatal .welkinRepeat ∈ t.err.due ∧ Due.welkinFatal ∉ t.err.due ∧ t.cores = s.cores) ∧
      (fatalDue s = some st →
        ∃ t, exec .packageFatal s = .next t ∧ t.pkg.fatal = some st ∧ pinFaultN t = false ∧ pinReady t = false ∧ t.host.viral = true ∧
          (∀ c, c < 64 → (cluGovOf t c).off = true) ∧ (∀ q, q < 24 → (portOf t q).st = .disabled) ∧ (∀ n, n < 4 → (dieOf t n).st = .out) ∧
          (∀ n, n < 32 → (stackOf t n).ready = false) ∧ t.fld.writing.isSome = true))

/-! ## The field record (spec/19) -/

/-- R588 to R592, R595: a scheduled write, and one asked for 300 s after the start of the one before, take a snapshot, erase
the bank that did not win and run; a write that ends well makes its bank valid and newest, one that fails is counted;
WRITE_NOW asks for a write or folds into one that waits; each second is counted and the hottest sensors enter their bins. -/
def Obligations.FieldRecord : Prop :=
  ∀ (s : State) (cause : BitVec 3) (w : FldWrite) (temps snr : List Half),
    let b := loser (fldWinner s)
    let u := s.fld
    let begun (t : State) (c : BitVec 3) : Prop :=
      (∃ x, t.fld.writing = some x ∧ x.cause = c ∧ x.startNs = s.localNs ∧ x.bank = b) ∧
        fldBank t b = none ∧ fldBank t (1 - b) = fldBank s (1 - b) ∧ t.fld.snap.cause = c ∧ t.fld.snap.writes = fldAdd 64 u.live.writes 1 ∧
        rget t (.fldCtr 0) = rget s (.fldCtr 0) + 1 ∧ t.fld.lastStart = some s.localNs
    (slotDue s = true → u.writing = none → u.pend = none → ∃ t, exec .fieldWriteStart s = .next t ∧ begun t 0) ∧
    (slotDue s = false → u.writing = none → u.pend = some cause → (∀ x, u.lastStart = some x → x + 300 * 10 ^ 9 ≤ s.localNs) →
      ∃ t, exec .fieldWriteStart s = .next t ∧ begun t cause) ∧
    (slotDue s = false → u.pend = none → exec .fieldWriteStart s = .next s) ∧
    (u.writing = some w →
      (∃ t q, exec (.fieldWriteEnd true) s = .next t ∧ fldBank t w.bank = some (q, u.snap) ∧ t.fld.writing = none ∧ t.fld.lastFailed = false ∧
        (∀ i z, fldWinner s = some i → fldBank s i = some z → q = z.1 + 1) ∧ (fldWinner s = none → q = 1) ∧ t = { s with fld := t.fld }) ∧
      (∃ t, exec (.fieldWriteEnd false) s = .next t ∧ t.fld.banks = u.banks ∧ t.fld.writing = none ∧ t.fld.lastFailed = true ∧
        rget t (.fldCtr 1) = rget s (.fldCtr 1) + 1 ∧ RegsBut s t [.fldCtr 1])) ∧
    (u.pend = none → ∃ t, exec .writeNow s = .next t ∧ t = { s with fld := t.fld } ∧ t.fld.pend = some 4 ∧ t.fld.request = true) ∧
    (u.pend = some cause → ∃ t, exec .writeNow s = .next t ∧ t.fld.pend = some cause ∧ t.fld.request = true ∧
      rget t (.fldCtr 2) = rget s (.fldCtr 2) + 1 ∧ RegsBut s t [.fldCtr 2]) ∧
    (u.tickNs + 10 ^ 9 ≤ s.localNs → (∀ p, p < 24 → (portOf s p).st ≠ .active) →
      ∃ t, exec (.histogramTick temps snr) s = .next t ∧ t.fld.tickNs = u.tickNs + 10 ^ 9 ∧ t.fld.live.powerOn = fldAdd 64 u.live.powerOn 1 ∧
        (∀ d, d < 5 → tget (fun _ => 0) t.fld.live.temp (16 * d + tempBin (temps.getD d 0)) =
          fldAdd 32 (tget (fun _ => 0) u.live.temp (16 * d + tempBin (temps.getD d 0))) 1) ∧ t = { s with fld := t.fld })

/-! ## The machine as a whole -/

/-- R540, R622: what the spec gives the package right after reset: cores idle, planes empty, queues disabled, event counters
zero, the fabric ports disabled, no transaction and no pending shadow, no record, no slot, cluster time FREE, and every
register at its Reset value (GOV_CAP 6,500 W and 7,200 W). -/
def Obligations.ResetState : Prop :=
  State.reset.pending = [] ∧ State.reset.pkg.stage = 0 ∧
  (∀ p, (coreOf State.reset p).phase = .idle ∧ (coreOf State.reset p).fe.active.st = .empty ∧ (coreOf State.reset p).fe.shadow.st = .empty) ∧
  (∀ q, (queueOf State.reset q).state = .disabled ∧ (queueOf State.reset q).flight = []) ∧
  (∀ k, evtOf State.reset k = 0 ∧ evtMark State.reset k = none) ∧
  (∀ p, (portOf State.reset p).st = .disabled) ∧ State.reset.cfg.txn = none ∧ State.reset.cfg.pend = [] ∧
  (∀ n, (errQ State.reset n).recs = []) ∧ State.reset.err.logSeq = 1 ∧ (∀ n, (stackOf State.reset n).slots = []) ∧
  State.reset.time.st = .free ∧ (∀ r : Reg, regAt (regOffset r) = some r → rget State.reset r = BitVec.ofNat 64 (regInfo r).reset) ∧
  rget State.reset .govCap = 0x1C2000001964 ∧ (∀ r, r ∈ [Reg.fabNodeId] → rfld State.reset r 0 16 = 0xFFFF) ∧ State.reset.host.mode = 0

/-- No command stops the block: each answers a next state, whatever the state (the model's own rule: no rule of the spec
leaves a command without an effect). -/
def Obligations.NoCommandStops : Prop :=
  ∀ (c : Instr) (s : State), ∃ t, exec c s = .next t

/-- R536 to R539: the security fuses are set and never cleared, no counter of theirs falls, and a filled slot keeps its key hashes,
whatever command runs. -/
def Obligations.FusesOnlyGrow : Prop :=
  ∀ (s t : State), step s = .next t →
    s.sec.fuses.vendorRevoke &&& t.sec.fuses.vendorRevoke = s.sec.fuses.vendorRevoke ∧
    s.sec.fuses.ownerUsed &&& t.sec.fuses.ownerUsed = s.sec.fuses.ownerUsed ∧
    s.sec.fuses.ownerRevoke &&& t.sec.fuses.ownerRevoke = s.sec.fuses.ownerRevoke ∧
    s.sec.fuses.fwSvn ≤ t.sec.fuses.fwSvn ∧ s.sec.fuses.cfgSvn ≤ t.sec.fuses.cfgSvn ∧ s.sec.fuses.agentSvn ≤ t.sec.fuses.agentSvn ∧
    t.sec.fuses.lifecycle = s.sec.fuses.lifecycle ∧ t.sec.fuses.serial = s.sec.fuses.serial ∧ t.sec.fuses.vendorKeys = s.sec.fuses.vendorKeys ∧
    t.sec.fuses.identity = s.sec.fuses.identity ∧
    ∀ i, s.sec.fuses.ownerUsed.getLsbD i = true → tget (fun _ => (0, 0)) t.sec.fuses.ownerKeys i = tget (fun _ => (0, 0)) s.sec.fuses.ownerKeys i

/-- R231: a write of bytes to a memory changes the bytes that it covers, and no other; and the memory keeps the one form in
which the model holds it, which is no rule of the spec. -/
def Obligations.MemoryWrites : Prop :=
  ∀ (m : List Host.Cell) (a : Nat) (bs : List Byte),
    (∀ b, mget (mwrite m a bs) b = if a ≤ b ∧ b < a + bs.length then bs.getD (b - a) 0 else mget m b) ∧
    (memWf m = true → memWf (mwrite m a bs) = true)

/-- R516, R517: what BAR0 finds at an offset is the register of that offset, 8-byte aligned and below the end of the last
window. -/
def Obligations.RegisterMap : Prop :=
  ∀ (x : Nat) (r : Reg), regAt x = some r → regOffset r = x ∧ x % 8 = 0 ∧ x < 0x5000000

/-! ## The words of the tile instructions (spec/06) -/

/-- R186, R187, R192 to R212: the word that an instruction is encoded in is decoded to that instruction, with every operand at
every value; and what a word is decoded to has a word, which is decoded to the same. -/
def Obligations.TileCodec : Prop :=
  (∀ (i : Instr) (w : Word64), encodeInsn i = some w → ∃ core, decodeInsn core w = some i) ∧
  (∀ (core : Fin 4096) (w : Word64) (i : Instr), decodeInsn core w = some i → ∃ v, encodeInsn i = some v ∧ decodeInsn core v = some i)
end

