-- ==== Sys2Proof/Laws/Codec.lean ====
section
/-! SUPPORT. What a word packed from fields holds (R186). -/
namespace Sys2Proof.Laws

/-- Bits that fields take. -/
def bits : List (Nat × Nat) → Nat
  | [] => 0
  | (n, _) :: t => n + bits t

/-- The value of the field of n bits whose lowest bit is lo, in a word of these fields. -/
def fieldIn : List (Nat × Nat) → Nat → Nat → Option Nat
  | [], _, _ => none
  | (n, v) :: t, lo, k => if bits t = lo ∧ n = k then some v else fieldIn t lo k

theorem pack_split (fs : List (Nat × Nat)) (acc : Nat) : ∃ r, r < 2 ^ bits fs ∧ pack fs acc = acc * 2 ^ bits fs + r := by
  induction fs generalizing acc with
  | nil => exact ⟨0, by simp [bits], by simp [pack, bits]⟩
  | cons f t ih =>
    obtain ⟨n, v⟩ := f
    obtain ⟨r, hr, h⟩ := ih (acc * 2 ^ n + v % 2 ^ n)
    refine ⟨v % 2 ^ n * 2 ^ bits t + r, ?_, ?_⟩
    · have h1 : v % 2 ^ n + 1 ≤ 2 ^ n := Nat.mod_lt _ (by positivity)
      have h2 := Nat.mul_le_mul_right (2 ^ bits t) h1
      simp only [bits, pow_add]; nlinarith
    · simp only [pack, bits, h, pow_add]; ring

theorem pack_field (fs : List (Nat × Nat)) (acc lo n v : Nat) (h : fieldIn fs lo n = some v) : pack fs acc / 2 ^ lo % 2 ^ n = v % 2 ^ n := by
  induction fs generalizing acc with
  | nil => simp [fieldIn] at h
  | cons f t ih =>
    obtain ⟨k, x⟩ := f
    simp only [fieldIn] at h
    split at h
    · rename_i hk
      cases h; rw [← hk.1, ← hk.2]
      obtain ⟨r, hr, e⟩ := pack_split t (acc * 2 ^ k + v % 2 ^ k)
      have hp : 0 < 2 ^ bits t := by positivity
      rw [pack, e, Nat.mul_comm, Nat.mul_add_div hp, Nat.div_eq_of_lt hr, Nat.add_zero, Nat.mul_comm acc, Nat.mul_add_mod, Nat.mod_mod]
    · exact ih _ h

/-- A field of a packed word (R186). -/
theorem fld_packWord (fs : List (Nat × Nat)) (lo n : Nat) (h : (fieldIn fs lo n).isSome = true) (hn : lo + n ≤ 64) :
    fld (packWord fs) lo n = BitVec.ofNat n ((fieldIn fs lo n).getD 0) := by
  obtain ⟨v, hv⟩ := Option.isSome_iff_exists.1 h
  have e := pack_field fs 0 lo n v hv
  apply BitVec.eq_of_toNat_eq
  rw [hv, fld, packWord, BitVec.extractLsb'_toNat, BitVec.toNat_ofNat, BitVec.toNat_ofNat, Nat.shiftRight_eq_div_pow, Option.getD_some, ← e]
  have h64 : (2 : Nat) ^ 64 = 2 ^ lo * 2 ^ n * 2 ^ (64 - lo - n) := by rw [← pow_add, ← pow_add]; congr 1; omega
  rw [h64, Nat.mul_assoc, Nat.mod_mul_right_div_self, Nat.mod_mul_right_mod]

theorem bit_n1 (b : Bool) : decide (BitVec.ofNat 1 (n1 b) = 1#1) = b := by cases b <;> decide

/-- A word is decoded by its CLASS and OP (R186). -/
theorem decodes {core : Fin 4096} {w : Word64} {c o : Nat} {i : Instr} (hc : (fld w 61 3).toNat = c) (ho : (fld w 55 6).toNat = o)
    (h : decodeOp core c o w = some i) : decodeInsn core w = some i := by rw [decodeInsn, hc, ho, h]

end Sys2Proof.Laws
end

