-- ==== Sys2Proof/Laws/Table.lean ====
section
/-! SUPPORT. The laws of sparse tables: read after write, other keys unchanged (both for every table, canonical or
not), and the canonical form is kept. -/
namespace Sys2Proof.Machine

variable {α : Type} [DecidableEq α]

omit [DecidableEq α] in
theorem tget_tdrop (d : Nat → α) (t : Table α) (k j : Nat) :
    tget d (tdrop t k) j = if j = k then d k else tget d t j := by
  induction t with
  | nil => by_cases hj : j = k <;> simp [tdrop, tget, hj]
  | cons e t ih =>
    obtain ⟨a, w⟩ := e
    by_cases ha : a = k
    · rw [tdrop, if_pos ha, ih]
      by_cases hj : j = k
      · simp [hj]
      · simp [ha, hj, tget]
    · by_cases hj : j = a
      · simp [tdrop, ha, hj, tget]
      · simp [tdrop, ha, hj, tget, ih]

omit [DecidableEq α] in
theorem tget_tinsert (d : Nat → α) (t : Table α) (k j : Nat) (v : α) (h : tget d t k = d k) (hn : ∀ e ∈ t, e.1 ≠ k) :
    tget d (tinsert t k v) j = if j = k then v else tget d t j := by
  induction t with
  | nil => by_cases hj : j = k <;> simp [tinsert, tget, hj]
  | cons e t ih =>
    obtain ⟨a, w⟩ := e
    have ha : a ≠ k := hn (a, w) (by simp)
    have hk : ¬ k = a := fun hh => ha hh.symm
    simp only [tget, if_neg hk] at h
    have ih := ih h (fun e he => hn e (by simp [he]))
    by_cases hlt : k < a
    · by_cases hj : j = k <;> simp [tinsert, hlt, tget, hj]
    · by_cases hj : j = a
      · simp [tinsert, hlt, tget, hj, ha]
      · simp [tinsert, hlt, tget, hj, ih]

omit [DecidableEq α] in
theorem tdrop_ne (t : Table α) (k : Nat) : ∀ e ∈ tdrop t k, e.1 ≠ k := by
  induction t with
  | nil => simp [tdrop]
  | cons e t ih =>
    obtain ⟨a, w⟩ := e
    by_cases ha : a = k
    · simpa [tdrop, ha] using ih
    · simp only [tdrop, if_neg ha, List.mem_cons]
      rintro e (rfl | h)
      · exact ha
      · exact ih e h

/-- What every key reads as after a write. -/
theorem tget_tset (d : Nat → α) (t : Table α) (k j : Nat) (v : α) :
    tget d (tset d t k v) j = if j = k then v else tget d t j := by
  unfold tset
  split
  · rename_i hv
    rw [tget_tdrop, hv]
  · rw [tget_tinsert d _ k j v (by simp [tget_tdrop]) (tdrop_ne t k), tget_tdrop]
    by_cases hj : j = k <;> simp [hj]

/-- Reading the key just written gives the value written. -/
@[simp] theorem tget_tset_same (d : Nat → α) (t : Table α) (k : Nat) (v : α) : tget d (tset d t k v) k = v := by
  simp [tget_tset]

/-- A write leaves every other key alone. -/
theorem tget_tset_other (d : Nat → α) (t : Table α) (k j : Nat) (v : α) (hj : j ≠ k) :
    tget d (tset d t k v) j = tget d t j := by
  simp [tget_tset, hj]

omit [DecidableEq α] in
theorem tdrop_of_ne (t : Table α) (k : Nat) (h : ∀ e ∈ t, e.1 ≠ k) : tdrop t k = t := by
  induction t with
  | nil => rfl
  | cons e t ih =>
    obtain ⟨a, w⟩ := e
    have ha : a ≠ k := h (a, w) (by simp)
    simp only [tdrop, if_neg ha, ih (fun e he => h e (by simp [he]))]

omit [DecidableEq α] in
theorem tdrop_tinsert (t : Table α) (k : Nat) (v : α) (h : ∀ e ∈ t, e.1 ≠ k) : tdrop (tinsert t k v) k = t := by
  induction t with
  | nil => simp [tinsert, tdrop]
  | cons e t ih =>
    obtain ⟨a, w⟩ := e
    have ha : a ≠ k := h (a, w) (by simp)
    have ht : ∀ e ∈ t, e.1 ≠ k := fun e he => h e (by simp [he])
    by_cases hlt : k < a
    · simp [tinsert, hlt, tdrop, ha, tdrop_of_ne t k ht]
    · simp [tinsert, hlt, tdrop, ha, ih ht]

/-- A second write to a key replaces the first. -/
theorem tset_tset (d : Nat → α) (t : Table α) (k : Nat) (v w : α) : tset d (tset d t k v) k w = tset d t k w := by
  have h : tdrop (tset d t k v) k = tdrop t k := by
    unfold tset
    split
    · exact tdrop_of_ne _ k (tdrop_ne t k)
    · exact tdrop_tinsert _ k v (tdrop_ne t k)
  unfold tset at h ⊢
  rw [h]

theorem tcanonFrom_mono (d : Nat → α) (t : Table α) (lo lo' : Nat) (hl : lo' ≤ lo)
    (h : tcanonFrom d lo t = true) : tcanonFrom d lo' t = true := by
  cases t with
  | nil => rfl
  | cons e t =>
    obtain ⟨a, v⟩ := e
    simp [tcanonFrom] at h ⊢
    exact ⟨⟨by omega, h.1.2⟩, h.2⟩

theorem tdrop_canonFrom (d : Nat → α) (t : Table α) (k lo : Nat) (h : tcanonFrom d lo t = true) :
    tcanonFrom d lo (tdrop t k) = true := by
  induction t generalizing lo with
  | nil => rfl
  | cons e t ih =>
    obtain ⟨a, w⟩ := e
    simp only [tcanonFrom, Bool.and_eq_true, decide_eq_true_eq] at h
    by_cases ha : a = k
    · simp only [tdrop, if_pos ha]
      exact tcanonFrom_mono d _ (a + 1) lo (by omega) (ih (a + 1) h.2)
    · simp only [tdrop, if_neg ha, tcanonFrom, Bool.and_eq_true, decide_eq_true_eq]
      exact ⟨h.1, ih (a + 1) h.2⟩

theorem tinsert_canonFrom (d : Nat → α) (t : Table α) (k lo : Nat) (v : α) (hv : v ≠ d k) (hlo : lo ≤ k)
    (hn : ∀ e ∈ t, e.1 ≠ k) (h : tcanonFrom d lo t = true) : tcanonFrom d lo (tinsert t k v) = true := by
  induction t generalizing lo with
  | nil => simp [tinsert, tcanonFrom, hv, hlo]
  | cons e t ih =>
    obtain ⟨a, w⟩ := e
    have ha : a ≠ k := hn (a, w) (by simp)
    simp only [tcanonFrom, Bool.and_eq_true, decide_eq_true_eq] at h
    by_cases hlt : k < a
    · simp only [tinsert, if_pos hlt, tcanonFrom, Bool.and_eq_true, decide_eq_true_eq]
      exact ⟨⟨hlo, hv⟩, ⟨by omega, h.1.2⟩, h.2⟩
    · simp only [tinsert, if_neg hlt, tcanonFrom, Bool.and_eq_true, decide_eq_true_eq]
      exact ⟨h.1, ih (a + 1) (by omega) (fun e he => hn e (by simp [he])) h.2⟩

/-- Every write keeps the canonical form. -/
theorem tset_canon (d : Nat → α) (t : Table α) (k : Nat) (v : α) (h : tcanon d t = true) :
    tcanon d (tset d t k v) = true := by
  unfold tset
  split
  · exact tdrop_canonFrom d t k 0 h
  · rename_i hv
    exact tinsert_canonFrom d _ k 0 v hv (Nat.zero_le k) (tdrop_ne t k) (tdrop_canonFrom d t k 0 h)

theorem filter_canonFrom (d : Nat → α) (p : Nat × α → Bool) (t : Table α) (b : Nat) (h : tcanonFrom d b t = true) :
    tcanonFrom d b (t.filter p) = true := by
  induction t generalizing b with
  | nil => rfl
  | cons e t ih =>
    obtain ⟨a, w⟩ := e
    simp only [tcanonFrom, Bool.and_eq_true, decide_eq_true_eq] at h
    rw [List.filter_cons]
    split
    · simp only [tcanonFrom, Bool.and_eq_true, decide_eq_true_eq]
      exact ⟨h.1, ih (a + 1) h.2⟩
    · exact tcanonFrom_mono d _ (a + 1) b (by omega) (ih (a + 1) h.2)

/-- Clearing a range keeps the canonical form. -/
theorem tclear_canon (d : Nat → α) (t : Table α) (lo n : Nat) (h : tcanon d t = true) :
    tcanon d (tclear t lo n) = true := filter_canonFrom d _ t 0 h

end Sys2Proof.Machine
end

