-- ==== Sys2Proof/Laws/State.lean ====
section
/-! SUPPORT. The laws of the homes of state: one lemma per field per update and per accessor per update, and what each
accessor reads after its own update. -/
namespace Sys2Proof.Machine

variable (s : State)

/-! ## Fields that an update leaves alone -/

@[simp] theorem setCore_pending (p : Nat) (c : Core) : (setCore s p c).pending = s.pending := rfl
@[simp] theorem setCore_freeCtr (p : Nat) (c : Core) : (setCore s p c).freeCtr = s.freeCtr := rfl
@[simp] theorem setCore_localNs (p : Nat) (c : Core) : (setCore s p c).localNs = s.localNs := rfl
@[simp] theorem setCore_regs (p : Nat) (c : Core) : (setCore s p c).regs = s.regs := rfl
@[simp] theorem setCore_clusters (p : Nat) (c : Core) : (setCore s p c).clusters = s.clusters := rfl
@[simp] theorem setCore_dev (p : Nat) (c : Core) : (setCore s p c).dev = s.dev := rfl
@[simp] theorem setCore_devPoison (p : Nat) (c : Core) : (setCore s p c).devPoison = s.devPoison := rfl
@[simp] theorem setCore_devErrs (p : Nat) (c : Core) : (setCore s p c).devErrs = s.devErrs := rfl
@[simp] theorem setCore_hostMem (p : Nat) (c : Core) : (setCore s p c).hostMem = s.hostMem := rfl
@[simp] theorem setCore_stacks (p : Nat) (c : Core) : (setCore s p c).stks = s.stks := rfl
@[simp] theorem setCore_upds (p : Nat) (c : Core) : (setCore s p c).upds = s.upds := rfl
@[simp] theorem setCore_queues (p : Nat) (c : Core) : (setCore s p c).queues = s.queues := rfl
@[simp] theorem setCore_evt (p : Nat) (c : Core) : (setCore s p c).evt = s.evt := rfl
@[simp] theorem setCore_evtFault (p : Nat) (c : Core) : (setCore s p c).evtFault = s.evtFault := rfl
@[simp] theorem setCore_time (p : Nat) (c : Core) : (setCore s p c).time = s.time := rfl
@[simp] theorem setCore_lastGrant (p : Nat) (c : Core) : (setCore s p c).lastGrant = s.lastGrant := rfl
@[simp] theorem setCore_dies (p : Nat) (c : Core) : (setCore s p c).dies = s.dies := rfl
@[simp] theorem setCore_fab (p : Nat) (c : Core) : (setCore s p c).fab = s.fab := rfl
@[simp] theorem setCore_coll (p : Nat) (c : Core) : (setCore s p c).coll = s.coll := rfl
@[simp] theorem setCore_host (p : Nat) (c : Core) : (setCore s p c).host = s.host := rfl
@[simp] theorem setCore_err (p : Nat) (c : Core) : (setCore s p c).err = s.err := rfl
@[simp] theorem setCore_links (p : Nat) (c : Core) : (setCore s p c).links = s.links := rfl
@[simp] theorem setCore_svc (p : Nat) (c : Core) : (setCore s p c).svc = s.svc := rfl
@[simp] theorem setCore_gov (p : Nat) (c : Core) : (setCore s p c).gov = s.gov := rfl
@[simp] theorem setCore_cfg (p : Nat) (c : Core) : (setCore s p c).cfg = s.cfg := rfl
@[simp] theorem setCore_sec (p : Nat) (c : Core) : (setCore s p c).sec = s.sec := rfl
@[simp] theorem setCore_fld (p : Nat) (c : Core) : (setCore s p c).fld = s.fld := rfl
@[simp] theorem setCore_pkg (p : Nat) (c : Core) : (setCore s p c).pkg = s.pkg := rfl
@[simp] theorem setCluster_pending (n : Nat) (c : Cluster) : (setCluster s n c).pending = s.pending := rfl
@[simp] theorem setCluster_freeCtr (n : Nat) (c : Cluster) : (setCluster s n c).freeCtr = s.freeCtr := rfl
@[simp] theorem setCluster_localNs (n : Nat) (c : Cluster) : (setCluster s n c).localNs = s.localNs := rfl
@[simp] theorem setCluster_regs (n : Nat) (c : Cluster) : (setCluster s n c).regs = s.regs := rfl
@[simp] theorem setCluster_cores (n : Nat) (c : Cluster) : (setCluster s n c).cores = s.cores := rfl
@[simp] theorem setCluster_dev (n : Nat) (c : Cluster) : (setCluster s n c).dev = s.dev := rfl
@[simp] theorem setCluster_devPoison (n : Nat) (c : Cluster) : (setCluster s n c).devPoison = s.devPoison := rfl
@[simp] theorem setCluster_devErrs (n : Nat) (c : Cluster) : (setCluster s n c).devErrs = s.devErrs := rfl
@[simp] theorem setCluster_hostMem (n : Nat) (c : Cluster) : (setCluster s n c).hostMem = s.hostMem := rfl
@[simp] theorem setCluster_stacks (n : Nat) (c : Cluster) : (setCluster s n c).stks = s.stks := rfl
@[simp] theorem setCluster_upds (n : Nat) (c : Cluster) : (setCluster s n c).upds = s.upds := rfl
@[simp] theorem setCluster_queues (n : Nat) (c : Cluster) : (setCluster s n c).queues = s.queues := rfl
@[simp] theorem setCluster_evt (n : Nat) (c : Cluster) : (setCluster s n c).evt = s.evt := rfl
@[simp] theorem setCluster_evtFault (n : Nat) (c : Cluster) : (setCluster s n c).evtFault = s.evtFault := rfl
@[simp] theorem setCluster_time (n : Nat) (c : Cluster) : (setCluster s n c).time = s.time := rfl
@[simp] theorem setCluster_lastGrant (n : Nat) (c : Cluster) : (setCluster s n c).lastGrant = s.lastGrant := rfl
@[simp] theorem setCluster_dies (n : Nat) (c : Cluster) : (setCluster s n c).dies = s.dies := rfl
@[simp] theorem setCluster_fab (n : Nat) (c : Cluster) : (setCluster s n c).fab = s.fab := rfl
@[simp] theorem setCluster_coll (n : Nat) (c : Cluster) : (setCluster s n c).coll = s.coll := rfl
@[simp] theorem setCluster_host (n : Nat) (c : Cluster) : (setCluster s n c).host = s.host := rfl
@[simp] theorem setCluster_err (n : Nat) (c : Cluster) : (setCluster s n c).err = s.err := rfl
@[simp] theorem setCluster_links (n : Nat) (c : Cluster) : (setCluster s n c).links = s.links := rfl
@[simp] theorem setCluster_svc (n : Nat) (c : Cluster) : (setCluster s n c).svc = s.svc := rfl
@[simp] theorem setCluster_gov (n : Nat) (c : Cluster) : (setCluster s n c).gov = s.gov := rfl
@[simp] theorem setCluster_cfg (n : Nat) (c : Cluster) : (setCluster s n c).cfg = s.cfg := rfl
@[simp] theorem setCluster_sec (n : Nat) (c : Cluster) : (setCluster s n c).sec = s.sec := rfl
@[simp] theorem setCluster_fld (n : Nat) (c : Cluster) : (setCluster s n c).fld = s.fld := rfl
@[simp] theorem setCluster_pkg (n : Nat) (c : Cluster) : (setCluster s n c).pkg = s.pkg := rfl
@[simp] theorem setStack_pending (n : Nat) (k : Stack) : (setStack s n k).pending = s.pending := rfl
@[simp] theorem setStack_freeCtr (n : Nat) (k : Stack) : (setStack s n k).freeCtr = s.freeCtr := rfl
@[simp] theorem setStack_localNs (n : Nat) (k : Stack) : (setStack s n k).localNs = s.localNs := rfl
@[simp] theorem setStack_regs (n : Nat) (k : Stack) : (setStack s n k).regs = s.regs := rfl
@[simp] theorem setStack_cores (n : Nat) (k : Stack) : (setStack s n k).cores = s.cores := rfl
@[simp] theorem setStack_clusters (n : Nat) (k : Stack) : (setStack s n k).clusters = s.clusters := rfl
@[simp] theorem setStack_dev (n : Nat) (k : Stack) : (setStack s n k).dev = s.dev := rfl
@[simp] theorem setStack_devPoison (n : Nat) (k : Stack) : (setStack s n k).devPoison = s.devPoison := rfl
@[simp] theorem setStack_devErrs (n : Nat) (k : Stack) : (setStack s n k).devErrs = s.devErrs := rfl
@[simp] theorem setStack_hostMem (n : Nat) (k : Stack) : (setStack s n k).hostMem = s.hostMem := rfl
@[simp] theorem setStack_upds (n : Nat) (k : Stack) : (setStack s n k).upds = s.upds := rfl
@[simp] theorem setStack_queues (n : Nat) (k : Stack) : (setStack s n k).queues = s.queues := rfl
@[simp] theorem setStack_evt (n : Nat) (k : Stack) : (setStack s n k).evt = s.evt := rfl
@[simp] theorem setStack_evtFault (n : Nat) (k : Stack) : (setStack s n k).evtFault = s.evtFault := rfl
@[simp] theorem setStack_time (n : Nat) (k : Stack) : (setStack s n k).time = s.time := rfl
@[simp] theorem setStack_lastGrant (n : Nat) (k : Stack) : (setStack s n k).lastGrant = s.lastGrant := rfl
@[simp] theorem setStack_dies (n : Nat) (k : Stack) : (setStack s n k).dies = s.dies := rfl
@[simp] theorem setStack_fab (n : Nat) (k : Stack) : (setStack s n k).fab = s.fab := rfl
@[simp] theorem setStack_coll (n : Nat) (k : Stack) : (setStack s n k).coll = s.coll := rfl
@[simp] theorem setStack_host (n : Nat) (k : Stack) : (setStack s n k).host = s.host := rfl
@[simp] theorem setStack_err (n : Nat) (k : Stack) : (setStack s n k).err = s.err := rfl
@[simp] theorem setStack_links (n : Nat) (k : Stack) : (setStack s n k).links = s.links := rfl
@[simp] theorem setStack_svc (n : Nat) (k : Stack) : (setStack s n k).svc = s.svc := rfl
@[simp] theorem setStack_gov (n : Nat) (k : Stack) : (setStack s n k).gov = s.gov := rfl
@[simp] theorem setStack_cfg (n : Nat) (k : Stack) : (setStack s n k).cfg = s.cfg := rfl
@[simp] theorem setStack_sec (n : Nat) (k : Stack) : (setStack s n k).sec = s.sec := rfl
@[simp] theorem setStack_fld (n : Nat) (k : Stack) : (setStack s n k).fld = s.fld := rfl
@[simp] theorem setStack_pkg (n : Nat) (k : Stack) : (setStack s n k).pkg = s.pkg := rfl
@[simp] theorem setUpd_pending (n : Nat) (u : UpdUnit) : (setUpd s n u).pending = s.pending := rfl
@[simp] theorem setUpd_freeCtr (n : Nat) (u : UpdUnit) : (setUpd s n u).freeCtr = s.freeCtr := rfl
@[simp] theorem setUpd_localNs (n : Nat) (u : UpdUnit) : (setUpd s n u).localNs = s.localNs := rfl
@[simp] theorem setUpd_regs (n : Nat) (u : UpdUnit) : (setUpd s n u).regs = s.regs := rfl
@[simp] theorem setUpd_cores (n : Nat) (u : UpdUnit) : (setUpd s n u).cores = s.cores := rfl
@[simp] theorem setUpd_clusters (n : Nat) (u : UpdUnit) : (setUpd s n u).clusters = s.clusters := rfl
@[simp] theorem setUpd_dev (n : Nat) (u : UpdUnit) : (setUpd s n u).dev = s.dev := rfl
@[simp] theorem setUpd_devPoison (n : Nat) (u : UpdUnit) : (setUpd s n u).devPoison = s.devPoison := rfl
@[simp] theorem setUpd_devErrs (n : Nat) (u : UpdUnit) : (setUpd s n u).devErrs = s.devErrs := rfl
@[simp] theorem setUpd_hostMem (n : Nat) (u : UpdUnit) : (setUpd s n u).hostMem = s.hostMem := rfl
@[simp] theorem setUpd_stacks (n : Nat) (u : UpdUnit) : (setUpd s n u).stks = s.stks := rfl
@[simp] theorem setUpd_queues (n : Nat) (u : UpdUnit) : (setUpd s n u).queues = s.queues := rfl
@[simp] theorem setUpd_evt (n : Nat) (u : UpdUnit) : (setUpd s n u).evt = s.evt := rfl
@[simp] theorem setUpd_evtFault (n : Nat) (u : UpdUnit) : (setUpd s n u).evtFault = s.evtFault := rfl
@[simp] theorem setUpd_time (n : Nat) (u : UpdUnit) : (setUpd s n u).time = s.time := rfl
@[simp] theorem setUpd_lastGrant (n : Nat) (u : UpdUnit) : (setUpd s n u).lastGrant = s.lastGrant := rfl
@[simp] theorem setUpd_dies (n : Nat) (u : UpdUnit) : (setUpd s n u).dies = s.dies := rfl
@[simp] theorem setUpd_fab (n : Nat) (u : UpdUnit) : (setUpd s n u).fab = s.fab := rfl
@[simp] theorem setUpd_coll (n : Nat) (u : UpdUnit) : (setUpd s n u).coll = s.coll := rfl
@[simp] theorem setUpd_host (n : Nat) (u : UpdUnit) : (setUpd s n u).host = s.host := rfl
@[simp] theorem setUpd_err (n : Nat) (u : UpdUnit) : (setUpd s n u).err = s.err := rfl
@[simp] theorem setUpd_links (n : Nat) (u : UpdUnit) : (setUpd s n u).links = s.links := rfl
@[simp] theorem setUpd_svc (n : Nat) (u : UpdUnit) : (setUpd s n u).svc = s.svc := rfl
@[simp] theorem setUpd_gov (n : Nat) (u : UpdUnit) : (setUpd s n u).gov = s.gov := rfl
@[simp] theorem setUpd_cfg (n : Nat) (u : UpdUnit) : (setUpd s n u).cfg = s.cfg := rfl
@[simp] theorem setUpd_sec (n : Nat) (u : UpdUnit) : (setUpd s n u).sec = s.sec := rfl
@[simp] theorem setUpd_fld (n : Nat) (u : UpdUnit) : (setUpd s n u).fld = s.fld := rfl
@[simp] theorem setUpd_pkg (n : Nat) (u : UpdUnit) : (setUpd s n u).pkg = s.pkg := rfl
@[simp] theorem setQueue_pending (q : Nat) (k : Queue) : (setQueue s q k).pending = s.pending := rfl
@[simp] theorem setQueue_freeCtr (q : Nat) (k : Queue) : (setQueue s q k).freeCtr = s.freeCtr := rfl
@[simp] theorem setQueue_localNs (q : Nat) (k : Queue) : (setQueue s q k).localNs = s.localNs := rfl
@[simp] theorem setQueue_regs (q : Nat) (k : Queue) : (setQueue s q k).regs = s.regs := rfl
@[simp] theorem setQueue_cores (q : Nat) (k : Queue) : (setQueue s q k).cores = s.cores := rfl
@[simp] theorem setQueue_clusters (q : Nat) (k : Queue) : (setQueue s q k).clusters = s.clusters := rfl
@[simp] theorem setQueue_dev (q : Nat) (k : Queue) : (setQueue s q k).dev = s.dev := rfl
@[simp] theorem setQueue_devPoison (q : Nat) (k : Queue) : (setQueue s q k).devPoison = s.devPoison := rfl
@[simp] theorem setQueue_devErrs (q : Nat) (k : Queue) : (setQueue s q k).devErrs = s.devErrs := rfl
@[simp] theorem setQueue_hostMem (q : Nat) (k : Queue) : (setQueue s q k).hostMem = s.hostMem := rfl
@[simp] theorem setQueue_stacks (q : Nat) (k : Queue) : (setQueue s q k).stks = s.stks := rfl
@[simp] theorem setQueue_upds (q : Nat) (k : Queue) : (setQueue s q k).upds = s.upds := rfl
@[simp] theorem setQueue_evt (q : Nat) (k : Queue) : (setQueue s q k).evt = s.evt := rfl
@[simp] theorem setQueue_evtFault (q : Nat) (k : Queue) : (setQueue s q k).evtFault = s.evtFault := rfl
@[simp] theorem setQueue_time (q : Nat) (k : Queue) : (setQueue s q k).time = s.time := rfl
@[simp] theorem setQueue_lastGrant (q : Nat) (k : Queue) : (setQueue s q k).lastGrant = s.lastGrant := rfl
@[simp] theorem setQueue_dies (q : Nat) (k : Queue) : (setQueue s q k).dies = s.dies := rfl
@[simp] theorem setQueue_fab (q : Nat) (k : Queue) : (setQueue s q k).fab = s.fab := rfl
@[simp] theorem setQueue_coll (q : Nat) (k : Queue) : (setQueue s q k).coll = s.coll := rfl
@[simp] theorem setQueue_host (q : Nat) (k : Queue) : (setQueue s q k).host = s.host := rfl
@[simp] theorem setQueue_err (q : Nat) (k : Queue) : (setQueue s q k).err = s.err := rfl
@[simp] theorem setQueue_links (q : Nat) (k : Queue) : (setQueue s q k).links = s.links := rfl
@[simp] theorem setQueue_svc (q : Nat) (k : Queue) : (setQueue s q k).svc = s.svc := rfl
@[simp] theorem setQueue_gov (q : Nat) (k : Queue) : (setQueue s q k).gov = s.gov := rfl
@[simp] theorem setQueue_cfg (q : Nat) (k : Queue) : (setQueue s q k).cfg = s.cfg := rfl
@[simp] theorem setQueue_sec (q : Nat) (k : Queue) : (setQueue s q k).sec = s.sec := rfl
@[simp] theorem setQueue_fld (q : Nat) (k : Queue) : (setQueue s q k).fld = s.fld := rfl
@[simp] theorem setQueue_pkg (q : Nat) (k : Queue) : (setQueue s q k).pkg = s.pkg := rfl
@[simp] theorem setDie_pending (n : Nat) (d : Die) : (setDie s n d).pending = s.pending := rfl
@[simp] theorem setDie_freeCtr (n : Nat) (d : Die) : (setDie s n d).freeCtr = s.freeCtr := rfl
@[simp] theorem setDie_localNs (n : Nat) (d : Die) : (setDie s n d).localNs = s.localNs := rfl
@[simp] theorem setDie_regs (n : Nat) (d : Die) : (setDie s n d).regs = s.regs := rfl
@[simp] theorem setDie_cores (n : Nat) (d : Die) : (setDie s n d).cores = s.cores := rfl
@[simp] theorem setDie_clusters (n : Nat) (d : Die) : (setDie s n d).clusters = s.clusters := rfl
@[simp] theorem setDie_dev (n : Nat) (d : Die) : (setDie s n d).dev = s.dev := rfl
@[simp] theorem setDie_devPoison (n : Nat) (d : Die) : (setDie s n d).devPoison = s.devPoison := rfl
@[simp] theorem setDie_devErrs (n : Nat) (d : Die) : (setDie s n d).devErrs = s.devErrs := rfl
@[simp] theorem setDie_hostMem (n : Nat) (d : Die) : (setDie s n d).hostMem = s.hostMem := rfl
@[simp] theorem setDie_stacks (n : Nat) (d : Die) : (setDie s n d).stks = s.stks := rfl
@[simp] theorem setDie_upds (n : Nat) (d : Die) : (setDie s n d).upds = s.upds := rfl
@[simp] theorem setDie_queues (n : Nat) (d : Die) : (setDie s n d).queues = s.queues := rfl
@[simp] theorem setDie_evt (n : Nat) (d : Die) : (setDie s n d).evt = s.evt := rfl
@[simp] theorem setDie_evtFault (n : Nat) (d : Die) : (setDie s n d).evtFault = s.evtFault := rfl
@[simp] theorem setDie_time (n : Nat) (d : Die) : (setDie s n d).time = s.time := rfl
@[simp] theorem setDie_lastGrant (n : Nat) (d : Die) : (setDie s n d).lastGrant = s.lastGrant := rfl
@[simp] theorem setDie_fab (n : Nat) (d : Die) : (setDie s n d).fab = s.fab := rfl
@[simp] theorem setDie_coll (n : Nat) (d : Die) : (setDie s n d).coll = s.coll := rfl
@[simp] theorem setDie_host (n : Nat) (d : Die) : (setDie s n d).host = s.host := rfl
@[simp] theorem setDie_err (n : Nat) (d : Die) : (setDie s n d).err = s.err := rfl
@[simp] theorem setDie_links (n : Nat) (d : Die) : (setDie s n d).links = s.links := rfl
@[simp] theorem setDie_svc (n : Nat) (d : Die) : (setDie s n d).svc = s.svc := rfl
@[simp] theorem setDie_gov (n : Nat) (d : Die) : (setDie s n d).gov = s.gov := rfl
@[simp] theorem setDie_cfg (n : Nat) (d : Die) : (setDie s n d).cfg = s.cfg := rfl
@[simp] theorem setDie_sec (n : Nat) (d : Die) : (setDie s n d).sec = s.sec := rfl
@[simp] theorem setDie_fld (n : Nat) (d : Die) : (setDie s n d).fld = s.fld := rfl
@[simp] theorem setDie_pkg (n : Nat) (d : Die) : (setDie s n d).pkg = s.pkg := rfl
@[simp] theorem setErrQ_pending (n : Nat) (q : ErrQueue) : (setErrQ s n q).pending = s.pending := rfl
@[simp] theorem setErrQ_freeCtr (n : Nat) (q : ErrQueue) : (setErrQ s n q).freeCtr = s.freeCtr := rfl
@[simp] theorem setErrQ_localNs (n : Nat) (q : ErrQueue) : (setErrQ s n q).localNs = s.localNs := rfl
@[simp] theorem setErrQ_regs (n : Nat) (q : ErrQueue) : (setErrQ s n q).regs = s.regs := rfl
@[simp] theorem setErrQ_cores (n : Nat) (q : ErrQueue) : (setErrQ s n q).cores = s.cores := rfl
@[simp] theorem setErrQ_clusters (n : Nat) (q : ErrQueue) : (setErrQ s n q).clusters = s.clusters := rfl
@[simp] theorem setErrQ_dev (n : Nat) (q : ErrQueue) : (setErrQ s n q).dev = s.dev := rfl
@[simp] theorem setErrQ_devPoison (n : Nat) (q : ErrQueue) : (setErrQ s n q).devPoison = s.devPoison := rfl
@[simp] theorem setErrQ_devErrs (n : Nat) (q : ErrQueue) : (setErrQ s n q).devErrs = s.devErrs := rfl
@[simp] theorem setErrQ_hostMem (n : Nat) (q : ErrQueue) : (setErrQ s n q).hostMem = s.hostMem := rfl
@[simp] theorem setErrQ_stacks (n : Nat) (q : ErrQueue) : (setErrQ s n q).stks = s.stks := rfl
@[simp] theorem setErrQ_upds (n : Nat) (q : ErrQueue) : (setErrQ s n q).upds = s.upds := rfl
@[simp] theorem setErrQ_queues (n : Nat) (q : ErrQueue) : (setErrQ s n q).queues = s.queues := rfl
@[simp] theorem setErrQ_evt (n : Nat) (q : ErrQueue) : (setErrQ s n q).evt = s.evt := rfl
@[simp] theorem setErrQ_evtFault (n : Nat) (q : ErrQueue) : (setErrQ s n q).evtFault = s.evtFault := rfl
@[simp] theorem setErrQ_time (n : Nat) (q : ErrQueue) : (setErrQ s n q).time = s.time := rfl
@[simp] theorem setErrQ_lastGrant (n : Nat) (q : ErrQueue) : (setErrQ s n q).lastGrant = s.lastGrant := rfl
@[simp] theorem setErrQ_dies (n : Nat) (q : ErrQueue) : (setErrQ s n q).dies = s.dies := rfl
@[simp] theorem setErrQ_fab (n : Nat) (q : ErrQueue) : (setErrQ s n q).fab = s.fab := rfl
@[simp] theorem setErrQ_coll (n : Nat) (q : ErrQueue) : (setErrQ s n q).coll = s.coll := rfl
@[simp] theorem setErrQ_host (n : Nat) (q : ErrQueue) : (setErrQ s n q).host = s.host := rfl
@[simp] theorem setErrQ_links (n : Nat) (q : ErrQueue) : (setErrQ s n q).links = s.links := rfl
@[simp] theorem setErrQ_svc (n : Nat) (q : ErrQueue) : (setErrQ s n q).svc = s.svc := rfl
@[simp] theorem setErrQ_gov (n : Nat) (q : ErrQueue) : (setErrQ s n q).gov = s.gov := rfl
@[simp] theorem setErrQ_cfg (n : Nat) (q : ErrQueue) : (setErrQ s n q).cfg = s.cfg := rfl
@[simp] theorem setErrQ_sec (n : Nat) (q : ErrQueue) : (setErrQ s n q).sec = s.sec := rfl
@[simp] theorem setErrQ_fld (n : Nat) (q : ErrQueue) : (setErrQ s n q).fld = s.fld := rfl
@[simp] theorem setErrQ_pkg (n : Nat) (q : ErrQueue) : (setErrQ s n q).pkg = s.pkg := rfl
@[simp] theorem rset_pending (r : Reg) (v : Word64) : (rset s r v).pending = s.pending := rfl
@[simp] theorem rset_freeCtr (r : Reg) (v : Word64) : (rset s r v).freeCtr = s.freeCtr := rfl
@[simp] theorem rset_localNs (r : Reg) (v : Word64) : (rset s r v).localNs = s.localNs := rfl
@[simp] theorem rset_cores (r : Reg) (v : Word64) : (rset s r v).cores = s.cores := rfl
@[simp] theorem rset_clusters (r : Reg) (v : Word64) : (rset s r v).clusters = s.clusters := rfl
@[simp] theorem rset_dev (r : Reg) (v : Word64) : (rset s r v).dev = s.dev := rfl
@[simp] theorem rset_devPoison (r : Reg) (v : Word64) : (rset s r v).devPoison = s.devPoison := rfl
@[simp] theorem rset_devErrs (r : Reg) (v : Word64) : (rset s r v).devErrs = s.devErrs := rfl
@[simp] theorem rset_hostMem (r : Reg) (v : Word64) : (rset s r v).hostMem = s.hostMem := rfl
@[simp] theorem rset_stacks (r : Reg) (v : Word64) : (rset s r v).stks = s.stks := rfl
@[simp] theorem rset_upds (r : Reg) (v : Word64) : (rset s r v).upds = s.upds := rfl
@[simp] theorem rset_queues (r : Reg) (v : Word64) : (rset s r v).queues = s.queues := rfl
@[simp] theorem rset_evt (r : Reg) (v : Word64) : (rset s r v).evt = s.evt := rfl
@[simp] theorem rset_evtFault (r : Reg) (v : Word64) : (rset s r v).evtFault = s.evtFault := rfl
@[simp] theorem rset_time (r : Reg) (v : Word64) : (rset s r v).time = s.time := rfl
@[simp] theorem rset_lastGrant (r : Reg) (v : Word64) : (rset s r v).lastGrant = s.lastGrant := rfl
@[simp] theorem rset_dies (r : Reg) (v : Word64) : (rset s r v).dies = s.dies := rfl
@[simp] theorem rset_fab (r : Reg) (v : Word64) : (rset s r v).fab = s.fab := rfl
@[simp] theorem rset_coll (r : Reg) (v : Word64) : (rset s r v).coll = s.coll := rfl
@[simp] theorem rset_host (r : Reg) (v : Word64) : (rset s r v).host = s.host := rfl
@[simp] theorem rset_err (r : Reg) (v : Word64) : (rset s r v).err = s.err := rfl
@[simp] theorem rset_links (r : Reg) (v : Word64) : (rset s r v).links = s.links := rfl
@[simp] theorem rset_svc (r : Reg) (v : Word64) : (rset s r v).svc = s.svc := rfl
@[simp] theorem rset_gov (r : Reg) (v : Word64) : (rset s r v).gov = s.gov := rfl
@[simp] theorem rset_cfg (r : Reg) (v : Word64) : (rset s r v).cfg = s.cfg := rfl
@[simp] theorem rset_sec (r : Reg) (v : Word64) : (rset s r v).sec = s.sec := rfl
@[simp] theorem rset_fld (r : Reg) (v : Word64) : (rset s r v).fld = s.fld := rfl
@[simp] theorem rset_pkg (r : Reg) (v : Word64) : (rset s r v).pkg = s.pkg := rfl
@[simp] theorem rbump_pending (r : Reg) (n : Nat) : (rbump s r n).pending = s.pending := rfl
@[simp] theorem rbump_freeCtr (r : Reg) (n : Nat) : (rbump s r n).freeCtr = s.freeCtr := rfl
@[simp] theorem rbump_localNs (r : Reg) (n : Nat) : (rbump s r n).localNs = s.localNs := rfl
@[simp] theorem rbump_cores (r : Reg) (n : Nat) : (rbump s r n).cores = s.cores := rfl
@[simp] theorem rbump_clusters (r : Reg) (n : Nat) : (rbump s r n).clusters = s.clusters := rfl
@[simp] theorem rbump_dev (r : Reg) (n : Nat) : (rbump s r n).dev = s.dev := rfl
@[simp] theorem rbump_devPoison (r : Reg) (n : Nat) : (rbump s r n).devPoison = s.devPoison := rfl
@[simp] theorem rbump_devErrs (r : Reg) (n : Nat) : (rbump s r n).devErrs = s.devErrs := rfl
@[simp] theorem rbump_hostMem (r : Reg) (n : Nat) : (rbump s r n).hostMem = s.hostMem := rfl
@[simp] theorem rbump_stacks (r : Reg) (n : Nat) : (rbump s r n).stks = s.stks := rfl
@[simp] theorem rbump_upds (r : Reg) (n : Nat) : (rbump s r n).upds = s.upds := rfl
@[simp] theorem rbump_queues (r : Reg) (n : Nat) : (rbump s r n).queues = s.queues := rfl
@[simp] theorem rbump_evt (r : Reg) (n : Nat) : (rbump s r n).evt = s.evt := rfl
@[simp] theorem rbump_evtFault (r : Reg) (n : Nat) : (rbump s r n).evtFault = s.evtFault := rfl
@[simp] theorem rbump_time (r : Reg) (n : Nat) : (rbump s r n).time = s.time := rfl
@[simp] theorem rbump_lastGrant (r : Reg) (n : Nat) : (rbump s r n).lastGrant = s.lastGrant := rfl
@[simp] theorem rbump_dies (r : Reg) (n : Nat) : (rbump s r n).dies = s.dies := rfl
@[simp] theorem rbump_fab (r : Reg) (n : Nat) : (rbump s r n).fab = s.fab := rfl
@[simp] theorem rbump_coll (r : Reg) (n : Nat) : (rbump s r n).coll = s.coll := rfl
@[simp] theorem rbump_host (r : Reg) (n : Nat) : (rbump s r n).host = s.host := rfl
@[simp] theorem rbump_err (r : Reg) (n : Nat) : (rbump s r n).err = s.err := rfl
@[simp] theorem rbump_links (r : Reg) (n : Nat) : (rbump s r n).links = s.links := rfl
@[simp] theorem rbump_svc (r : Reg) (n : Nat) : (rbump s r n).svc = s.svc := rfl
@[simp] theorem rbump_gov (r : Reg) (n : Nat) : (rbump s r n).gov = s.gov := rfl
@[simp] theorem rbump_cfg (r : Reg) (n : Nat) : (rbump s r n).cfg = s.cfg := rfl
@[simp] theorem rbump_sec (r : Reg) (n : Nat) : (rbump s r n).sec = s.sec := rfl
@[simp] theorem rbump_fld (r : Reg) (n : Nat) : (rbump s r n).fld = s.fld := rfl
@[simp] theorem rbump_pkg (r : Reg) (n : Nat) : (rbump s r n).pkg = s.pkg := rfl
@[simp] theorem setCluGov_pending (c : Nat) (g : CluGov) : (setCluGov s c g).pending = s.pending := rfl
@[simp] theorem setCluGov_freeCtr (c : Nat) (g : CluGov) : (setCluGov s c g).freeCtr = s.freeCtr := rfl
@[simp] theorem setCluGov_localNs (c : Nat) (g : CluGov) : (setCluGov s c g).localNs = s.localNs := rfl
@[simp] theorem setCluGov_regs (c : Nat) (g : CluGov) : (setCluGov s c g).regs = s.regs := rfl
@[simp] theorem setCluGov_cores (c : Nat) (g : CluGov) : (setCluGov s c g).cores = s.cores := rfl
@[simp] theorem setCluGov_clusters (c : Nat) (g : CluGov) : (setCluGov s c g).clusters = s.clusters := rfl
@[simp] theorem setCluGov_dev (c : Nat) (g : CluGov) : (setCluGov s c g).dev = s.dev := rfl
@[simp] theorem setCluGov_devPoison (c : Nat) (g : CluGov) : (setCluGov s c g).devPoison = s.devPoison := rfl
@[simp] theorem setCluGov_devErrs (c : Nat) (g : CluGov) : (setCluGov s c g).devErrs = s.devErrs := rfl
@[simp] theorem setCluGov_hostMem (c : Nat) (g : CluGov) : (setCluGov s c g).hostMem = s.hostMem := rfl
@[simp] theorem setCluGov_stacks (c : Nat) (g : CluGov) : (setCluGov s c g).stks = s.stks := rfl
@[simp] theorem setCluGov_upds (c : Nat) (g : CluGov) : (setCluGov s c g).upds = s.upds := rfl
@[simp] theorem setCluGov_queues (c : Nat) (g : CluGov) : (setCluGov s c g).queues = s.queues := rfl
@[simp] theorem setCluGov_evt (c : Nat) (g : CluGov) : (setCluGov s c g).evt = s.evt := rfl
@[simp] theorem setCluGov_evtFault (c : Nat) (g : CluGov) : (setCluGov s c g).evtFault = s.evtFault := rfl
@[simp] theorem setCluGov_time (c : Nat) (g : CluGov) : (setCluGov s c g).time = s.time := rfl
@[simp] theorem setCluGov_lastGrant (c : Nat) (g : CluGov) : (setCluGov s c g).lastGrant = s.lastGrant := rfl
@[simp] theorem setCluGov_dies (c : Nat) (g : CluGov) : (setCluGov s c g).dies = s.dies := rfl
@[simp] theorem setCluGov_fab (c : Nat) (g : CluGov) : (setCluGov s c g).fab = s.fab := rfl
@[simp] theorem setCluGov_coll (c : Nat) (g : CluGov) : (setCluGov s c g).coll = s.coll := rfl
@[simp] theorem setCluGov_host (c : Nat) (g : CluGov) : (setCluGov s c g).host = s.host := rfl
@[simp] theorem setCluGov_err (c : Nat) (g : CluGov) : (setCluGov s c g).err = s.err := rfl
@[simp] theorem setCluGov_links (c : Nat) (g : CluGov) : (setCluGov s c g).links = s.links := rfl
@[simp] theorem setCluGov_svc (c : Nat) (g : CluGov) : (setCluGov s c g).svc = s.svc := rfl
@[simp] theorem setCluGov_cfg (c : Nat) (g : CluGov) : (setCluGov s c g).cfg = s.cfg := rfl
@[simp] theorem setCluGov_sec (c : Nat) (g : CluGov) : (setCluGov s c g).sec = s.sec := rfl
@[simp] theorem setCluGov_fld (c : Nat) (g : CluGov) : (setCluGov s c g).fld = s.fld := rfl
@[simp] theorem setCluGov_pkg (c : Nat) (g : CluGov) : (setCluGov s c g).pkg = s.pkg := rfl
@[simp] theorem setLink_pending (l d : Nat) (x : LinkDir) : (setLink s l d x).pending = s.pending := rfl
@[simp] theorem setLink_freeCtr (l d : Nat) (x : LinkDir) : (setLink s l d x).freeCtr = s.freeCtr := rfl
@[simp] theorem setLink_localNs (l d : Nat) (x : LinkDir) : (setLink s l d x).localNs = s.localNs := rfl
@[simp] theorem setLink_regs (l d : Nat) (x : LinkDir) : (setLink s l d x).regs = s.regs := rfl
@[simp] theorem setLink_cores (l d : Nat) (x : LinkDir) : (setLink s l d x).cores = s.cores := rfl
@[simp] theorem setLink_clusters (l d : Nat) (x : LinkDir) : (setLink s l d x).clusters = s.clusters := rfl
@[simp] theorem setLink_dev (l d : Nat) (x : LinkDir) : (setLink s l d x).dev = s.dev := rfl
@[simp] theorem setLink_devPoison (l d : Nat) (x : LinkDir) : (setLink s l d x).devPoison = s.devPoison := rfl
@[simp] theorem setLink_devErrs (l d : Nat) (x : LinkDir) : (setLink s l d x).devErrs = s.devErrs := rfl
@[simp] theorem setLink_hostMem (l d : Nat) (x : LinkDir) : (setLink s l d x).hostMem = s.hostMem := rfl
@[simp] theorem setLink_stacks (l d : Nat) (x : LinkDir) : (setLink s l d x).stks = s.stks := rfl
@[simp] theorem setLink_upds (l d : Nat) (x : LinkDir) : (setLink s l d x).upds = s.upds := rfl
@[simp] theorem setLink_queues (l d : Nat) (x : LinkDir) : (setLink s l d x).queues = s.queues := rfl
@[simp] theorem setLink_evt (l d : Nat) (x : LinkDir) : (setLink s l d x).evt = s.evt := rfl
@[simp] theorem setLink_evtFault (l d : Nat) (x : LinkDir) : (setLink s l d x).evtFault = s.evtFault := rfl
@[simp] theorem setLink_time (l d : Nat) (x : LinkDir) : (setLink s l d x).time = s.time := rfl
@[simp] theorem setLink_lastGrant (l d : Nat) (x : LinkDir) : (setLink s l d x).lastGrant = s.lastGrant := rfl
@[simp] theorem setLink_dies (l d : Nat) (x : LinkDir) : (setLink s l d x).dies = s.dies := rfl
@[simp] theorem setLink_fab (l d : Nat) (x : LinkDir) : (setLink s l d x).fab = s.fab := rfl
@[simp] theorem setLink_coll (l d : Nat) (x : LinkDir) : (setLink s l d x).coll = s.coll := rfl
@[simp] theorem setLink_host (l d : Nat) (x : LinkDir) : (setLink s l d x).host = s.host := rfl
@[simp] theorem setLink_err (l d : Nat) (x : LinkDir) : (setLink s l d x).err = s.err := rfl
@[simp] theorem setLink_svc (l d : Nat) (x : LinkDir) : (setLink s l d x).svc = s.svc := rfl
@[simp] theorem setLink_gov (l d : Nat) (x : LinkDir) : (setLink s l d x).gov = s.gov := rfl
@[simp] theorem setLink_cfg (l d : Nat) (x : LinkDir) : (setLink s l d x).cfg = s.cfg := rfl
@[simp] theorem setLink_sec (l d : Nat) (x : LinkDir) : (setLink s l d x).sec = s.sec := rfl
@[simp] theorem setLink_fld (l d : Nat) (x : LinkDir) : (setLink s l d x).fld = s.fld := rfl
@[simp] theorem setLink_pkg (l d : Nat) (x : LinkDir) : (setLink s l d x).pkg = s.pkg := rfl
@[simp] theorem setSvc_pending (k : Nat) (x : AppCore) : (setSvc s k x).pending = s.pending := rfl
@[simp] theorem setSvc_freeCtr (k : Nat) (x : AppCore) : (setSvc s k x).freeCtr = s.freeCtr := rfl
@[simp] theorem setSvc_localNs (k : Nat) (x : AppCore) : (setSvc s k x).localNs = s.localNs := rfl
@[simp] theorem setSvc_regs (k : Nat) (x : AppCore) : (setSvc s k x).regs = s.regs := rfl
@[simp] theorem setSvc_cores (k : Nat) (x : AppCore) : (setSvc s k x).cores = s.cores := rfl
@[simp] theorem setSvc_clusters (k : Nat) (x : AppCore) : (setSvc s k x).clusters = s.clusters := rfl
@[simp] theorem setSvc_dev (k : Nat) (x : AppCore) : (setSvc s k x).dev = s.dev := rfl
@[simp] theorem setSvc_devPoison (k : Nat) (x : AppCore) : (setSvc s k x).devPoison = s.devPoison := rfl
@[simp] theorem setSvc_devErrs (k : Nat) (x : AppCore) : (setSvc s k x).devErrs = s.devErrs := rfl
@[simp] theorem setSvc_hostMem (k : Nat) (x : AppCore) : (setSvc s k x).hostMem = s.hostMem := rfl
@[simp] theorem setSvc_stacks (k : Nat) (x : AppCore) : (setSvc s k x).stks = s.stks := rfl
@[simp] theorem setSvc_upds (k : Nat) (x : AppCore) : (setSvc s k x).upds = s.upds := rfl
@[simp] theorem setSvc_queues (k : Nat) (x : AppCore) : (setSvc s k x).queues = s.queues := rfl
@[simp] theorem setSvc_evt (k : Nat) (x : AppCore) : (setSvc s k x).evt = s.evt := rfl
@[simp] theorem setSvc_evtFault (k : Nat) (x : AppCore) : (setSvc s k x).evtFault = s.evtFault := rfl
@[simp] theorem setSvc_time (k : Nat) (x : AppCore) : (setSvc s k x).time = s.time := rfl
@[simp] theorem setSvc_lastGrant (k : Nat) (x : AppCore) : (setSvc s k x).lastGrant = s.lastGrant := rfl
@[simp] theorem setSvc_dies (k : Nat) (x : AppCore) : (setSvc s k x).dies = s.dies := rfl
@[simp] theorem setSvc_fab (k : Nat) (x : AppCore) : (setSvc s k x).fab = s.fab := rfl
@[simp] theorem setSvc_coll (k : Nat) (x : AppCore) : (setSvc s k x).coll = s.coll := rfl
@[simp] theorem setSvc_host (k : Nat) (x : AppCore) : (setSvc s k x).host = s.host := rfl
@[simp] theorem setSvc_err (k : Nat) (x : AppCore) : (setSvc s k x).err = s.err := rfl
@[simp] theorem setSvc_links (k : Nat) (x : AppCore) : (setSvc s k x).links = s.links := rfl
@[simp] theorem setSvc_gov (k : Nat) (x : AppCore) : (setSvc s k x).gov = s.gov := rfl
@[simp] theorem setSvc_cfg (k : Nat) (x : AppCore) : (setSvc s k x).cfg = s.cfg := rfl
@[simp] theorem setSvc_sec (k : Nat) (x : AppCore) : (setSvc s k x).sec = s.sec := rfl
@[simp] theorem setSvc_fld (k : Nat) (x : AppCore) : (setSvc s k x).fld = s.fld := rfl
@[simp] theorem setSvc_pkg (k : Nat) (x : AppCore) : (setSvc s k x).pkg = s.pkg := rfl
@[simp] theorem modLive_pending (f : FldImage → FldImage) : (modLive s f).pending = s.pending := rfl
@[simp] theorem modLive_freeCtr (f : FldImage → FldImage) : (modLive s f).freeCtr = s.freeCtr := rfl
@[simp] theorem modLive_localNs (f : FldImage → FldImage) : (modLive s f).localNs = s.localNs := rfl
@[simp] theorem modLive_regs (f : FldImage → FldImage) : (modLive s f).regs = s.regs := rfl
@[simp] theorem modLive_cores (f : FldImage → FldImage) : (modLive s f).cores = s.cores := rfl
@[simp] theorem modLive_clusters (f : FldImage → FldImage) : (modLive s f).clusters = s.clusters := rfl
@[simp] theorem modLive_dev (f : FldImage → FldImage) : (modLive s f).dev = s.dev := rfl
@[simp] theorem modLive_devPoison (f : FldImage → FldImage) : (modLive s f).devPoison = s.devPoison := rfl
@[simp] theorem modLive_devErrs (f : FldImage → FldImage) : (modLive s f).devErrs = s.devErrs := rfl
@[simp] theorem modLive_hostMem (f : FldImage → FldImage) : (modLive s f).hostMem = s.hostMem := rfl
@[simp] theorem modLive_stacks (f : FldImage → FldImage) : (modLive s f).stks = s.stks := rfl
@[simp] theorem modLive_upds (f : FldImage → FldImage) : (modLive s f).upds = s.upds := rfl
@[simp] theorem modLive_queues (f : FldImage → FldImage) : (modLive s f).queues = s.queues := rfl
@[simp] theorem modLive_evt (f : FldImage → FldImage) : (modLive s f).evt = s.evt := rfl
@[simp] theorem modLive_evtFault (f : FldImage → FldImage) : (modLive s f).evtFault = s.evtFault := rfl
@[simp] theorem modLive_time (f : FldImage → FldImage) : (modLive s f).time = s.time := rfl
@[simp] theorem modLive_lastGrant (f : FldImage → FldImage) : (modLive s f).lastGrant = s.lastGrant := rfl
@[simp] theorem modLive_dies (f : FldImage → FldImage) : (modLive s f).dies = s.dies := rfl
@[simp] theorem modLive_fab (f : FldImage → FldImage) : (modLive s f).fab = s.fab := rfl
@[simp] theorem modLive_coll (f : FldImage → FldImage) : (modLive s f).coll = s.coll := rfl
@[simp] theorem modLive_host (f : FldImage → FldImage) : (modLive s f).host = s.host := rfl
@[simp] theorem modLive_err (f : FldImage → FldImage) : (modLive s f).err = s.err := rfl
@[simp] theorem modLive_links (f : FldImage → FldImage) : (modLive s f).links = s.links := rfl
@[simp] theorem modLive_svc (f : FldImage → FldImage) : (modLive s f).svc = s.svc := rfl
@[simp] theorem modLive_gov (f : FldImage → FldImage) : (modLive s f).gov = s.gov := rfl
@[simp] theorem modLive_cfg (f : FldImage → FldImage) : (modLive s f).cfg = s.cfg := rfl
@[simp] theorem modLive_sec (f : FldImage → FldImage) : (modLive s f).sec = s.sec := rfl
@[simp] theorem modLive_pkg (f : FldImage → FldImage) : (modLive s f).pkg = s.pkg := rfl
@[simp] theorem tickFree_pending : (tickFree s).pending = s.pending := rfl
@[simp] theorem tickFree_localNs : (tickFree s).localNs = s.localNs := rfl
@[simp] theorem tickFree_regs : (tickFree s).regs = s.regs := rfl
@[simp] theorem tickFree_cores : (tickFree s).cores = s.cores := rfl
@[simp] theorem tickFree_clusters : (tickFree s).clusters = s.clusters := rfl
@[simp] theorem tickFree_dev : (tickFree s).dev = s.dev := rfl
@[simp] theorem tickFree_devPoison : (tickFree s).devPoison = s.devPoison := rfl
@[simp] theorem tickFree_devErrs : (tickFree s).devErrs = s.devErrs := rfl
@[simp] theorem tickFree_hostMem : (tickFree s).hostMem = s.hostMem := rfl
@[simp] theorem tickFree_stacks : (tickFree s).stks = s.stks := rfl
@[simp] theorem tickFree_upds : (tickFree s).upds = s.upds := rfl
@[simp] theorem tickFree_queues : (tickFree s).queues = s.queues := rfl
@[simp] theorem tickFree_evt : (tickFree s).evt = s.evt := rfl
@[simp] theorem tickFree_evtFault : (tickFree s).evtFault = s.evtFault := rfl
@[simp] theorem tickFree_time : (tickFree s).time = s.time := rfl
@[simp] theorem tickFree_lastGrant : (tickFree s).lastGrant = s.lastGrant := rfl
@[simp] theorem tickFree_dies : (tickFree s).dies = s.dies := rfl
@[simp] theorem tickFree_fab : (tickFree s).fab = s.fab := rfl
@[simp] theorem tickFree_coll : (tickFree s).coll = s.coll := rfl
@[simp] theorem tickFree_host : (tickFree s).host = s.host := rfl
@[simp] theorem tickFree_err : (tickFree s).err = s.err := rfl
@[simp] theorem tickFree_links : (tickFree s).links = s.links := rfl
@[simp] theorem tickFree_svc : (tickFree s).svc = s.svc := rfl
@[simp] theorem tickFree_gov : (tickFree s).gov = s.gov := rfl
@[simp] theorem tickFree_cfg : (tickFree s).cfg = s.cfg := rfl
@[simp] theorem tickFree_sec : (tickFree s).sec = s.sec := rfl
@[simp] theorem tickFree_fld : (tickFree s).fld = s.fld := rfl
@[simp] theorem tickFree_pkg : (tickFree s).pkg = s.pkg := rfl

/-! ## Accessors that an update leaves alone -/

@[simp] theorem rget_setCore (p : Nat) (c : Core) (r' : Reg) : rget (setCore s p c) r' = rget s r' := rfl
@[simp] theorem clusterOf_setCore (p : Nat) (c : Core) (p' : Nat) : clusterOf (setCore s p c) p' = clusterOf s p' := rfl
@[simp] theorem stackOf_setCore (p : Nat) (c : Core) (p' : Nat) : stackOf (setCore s p c) p' = stackOf s p' := rfl
@[simp] theorem updOf_setCore (p : Nat) (c : Core) (p' : Nat) : updOf (setCore s p c) p' = updOf s p' := rfl
@[simp] theorem queueOf_setCore (p : Nat) (c : Core) (p' : Nat) : queueOf (setCore s p c) p' = queueOf s p' := rfl
@[simp] theorem dieOf_setCore (p : Nat) (c : Core) (p' : Nat) : dieOf (setCore s p c) p' = dieOf s p' := rfl
@[simp] theorem errQ_setCore (p : Nat) (c : Core) (p' : Nat) : errQ (setCore s p c) p' = errQ s p' := rfl
@[simp] theorem evtOf_setCore (p : Nat) (c : Core) (p' : Nat) : evtOf (setCore s p c) p' = evtOf s p' := rfl
@[simp] theorem evtMark_setCore (p : Nat) (c : Core) (p' : Nat) : evtMark (setCore s p c) p' = evtMark s p' := rfl
@[simp] theorem cluGovOf_setCore (p : Nat) (c : Core) (p' : Nat) : cluGovOf (setCore s p c) p' = cluGovOf s p' := rfl
@[simp] theorem linkOf_setCore (p : Nat) (c : Core) (p' d' : Nat) : linkOf (setCore s p c) p' d' = linkOf s p' d' := rfl
@[simp] theorem svcOf_setCore (p : Nat) (c : Core) (p' : Nat) : svcOf (setCore s p c) p' = svcOf s p' := rfl
@[simp] theorem rget_setCluster (n : Nat) (c : Cluster) (r' : Reg) : rget (setCluster s n c) r' = rget s r' := rfl
@[simp] theorem coreOf_setCluster (n : Nat) (c : Cluster) (p' : Nat) : coreOf (setCluster s n c) p' = coreOf s p' := rfl
@[simp] theorem stackOf_setCluster (n : Nat) (c : Cluster) (p' : Nat) : stackOf (setCluster s n c) p' = stackOf s p' := rfl
@[simp] theorem updOf_setCluster (n : Nat) (c : Cluster) (p' : Nat) : updOf (setCluster s n c) p' = updOf s p' := rfl
@[simp] theorem queueOf_setCluster (n : Nat) (c : Cluster) (p' : Nat) : queueOf (setCluster s n c) p' = queueOf s p' := rfl
@[simp] theorem dieOf_setCluster (n : Nat) (c : Cluster) (p' : Nat) : dieOf (setCluster s n c) p' = dieOf s p' := rfl
@[simp] theorem errQ_setCluster (n : Nat) (c : Cluster) (p' : Nat) : errQ (setCluster s n c) p' = errQ s p' := rfl
@[simp] theorem evtOf_setCluster (n : Nat) (c : Cluster) (p' : Nat) : evtOf (setCluster s n c) p' = evtOf s p' := rfl
@[simp] theorem evtMark_setCluster (n : Nat) (c : Cluster) (p' : Nat) : evtMark (setCluster s n c) p' = evtMark s p' := rfl
@[simp] theorem cluGovOf_setCluster (n : Nat) (c : Cluster) (p' : Nat) : cluGovOf (setCluster s n c) p' = cluGovOf s p' := rfl
@[simp] theorem linkOf_setCluster (n : Nat) (c : Cluster) (p' d' : Nat) : linkOf (setCluster s n c) p' d' = linkOf s p' d' := rfl
@[simp] theorem svcOf_setCluster (n : Nat) (c : Cluster) (p' : Nat) : svcOf (setCluster s n c) p' = svcOf s p' := rfl
@[simp] theorem rget_setStack (n : Nat) (k : Stack) (r' : Reg) : rget (setStack s n k) r' = rget s r' := rfl
@[simp] theorem coreOf_setStack (n : Nat) (k : Stack) (p' : Nat) : coreOf (setStack s n k) p' = coreOf s p' := rfl
@[simp] theorem clusterOf_setStack (n : Nat) (k : Stack) (p' : Nat) : clusterOf (setStack s n k) p' = clusterOf s p' := rfl
@[simp] theorem updOf_setStack (n : Nat) (k : Stack) (p' : Nat) : updOf (setStack s n k) p' = updOf s p' := rfl
@[simp] theorem queueOf_setStack (n : Nat) (k : Stack) (p' : Nat) : queueOf (setStack s n k) p' = queueOf s p' := rfl
@[simp] theorem dieOf_setStack (n : Nat) (k : Stack) (p' : Nat) : dieOf (setStack s n k) p' = dieOf s p' := rfl
@[simp] theorem errQ_setStack (n : Nat) (k : Stack) (p' : Nat) : errQ (setStack s n k) p' = errQ s p' := rfl
@[simp] theorem evtOf_setStack (n : Nat) (k : Stack) (p' : Nat) : evtOf (setStack s n k) p' = evtOf s p' := rfl
@[simp] theorem evtMark_setStack (n : Nat) (k : Stack) (p' : Nat) : evtMark (setStack s n k) p' = evtMark s p' := rfl
@[simp] theorem cluGovOf_setStack (n : Nat) (k : Stack) (p' : Nat) : cluGovOf (setStack s n k) p' = cluGovOf s p' := rfl
@[simp] theorem linkOf_setStack (n : Nat) (k : Stack) (p' d' : Nat) : linkOf (setStack s n k) p' d' = linkOf s p' d' := rfl
@[simp] theorem svcOf_setStack (n : Nat) (k : Stack) (p' : Nat) : svcOf (setStack s n k) p' = svcOf s p' := rfl
@[simp] theorem rget_setUpd (n : Nat) (u : UpdUnit) (r' : Reg) : rget (setUpd s n u) r' = rget s r' := rfl
@[simp] theorem coreOf_setUpd (n : Nat) (u : UpdUnit) (p' : Nat) : coreOf (setUpd s n u) p' = coreOf s p' := rfl
@[simp] theorem clusterOf_setUpd (n : Nat) (u : UpdUnit) (p' : Nat) : clusterOf (setUpd s n u) p' = clusterOf s p' := rfl
@[simp] theorem stackOf_setUpd (n : Nat) (u : UpdUnit) (p' : Nat) : stackOf (setUpd s n u) p' = stackOf s p' := rfl
@[simp] theorem queueOf_setUpd (n : Nat) (u : UpdUnit) (p' : Nat) : queueOf (setUpd s n u) p' = queueOf s p' := rfl
@[simp] theorem dieOf_setUpd (n : Nat) (u : UpdUnit) (p' : Nat) : dieOf (setUpd s n u) p' = dieOf s p' := rfl
@[simp] theorem errQ_setUpd (n : Nat) (u : UpdUnit) (p' : Nat) : errQ (setUpd s n u) p' = errQ s p' := rfl
@[simp] theorem evtOf_setUpd (n : Nat) (u : UpdUnit) (p' : Nat) : evtOf (setUpd s n u) p' = evtOf s p' := rfl
@[simp] theorem evtMark_setUpd (n : Nat) (u : UpdUnit) (p' : Nat) : evtMark (setUpd s n u) p' = evtMark s p' := rfl
@[simp] theorem cluGovOf_setUpd (n : Nat) (u : UpdUnit) (p' : Nat) : cluGovOf (setUpd s n u) p' = cluGovOf s p' := rfl
@[simp] theorem linkOf_setUpd (n : Nat) (u : UpdUnit) (p' d' : Nat) : linkOf (setUpd s n u) p' d' = linkOf s p' d' := rfl
@[simp] theorem svcOf_setUpd (n : Nat) (u : UpdUnit) (p' : Nat) : svcOf (setUpd s n u) p' = svcOf s p' := rfl
@[simp] theorem rget_setQueue (q : Nat) (k : Queue) (r' : Reg) : rget (setQueue s q k) r' = rget s r' := rfl
@[simp] theorem coreOf_setQueue (q : Nat) (k : Queue) (p' : Nat) : coreOf (setQueue s q k) p' = coreOf s p' := rfl
@[simp] theorem clusterOf_setQueue (q : Nat) (k : Queue) (p' : Nat) : clusterOf (setQueue s q k) p' = clusterOf s p' := rfl
@[simp] theorem stackOf_setQueue (q : Nat) (k : Queue) (p' : Nat) : stackOf (setQueue s q k) p' = stackOf s p' := rfl
@[simp] theorem updOf_setQueue (q : Nat) (k : Queue) (p' : Nat) : updOf (setQueue s q k) p' = updOf s p' := rfl
@[simp] theorem dieOf_setQueue (q : Nat) (k : Queue) (p' : Nat) : dieOf (setQueue s q k) p' = dieOf s p' := rfl
@[simp] theorem errQ_setQueue (q : Nat) (k : Queue) (p' : Nat) : errQ (setQueue s q k) p' = errQ s p' := rfl
@[simp] theorem evtOf_setQueue (q : Nat) (k : Queue) (p' : Nat) : evtOf (setQueue s q k) p' = evtOf s p' := rfl
@[simp] theorem evtMark_setQueue (q : Nat) (k : Queue) (p' : Nat) : evtMark (setQueue s q k) p' = evtMark s p' := rfl
@[simp] theorem cluGovOf_setQueue (q : Nat) (k : Queue) (p' : Nat) : cluGovOf (setQueue s q k) p' = cluGovOf s p' := rfl
@[simp] theorem linkOf_setQueue (q : Nat) (k : Queue) (p' d' : Nat) : linkOf (setQueue s q k) p' d' = linkOf s p' d' := rfl
@[simp] theorem svcOf_setQueue (q : Nat) (k : Queue) (p' : Nat) : svcOf (setQueue s q k) p' = svcOf s p' := rfl
@[simp] theorem rget_setDie (n : Nat) (d : Die) (r' : Reg) : rget (setDie s n d) r' = rget s r' := rfl
@[simp] theorem coreOf_setDie (n : Nat) (d : Die) (p' : Nat) : coreOf (setDie s n d) p' = coreOf s p' := rfl
@[simp] theorem clusterOf_setDie (n : Nat) (d : Die) (p' : Nat) : clusterOf (setDie s n d) p' = clusterOf s p' := rfl
@[simp] theorem stackOf_setDie (n : Nat) (d : Die) (p' : Nat) : stackOf (setDie s n d) p' = stackOf s p' := rfl
@[simp] theorem updOf_setDie (n : Nat) (d : Die) (p' : Nat) : updOf (setDie s n d) p' = updOf s p' := rfl
@[simp] theorem queueOf_setDie (n : Nat) (d : Die) (p' : Nat) : queueOf (setDie s n d) p' = queueOf s p' := rfl
@[simp] theorem errQ_setDie (n : Nat) (d : Die) (p' : Nat) : errQ (setDie s n d) p' = errQ s p' := rfl
@[simp] theorem evtOf_setDie (n : Nat) (d : Die) (p' : Nat) : evtOf (setDie s n d) p' = evtOf s p' := rfl
@[simp] theorem evtMark_setDie (n : Nat) (d : Die) (p' : Nat) : evtMark (setDie s n d) p' = evtMark s p' := rfl
@[simp] theorem cluGovOf_setDie (n : Nat) (d : Die) (p' : Nat) : cluGovOf (setDie s n d) p' = cluGovOf s p' := rfl
@[simp] theorem linkOf_setDie (n : Nat) (d : Die) (p' d' : Nat) : linkOf (setDie s n d) p' d' = linkOf s p' d' := rfl
@[simp] theorem svcOf_setDie (n : Nat) (d : Die) (p' : Nat) : svcOf (setDie s n d) p' = svcOf s p' := rfl
@[simp] theorem rget_setErrQ (n : Nat) (q : ErrQueue) (r' : Reg) : rget (setErrQ s n q) r' = rget s r' := rfl
@[simp] theorem coreOf_setErrQ (n : Nat) (q : ErrQueue) (p' : Nat) : coreOf (setErrQ s n q) p' = coreOf s p' := rfl
@[simp] theorem clusterOf_setErrQ (n : Nat) (q : ErrQueue) (p' : Nat) : clusterOf (setErrQ s n q) p' = clusterOf s p' := rfl
@[simp] theorem stackOf_setErrQ (n : Nat) (q : ErrQueue) (p' : Nat) : stackOf (setErrQ s n q) p' = stackOf s p' := rfl
@[simp] theorem updOf_setErrQ (n : Nat) (q : ErrQueue) (p' : Nat) : updOf (setErrQ s n q) p' = updOf s p' := rfl
@[simp] theorem queueOf_setErrQ (n : Nat) (q : ErrQueue) (p' : Nat) : queueOf (setErrQ s n q) p' = queueOf s p' := rfl
@[simp] theorem dieOf_setErrQ (n : Nat) (q : ErrQueue) (p' : Nat) : dieOf (setErrQ s n q) p' = dieOf s p' := rfl
@[simp] theorem evtOf_setErrQ (n : Nat) (q : ErrQueue) (p' : Nat) : evtOf (setErrQ s n q) p' = evtOf s p' := rfl
@[simp] theorem evtMark_setErrQ (n : Nat) (q : ErrQueue) (p' : Nat) : evtMark (setErrQ s n q) p' = evtMark s p' := rfl
@[simp] theorem cluGovOf_setErrQ (n : Nat) (q : ErrQueue) (p' : Nat) : cluGovOf (setErrQ s n q) p' = cluGovOf s p' := rfl
@[simp] theorem linkOf_setErrQ (n : Nat) (q : ErrQueue) (p' d' : Nat) : linkOf (setErrQ s n q) p' d' = linkOf s p' d' := rfl
@[simp] theorem svcOf_setErrQ (n : Nat) (q : ErrQueue) (p' : Nat) : svcOf (setErrQ s n q) p' = svcOf s p' := rfl
@[simp] theorem coreOf_rset (r : Reg) (v : Word64) (p' : Nat) : coreOf (rset s r v) p' = coreOf s p' := rfl
@[simp] theorem clusterOf_rset (r : Reg) (v : Word64) (p' : Nat) : clusterOf (rset s r v) p' = clusterOf s p' := rfl
@[simp] theorem stackOf_rset (r : Reg) (v : Word64) (p' : Nat) : stackOf (rset s r v) p' = stackOf s p' := rfl
@[simp] theorem updOf_rset (r : Reg) (v : Word64) (p' : Nat) : updOf (rset s r v) p' = updOf s p' := rfl
@[simp] theorem queueOf_rset (r : Reg) (v : Word64) (p' : Nat) : queueOf (rset s r v) p' = queueOf s p' := rfl
@[simp] theorem dieOf_rset (r : Reg) (v : Word64) (p' : Nat) : dieOf (rset s r v) p' = dieOf s p' := rfl
@[simp] theorem errQ_rset (r : Reg) (v : Word64) (p' : Nat) : errQ (rset s r v) p' = errQ s p' := rfl
@[simp] theorem evtOf_rset (r : Reg) (v : Word64) (p' : Nat) : evtOf (rset s r v) p' = evtOf s p' := rfl
@[simp] theorem evtMark_rset (r : Reg) (v : Word64) (p' : Nat) : evtMark (rset s r v) p' = evtMark s p' := rfl
@[simp] theorem cluGovOf_rset (r : Reg) (v : Word64) (p' : Nat) : cluGovOf (rset s r v) p' = cluGovOf s p' := rfl
@[simp] theorem linkOf_rset (r : Reg) (v : Word64) (p' d' : Nat) : linkOf (rset s r v) p' d' = linkOf s p' d' := rfl
@[simp] theorem svcOf_rset (r : Reg) (v : Word64) (p' : Nat) : svcOf (rset s r v) p' = svcOf s p' := rfl
@[simp] theorem coreOf_rbump (r : Reg) (n : Nat) (p' : Nat) : coreOf (rbump s r n) p' = coreOf s p' := rfl
@[simp] theorem clusterOf_rbump (r : Reg) (n : Nat) (p' : Nat) : clusterOf (rbump s r n) p' = clusterOf s p' := rfl
@[simp] theorem stackOf_rbump (r : Reg) (n : Nat) (p' : Nat) : stackOf (rbump s r n) p' = stackOf s p' := rfl
@[simp] theorem updOf_rbump (r : Reg) (n : Nat) (p' : Nat) : updOf (rbump s r n) p' = updOf s p' := rfl
@[simp] theorem queueOf_rbump (r : Reg) (n : Nat) (p' : Nat) : queueOf (rbump s r n) p' = queueOf s p' := rfl
@[simp] theorem dieOf_rbump (r : Reg) (n : Nat) (p' : Nat) : dieOf (rbump s r n) p' = dieOf s p' := rfl
@[simp] theorem errQ_rbump (r : Reg) (n : Nat) (p' : Nat) : errQ (rbump s r n) p' = errQ s p' := rfl
@[simp] theorem evtOf_rbump (r : Reg) (n : Nat) (p' : Nat) : evtOf (rbump s r n) p' = evtOf s p' := rfl
@[simp] theorem evtMark_rbump (r : Reg) (n : Nat) (p' : Nat) : evtMark (rbump s r n) p' = evtMark s p' := rfl
@[simp] theorem cluGovOf_rbump (r : Reg) (n : Nat) (p' : Nat) : cluGovOf (rbump s r n) p' = cluGovOf s p' := rfl
@[simp] theorem linkOf_rbump (r : Reg) (n : Nat) (p' d' : Nat) : linkOf (rbump s r n) p' d' = linkOf s p' d' := rfl
@[simp] theorem svcOf_rbump (r : Reg) (n : Nat) (p' : Nat) : svcOf (rbump s r n) p' = svcOf s p' := rfl
@[simp] theorem rget_setCluGov (c : Nat) (g : CluGov) (r' : Reg) : rget (setCluGov s c g) r' = rget s r' := rfl
@[simp] theorem coreOf_setCluGov (c : Nat) (g : CluGov) (p' : Nat) : coreOf (setCluGov s c g) p' = coreOf s p' := rfl
@[simp] theorem clusterOf_setCluGov (c : Nat) (g : CluGov) (p' : Nat) : clusterOf (setCluGov s c g) p' = clusterOf s p' := rfl
@[simp] theorem stackOf_setCluGov (c : Nat) (g : CluGov) (p' : Nat) : stackOf (setCluGov s c g) p' = stackOf s p' := rfl
@[simp] theorem updOf_setCluGov (c : Nat) (g : CluGov) (p' : Nat) : updOf (setCluGov s c g) p' = updOf s p' := rfl
@[simp] theorem queueOf_setCluGov (c : Nat) (g : CluGov) (p' : Nat) : queueOf (setCluGov s c g) p' = queueOf s p' := rfl
@[simp] theorem dieOf_setCluGov (c : Nat) (g : CluGov) (p' : Nat) : dieOf (setCluGov s c g) p' = dieOf s p' := rfl
@[simp] theorem errQ_setCluGov (c : Nat) (g : CluGov) (p' : Nat) : errQ (setCluGov s c g) p' = errQ s p' := rfl
@[simp] theorem evtOf_setCluGov (c : Nat) (g : CluGov) (p' : Nat) : evtOf (setCluGov s c g) p' = evtOf s p' := rfl
@[simp] theorem evtMark_setCluGov (c : Nat) (g : CluGov) (p' : Nat) : evtMark (setCluGov s c g) p' = evtMark s p' := rfl
@[simp] theorem linkOf_setCluGov (c : Nat) (g : CluGov) (p' d' : Nat) : linkOf (setCluGov s c g) p' d' = linkOf s p' d' := rfl
@[simp] theorem svcOf_setCluGov (c : Nat) (g : CluGov) (p' : Nat) : svcOf (setCluGov s c g) p' = svcOf s p' := rfl
@[simp] theorem rget_setLink (l d : Nat) (x : LinkDir) (r' : Reg) : rget (setLink s l d x) r' = rget s r' := rfl
@[simp] theorem coreOf_setLink (l d : Nat) (x : LinkDir) (p' : Nat) : coreOf (setLink s l d x) p' = coreOf s p' := rfl
@[simp] theorem clusterOf_setLink (l d : Nat) (x : LinkDir) (p' : Nat) : clusterOf (setLink s l d x) p' = clusterOf s p' := rfl
@[simp] theorem stackOf_setLink (l d : Nat) (x : LinkDir) (p' : Nat) : stackOf (setLink s l d x) p' = stackOf s p' := rfl
@[simp] theorem updOf_setLink (l d : Nat) (x : LinkDir) (p' : Nat) : updOf (setLink s l d x) p' = updOf s p' := rfl
@[simp] theorem queueOf_setLink (l d : Nat) (x : LinkDir) (p' : Nat) : queueOf (setLink s l d x) p' = queueOf s p' := rfl
@[simp] theorem dieOf_setLink (l d : Nat) (x : LinkDir) (p' : Nat) : dieOf (setLink s l d x) p' = dieOf s p' := rfl
@[simp] theorem errQ_setLink (l d : Nat) (x : LinkDir) (p' : Nat) : errQ (setLink s l d x) p' = errQ s p' := rfl
@[simp] theorem evtOf_setLink (l d : Nat) (x : LinkDir) (p' : Nat) : evtOf (setLink s l d x) p' = evtOf s p' := rfl
@[simp] theorem evtMark_setLink (l d : Nat) (x : LinkDir) (p' : Nat) : evtMark (setLink s l d x) p' = evtMark s p' := rfl
@[simp] theorem cluGovOf_setLink (l d : Nat) (x : LinkDir) (p' : Nat) : cluGovOf (setLink s l d x) p' = cluGovOf s p' := rfl
@[simp] theorem svcOf_setLink (l d : Nat) (x : LinkDir) (p' : Nat) : svcOf (setLink s l d x) p' = svcOf s p' := rfl
@[simp] theorem rget_setSvc (k : Nat) (x : AppCore) (r' : Reg) : rget (setSvc s k x) r' = rget s r' := rfl
@[simp] theorem coreOf_setSvc (k : Nat) (x : AppCore) (p' : Nat) : coreOf (setSvc s k x) p' = coreOf s p' := rfl
@[simp] theorem clusterOf_setSvc (k : Nat) (x : AppCore) (p' : Nat) : clusterOf (setSvc s k x) p' = clusterOf s p' := rfl
@[simp] theorem stackOf_setSvc (k : Nat) (x : AppCore) (p' : Nat) : stackOf (setSvc s k x) p' = stackOf s p' := rfl
@[simp] theorem updOf_setSvc (k : Nat) (x : AppCore) (p' : Nat) : updOf (setSvc s k x) p' = updOf s p' := rfl
@[simp] theorem queueOf_setSvc (k : Nat) (x : AppCore) (p' : Nat) : queueOf (setSvc s k x) p' = queueOf s p' := rfl
@[simp] theorem dieOf_setSvc (k : Nat) (x : AppCore) (p' : Nat) : dieOf (setSvc s k x) p' = dieOf s p' := rfl
@[simp] theorem errQ_setSvc (k : Nat) (x : AppCore) (p' : Nat) : errQ (setSvc s k x) p' = errQ s p' := rfl
@[simp] theorem evtOf_setSvc (k : Nat) (x : AppCore) (p' : Nat) : evtOf (setSvc s k x) p' = evtOf s p' := rfl
@[simp] theorem evtMark_setSvc (k : Nat) (x : AppCore) (p' : Nat) : evtMark (setSvc s k x) p' = evtMark s p' := rfl
@[simp] theorem cluGovOf_setSvc (k : Nat) (x : AppCore) (p' : Nat) : cluGovOf (setSvc s k x) p' = cluGovOf s p' := rfl
@[simp] theorem linkOf_setSvc (k : Nat) (x : AppCore) (p' d' : Nat) : linkOf (setSvc s k x) p' d' = linkOf s p' d' := rfl
@[simp] theorem rget_modLive (f : FldImage → FldImage) (r' : Reg) : rget (modLive s f) r' = rget s r' := rfl
@[simp] theorem coreOf_modLive (f : FldImage → FldImage) (p' : Nat) : coreOf (modLive s f) p' = coreOf s p' := rfl
@[simp] theorem clusterOf_modLive (f : FldImage → FldImage) (p' : Nat) : clusterOf (modLive s f) p' = clusterOf s p' := rfl
@[simp] theorem stackOf_modLive (f : FldImage → FldImage) (p' : Nat) : stackOf (modLive s f) p' = stackOf s p' := rfl
@[simp] theorem updOf_modLive (f : FldImage → FldImage) (p' : Nat) : updOf (modLive s f) p' = updOf s p' := rfl
@[simp] theorem queueOf_modLive (f : FldImage → FldImage) (p' : Nat) : queueOf (modLive s f) p' = queueOf s p' := rfl
@[simp] theorem dieOf_modLive (f : FldImage → FldImage) (p' : Nat) : dieOf (modLive s f) p' = dieOf s p' := rfl
@[simp] theorem errQ_modLive (f : FldImage → FldImage) (p' : Nat) : errQ (modLive s f) p' = errQ s p' := rfl
@[simp] theorem evtOf_modLive (f : FldImage → FldImage) (p' : Nat) : evtOf (modLive s f) p' = evtOf s p' := rfl
@[simp] theorem evtMark_modLive (f : FldImage → FldImage) (p' : Nat) : evtMark (modLive s f) p' = evtMark s p' := rfl
@[simp] theorem cluGovOf_modLive (f : FldImage → FldImage) (p' : Nat) : cluGovOf (modLive s f) p' = cluGovOf s p' := rfl
@[simp] theorem linkOf_modLive (f : FldImage → FldImage) (p' d' : Nat) : linkOf (modLive s f) p' d' = linkOf s p' d' := rfl
@[simp] theorem svcOf_modLive (f : FldImage → FldImage) (p' : Nat) : svcOf (modLive s f) p' = svcOf s p' := rfl
@[simp] theorem rget_tickFree (r' : Reg) : rget (tickFree s) r' = rget s r' := rfl
@[simp] theorem coreOf_tickFree (p' : Nat) : coreOf (tickFree s) p' = coreOf s p' := rfl
@[simp] theorem clusterOf_tickFree (p' : Nat) : clusterOf (tickFree s) p' = clusterOf s p' := rfl
@[simp] theorem stackOf_tickFree (p' : Nat) : stackOf (tickFree s) p' = stackOf s p' := rfl
@[simp] theorem updOf_tickFree (p' : Nat) : updOf (tickFree s) p' = updOf s p' := rfl
@[simp] theorem queueOf_tickFree (p' : Nat) : queueOf (tickFree s) p' = queueOf s p' := rfl
@[simp] theorem dieOf_tickFree (p' : Nat) : dieOf (tickFree s) p' = dieOf s p' := rfl
@[simp] theorem errQ_tickFree (p' : Nat) : errQ (tickFree s) p' = errQ s p' := rfl
@[simp] theorem evtOf_tickFree (p' : Nat) : evtOf (tickFree s) p' = evtOf s p' := rfl
@[simp] theorem evtMark_tickFree (p' : Nat) : evtMark (tickFree s) p' = evtMark s p' := rfl
@[simp] theorem cluGovOf_tickFree (p' : Nat) : cluGovOf (tickFree s) p' = cluGovOf s p' := rfl
@[simp] theorem linkOf_tickFree (p' d' : Nat) : linkOf (tickFree s) p' d' = linkOf s p' d' := rfl
@[simp] theorem svcOf_tickFree (p' : Nat) : svcOf (tickFree s) p' = svcOf s p' := rfl

/-! ## Accessors after their own update -/

theorem coreOf_setCore (p q : Nat) (x : Core) : coreOf (setCore s p x) q = if q = p then x else coreOf s q := tget_tset _ _ _ _ _
@[simp] theorem coreOf_setCore_same (p : Nat) (x : Core) : coreOf (setCore s p x) p = x := by simp [coreOf_setCore]
theorem coreOf_setCore_other (p q : Nat) (x : Core) (h : q ≠ p) : coreOf (setCore s p x) q = coreOf s q := by simp [coreOf_setCore, h]
@[simp] theorem setCore_setCore (p : Nat) (x y : Core) : setCore (setCore s p x) p y = setCore s p y := by simp [setCore, tset_tset]
theorem clusterOf_setCluster (p q : Nat) (x : Cluster) : clusterOf (setCluster s p x) q = if q = p then x else clusterOf s q := tget_tset _ _ _ _ _
@[simp] theorem clusterOf_setCluster_same (p : Nat) (x : Cluster) : clusterOf (setCluster s p x) p = x := by simp [clusterOf_setCluster]
theorem clusterOf_setCluster_other (p q : Nat) (x : Cluster) (h : q ≠ p) : clusterOf (setCluster s p x) q = clusterOf s q := by simp [clusterOf_setCluster, h]
@[simp] theorem setCluster_setCluster (p : Nat) (x y : Cluster) : setCluster (setCluster s p x) p y = setCluster s p y := by simp [setCluster, tset_tset]
theorem stackOf_setStack (p q : Nat) (x : Stack) : stackOf (setStack s p x) q = if q = p then x else stackOf s q := tget_tset _ _ _ _ _
@[simp] theorem stackOf_setStack_same (p : Nat) (x : Stack) : stackOf (setStack s p x) p = x := by simp [stackOf_setStack]
theorem stackOf_setStack_other (p q : Nat) (x : Stack) (h : q ≠ p) : stackOf (setStack s p x) q = stackOf s q := by simp [stackOf_setStack, h]
@[simp] theorem setStack_setStack (p : Nat) (x y : Stack) : setStack (setStack s p x) p y = setStack s p y := by simp [setStack, tset_tset]
theorem updOf_setUpd (p q : Nat) (x : UpdUnit) : updOf (setUpd s p x) q = if q = p then x else updOf s q := tget_tset _ _ _ _ _
@[simp] theorem updOf_setUpd_same (p : Nat) (x : UpdUnit) : updOf (setUpd s p x) p = x := by simp [updOf_setUpd]
theorem updOf_setUpd_other (p q : Nat) (x : UpdUnit) (h : q ≠ p) : updOf (setUpd s p x) q = updOf s q := by simp [updOf_setUpd, h]
@[simp] theorem setUpd_setUpd (p : Nat) (x y : UpdUnit) : setUpd (setUpd s p x) p y = setUpd s p y := by simp [setUpd, tset_tset]
theorem queueOf_setQueue (p q : Nat) (x : Queue) : queueOf (setQueue s p x) q = if q = p then x else queueOf s q := tget_tset _ _ _ _ _
@[simp] theorem queueOf_setQueue_same (p : Nat) (x : Queue) : queueOf (setQueue s p x) p = x := by simp [queueOf_setQueue]
theorem queueOf_setQueue_other (p q : Nat) (x : Queue) (h : q ≠ p) : queueOf (setQueue s p x) q = queueOf s q := by simp [queueOf_setQueue, h]
@[simp] theorem setQueue_setQueue (p : Nat) (x y : Queue) : setQueue (setQueue s p x) p y = setQueue s p y := by simp [setQueue, tset_tset]
theorem dieOf_setDie (p q : Nat) (x : Die) : dieOf (setDie s p x) q = if q = p then x else dieOf s q := tget_tset _ _ _ _ _
@[simp] theorem dieOf_setDie_same (p : Nat) (x : Die) : dieOf (setDie s p x) p = x := by simp [dieOf_setDie]
theorem dieOf_setDie_other (p q : Nat) (x : Die) (h : q ≠ p) : dieOf (setDie s p x) q = dieOf s q := by simp [dieOf_setDie, h]
@[simp] theorem setDie_setDie (p : Nat) (x y : Die) : setDie (setDie s p x) p y = setDie s p y := by simp [setDie, tset_tset]
theorem errQ_setErrQ (p q : Nat) (x : ErrQueue) : errQ (setErrQ s p x) q = if q = p then x else errQ s q := tget_tset _ _ _ _ _
@[simp] theorem errQ_setErrQ_same (p : Nat) (x : ErrQueue) : errQ (setErrQ s p x) p = x := by simp [errQ_setErrQ]
theorem errQ_setErrQ_other (p q : Nat) (x : ErrQueue) (h : q ≠ p) : errQ (setErrQ s p x) q = errQ s q := by simp [errQ_setErrQ, h]
@[simp] theorem setErrQ_setErrQ (p : Nat) (x y : ErrQueue) : setErrQ (setErrQ s p x) p y = setErrQ s p y := by simp [setErrQ, tset_tset]
theorem cluGovOf_setCluGov (p q : Nat) (x : CluGov) : cluGovOf (setCluGov s p x) q = if q = p then x else cluGovOf s q := tget_tset _ _ _ _ _
@[simp] theorem cluGovOf_setCluGov_same (p : Nat) (x : CluGov) : cluGovOf (setCluGov s p x) p = x := by simp [cluGovOf_setCluGov]
theorem cluGovOf_setCluGov_other (p q : Nat) (x : CluGov) (h : q ≠ p) : cluGovOf (setCluGov s p x) q = cluGovOf s q := by simp [cluGovOf_setCluGov, h]
@[simp] theorem setCluGov_setCluGov (p : Nat) (x y : CluGov) : setCluGov (setCluGov s p x) p y = setCluGov s p y := by simp [setCluGov, tset_tset]
theorem svcOf_setSvc (p q : Nat) (x : AppCore) : svcOf (setSvc s p x) q = if q = p then x else svcOf s q := tget_tset _ _ _ _ _
@[simp] theorem svcOf_setSvc_same (p : Nat) (x : AppCore) : svcOf (setSvc s p x) p = x := by simp [svcOf_setSvc]
theorem svcOf_setSvc_other (p q : Nat) (x : AppCore) (h : q ≠ p) : svcOf (setSvc s p x) q = svcOf s q := by simp [svcOf_setSvc, h]
@[simp] theorem setSvc_setSvc (p : Nat) (x y : AppCore) : setSvc (setSvc s p x) p y = setSvc s p y := by simp [setSvc, tset_tset]
theorem rget_rset (r r' : Reg) (v : Word64) : rget (rset s r v) r' = if regOffset r' = regOffset r then v else rget s r' :=
  tget_tset _ _ _ _ _
@[simp] theorem rget_rset_same (r : Reg) (v : Word64) : rget (rset s r v) r = v := by simp [rget_rset]
theorem rget_rset_other (r r' : Reg) (v : Word64) (h : regOffset r' ≠ regOffset r) : rget (rset s r v) r' = rget s r' := by
  simp [rget_rset, h]
@[simp] theorem rset_rset (r : Reg) (v w : Word64) : rset (rset s r v) r w = rset s r w := by simp [rset, tset_tset]
theorem linkOf_setLink (l d l' d' : Nat) (x : LinkDir) :
    linkOf (setLink s l d x) l' d' = if 2 * l' + d' = 2 * l + d then x else linkOf s l' d' := tget_tset _ _ _ _ _
@[simp] theorem linkOf_setLink_same (l d : Nat) (x : LinkDir) : linkOf (setLink s l d x) l d = x := by simp [linkOf_setLink]

end Sys2Proof.Machine
end

