-- ==== Sys2Proof/Laws/Issue.lean ====
section
/-! SUPPORT. The laws of issue: what an instruction that issues does, said once, and how the PC moves. -/
namespace Sys2Proof.Machine

/-- An instruction that issues has its effect on the state in which its core waits for nothing. -/
theorem issue_eff {s : State} {core : Fin 4096} {i : Instr} {p : Nat} {reads : List (BitVec 5)} {full : Core → Bool}
    {fault : State → Core → Option Status} {eff : State → Nat → State} (h : Issues s core i p reads)
    (hf : full (coreOf s p) = false) (hn : fault s (coreOf s p) = none) :
    issue core i reads full fault eff s = .next (eff (setCore s p { coreOf s p with wait := 0, stepping := false }) p) := by
  obtain ⟨h1, h2⟩ := h
  have hb : reads.any (regBusy (coreOf s p)) = false := by
    simpa [List.any_eq_false, regBusy] using h2
  simp [issue, h1, hb, hf, hn]

/-- A check that fails at issue ends the program with its status. -/
theorem issue_fault {s : State} {core : Fin 4096} {i : Instr} {p : Nat} {reads : List (BitVec 5)} {full : Core → Bool}
    {fault : State → Core → Option Status} {eff : State → Nat → State} {st : Status} (h : Issues s core i p reads)
    (hf : full (coreOf s p) = false) (hn : fault s (coreOf s p) = some st) :
    issue core i reads full fault eff s = .next (programFault s core.val p st (coreOf s p).pc) := by
  obtain ⟨h1, h2⟩ := h
  have hb : reads.any (regBusy (coreOf s p)) = false := by
    simpa [List.any_eq_false, regBusy] using h2
  simp [issue, h1, hb, hf, hn]

/-- The PC moves on where the program has a next instruction. -/
theorem advance_next {s : State} {core p : Nat} (h : HasNext (coreOf s p)) :
    advance s core p = setCore s p { coreOf s p with pc := (coreOf s p).pc + 1 } := by
  unfold HasNext at h
  simp [advance, h]

/-- The PC does not move past the last instruction: TP_PC_RANGE. -/
theorem advance_last {s : State} {core p : Nat} (h : ¬ HasNext (coreOf s p)) :
    advance s core p = programFault s core p .tpPcRange (coreOf s p).pc := by
  unfold HasNext at h
  simp [advance, h]

/-- Writing a scalar register leaves every other part of the core alone. -/
theorem setSreg_eq (c : Core) (r : BitVec 5) (v : Word64) : setSreg c r v = { c with sregs := (setSreg c r v).sregs } := by
  unfold setSreg; split <;> rfl

@[simp] theorem setSreg_pc (c : Core) (r : BitVec 5) (v : Word64) : (setSreg c r v).pc = c.pc := by
  rw [setSreg_eq]
@[simp] theorem setSreg_codeLen (c : Core) (r : BitVec 5) (v : Word64) : (setSreg c r v).codeLen = c.codeLen := by
  rw [setSreg_eq]

/-- What a scalar register reads as after a write to one (R195): s0 stays zero. -/
theorem sreg_setSreg (c : Core) (r q : BitVec 5) (v : Word64) :
    sreg (setSreg c r v) q = if q = r ∧ r ≠ 0 then v else sreg c q := by
  by_cases hr : r = 0#5
  · subst hr; simp [setSreg]
  · rw [setSreg, if_neg (show ¬ r = (0 : BitVec 5) from hr)]
    unfold sreg
    by_cases hq : q = 0#5
    · simp [hq]
      intro h2; exact absurd h2.symm hr
    · by_cases h : q = r
      · subst h; simp [hq]
      · have hn : q.toNat ≠ r.toNat := fun hh => h (BitVec.eq_of_toNat_eq hh)
        simp [hq, h, tget_tset, hn]

/-- A scalar instruction with a result: SD takes the value, the PC moves on, and nothing else changes. -/
theorem scalarOp_result {s : State} {core : Fin 4096} {i : Instr} {p : Nat} {reads : List (BitVec 5)} {sd : BitVec 5}
    {val : Core → Word64} (h : Issues s core i p reads) (hn : HasNext (coreOf s p))
    (hv : ∀ c : Core, val { c with wait := 0, stepping := false } = val c) :
    scalarOp core i sd reads val s = .next (setCore s p (setSreg (issued (coreOf s p)) sd (val (coreOf s p)))) := by
  unfold scalarOp
  rw [issue_eff h rfl rfl]
  have h2 : HasNext (setSreg { coreOf s p with wait := 0, stepping := false } sd (val (coreOf s p))) := by
    unfold HasNext at hn ⊢; simpa using hn
  simp only [coreOf_setCore_same, setCore_setCore, hv]
  rw [advance_next (by simpa using h2)]
  simp only [coreOf_setCore_same, setCore_setCore, setSreg_pc]
  congr 2
  unfold setSreg issued
  split <;> rfl

end Sys2Proof.Machine
end

