-- ==== Sys2Proof/Laws/Memory.lean ====
section
/-! SUPPORT. The laws of the memories: read after write, what each write operation may change, and that each keeps the canonical form
(MemWf), which the memories have after reset. -/
namespace Sys2Proof.Machine

/-! ## One memory -/

/-- Read after write. -/
theorem mget_mset (m : List Host.Cell) (a j : Nat) (b : Byte) : mget (mset m a b) j = if j = a then b else mget m j :=
  tget_tset memZero m a j b

theorem memWf_mset (m : List Host.Cell) (a : Nat) (b : Byte) (h : memWf m = true) : memWf (mset m a b) = true :=
  tset_canon memZero m a b h

theorem memWf_mwrite (m : List Host.Cell) (a : Nat) (bs : List Byte) (h : memWf m = true) : memWf (mwrite m a bs) = true := by
  induction bs generalizing m a with
  | nil => exact h
  | cons b t ih => exact ih _ _ (memWf_mset m a b h)

theorem memWf_filter (m : List Host.Cell) (p : Host.Cell → Bool) (h : memWf m = true) : memWf (m.filter p) = true :=
  filter_canonFrom memZero p m 0 h

theorem memWf_putWords (win : Nat) (l : List (Nat × Nat × List Byte)) (m : List Host.Cell) (poison : List Nat) (h : memWf m = true) :
    memWf (putWords win l (m, poison)).1.1 = true := by
  induction l generalizing m poison with
  | nil => exact h
  | cons x t ih =>
    obtain ⟨w, o, bs⟩ := x
    rw [putWords]
    split
    · exact ih m poison h
    · exact ih _ _ (memWf_mwrite _ _ _ h)

/-! ## The state's memories -/

theorem MemWf.congr {s t : State} (h : MemWf s) (h1 : t.dev = s.dev) (h2 : t.hostMem = s.hostMem) (h3 : t.cores = s.cores)
    (h4 : t.clusters = s.clusters) : MemWf t := by
  unfold MemWf coreOf clusterOf at *
  rwa [h1, h2, h3, h4]

/-- A core whose scratchpad is canonical may be stored. -/
theorem MemWf.setCore {s : State} (h : MemWf s) (p : Nat) (c : Core) (hc : memWf c.spad = true) : MemWf (setCore s p c) := by
  refine ⟨h.1, h.2.1, fun q => ?_, h.2.2.2⟩
  simp only [coreOf, Machine.setCore, tget_tset]
  split
  · exact hc
  · exact h.2.2.1 q

/-- A cluster whose memory is canonical may be stored. -/
theorem MemWf.setCluster {s : State} (h : MemWf s) (c : Nat) (k : Cluster) (hc : memWf k.cmem = true) : MemWf (setCluster s c k) := by
  refine ⟨h.1, h.2.1, h.2.2.1, fun n => ?_⟩
  simp only [clusterOf, Machine.setCluster, tget_tset]
  split
  · exact hc
  · exact h.2.2.2 n

/-- A scratchpad write changes at most one core's scratchpad and its marks (R244). -/
theorem spadWrite_frame (s : State) (p off : Nat) (bs : List Byte) :
    (spadWrite s p off bs).1 = s ∨
    ∃ m poison bad, (spadWrite s p off bs).1 = Machine.setCore s p { coreOf s p with spad := m, spadPoison := poison, spadBad := bad } ∧
      (memWf (coreOf s p).spad = true → memWf m = true) := by
  unfold spadWrite
  dsimp only
  split
  · exact .inl rfl
  · exact .inr ⟨_, _, _, rfl, memWf_putWords _ _ _ _⟩

/-- A write of a cluster memory changes at most that memory and its marks (R244). -/
theorem cmemWrite_frame (s : State) (c off : Nat) (bs : List Byte) :
    (cmemWrite s c off bs).1 = s ∨
    ∃ m poison bad, (cmemWrite s c off bs).1 = Machine.setCluster s c { clusterOf s c with cmem := m, cmemPoison := poison, cmemBad := bad } ∧
      (memWf (clusterOf s c).cmem = true → memWf m = true) := by
  unfold cmemWrite
  split
  · exact .inl rfl
  · exact .inr ⟨_, _, _, rfl, memWf_putWords _ _ _ _⟩

/-- What an operation on device memory may do to the memories: device memory keeps its form, and no other one changes. -/
structure DevOnly (s t : State) : Prop where
  dev  : memWf s.dev = true → memWf t.dev = true
  host : t.hostMem = s.hostMem
  spad : ∀ p, (coreOf t p).spad = (coreOf s p).spad
  cmem : ∀ c, (clusterOf t c).cmem = (clusterOf s c).cmem

theorem DevOnly.refl (s : State) : DevOnly s s := ⟨id, rfl, fun _ => rfl, fun _ => rfl⟩

theorem DevOnly.after {s t u : State} (h : DevOnly t u) (g : DevOnly s t) : DevOnly s u :=
  ⟨h.dev ∘ g.dev, h.host.trans g.host, fun p => (h.spad p).trans (g.spad p), fun c => (h.cmem c).trans (g.cmem c)⟩

/-- A state with the same four memories. -/
theorem DevOnly.same {s t : State} (h1 : t.dev = s.dev) (h2 : t.hostMem = s.hostMem) (h3 : t.cores = s.cores)
    (h4 : t.clusters = s.clusters) : DevOnly s t :=
  ⟨fun h => by rw [h1]; exact h, h2, fun p => by unfold coreOf; rw [h3], fun c => by unfold clusterOf; rw [h4]⟩

theorem DevOnly.fold {α : Type} (f : State → α → State) (h : ∀ s x, DevOnly s (f s x)) (l : List α) (s : State) :
    DevOnly s (l.foldl f s) := by
  induction l generalizing s with
  | nil => exact .refl s
  | cons x t ih => exact (ih (f s x)).after (h s x)

theorem DevOnly.setCore (s : State) (p : Nat) (c : Core) (h : c.spad = (coreOf s p).spad) : DevOnly s (Machine.setCore s p c) := by
  refine ⟨id, rfl, fun q => ?_, fun _ => rfl⟩
  simp only [coreOf, Machine.setCore, tget_tset]
  split
  · next e => subst e; exact h
  · rfl

theorem DevOnly.setCluster (s : State) (n : Nat) (k : Cluster) (h : k.cmem = (clusterOf s n).cmem) : DevOnly s (Machine.setCluster s n k) := by
  refine ⟨id, rfl, fun _ => rfl, fun c => ?_⟩
  simp only [clusterOf, Machine.setCluster, tget_tset]
  split
  · next e => subst e; exact h
  · rfl

theorem rbump_devOnly (s : State) (r : Reg) (n : Nat) : DevOnly s (rbump s r n) := .same rfl rfl rfl rfl
theorem setErrQ_devOnly (s : State) (n : Nat) (q : ErrQueue) : DevOnly s (setErrQ s n q) := .same rfl rfl rfl rfl
theorem setStack_devOnly (s : State) (n : Nat) (k : Stack) : DevOnly s (setStack s n k) := .same rfl rfl rfl rfl
theorem modLive_devOnly (s : State) (f : FldImage → FldImage) : DevOnly s (modLive s f) := .same rfl rfl rfl rfl

theorem setErrs_devOnly (s : State) (e : Table (BitVec 288)) : DevOnly s { s with devErrs := e } := .same rfl rfl rfl rfl

theorem addDue_devOnly (s : State) (d : Due) : DevOnly s (addDue s d) := by
  unfold addDue; split <;> exact .same rfl rfl rfl rfl

theorem putRecord_devOnly (s : State) (r : ErrRec) : DevOnly s (putRecord s r) := by
  unfold putRecord
  dsimp only
  split
  · have h := (setErrQ_devOnly (rbump s (.errOverflow r.source) 1) r.source { errQ s r.source with escalated := true }).after (rbump_devOnly s _ 1)
    split
    · exact (addDue_devOnly _ _).after h
    · have g := (addDue_devOnly _ (.dieFatal r.source causeReset)).after h
      split
      · exact (addDue_devOnly _ _).after ((setErrQ_devOnly _ _ _).after ((rbump_devOnly _ _ _).after g))
      · split
        · exact (addDue_devOnly _ _).after ((rbump_devOnly _ _ _).after ((rbump_devOnly _ _ _).after ((setErrQ_devOnly _ _ _).after g)))
        · exact (rbump_devOnly _ _ _).after ((setErrQ_devOnly _ _ _).after g)
  · have h := (rbump_devOnly _ (.errRecords r.source) 1).after (setErrQ_devOnly s r.source { errQ s r.source with recs := (errQ s r.source).recs ++ [r], lastStatus := some r.status })
    split
    · exact (rbump_devOnly _ _ _).after h
    · exact h

theorem markRetire_devOnly (s : State) (r : Word32) : DevOnly s (markRetire s r) := by
  unfold markRetire
  dsimp only
  split
  · exact .setCore _ _ _ (by unfold coreBankDue; split <;> rfl)
  · split
    · exact .setCluster _ _ _ (by unfold bankDue; split <;> rfl)
    · exact .refl s
  · split
    · split
      · exact (putRecord_devOnly _ _).after (.same rfl rfl rfl rfl)
      · exact .same rfl rfl rfl rfl
    · exact .refl s
  · exact addDue_devOnly _ _

/-- An error record changes no memory (R569 to R573). -/
theorem raiseRecord_devOnly (s : State) (r : ErrRec) : DevOnly s (raiseRecord s r) := by
  unfold raiseRecord raisedAction
  dsimp only
  split
  · exact putRecord_devOnly _ _
  · split
    · exact putRecord_devOnly _ _
    · split
      · split
        · exact (markRetire_devOnly _ _).after (putRecord_devOnly _ _)
        · exact putRecord_devOnly _ _
      · split <;> exact (addDue_devOnly _ _).after (putRecord_devOnly _ _)
      · exact (addDue_devOnly _ _).after (putRecord_devOnly _ _)
      · exact putRecord_devOnly _ _

theorem report_devOnly (s : State) (st : Status) (res : Word32) (addr detail : Word64) (follow : Bool) :
    DevOnly s (report s st res addr detail follow) := by
  unfold report; split
  · exact raiseRecord_devOnly _ _
  · exact .refl s

theorem channelDue_devOnly (s : State) (n ch : Nat) (follow : Bool) : DevOnly s (channelDue s n ch follow) := by
  unfold channelDue
  dsimp only
  split
  · exact (report_devOnly _ _ _ _ _ _).after (.same rfl rfl rfl rfl)
  · exact .same rfl rfl rfl rfl

theorem setDevPoison_devOnly (s : State) (w : Nat) (b : Bool) : DevOnly s (setDevPoison s w b) := .same rfl rfl rfl rfl

theorem setSlots_devOnly (s : State) (n : Nat) (l : List HoldSlot) : DevOnly s (setSlots s n l) := by
  unfold setSlots
  dsimp only
  split <;> exact .same rfl rfl rfl rfl

/-- A store into a stack's storage, of a block or of a holding slot (R278). -/
theorem putRaw_devOnly (s : State) (a : Nat) (bs : List Byte) : DevOnly s (putRaw s a bs) := by
  unfold putRaw
  split
  · exact setSlots_devOnly _ _ _
  · exact ⟨memWf_mwrite _ _ _, rfl, fun _ => rfl, fun _ => rfl⟩

theorem devCorrected_devOnly (s : State) (h : Nat) : DevOnly s (devCorrected s h) := by
  unfold devCorrected
  dsimp only
  have g (k : Stack) (n : Nat) (r r' : Reg) (f : FldImage → FldImage) : DevOnly s (modLive (rbump (rbump (setStack s n k) r 1) r' 1) f) :=
    (modLive_devOnly _ _).after ((rbump_devOnly _ _ _).after ((rbump_devOnly _ _ _).after (setStack_devOnly _ _ _)))
  split
  · exact (channelDue_devOnly _ _ _ _).after (g _ _ _ _ _)
  · exact g _ _ _ _ _

/-- A read of a word of storage corrects it (R263). -/
theorem devFix_devOnly (s : State) (h : Nat) : DevOnly s (devFix s h) := by
  have hr : ∀ r : BitVec 288, ∀ u : State,
      u = (if r = 0 then s else setDevPoison (putRaw s (32 * h) (List.zipWith (· ^^^ ·) ((upto (32 * h) 32).map (rawByte s)) (leftData r))) h (leftPoison r)) →
      DevOnly s { u with devErrs := tset (fun _ => 0) u.devErrs h 0 } := by
    rintro r u rfl
    refine (setErrs_devOnly _ _).after ?_
    split
    · exact .refl s
    · exact (setDevPoison_devOnly _ _ _).after (putRaw_devOnly _ _ _)
  unfold devFix
  dsimp only
  split
  · exact .refl s
  · split
    · exact .refl s
    · split
      · exact (devCorrected_devOnly _ _).after (hr _ _ rfl)
      · exact hr _ _ rfl

/-- The words that a requester reads are corrected, and nothing else of the memories changes. -/
theorem devSettle_devOnly (s : State) (a n : Nat) : DevOnly s (devSettle s a n) := by
  unfold devSettle
  split
  · exact .refl s
  · refine .fold _ (fun s w => ?_) _ _
    split
    · exact .refl s
    · split
      · exact devFix_devOnly _ _
      · exact .refl s

theorem fillSlot_devOnly (s : State) (n tag : Nat) : DevOnly s (fillSlot s n tag) := by
  unfold fillSlot
  refine (DevOnly.fold _ (fun s h => ?_) _ _).after ((setSlots_devOnly (tickFree s) _ _).after (.same rfl rfl rfl rfl))
  have g (u : State) (hu : DevOnly s u) : DevOnly s (if u.devErrs.isEmpty then u else { u with devErrs := tset (fun _ => 0) u.devErrs h 0 }) := by
    split
    · exact hu
    · exact (setErrs_devOnly _ _).after hu
  refine g _ ?_
  split
  · exact setDevPoison_devOnly _ _ _
  · exact .refl s

theorem parkReady_devOnly {s t : State} {w : Nat} (h : parkReady s w = some t) : DevOnly s t := by
  unfold parkReady at h
  dsimp only at h
  split at h
  · cases h; exact .refl s
  · split at h
    · split at h
      · cases h
      · cases h; exact .refl s
    · split at h
      · cases h
      · injection h with h
        rw [← h]
        exact fillSlot_devOnly _ _ _

/-- A write of bytes of one word of storage (R244, R263). -/
theorem putHome_devOnly (s : State) (h o : Nat) (bs : List Byte) : DevOnly s (putHome s h o bs).1 := by
  unfold putHome
  split
  · exact .refl s
  · split
    · exact (setErrs_devOnly _ _).after ((setDevPoison_devOnly _ _ _).after (putRaw_devOnly _ _ _))
    · split
      · exact .refl s
      · exact (putRaw_devOnly _ _ _).after (devFix_devOnly _ _)

/-- A write of device memory keeps its form and changes no other memory. -/
theorem putDev_devOnly (l : List (Nat × Nat × List Byte)) (s : State) : DevOnly s (putDev l s).1 := by
  induction l generalizing s with
  | nil => exact .refl s
  | cons x t ih =>
    obtain ⟨w, o, bs⟩ := x
    rw [putDev]
    split
    · exact .refl s
    · next s1 hp => exact (ih _).after ((putHome_devOnly _ _ _ _).after (parkReady_devOnly hp))

theorem devWrite_devOnly (s : State) (a : Nat) (bs : List Byte) : DevOnly s (devWrite s a bs).1 := by
  unfold devWrite
  split
  · exact .refl s
  · exact putDev_devOnly _ s

theorem DevOnly.memWf {s t : State} (h : DevOnly s t) (g : MemWf s) : MemWf t :=
  ⟨h.dev g.1, by rw [h.host]; exact g.2.1, fun p => by rw [h.spad p]; exact g.2.2.1 p, fun c => by rw [h.cmem c]; exact g.2.2.2 c⟩

/-- A write of host memory changes host memory alone (R512). -/
theorem hostWrite_frame (s : State) (a : Nat) (bs : List Byte) :
    (let t := (hostWrite s a bs).1
     t = { s with hostMem := t.hostMem } ∧ (memWf s.hostMem = true → memWf t.hostMem = true)) := by
  unfold hostWrite
  split
  · exact ⟨rfl, id⟩
  · exact ⟨rfl, memWf_mwrite _ _ _⟩

/-- A write of any space keeps every memory in its form. -/
theorem memWrite_memWf (s : State) (space unit off : Nat) (bs : List Byte) (h : MemWf s) : MemWf (memWrite s space unit off bs).1 := by
  unfold memWrite
  split
  · split
    · exact h
    · rename_i p _
      obtain e | ⟨m, poison, bad, e, hm⟩ := spadWrite_frame s p off bs
      · rw [e]; exact h
      · rw [e]; exact h.setCore _ _ (hm (h.2.2.1 p))
  · obtain e | ⟨m, poison, bad, e, hm⟩ := cmemWrite_frame s unit off bs
    · rw [e]; exact h
    · rw [e]; exact h.setCluster _ _ (hm (h.2.2.2 unit))
  · exact (devWrite_devOnly s off bs).memWf h
  · obtain ⟨e, hm⟩ := hostWrite_frame s off bs
    refine ⟨?_, hm h.2.1, ?_, ?_⟩
    · rw [e]; exact h.1
    · rw [e]; exact h.2.2.1
    · rw [e]; exact h.2.2.2

/-- Writes one after another keep every memory in its form. -/
theorem memPuts_memWf (space unit : Nat) (l : List (Nat × List Byte)) (s : State) (h : MemWf s) : MemWf (memPuts space unit l s).1 := by
  induction l generalizing s with
  | nil => exact h
  | cons x t ih =>
    obtain ⟨a, bs⟩ := x
    exact ih _ (memWrite_memWf s space unit a bs h)

/-- The writes of one request keep every memory in its form. -/
theorem memWrites_memWf (space unit : Nat) (l : List (Nat × List Byte)) (s : State) (h : MemWf s) : MemWf (memWrites space unit l s).1 := by
  unfold memWrites
  split
  · exact h
  · exact memPuts_memWf space unit l s h

/-- The memories after reset list nothing. -/
theorem reset_memWf : MemWf State.reset := ⟨rfl, rfl, fun _ => rfl, fun _ => rfl⟩

end Sys2Proof.Machine
end

