-- ==== Sys2Proof/Laws/PerInstr.lean ====
section
/-! SUPPORT. For each constructor of Instr: the word that the tile instruction is encoded in is decoded to it (R186, R187); the other
commands have no word. -/
namespace Sys2Proof.Laws.Encoding

/-- The word that the instruction has, if any, is decoded to it. -/
def Statement (i : Instr) : Prop := ∀ w, encodeInsn i = some w → ∃ core, decodeInsn core w = some i

theorem nop (core : Fin 4096) : Statement (.nop core) := by
  intro w h; cases h
  refine ⟨core, decodes (c := 0) (o := 0) ?_ ?_ ?_⟩
  · simp [fld_packWord, fieldIn, bits]
  · simp [fld_packWord, fieldIn, bits]
  · rfl

theorem add (core : Fin 4096) (sd sa sb : BitVec 5) : Statement (.add core sd sa sb) := by
  intro w h; cases h
  refine ⟨core, decodes (c := 0) (o := 1) ?_ ?_ ?_⟩
  · simp [fld_packWord, fieldIn, bits]
  · simp [fld_packWord, fieldIn, bits]
  · show some (Instr.add core (fld _ 50 5) (fld _ 45 5) (fld _ 40 5)) = _
    simp [fld_packWord, fieldIn, bits]

theorem sub (core : Fin 4096) (sd sa sb : BitVec 5) : Statement (.sub core sd sa sb) := by
  intro w h; cases h
  refine ⟨core, decodes (c := 0) (o := 2) ?_ ?_ ?_⟩
  · simp [fld_packWord, fieldIn, bits]
  · simp [fld_packWord, fieldIn, bits]
  · show some (Instr.sub core (fld _ 50 5) (fld _ 45 5) (fld _ 40 5)) = _
    simp [fld_packWord, fieldIn, bits]

theorem and (core : Fin 4096) (sd sa sb : BitVec 5) : Statement (.and core sd sa sb) := by
  intro w h; cases h
  refine ⟨core, decodes (c := 0) (o := 3) ?_ ?_ ?_⟩
  · simp [fld_packWord, fieldIn, bits]
  · simp [fld_packWord, fieldIn, bits]
  · show some (Instr.and core (fld _ 50 5) (fld _ 45 5) (fld _ 40 5)) = _
    simp [fld_packWord, fieldIn, bits]

theorem or (core : Fin 4096) (sd sa sb : BitVec 5) : Statement (.or core sd sa sb) := by
  intro w h; cases h
  refine ⟨core, decodes (c := 0) (o := 4) ?_ ?_ ?_⟩
  · simp [fld_packWord, fieldIn, bits]
  · simp [fld_packWord, fieldIn, bits]
  · show some (Instr.or core (fld _ 50 5) (fld _ 45 5) (fld _ 40 5)) = _
    simp [fld_packWord, fieldIn, bits]

theorem xor (core : Fin 4096) (sd sa sb : BitVec 5) : Statement (.xor core sd sa sb) := by
  intro w h; cases h
  refine ⟨core, decodes (c := 0) (o := 5) ?_ ?_ ?_⟩
  · simp [fld_packWord, fieldIn, bits]
  · simp [fld_packWord, fieldIn, bits]
  · show some (Instr.xor core (fld _ 50 5) (fld _ 45 5) (fld _ 40 5)) = _
    simp [fld_packWord, fieldIn, bits]

theorem shl (core : Fin 4096) (sd sa sb : BitVec 5) : Statement (.shl core sd sa sb) := by
  intro w h; cases h
  refine ⟨core, decodes (c := 0) (o := 6) ?_ ?_ ?_⟩
  · simp [fld_packWord, fieldIn, bits]
  · simp [fld_packWord, fieldIn, bits]
  · show some (Instr.shl core (fld _ 50 5) (fld _ 45 5) (fld _ 40 5)) = _
    simp [fld_packWord, fieldIn, bits]

theorem shr (core : Fin 4096) (sd sa sb : BitVec 5) : Statement (.shr core sd sa sb) := by
  intro w h; cases h
  refine ⟨core, decodes (c := 0) (o := 7) ?_ ?_ ?_⟩
  · simp [fld_packWord, fieldIn, bits]
  · simp [fld_packWord, fieldIn, bits]
  · show some (Instr.shr core (fld _ 50 5) (fld _ 45 5) (fld _ 40 5)) = _
    simp [fld_packWord, fieldIn, bits]

theorem sra (core : Fin 4096) (sd sa sb : BitVec 5) : Statement (.sra core sd sa sb) := by
  intro w h; cases h
  refine ⟨core, decodes (c := 0) (o := 8) ?_ ?_ ?_⟩
  · simp [fld_packWord, fieldIn, bits]
  · simp [fld_packWord, fieldIn, bits]
  · show some (Instr.sra core (fld _ 50 5) (fld _ 45 5) (fld _ 40 5)) = _
    simp [fld_packWord, fieldIn, bits]

theorem mul (core : Fin 4096) (sd sa sb : BitVec 5) : Statement (.mul core sd sa sb) := by
  intro w h; cases h
  refine ⟨core, decodes (c := 0) (o := 9) ?_ ?_ ?_⟩
  · simp [fld_packWord, fieldIn, bits]
  · simp [fld_packWord, fieldIn, bits]
  · show some (Instr.mul core (fld _ 50 5) (fld _ 45 5) (fld _ 40 5)) = _
    simp [fld_packWord, fieldIn, bits]

theorem min (core : Fin 4096) (sd sa sb : BitVec 5) : Statement (.min core sd sa sb) := by
  intro w h; cases h
  refine ⟨core, decodes (c := 0) (o := 10) ?_ ?_ ?_⟩
  · simp [fld_packWord, fieldIn, bits]
  · simp [fld_packWord, fieldIn, bits]
  · show some (Instr.min core (fld _ 50 5) (fld _ 45 5) (fld _ 40 5)) = _
    simp [fld_packWord, fieldIn, bits]

theorem max (core : Fin 4096) (sd sa sb : BitVec 5) : Statement (.max core sd sa sb) := by
  intro w h; cases h
  refine ⟨core, decodes (c := 0) (o := 11) ?_ ?_ ?_⟩
  · simp [fld_packWord, fieldIn, bits]
  · simp [fld_packWord, fieldIn, bits]
  · show some (Instr.max core (fld _ 50 5) (fld _ 45 5) (fld _ 40 5)) = _
    simp [fld_packWord, fieldIn, bits]

theorem addi (core : Fin 4096) (sd sa : BitVec 5) (imm : BitVec 40) : Statement (.addi core sd sa imm) := by
  intro w h; cases h
  refine ⟨core, decodes (c := 0) (o := 12) ?_ ?_ ?_⟩
  · simp [fld_packWord, fieldIn, bits]
  · simp [fld_packWord, fieldIn, bits]
  · show some (Instr.addi core (fld _ 50 5) (fld _ 45 5) (fld _ 0 40)) = _
    simp [fld_packWord, fieldIn, bits]

theorem andi (core : Fin 4096) (sd sa : BitVec 5) (imm : BitVec 40) : Statement (.andi core sd sa imm) := by
  intro w h; cases h
  refine ⟨core, decodes (c := 0) (o := 13) ?_ ?_ ?_⟩
  · simp [fld_packWord, fieldIn, bits]
  · simp [fld_packWord, fieldIn, bits]
  · show some (Instr.andi core (fld _ 50 5) (fld _ 45 5) (fld _ 0 40)) = _
    simp [fld_packWord, fieldIn, bits]

theorem li (core : Fin 4096) (sd : BitVec 5) (imm : BitVec 40) : Statement (.li core sd imm) := by
  intro w h; cases h
  refine ⟨core, decodes (c := 0) (o := 14) ?_ ?_ ?_⟩
  · simp [fld_packWord, fieldIn, bits]
  · simp [fld_packWord, fieldIn, bits]
  · show some (Instr.li core (fld _ 50 5) (fld _ 0 40)) = _
    simp [fld_packWord, fieldIn, bits]

theorem lui (core : Fin 4096) (sd sa : BitVec 5) (imm : BitVec 24) : Statement (.lui core sd sa imm) := by
  intro w h; cases h
  refine ⟨core, decodes (c := 0) (o := 15) ?_ ?_ ?_⟩
  · simp [fld_packWord, fieldIn, bits]
  · simp [fld_packWord, fieldIn, bits]
  · show some (Instr.lui core (fld _ 50 5) (fld _ 45 5) (fld _ 0 24)) = _
    simp [fld_packWord, fieldIn, bits]

theorem lds (core : Fin 4096) (sd sa : BitVec 5) (imm : BitVec 40) : Statement (.lds core sd sa imm) := by
  intro w h; cases h
  refine ⟨core, decodes (c := 0) (o := 16) ?_ ?_ ?_⟩
  · simp [fld_packWord, fieldIn, bits]
  · simp [fld_packWord, fieldIn, bits]
  · show some (Instr.lds core (fld _ 50 5) (fld _ 45 5) (fld _ 0 40)) = _
    simp [fld_packWord, fieldIn, bits]

theorem sts (core : Fin 4096) (sa sb : BitVec 5) (imm : BitVec 40) : Statement (.sts core sa sb imm) := by
  intro w h; cases h
  refine ⟨core, decodes (c := 0) (o := 17) ?_ ?_ ?_⟩
  · simp [fld_packWord, fieldIn, bits]
  · simp [fld_packWord, fieldIn, bits]
  · show some (Instr.sts core (fld _ 45 5) (fld _ 40 5) (fld _ 0 40)) = _
    simp [fld_packWord, fieldIn, bits]

theorem beq (core : Fin 4096) (sa sb : BitVec 5) (imm : BitVec 40) : Statement (.beq core sa sb imm) := by
  intro w h; cases h
  refine ⟨core, decodes (c := 0) (o := 18) ?_ ?_ ?_⟩
  · simp [fld_packWord, fieldIn, bits]
  · simp [fld_packWord, fieldIn, bits]
  · show some (Instr.beq core (fld _ 45 5) (fld _ 40 5) (fld _ 0 40)) = _
    simp [fld_packWord, fieldIn, bits]

theorem bne (core : Fin 4096) (sa sb : BitVec 5) (imm : BitVec 40) : Statement (.bne core sa sb imm) := by
  intro w h; cases h
  refine ⟨core, decodes (c := 0) (o := 19) ?_ ?_ ?_⟩
  · simp [fld_packWord, fieldIn, bits]
  · simp [fld_packWord, fieldIn, bits]
  · show some (Instr.bne core (fld _ 45 5) (fld _ 40 5) (fld _ 0 40)) = _
    simp [fld_packWord, fieldIn, bits]

theorem blt (core : Fin 4096) (sa sb : BitVec 5) (imm : BitVec 40) : Statement (.blt core sa sb imm) := by
  intro w h; cases h
  refine ⟨core, decodes (c := 0) (o := 20) ?_ ?_ ?_⟩
  · simp [fld_packWord, fieldIn, bits]
  · simp [fld_packWord, fieldIn, bits]
  · show some (Instr.blt core (fld _ 45 5) (fld _ 40 5) (fld _ 0 40)) = _
    simp [fld_packWord, fieldIn, bits]

theorem bge (core : Fin 4096) (sa sb : BitVec 5) (imm : BitVec 40) : Statement (.bge core sa sb imm) := by
  intro w h; cases h
  refine ⟨core, decodes (c := 0) (o := 21) ?_ ?_ ?_⟩
  · simp [fld_packWord, fieldIn, bits]
  · simp [fld_packWord, fieldIn, bits]
  · show some (Instr.bge core (fld _ 45 5) (fld _ 40 5) (fld _ 0 40)) = _
    simp [fld_packWord, fieldIn, bits]

theorem jmp (core : Fin 4096) (imm : BitVec 40) : Statement (.jmp core imm) := by
  intro w h; cases h
  refine ⟨core, decodes (c := 0) (o := 22) ?_ ?_ ?_⟩
  · simp [fld_packWord, fieldIn, bits]
  · simp [fld_packWord, fieldIn, bits]
  · show some (Instr.jmp core (fld _ 0 40)) = _
    simp [fld_packWord, fieldIn, bits]

theorem rdreg (core : Fin 4096) (sd : BitVec 5) (imm : BitVec 40) : Statement (.rdreg core sd imm) := by
  intro w h; cases h
  refine ⟨core, decodes (c := 0) (o := 23) ?_ ?_ ?_⟩
  · simp [fld_packWord, fieldIn, bits]
  · simp [fld_packWord, fieldIn, bits]
  · show some (Instr.rdreg core (fld _ 50 5) (fld _ 0 40)) = _
    simp [fld_packWord, fieldIn, bits]

theorem clrnum (core : Fin 4096) : Statement (.clrnum core) := by
  intro w h; cases h
  refine ⟨core, decodes (c := 0) (o := 24) ?_ ?_ ?_⟩
  · simp [fld_packWord, fieldIn, bits]
  · simp [fld_packWord, fieldIn, bits]
  · rfl

theorem rdtime (core : Fin 4096) (sd : BitVec 5) : Statement (.rdtime core sd) := by
  intro w h; cases h
  refine ⟨core, decodes (c := 0) (o := 25) ?_ ?_ ?_⟩
  · simp [fld_packWord, fieldIn, bits]
  · simp [fld_packWord, fieldIn, bits]
  · show some (Instr.rdtime core (fld _ 50 5)) = _
    simp [fld_packWord, fieldIn, bits]

theorem dset (core : Fin 4096) (slot sa : BitVec 5) (imm : BitVec 40) : Statement (.dset core slot sa imm) := by
  intro w h; cases h
  refine ⟨core, decodes (c := 1) (o := 0) ?_ ?_ ?_⟩
  · simp [fld_packWord, fieldIn, bits]
  · simp [fld_packWord, fieldIn, bits]
  · show some (Instr.dset core (fld _ 50 5) (fld _ 45 5) (fld _ 0 40)) = _
    simp [fld_packWord, fieldIn, bits]

theorem dget (core : Fin 4096) (slot sa : BitVec 5) (imm : BitVec 40) : Statement (.dget core slot sa imm) := by
  intro w h; cases h
  refine ⟨core, decodes (c := 1) (o := 1) ?_ ?_ ?_⟩
  · simp [fld_packWord, fieldIn, bits]
  · simp [fld_packWord, fieldIn, bits]
  · show some (Instr.dget core (fld _ 50 5) (fld _ 45 5) (fld _ 0 40)) = _
    simp [fld_packWord, fieldIn, bits]

theorem dbase (core : Fin 4096) (slot sa : BitVec 5) (plane : BitVec 2) : Statement (.dbase core slot sa plane) := by
  intro w h; cases h
  refine ⟨core, decodes (c := 1) (o := 2) ?_ ?_ ?_⟩
  · simp [fld_packWord, fieldIn, bits]
  · simp [fld_packWord, fieldIn, bits]
  · show some (Instr.dbase core (fld _ 50 5) (fld _ 45 5) (fld _ 43 2)) = _
    simp [fld_packWord, fieldIn, bits]

theorem dpart (core : Fin 4096) (slot sa : BitVec 5) : Statement (.dpart core slot sa) := by
  intro w h; cases h
  refine ⟨core, decodes (c := 1) (o := 3) ?_ ?_ ?_⟩
  · simp [fld_packWord, fieldIn, bits]
  · simp [fld_packWord, fieldIn, bits]
  · show some (Instr.dpart core (fld _ 50 5) (fld _ 45 5)) = _
    simp [fld_packWord, fieldIn, bits]

theorem dload (core : Fin 4096) (src dst num : BitVec 5) : Statement (.dload core src dst num) := by
  intro w h; cases h
  refine ⟨core, decodes (c := 1) (o := 8) ?_ ?_ ?_⟩
  · simp [fld_packWord, fieldIn, bits]
  · simp [fld_packWord, fieldIn, bits]
  · show some (Instr.dload core (fld _ 50 5) (fld _ 45 5) (fld _ 29 5)) = _
    simp [fld_packWord, fieldIn, bits]

theorem dstore (core : Fin 4096) (src dst num : BitVec 5) : Statement (.dstore core src dst num) := by
  intro w h; cases h
  refine ⟨core, decodes (c := 1) (o := 9) ?_ ?_ ?_⟩
  · simp [fld_packWord, fieldIn, bits]
  · simp [fld_packWord, fieldIn, bits]
  · show some (Instr.dstore core (fld _ 50 5) (fld _ 45 5) (fld _ 29 5)) = _
    simp [fld_packWord, fieldIn, bits]

theorem dgather (core : Fin 4096) (table dense index : BitVec 5) (indexDim : BitVec 3) (idxMode : BitVec 2) (num : BitVec 5) : Statement (.dgather core table dense index indexDim idxMode num) := by
  intro w h; cases h
  refine ⟨core, decodes (c := 1) (o := 10) ?_ ?_ ?_⟩
  · simp [fld_packWord, fieldIn, bits]
  · simp [fld_packWord, fieldIn, bits]
  · show some (Instr.dgather core (fld _ 50 5) (fld _ 45 5) (fld _ 40 5) (fld _ 37 3) (fld _ 35 2) (fld _ 29 5)) = _
    simp [fld_packWord, fieldIn, bits]

theorem dscatter (core : Fin 4096) (table dense index : BitVec 5) (indexDim : BitVec 3) (idxMode : BitVec 2) (accum : Bool) (num : BitVec 5) : Statement (.dscatter core table dense index indexDim idxMode accum num) := by
  intro w h; cases h
  refine ⟨core, decodes (c := 1) (o := 11) ?_ ?_ ?_⟩
  · simp [fld_packWord, fieldIn, bits]
  · simp [fld_packWord, fieldIn, bits]
  · show some (Instr.dscatter core (fld _ 50 5) (fld _ 45 5) (fld _ 40 5) (fld _ 37 3) (fld _ 35 2) (bitAt _ 34) (fld _ 29 5)) = _
    simp [bitAt, fld_packWord, fieldIn, bits, bit_n1]

theorem feWload (core : Fin 4096) (wdesc : BitVec 5) (wFmt aFmt : BitVec 4) (kext : BitVec 9) (ncol : BitVec 6) : Statement (.feWload core wdesc wFmt aFmt kext ncol) := by
  intro w h; cases h
  refine ⟨core, decodes (c := 2) (o := 0) ?_ ?_ ?_⟩
  · simp [fld_packWord, fieldIn, bits]
  · simp [fld_packWord, fieldIn, bits]
  · show some (Instr.feWload core (fld _ 50 5) (fld _ 46 4) (fld _ 42 4) (fld _ 33 9) (fld _ 27 6)) = _
    simp [fld_packWord, fieldIn, bits]

theorem feStream (core : Fin 4096) (adesc odesc pdesc rowsreg : BitVec 5) (kext : BitVec 9) (ncol : BitVec 6) (oFmt : BitVec 4) (acc plane : Bool) (num : BitVec 5) : Statement (.feStream core adesc odesc pdesc rowsreg kext ncol oFmt acc plane num) := by
  intro w h; cases h
  refine ⟨core, decodes (c := 2) (o := 1) ?_ ?_ ?_⟩
  · simp [fld_packWord, fieldIn, bits]
  · simp [fld_packWord, fieldIn, bits]
  · show some (Instr.feStream core (fld _ 50 5) (fld _ 45 5) (fld _ 40 5) (fld _ 35 5) (fld _ 26 9) (fld _ 20 6) (fld _ 16 4) (bitAt _ 15) (bitAt _ 14) (fld _ 9 5)) = _
    simp [bitAt, fld_packWord, fieldIn, bits, bit_n1]

theorem beWload (core : Fin 4096) (wdesc : BitVec 5) (wFmt : BitVec 4) (trn : Bool) (kext ncol : BitVec 6) : Statement (.beWload core wdesc wFmt trn kext ncol) := by
  intro w h; cases h
  refine ⟨core, decodes (c := 2) (o := 8) ?_ ?_ ?_⟩
  · simp [fld_packWord, fieldIn, bits]
  · simp [fld_packWord, fieldIn, bits]
  · show some (Instr.beWload core (fld _ 50 5) (fld _ 46 4) (bitAt _ 45) (fld _ 39 6) (fld _ 33 6)) = _
    simp [bitAt, fld_packWord, fieldIn, bits, bit_n1]

theorem beDx (core : Fin 4096) (gdesc odesc pdesc rowsreg : BitVec 5) (kext : BitVec 9) (ncol : BitVec 6) (oFmt : BitVec 4) (acc plane : Bool) (num : BitVec 5) : Statement (.beDx core gdesc odesc pdesc rowsreg kext ncol oFmt acc plane num) := by
  intro w h; cases h
  refine ⟨core, decodes (c := 2) (o := 9) ?_ ?_ ?_⟩
  · simp [fld_packWord, fieldIn, bits]
  · simp [fld_packWord, fieldIn, bits]
  · show some (Instr.beDx core (fld _ 50 5) (fld _ 45 5) (fld _ 40 5) (fld _ 35 5) (fld _ 26 9) (fld _ 20 6) (fld _ 16 4) (bitAt _ 15) (bitAt _ 14) (fld _ 9 5)) = _
    simp [bitAt, fld_packWord, fieldIn, bits, bit_n1]

theorem beDw (core : Fin 4096) (xdesc : BitVec 5) (xFmt : BitVec 4) (gdesc odesc pdesc rowsreg : BitVec 5) (xext ncol : BitVec 6) (oFmt : BitVec 4) (acc : Bool) (num : BitVec 5) (dwc : BitVec 4) : Statement (.beDw core xdesc xFmt gdesc odesc pdesc rowsreg xext ncol oFmt acc num dwc) := by
  intro w h; cases h
  refine ⟨core, decodes (c := 2) (o := 10) ?_ ?_ ?_⟩
  · simp [fld_packWord, fieldIn, bits]
  · simp [fld_packWord, fieldIn, bits]
  · show some (Instr.beDw core (fld _ 50 5) (fld _ 46 4) (fld _ 41 5) (fld _ 36 5) (fld _ 31 5) (fld _ 26 5) (fld _ 20 6) (fld _ 14 6) (fld _ 10 4) (bitAt _ 9) (fld _ 4 5) (fld _ 0 4)) = _
    simp [bitAt, fld_packWord, fieldIn, bits, bit_n1]

theorem vadd (core : Fin 4096) (d a b c num : BitVec 5) (cfmt : BitVec 4) : Statement (.vadd core d a b c num cfmt) := by
  intro w h; cases h
  refine ⟨core, decodes (c := 3) (o := 0) ?_ ?_ ?_⟩
  · simp [fld_packWord, fieldIn, bits]
  · simp [fld_packWord, fieldIn, bits]
  · show some (Instr.vadd core (fld _ 50 5) (fld _ 45 5) (fld _ 40 5) (fld _ 35 5) (fld _ 30 5) (fld _ 26 4)) = _
    simp [fld_packWord, fieldIn, bits]

theorem vsub (core : Fin 4096) (d a b c num : BitVec 5) (cfmt : BitVec 4) : Statement (.vsub core d a b c num cfmt) := by
  intro w h; cases h
  refine ⟨core, decodes (c := 3) (o := 1) ?_ ?_ ?_⟩
  · simp [fld_packWord, fieldIn, bits]
  · simp [fld_packWord, fieldIn, bits]
  · show some (Instr.vsub core (fld _ 50 5) (fld _ 45 5) (fld _ 40 5) (fld _ 35 5) (fld _ 30 5) (fld _ 26 4)) = _
    simp [fld_packWord, fieldIn, bits]

theorem vmul (core : Fin 4096) (d a b c num : BitVec 5) (cfmt : BitVec 4) : Statement (.vmul core d a b c num cfmt) := by
  intro w h; cases h
  refine ⟨core, decodes (c := 3) (o := 2) ?_ ?_ ?_⟩
  · simp [fld_packWord, fieldIn, bits]
  · simp [fld_packWord, fieldIn, bits]
  · show some (Instr.vmul core (fld _ 50 5) (fld _ 45 5) (fld _ 40 5) (fld _ 35 5) (fld _ 30 5) (fld _ 26 4)) = _
    simp [fld_packWord, fieldIn, bits]

theorem vfma (core : Fin 4096) (d a b c num : BitVec 5) (cfmt : BitVec 4) : Statement (.vfma core d a b c num cfmt) := by
  intro w h; cases h
  refine ⟨core, decodes (c := 3) (o := 3) ?_ ?_ ?_⟩
  · simp [fld_packWord, fieldIn, bits]
  · simp [fld_packWord, fieldIn, bits]
  · show some (Instr.vfma core (fld _ 50 5) (fld _ 45 5) (fld _ 40 5) (fld _ 35 5) (fld _ 30 5) (fld _ 26 4)) = _
    simp [fld_packWord, fieldIn, bits]

theorem vmax (core : Fin 4096) (d a b c num : BitVec 5) (cfmt : BitVec 4) : Statement (.vmax core d a b c num cfmt) := by
  intro w h; cases h
  refine ⟨core, decodes (c := 3) (o := 4) ?_ ?_ ?_⟩
  · simp [fld_packWord, fieldIn, bits]
  · simp [fld_packWord, fieldIn, bits]
  · show some (Instr.vmax core (fld _ 50 5) (fld _ 45 5) (fld _ 40 5) (fld _ 35 5) (fld _ 30 5) (fld _ 26 4)) = _
    simp [fld_packWord, fieldIn, bits]

theorem vmin (core : Fin 4096) (d a b c num : BitVec 5) (cfmt : BitVec 4) : Statement (.vmin core d a b c num cfmt) := by
  intro w h; cases h
  refine ⟨core, decodes (c := 3) (o := 5) ?_ ?_ ?_⟩
  · simp [fld_packWord, fieldIn, bits]
  · simp [fld_packWord, fieldIn, bits]
  · show some (Instr.vmin core (fld _ 50 5) (fld _ 45 5) (fld _ 40 5) (fld _ 35 5) (fld _ 30 5) (fld _ 26 4)) = _
    simp [fld_packWord, fieldIn, bits]

theorem vabs (core : Fin 4096) (d a b c num : BitVec 5) (cfmt : BitVec 4) : Statement (.vabs core d a b c num cfmt) := by
  intro w h; cases h
  refine ⟨core, decodes (c := 3) (o := 6) ?_ ?_ ?_⟩
  · simp [fld_packWord, fieldIn, bits]
  · simp [fld_packWord, fieldIn, bits]
  · show some (Instr.vabs core (fld _ 50 5) (fld _ 45 5) (fld _ 40 5) (fld _ 35 5) (fld _ 30 5) (fld _ 26 4)) = _
    simp [fld_packWord, fieldIn, bits]

theorem vneg (core : Fin 4096) (d a b c num : BitVec 5) (cfmt : BitVec 4) : Statement (.vneg core d a b c num cfmt) := by
  intro w h; cases h
  refine ⟨core, decodes (c := 3) (o := 7) ?_ ?_ ?_⟩
  · simp [fld_packWord, fieldIn, bits]
  · simp [fld_packWord, fieldIn, bits]
  · show some (Instr.vneg core (fld _ 50 5) (fld _ 45 5) (fld _ 40 5) (fld _ 35 5) (fld _ 30 5) (fld _ 26 4)) = _
    simp [fld_packWord, fieldIn, bits]

theorem vscl (core : Fin 4096) (d a b c num : BitVec 5) (cfmt : BitVec 4) : Statement (.vscl core d a b c num cfmt) := by
  intro w h; cases h
  refine ⟨core, decodes (c := 3) (o := 8) ?_ ?_ ?_⟩
  · simp [fld_packWord, fieldIn, bits]
  · simp [fld_packWord, fieldIn, bits]
  · show some (Instr.vscl core (fld _ 50 5) (fld _ 45 5) (fld _ 40 5) (fld _ 35 5) (fld _ 30 5) (fld _ 26 4)) = _
    simp [fld_packWord, fieldIn, bits]

theorem vsel (core : Fin 4096) (d a b c num : BitVec 5) (cfmt : BitVec 4) : Statement (.vsel core d a b c num cfmt) := by
  intro w h; cases h
  refine ⟨core, decodes (c := 3) (o := 9) ?_ ?_ ?_⟩
  · simp [fld_packWord, fieldIn, bits]
  · simp [fld_packWord, fieldIn, bits]
  · show some (Instr.vsel core (fld _ 50 5) (fld _ 45 5) (fld _ 40 5) (fld _ 35 5) (fld _ 30 5) (fld _ 26 4)) = _
    simp [fld_packWord, fieldIn, bits]

theorem vcopy (core : Fin 4096) (d a b c num : BitVec 5) (cfmt : BitVec 4) : Statement (.vcopy core d a b c num cfmt) := by
  intro w h; cases h
  refine ⟨core, decodes (c := 3) (o := 10) ?_ ?_ ?_⟩
  · simp [fld_packWord, fieldIn, bits]
  · simp [fld_packWord, fieldIn, bits]
  · show some (Instr.vcopy core (fld _ 50 5) (fld _ 45 5) (fld _ 40 5) (fld _ 35 5) (fld _ 30 5) (fld _ 26 4)) = _
    simp [fld_packWord, fieldIn, bits]

theorem vexp2 (core : Fin 4096) (d a b c num : BitVec 5) (cfmt : BitVec 4) : Statement (.vexp2 core d a b c num cfmt) := by
  intro w h; cases h
  refine ⟨core, decodes (c := 3) (o := 16) ?_ ?_ ?_⟩
  · simp [fld_packWord, fieldIn, bits]
  · simp [fld_packWord, fieldIn, bits]
  · show some (Instr.vexp2 core (fld _ 50 5) (fld _ 45 5) (fld _ 40 5) (fld _ 35 5) (fld _ 30 5) (fld _ 26 4)) = _
    simp [fld_packWord, fieldIn, bits]

theorem vlog2 (core : Fin 4096) (d a b c num : BitVec 5) (cfmt : BitVec 4) : Statement (.vlog2 core d a b c num cfmt) := by
  intro w h; cases h
  refine ⟨core, decodes (c := 3) (o := 17) ?_ ?_ ?_⟩
  · simp [fld_packWord, fieldIn, bits]
  · simp [fld_packWord, fieldIn, bits]
  · show some (Instr.vlog2 core (fld _ 50 5) (fld _ 45 5) (fld _ 40 5) (fld _ 35 5) (fld _ 30 5) (fld _ 26 4)) = _
    simp [fld_packWord, fieldIn, bits]

theorem vrcp (core : Fin 4096) (d a b c num : BitVec 5) (cfmt : BitVec 4) : Statement (.vrcp core d a b c num cfmt) := by
  intro w h; cases h
  refine ⟨core, decodes (c := 3) (o := 18) ?_ ?_ ?_⟩
  · simp [fld_packWord, fieldIn, bits]
  · simp [fld_packWord, fieldIn, bits]
  · show some (Instr.vrcp core (fld _ 50 5) (fld _ 45 5) (fld _ 40 5) (fld _ 35 5) (fld _ 30 5) (fld _ 26 4)) = _
    simp [fld_packWord, fieldIn, bits]

theorem vrsqrt (core : Fin 4096) (d a b c num : BitVec 5) (cfmt : BitVec 4) : Statement (.vrsqrt core d a b c num cfmt) := by
  intro w h; cases h
  refine ⟨core, decodes (c := 3) (o := 19) ?_ ?_ ?_⟩
  · simp [fld_packWord, fieldIn, bits]
  · simp [fld_packWord, fieldIn, bits]
  · show some (Instr.vrsqrt core (fld _ 50 5) (fld _ 45 5) (fld _ 40 5) (fld _ 35 5) (fld _ 30 5) (fld _ 26 4)) = _
    simp [fld_packWord, fieldIn, bits]

theorem vsqrt (core : Fin 4096) (d a b c num : BitVec 5) (cfmt : BitVec 4) : Statement (.vsqrt core d a b c num cfmt) := by
  intro w h; cases h
  refine ⟨core, decodes (c := 3) (o := 20) ?_ ?_ ?_⟩
  · simp [fld_packWord, fieldIn, bits]
  · simp [fld_packWord, fieldIn, bits]
  · show some (Instr.vsqrt core (fld _ 50 5) (fld _ 45 5) (fld _ 40 5) (fld _ 35 5) (fld _ 30 5) (fld _ 26 4)) = _
    simp [fld_packWord, fieldIn, bits]

theorem vrsum (core : Fin 4096) (d a b c num : BitVec 5) (cfmt : BitVec 4) : Statement (.vrsum core d a b c num cfmt) := by
  intro w h; cases h
  refine ⟨core, decodes (c := 3) (o := 24) ?_ ?_ ?_⟩
  · simp [fld_packWord, fieldIn, bits]
  · simp [fld_packWord, fieldIn, bits]
  · show some (Instr.vrsum core (fld _ 50 5) (fld _ 45 5) (fld _ 40 5) (fld _ 35 5) (fld _ 30 5) (fld _ 26 4)) = _
    simp [fld_packWord, fieldIn, bits]

theorem vrmax (core : Fin 4096) (d a b c num : BitVec 5) (cfmt : BitVec 4) : Statement (.vrmax core d a b c num cfmt) := by
  intro w h; cases h
  refine ⟨core, decodes (c := 3) (o := 25) ?_ ?_ ?_⟩
  · simp [fld_packWord, fieldIn, bits]
  · simp [fld_packWord, fieldIn, bits]
  · show some (Instr.vrmax core (fld _ 50 5) (fld _ 45 5) (fld _ 40 5) (fld _ 35 5) (fld _ 30 5) (fld _ 26 4)) = _
    simp [fld_packWord, fieldIn, bits]

theorem fsend (core : Fin 4096) (desc epreg auxreg : BitVec 5) (vc : BitVec 3) (tag : BitVec 16) (mode : BitVec 2) (num : BitVec 5) : Statement (.fsend core desc epreg auxreg vc tag mode num) := by
  intro w h; cases h
  refine ⟨core, decodes (c := 4) (o := 0) ?_ ?_ ?_⟩
  · simp [fld_packWord, fieldIn, bits]
  · simp [fld_packWord, fieldIn, bits]
  · show some (Instr.fsend core (fld _ 50 5) (fld _ 45 5) (fld _ 40 5) (fld _ 37 3) (fld _ 21 16) (fld _ 19 2) (fld _ 14 5)) = _
    simp [fld_packWord, fieldIn, bits]

theorem frecv (core : Fin 4096) (desc epreg auxreg : BitVec 5) (vc : BitVec 3) (tag : BitVec 16) (mode : BitVec 2) (num : BitVec 5) : Statement (.frecv core desc epreg auxreg vc tag mode num) := by
  intro w h; cases h
  refine ⟨core, decodes (c := 4) (o := 1) ?_ ?_ ?_⟩
  · simp [fld_packWord, fieldIn, bits]
  · simp [fld_packWord, fieldIn, bits]
  · show some (Instr.frecv core (fld _ 50 5) (fld _ 45 5) (fld _ 40 5) (fld _ 37 3) (fld _ 21 16) (fld _ 19 2) (fld _ 14 5)) = _
    simp [fld_packWord, fieldIn, bits]

theorem fcsend (core : Fin 4096) (desc epreg auxreg : BitVec 5) (vc : BitVec 3) (tag : BitVec 16) (mode : BitVec 2) (num : BitVec 5) : Statement (.fcsend core desc epreg auxreg vc tag mode num) := by
  intro w h; cases h
  refine ⟨core, decodes (c := 4) (o := 2) ?_ ?_ ?_⟩
  · simp [fld_packWord, fieldIn, bits]
  · simp [fld_packWord, fieldIn, bits]
  · show some (Instr.fcsend core (fld _ 50 5) (fld _ 45 5) (fld _ 40 5) (fld _ 37 3) (fld _ 21 16) (fld _ 19 2) (fld _ 14 5)) = _
    simp [fld_packWord, fieldIn, bits]

theorem fcrecv (core : Fin 4096) (desc epreg auxreg : BitVec 5) (vc : BitVec 3) (tag : BitVec 16) (mode : BitVec 2) (num : BitVec 5) : Statement (.fcrecv core desc epreg auxreg vc tag mode num) := by
  intro w h; cases h
  refine ⟨core, decodes (c := 4) (o := 3) ?_ ?_ ?_⟩
  · simp [fld_packWord, fieldIn, bits]
  · simp [fld_packWord, fieldIn, bits]
  · show some (Instr.fcrecv core (fld _ 50 5) (fld _ 45 5) (fld _ 40 5) (fld _ 37 3) (fld _ 21 16) (fld _ 19 2) (fld _ 14 5)) = _
    simp [fld_packWord, fieldIn, bits]

theorem fput (core : Fin 4096) (desc epreg auxreg : BitVec 5) (vc : BitVec 3) (tag : BitVec 16) (mode : BitVec 2) (num : BitVec 5) : Statement (.fput core desc epreg auxreg vc tag mode num) := by
  intro w h; cases h
  refine ⟨core, decodes (c := 4) (o := 4) ?_ ?_ ?_⟩
  · simp [fld_packWord, fieldIn, bits]
  · simp [fld_packWord, fieldIn, bits]
  · show some (Instr.fput core (fld _ 50 5) (fld _ 45 5) (fld _ 40 5) (fld _ 37 3) (fld _ 21 16) (fld _ 19 2) (fld _ 14 5)) = _
    simp [fld_packWord, fieldIn, bits]

theorem fget (core : Fin 4096) (desc epreg auxreg : BitVec 5) (vc : BitVec 3) (tag : BitVec 16) (mode : BitVec 2) (num : BitVec 5) : Statement (.fget core desc epreg auxreg vc tag mode num) := by
  intro w h; cases h
  refine ⟨core, decodes (c := 4) (o := 5) ?_ ?_ ?_⟩
  · simp [fld_packWord, fieldIn, bits]
  · simp [fld_packWord, fieldIn, bits]
  · show some (Instr.fget core (fld _ 50 5) (fld _ 45 5) (fld _ 40 5) (fld _ 37 3) (fld _ 21 16) (fld _ 19 2) (fld _ 14 5)) = _
    simp [fld_packWord, fieldIn, bits]

theorem facc (core : Fin 4096) (desc epreg auxreg : BitVec 5) (vc : BitVec 3) (tag : BitVec 16) (mode : BitVec 2) (num : BitVec 5) : Statement (.facc core desc epreg auxreg vc tag mode num) := by
  intro w h; cases h
  refine ⟨core, decodes (c := 4) (o := 6) ?_ ?_ ?_⟩
  · simp [fld_packWord, fieldIn, bits]
  · simp [fld_packWord, fieldIn, bits]
  · show some (Instr.facc core (fld _ 50 5) (fld _ 45 5) (fld _ 40 5) (fld _ 37 3) (fld _ 21 16) (fld _ 19 2) (fld _ 14 5)) = _
    simp [fld_packWord, fieldIn, bits]

theorem fmsg (core : Fin 4096) (desc epreg auxreg : BitVec 5) (vc : BitVec 3) (tag : BitVec 16) (mode : BitVec 2) (num : BitVec 5) : Statement (.fmsg core desc epreg auxreg vc tag mode num) := by
  intro w h; cases h
  refine ⟨core, decodes (c := 4) (o := 7) ?_ ?_ ?_⟩
  · simp [fld_packWord, fieldIn, bits]
  · simp [fld_packWord, fieldIn, bits]
  · show some (Instr.fmsg core (fld _ 50 5) (fld _ 45 5) (fld _ 40 5) (fld _ 37 3) (fld _ 21 16) (fld _ 19 2) (fld _ 14 5)) = _
    simp [fld_packWord, fieldIn, bits]

theorem aadd (core : Fin 4096) (sd sa sb sc : BitVec 5) (width : BitVec 3) : Statement (.aadd core sd sa sb sc width) := by
  intro w h; cases h
  refine ⟨core, decodes (c := 5) (o := 0) ?_ ?_ ?_⟩
  · simp [fld_packWord, fieldIn, bits]
  · simp [fld_packWord, fieldIn, bits]
  · show some (Instr.aadd core (fld _ 50 5) (fld _ 45 5) (fld _ 40 5) (fld _ 35 5) (fld _ 32 3)) = _
    simp [fld_packWord, fieldIn, bits]

theorem afadd (core : Fin 4096) (sd sa sb sc : BitVec 5) (width : BitVec 3) : Statement (.afadd core sd sa sb sc width) := by
  intro w h; cases h
  refine ⟨core, decodes (c := 5) (o := 1) ?_ ?_ ?_⟩
  · simp [fld_packWord, fieldIn, bits]
  · simp [fld_packWord, fieldIn, bits]
  · show some (Instr.afadd core (fld _ 50 5) (fld _ 45 5) (fld _ 40 5) (fld _ 35 5) (fld _ 32 3)) = _
    simp [fld_packWord, fieldIn, bits]

theorem aswap (core : Fin 4096) (sd sa sb sc : BitVec 5) (width : BitVec 3) : Statement (.aswap core sd sa sb sc width) := by
  intro w h; cases h
  refine ⟨core, decodes (c := 5) (o := 2) ?_ ?_ ?_⟩
  · simp [fld_packWord, fieldIn, bits]
  · simp [fld_packWord, fieldIn, bits]
  · show some (Instr.aswap core (fld _ 50 5) (fld _ 45 5) (fld _ 40 5) (fld _ 35 5) (fld _ 32 3)) = _
    simp [fld_packWord, fieldIn, bits]

theorem acas (core : Fin 4096) (sd sa sb sc : BitVec 5) (width : BitVec 3) : Statement (.acas core sd sa sb sc width) := by
  intro w h; cases h
  refine ⟨core, decodes (c := 5) (o := 3) ?_ ?_ ?_⟩
  · simp [fld_packWord, fieldIn, bits]
  · simp [fld_packWord, fieldIn, bits]
  · show some (Instr.acas core (fld _ 50 5) (fld _ 45 5) (fld _ 40 5) (fld _ 35 5) (fld _ 32 3)) = _
    simp [fld_packWord, fieldIn, bits]

theorem amax (core : Fin 4096) (sd sa sb sc : BitVec 5) (width : BitVec 3) : Statement (.amax core sd sa sb sc width) := by
  intro w h; cases h
  refine ⟨core, decodes (c := 5) (o := 4) ?_ ?_ ?_⟩
  · simp [fld_packWord, fieldIn, bits]
  · simp [fld_packWord, fieldIn, bits]
  · show some (Instr.amax core (fld _ 50 5) (fld _ 45 5) (fld _ 40 5) (fld _ 35 5) (fld _ 32 3)) = _
    simp [fld_packWord, fieldIn, bits]

theorem amin (core : Fin 4096) (sd sa sb sc : BitVec 5) (width : BitVec 3) : Statement (.amin core sd sa sb sc width) := by
  intro w h; cases h
  refine ⟨core, decodes (c := 5) (o := 5) ?_ ?_ ?_⟩
  · simp [fld_packWord, fieldIn, bits]
  · simp [fld_packWord, fieldIn, bits]
  · show some (Instr.amin core (fld _ 50 5) (fld _ 45 5) (fld _ 40 5) (fld _ 35 5) (fld _ 32 3)) = _
    simp [fld_packWord, fieldIn, bits]

theorem ewait (core : Fin 4096) (sa sb : BitVec 5) : Statement (.ewait core sa sb) := by
  intro w h; cases h
  refine ⟨core, decodes (c := 6) (o := 0) ?_ ?_ ?_⟩
  · simp [fld_packWord, fieldIn, bits]
  · simp [fld_packWord, fieldIn, bits]
  · show some (Instr.ewait core (fld _ 50 5) (fld _ 45 5)) = _
    simp [fld_packWord, fieldIn, bits]

theorem esignal (core : Fin 4096) (sa sb : BitVec 5) (mask : BitVec 8) : Statement (.esignal core sa sb mask) := by
  intro w h; cases h
  refine ⟨core, decodes (c := 6) (o := 1) ?_ ?_ ?_⟩
  · simp [fld_packWord, fieldIn, bits]
  · simp [fld_packWord, fieldIn, bits]
  · show some (Instr.esignal core (fld _ 50 5) (fld _ 45 5) (fld _ 37 8)) = _
    simp [fld_packWord, fieldIn, bits]

theorem lwait (core : Fin 4096) (ctr sb : BitVec 5) (imm : BitVec 32) : Statement (.lwait core ctr sb imm) := by
  intro w h; cases h
  refine ⟨core, decodes (c := 6) (o := 2) ?_ ?_ ?_⟩
  · simp [fld_packWord, fieldIn, bits]
  · simp [fld_packWord, fieldIn, bits]
  · show some (Instr.lwait core (fld _ 50 5) (fld _ 45 5) (fld _ 0 32)) = _
    simp [fld_packWord, fieldIn, bits]

theorem twait (core : Fin 4096) (sb : BitVec 5) : Statement (.twait core sb) := by
  intro w h; cases h
  refine ⟨core, decodes (c := 6) (o := 3) ?_ ?_ ?_⟩
  · simp [fld_packWord, fieldIn, bits]
  · simp [fld_packWord, fieldIn, bits]
  · show some (Instr.twait core (fld _ 45 5)) = _
    simp [fld_packWord, fieldIn, bits]

theorem drain (core : Fin 4096) (mask : BitVec 8) : Statement (.drain core mask) := by
  intro w h; cases h
  refine ⟨core, decodes (c := 7) (o := 0) ?_ ?_ ?_⟩
  · simp [fld_packWord, fieldIn, bits]
  · simp [fld_packWord, fieldIn, bits]
  · show some (Instr.drain core (fld _ 37 8)) = _
    simp [fld_packWord, fieldIn, bits]

theorem endp (core : Fin 4096) : Statement (.endp core) := by
  intro w h; cases h
  refine ⟨core, decodes (c := 7) (o := 1) ?_ ?_ ?_⟩
  · simp [fld_packWord, fieldIn, bits]
  · simp [fld_packWord, fieldIn, bits]
  · rfl

theorem waitRelease (core : Fin 4096) : Statement (.waitRelease core) := fun _ h => nomatch h

theorem esignalSend (core : Fin 4096) : Statement (.esignalSend core) := fun _ h => nomatch h

theorem insnRetire (core : Fin 4096) (unit : BitVec 3) : Statement (.insnRetire core unit) := fun _ h => nomatch h

theorem feTileReady (core : Fin 4096) : Statement (.feTileReady core) := fun _ h => nomatch h

theorem feSwap (core : Fin 4096) : Statement (.feSwap core) := fun _ h => nomatch h

theorem gridClockStop (core : Fin 4096) (k : BitVec 2) : Statement (.gridClockStop core k) := fun _ h => nomatch h

theorem beTileReady (core : Fin 4096) : Statement (.beTileReady core) := fun _ h => nomatch h

theorem deferralDispatch (core : Fin 4096) (be1Last be0Last : Bool) : Statement (.deferralDispatch core be1Last be0Last) := fun _ h => nomatch h

theorem dwEntryDone (core : Fin 4096) (be1 : Bool) : Statement (.dwEntryDone core be1) := fun _ h => nomatch h

theorem programStart (core : Fin 4096) : Statement (.programStart core) := fun _ h => nomatch h

theorem tpTimeout (core : Fin 4096) : Statement (.tpTimeout core) := fun _ h => nomatch h

theorem programFault (core : Fin 4096) : Statement (.programFault core) := fun _ h => nomatch h

theorem stagingGrant (cluster : BitVec 6) : Statement (.stagingGrant cluster) := fun _ h => nomatch h

theorem copy (q : Fin 4096) (seq : Word32) : Statement (.copy q seq) := fun _ h => nomatch h

theorem gather (q : Fin 4096) (seq : Word32) : Statement (.gather q seq) := fun _ h => nomatch h

theorem scatter (q : Fin 4096) (seq : Word32) : Statement (.scatter q seq) := fun _ h => nomatch h

theorem tileProgram (q : Fin 4096) (seq : Word32) : Statement (.tileProgram q seq) := fun _ h => nomatch h

theorem collective (q : Fin 4096) (seq : Word32) : Statement (.collective q seq) := fun _ h => nomatch h

theorem update (q : Fin 4096) (seq : Word32) : Statement (.update q seq) := fun _ h => nomatch h

theorem fence (q : Fin 4096) (seq : Word32) : Statement (.fence q seq) := fun _ h => nomatch h

theorem waitEvent (q : Fin 4096) (seq : Word32) : Statement (.waitEvent q seq) := fun _ h => nomatch h

theorem evtTimeout (q : Fin 4096) (seq : Word32) : Statement (.evtTimeout q seq) := fun _ h => nomatch h

theorem signalEvent (q : Fin 4096) (seq : Word32) : Statement (.signalEvent q seq) := fun _ h => nomatch h

theorem timeWait (q : Fin 4096) (seq : Word32) : Statement (.timeWait q seq) := fun _ h => nomatch h

theorem cfgTxnBegin (q : Fin 4096) (seq : Word32) : Statement (.cfgTxnBegin q seq) := fun _ h => nomatch h

theorem cfgTxnWrite (q : Fin 4096) (seq : Word32) : Statement (.cfgTxnWrite q seq) := fun _ h => nomatch h

theorem cfgTxnCommit (q : Fin 4096) (seq : Word32) : Statement (.cfgTxnCommit q seq) := fun _ h => nomatch h

theorem cfgTxnAbort (q : Fin 4096) (seq : Word32) : Statement (.cfgTxnAbort q seq) := fun _ h => nomatch h

theorem cfgCommitApply  : Statement (.cfgCommitApply) := fun _ h => nomatch h

theorem cfgQuiesceTimeout  : Statement (.cfgQuiesceTimeout) := fun _ h => nomatch h

theorem cfgIdleAbort  : Statement (.cfgIdleAbort) := fun _ h => nomatch h

theorem cfgPersist (ok : Bool) : Statement (.cfgPersist ok) := fun _ h => nomatch h

theorem energyMark (q : Fin 4096) (seq : Word32) : Statement (.energyMark q seq) := fun _ h => nomatch h

theorem tailWake (q : Fin 4096) : Statement (.tailWake q) := fun _ h => nomatch h

theorem tailPoll (q : Fin 4096) : Statement (.tailPoll q) := fun _ h => nomatch h

theorem commandFetch (q : Fin 4096) : Statement (.commandFetch q) := fun _ h => nomatch h

theorem commandCheck (q : Fin 4096) : Statement (.commandCheck q) := fun _ h => nomatch h

theorem commandStart (q : Fin 4096) : Statement (.commandStart q) := fun _ h => nomatch h

theorem commandFinish (q : Fin 4096) (seq : Word32) : Statement (.commandFinish q seq) := fun _ h => nomatch h

theorem resume (q : Fin 4096) : Statement (.resume q) := fun _ h => nomatch h

theorem cancel (q : Fin 4096) : Statement (.cancel q) := fun _ h => nomatch h

theorem queueEnable (q : Fin 4096) : Statement (.queueEnable q) := fun _ h => nomatch h

theorem queueDisable (q : Fin 4096) : Statement (.queueDisable q) := fun _ h => nomatch h

theorem eventAdvance (ctr : Half) (adds raises : List Word64) : Statement (.eventAdvance ctr adds raises) := fun _ h => nomatch h

theorem evtFaultClear (ctr : Half) : Statement (.evtFaultClear ctr) := fun _ h => nomatch h

theorem timeppsEdge (refGood : Bool) : Statement (.timeppsEdge refGood) := fun _ h => nomatch h

theorem timeMessageSend  : Statement (.timeMessageSend) := fun _ h => nomatch h

theorem timeSet (v : Word64) : Statement (.timeSet v) := fun _ h => nomatch h

theorem timeRefLost (pps : Bool) : Statement (.timeRefLost pps) := fun _ h => nomatch h

theorem timeRefReturn  : Statement (.timeRefReturn) := fun _ h => nomatch h

theorem holdoverExpiry  : Statement (.holdoverExpiry) := fun _ h => nomatch h

theorem timedActionFire (act : TimedAct) : Statement (.timedActionFire act) := fun _ h => nomatch h

theorem portEnable (port : Fin 24) (on : Bool) : Statement (.portEnable port on) := fun _ h => nomatch h

theorem retrain (port : Fin 24) : Statement (.retrain port) := fun _ h => nomatch h

theorem trainingDone (port : Fin 24) (rx : RxFound) (txBad : BitVec 10) (peer : Half) (peerPort : BitVec 5) (alloc : List Half) :
    Statement (.trainingDone port rx txBad peer peerPort alloc) := fun _ h => nomatch h

theorem trainingRestart (port : Fin 24) : Statement (.trainingRestart port) := fun _ h => nomatch h

theorem laneFail (port : Fin 24) (lane : BitVec 4) (lock : Bool) : Statement (.laneFail port lane lock) := fun _ h => nomatch h

theorem laneSwap (port : Fin 24) (lane : BitVec 4) : Statement (.laneSwap port lane) := fun _ h => nomatch h

theorem flitReceive (port : Fin 24) (lanes : List (BitVec 4)) (data : List (List Byte)) (first again : List (BitVec 4 × BitVec 10)) :
    Statement (.flitReceive port lanes data first again) := fun _ h => nomatch h

theorem flitReplay (port : Fin 24) : Statement (.flitReplay port) := fun _ h => nomatch h

theorem recoveryTimeout (port : Fin 24) : Statement (.recoveryTimeout port) := fun _ h => nomatch h

theorem readReq (n : Nat) : Statement (.readReq n) := fun _ h => nomatch h

theorem readResp (n : Nat) : Statement (.readResp n) := fun _ h => nomatch h

theorem write (n : Nat) : Statement (.write n) := fun _ h => nomatch h

theorem accWrite (n : Nat) : Statement (.accWrite n) := fun _ h => nomatch h

theorem resp (n : Nat) : Statement (.resp n) := fun _ h => nomatch h

theorem cts (n : Nat) : Statement (.cts n) := fun _ h => nomatch h

theorem sendData (n : Nat) : Statement (.sendData n) := fun _ h => nomatch h

theorem chunkData (n : Nat) : Statement (.chunkData n) := fun _ h => nomatch h

theorem withdraw (n : Nat) : Statement (.withdraw n) := fun _ h => nomatch h

theorem msg (n : Nat) : Statement (.msg n) := fun _ h => nomatch h

theorem time (n : Nat) : Statement (.time n) := fun _ h => nomatch h

theorem taint (n : Nat) : Statement (.taint n) := fun _ h => nomatch h

theorem mgmt (n : Nat) : Statement (.mgmt n) := fun _ h => nomatch h

theorem packetForward (n : Nat) : Statement (.packetForward n) := fun _ h => nomatch h

theorem broadcastForward (n : Nat) : Statement (.broadcastForward n) := fun _ h => nomatch h

theorem fabStall (port : Fin 24) : Statement (.fabStall port) := fun _ h => nomatch h

theorem fabTimeout (core : Fin 4096) : Statement (.fabTimeout core) := fun _ h => nomatch h

theorem joinEmit (done : JoinDone) : Statement (.joinEmit done) := fun _ h => nomatch h

theorem chunkCheck (join : Bool) (n : Nat) : Statement (.chunkCheck join n) := fun _ h => nomatch h

theorem confirmToken (n : Nat) : Statement (.confirmToken n) := fun _ h => nomatch h

theorem sealToken (n : Nat) : Statement (.sealToken n) := fun _ h => nomatch h

theorem tokenResend (q : Fin 4096) (seq : Word32) : Statement (.tokenResend q seq) := fun _ h => nomatch h

theorem collTimeout (q : Fin 4096) (seq : Word32) : Statement (.collTimeout q seq) := fun _ h => nomatch h

theorem collRefUnknown (q : Fin 4096) (seq : Word32) : Statement (.collRefUnknown q seq) := fun _ h => nomatch h

theorem cumUncorrectable (q : Fin 4096) (seq : Word32) (chunk : Word32) (slot : BitVec 13) : Statement (.cumUncorrectable q seq chunk slot) := fun _ h => nomatch h

theorem bankGrant (spad : Bool) (unit : BitVec 13) (core dma : List BankReq) : Statement (.bankGrant spad unit core dma) := fun _ h => nomatch h

theorem eccWriteback (spad : Bool) (unit : BitVec 13) (word : BitVec 20) : Statement (.eccWriteback spad unit word) := fun _ h => nomatch h

theorem sramPatrol (spad : Bool) (unit : BitVec 13) (line : BitVec 17) (found : PatrolFound) : Statement (.sramPatrol spad unit line found) := fun _ h => nomatch h

theorem cmemBankMigrate (cluster : BitVec 6) : Statement (.cmemBankMigrate cluster) := fun _ h => nomatch h

theorem cmemBankMigrated (cluster : BitVec 6) : Statement (.cmemBankMigrated cluster) := fun _ h => nomatch h

theorem spadRetireCopy (core : Fin 4224) : Statement (.spadRetireCopy core) := fun _ h => nomatch h

theorem clusterClear (cluster : BitVec 6) : Statement (.clusterClear cluster) := fun _ h => nomatch h

theorem clusterClearDone (cluster : BitVec 6) : Statement (.clusterClearDone cluster) := fun _ h => nomatch h

theorem clear (cluster : BitVec 6) : Statement (.clear cluster) := fun _ h => nomatch h

theorem stewardCmemAccess (cluster : BitVec 6) (off : BitVec 25) (a : StewardAcc) : Statement (.stewardCmemAccess cluster off a) := fun _ h => nomatch h

theorem stackRequest (word : BitVec 36) (r : StackReq) : Statement (.stackRequest word r) := fun _ h => nomatch h

theorem accumulatingWrite (word : BitVec 36) (f32 : Bool) (mask : BitVec 16) (data : BitVec 256) (mode : RoundMode) : Statement (.accumulatingWrite word f32 mask data mode) := fun _ h => nomatch h

theorem mergeWriteback (stack : BitVec 5) : Statement (.mergeWriteback stack) := fun _ h => nomatch h

theorem flush (stack : BitVec 5) : Statement (.flush stack) := fun _ h => nomatch h

theorem stackPatrol (stack : BitVec 5) (ch : BitVec 5) (upsets : List (BitVec 36 × BitVec 288)) : Statement (.stackPatrol stack ch upsets) := fun _ h => nomatch h

theorem channelSpareCopy (stack : BitVec 5) : Statement (.channelSpareCopy stack) := fun _ h => nomatch h

theorem channelSpared (stack : BitVec 5) : Statement (.channelSpared stack) := fun _ h => nomatch h

theorem channelInterfaceFail (stack : BitVec 5) (chan : BitVec 6) : Statement (.channelInterfaceFail stack chan) := fun _ h => nomatch h

theorem selfRefreshEntry (stack : BitVec 5) : Statement (.selfRefreshEntry stack) := fun _ h => nomatch h

theorem parkSlotFill (word : BitVec 36) (mask : BitVec 32) (data : BitVec 256) : Statement (.parkSlotFill word mask data) := fun _ h => nomatch h

theorem parkQueueGrant (stack : BitVec 5) : Statement (.parkQueueGrant stack) := fun _ h => nomatch h

theorem holdOverrun (stack : BitVec 5) : Statement (.holdOverrun stack) := fun _ h => nomatch h

theorem updBlockDispatch (stack : BitVec 5) : Statement (.updBlockDispatch stack) := fun _ h => nomatch h

theorem updJournalWrite (stack : BitVec 5) : Statement (.updJournalWrite stack) := fun _ h => nomatch h

theorem updCommit (stack : BitVec 5) : Statement (.updCommit stack) := fun _ h => nomatch h

theorem updInPlace (stack : BitVec 5) : Statement (.updInPlace stack) := fun _ h => nomatch h

theorem updRetire (stack : BitVec 5) : Statement (.updRetire stack) := fun _ h => nomatch h

theorem journalRecovery (stack : BitVec 5) : Statement (.journalRecovery stack) := fun _ h => nomatch h

theorem journalInit (stack : BitVec 5) : Statement (.journalInit stack) := fun _ h => nomatch h

theorem slowReplay (stack : BitVec 5) : Statement (.slowReplay stack) := fun _ h => nomatch h

theorem slowFetch (stack : BitVec 5) : Statement (.slowFetch stack) := fun _ h => nomatch h

theorem slowFetchDone (stack : BitVec 5) : Statement (.slowFetchDone stack) := fun _ h => nomatch h

theorem slowFetchFail (stack : BitVec 5) : Statement (.slowFetchFail stack) := fun _ h => nomatch h

theorem releaseFailed (stack : BitVec 5) : Statement (.releaseFailed stack) := fun _ h => nomatch h

theorem linkBeatReceive (link : Fin 8) (dir : Bool) (bundle : BitVec 2) (lane : BitVec 3) (word : Option (BitVec 4 × BitVec 512)) (flips : BitVec 528) : Statement (.linkBeatReceive link dir bundle lane word flips) := fun _ h => nomatch h

theorem linkReplay (link : Fin 8) (dir : Bool) (bundle : BitVec 2) (lane : BitVec 3) (flips : List (BitVec 528)) : Statement (.linkReplay link dir bundle lane flips) := fun _ h => nomatch h

theorem laneDiagnosis (link : Fin 8) (dir : Bool) (bundle : BitVec 2) (lane : BitVec 3) (wires : List (Fin 282)) : Statement (.laneDiagnosis link dir bundle lane wires) := fun _ h => nomatch h

theorem wireRemap (link : Fin 8) (dir : Bool) (bundle : BundleEvent) : Statement (.wireRemap link dir bundle) := fun _ h => nomatch h

theorem spareWireFail (link : Fin 8) (dir : Bool) (bundle : BitVec 2) (spare : BitVec 4) : Statement (.spareWireFail link dir bundle spare) := fun _ h => nomatch h

theorem dieFence (die : Fin 4) (cause : BitVec 3) (kept : Bool) : Statement (.dieFence die cause kept) := fun _ h => nomatch h

theorem dieReset (die : Fin 4) : Statement (.dieReset die) := fun _ h => nomatch h

theorem dieReturn (die : Fin 4) (wires : List BadWire) (cores : List (Fin 4224)) : Statement (.dieReturn die wires cores) := fun _ h => nomatch h

theorem droopDetect (cluster : Fin 64) (mv : BitVec 16) : Statement (.droopDetect cluster mv) := fun _ h => nomatch h

theorem stretchRecover (cluster : Fin 64) (cycles : BitVec 32) : Statement (.stretchRecover cluster cycles) := fun _ h => nomatch h

theorem heartIntervalEnd (xs : List Consumer) (temps : List Half) (welkinTemp : Half) : Statement (.heartIntervalEnd xs temps welkinTemp) := fun _ h => nomatch h

theorem guardRecover (cluster : Fin 64) : Statement (.guardRecover cluster) := fun _ h => nomatch h

theorem hardCapFastPath (a b c : BitVec 32) : Statement (.hardCapFastPath a b c) := fun _ h => nomatch h

theorem govCapWrite (d : RegData) : Statement (.govCapWrite d) := fun _ h => nomatch h

theorem graceExpiry (cluster : Fin 64) : Statement (.graceExpiry cluster) := fun _ h => nomatch h

theorem thermalTrip (die : Fin 5) (temp : Half) : Statement (.thermalTrip die temp) := fun _ h => nomatch h

theorem idleOff (cluster : Fin 64) : Statement (.idleOff cluster) := fun _ h => nomatch h

theorem clusterWake (cluster : Fin 64) : Statement (.clusterWake cluster) := fun _ h => nomatch h

theorem stepHoldExpiry  : Statement (.stepHoldExpiry) := fun _ h => nomatch h

theorem rampWindowEnd (w : BitVec 2) : Statement (.rampWindowEnd w) := fun _ h => nomatch h

theorem valveUpdate (tIn tOut : Option Half) : Statement (.valveUpdate tIn tOut) := fun _ h => nomatch h

theorem flowComputation (pulses : BitVec 32) : Statement (.flowComputation pulses) := fun _ h => nomatch h

theorem coolSensorFail (outlet : Bool) : Statement (.coolSensorFail outlet) := fun _ h => nomatch h

theorem cxlMemRead (hpa : Word64) (cacheable : Bool) : Statement (.cxlMemRead hpa cacheable) := fun _ h => nomatch h

theorem cxlMemWrite (hpa : Word64) (mask : BitVec 64) (data : BitVec 512) : Statement (.cxlMemWrite hpa mask data) := fun _ h => nomatch h

theorem bisnp (line : BitVec 35) (dirty : Option (BitVec 512)) : Statement (.bisnp line dirty) := fun _ h => nomatch h

theorem sfEviction (k : Half) (dirty : Option (BitVec 512)) : Statement (.sfEviction k dirty) := fun _ h => nomatch h

theorem hostAccessTimeout (who : HostUser) : Statement (.hostAccessTimeout who) := fun _ h => nomatch h

theorem bar0Access (host : Bool) (off : BitVec 28) (a : BarAccess) : Statement (.bar0Access host off a) := fun _ h => nomatch h

theorem rcRead (off : BitVec 28) : Statement (.rcRead off) := fun _ h => nomatch h

theorem ideFailure (mem : Bool) : Statement (.ideFailure mem) := fun _ h => nomatch h

theorem hostLinkDown  : Statement (.hostLinkDown) := fun _ h => nomatch h

theorem flr  : Statement (.flr) := fun _ h => nomatch h

theorem hostLinkUp (cxl : Bool) (speed : BitVec 3) (width : BitVec 2) (cacheEn : Bool) (setup : HostSetup) : Statement (.hostLinkUp cxl speed width cacheEn setup) := fun _ h => nomatch h

theorem msixUnmask (v : BitVec 11) : Statement (.msixUnmask v) := fun _ h => nomatch h

theorem boot (vs : List Verdict) (wires : List BadWire) (cores : List (Fin 4224)) (chans : List (Fin 1056)) : Statement (.boot vs wires cores chans) := fun _ h => nomatch h

theorem flashPairWrite (ok : Bool) : Statement (.flashPairWrite ok) := fun _ h => nomatch h

theorem go (v : Verdict) (bindOk : Bool) : Statement (.go v bindOk) := fun _ h => nomatch h

theorem getVersion  : Statement (.getVersion) := fun _ h => nomatch h

theorem getCapabilities  : Statement (.getCapabilities) := fun _ h => nomatch h

theorem negotiateAlgorithms  : Statement (.negotiateAlgorithms) := fun _ h => nomatch h

theorem getDigests (x : Session) : Statement (.getDigests x) := fun _ h => nomatch h

theorem getCertificate (x : Session) (slot : BitVec 4) : Statement (.getCertificate x slot) := fun _ h => nomatch h

theorem challenge (x : Session) (slot : BitVec 4) : Statement (.challenge x slot) := fun _ h => nomatch h

theorem getMeasurements (x : Session) (index : Byte) (sign : Bool) : Statement (.getMeasurements x index sign) := fun _ h => nomatch h

theorem keyExchange  : Statement (.keyExchange) := fun _ h => nomatch h

theorem finish (k : BitVec 2) : Statement (.finish k) := fun _ h => nomatch h

theorem endSession (k : BitVec 2) : Statement (.endSession k) := fun _ h => nomatch h

theorem companionSignature (x : Session) : Statement (.companionSignature x) := fun _ h => nomatch h

theorem fieldRecordRead (x : Session) (source : Byte) (off len : Word32) : Statement (.fieldRecordRead x source off len) := fun _ h => nomatch h

theorem ideKeyProgram (x : Session) (stream : IdeStream) : Statement (.ideKeyProgram x stream) := fun _ h => nomatch h

theorem present (v : Verdict) (bindOk : Bool) (jtag : Option ImgHdr) : Statement (.present v bindOk jtag) := fun _ h => nomatch h

theorem directWrite (off : BitVec 28) (mask value : Word64) : Statement (.directWrite off mask value) := fun _ h => nomatch h

theorem pendingApply (off : BitVec 28) : Statement (.pendingApply off) := fun _ h => nomatch h

theorem errRecordFree (queue : Fin 5) : Statement (.errRecordFree queue) := fun _ h => nomatch h

theorem welkinFatal (hw ok : Bool) : Statement (.welkinFatal hw ok) := fun _ h => nomatch h

theorem packageFatal  : Statement (.packageFatal) := fun _ h => nomatch h

theorem coreHwFault (core : Fin 4224) : Statement (.coreHwFault core) := fun _ h => nomatch h

theorem coreRetired (core : Fin 4224) : Statement (.coreRetired core) := fun _ h => nomatch h

theorem appCoreFault (core : Fin 68) (watchdog : Bool) : Statement (.appCoreFault core watchdog) := fun _ h => nomatch h

theorem appCoreResume (core : Fin 68) : Statement (.appCoreResume core) := fun _ h => nomatch h

theorem fieldWriteStart  : Statement (.fieldWriteStart) := fun _ h => nomatch h

theorem fieldWriteEnd (ok : Bool) : Statement (.fieldWriteEnd ok) := fun _ h => nomatch h

theorem writeNow  : Statement (.writeNow) := fun _ h => nomatch h

theorem histogramTick (temps : List Half) (snr : List Half) : Statement (.histogramTick temps snr) := fun _ h => nomatch h

theorem welkinReset (d : RegData) : Statement (.welkinReset d) := fun _ h => nomatch h

theorem cfgPeekData  : Statement (.cfgPeekData) := fun _ h => nomatch h

theorem stewardPartnerAccess (cluster : BitVec 6) (off : BitVec 25) (a : StewardAcc) : Statement (.stewardPartnerAccess cluster off a) := fun _ h => nomatch h

theorem pkgResetN (us : BitVec 32) (rises : Bool) : Statement (.pkgResetN us rises) := fun _ h => nomatch h

theorem perstN  : Statement (.perstN) := fun _ h => nomatch h

theorem vbusFault (mv : BitVec 16) : Statement (.vbusFault mv) := fun _ h => nomatch h

theorem sysclkLoss (welkin : Bool) : Statement (.sysclkLoss welkin) := fun _ h => nomatch h

theorem debugHalt (target : DebugTarget) (step : Bool) : Statement (.debugHalt target step) := fun _ h => nomatch h

theorem debugResume (target : DebugTarget) : Statement (.debugResume target) := fun _ h => nomatch h

theorem epochStale  : Statement (.epochStale) := fun _ h => nomatch h

theorem vbusRise  : Statement (.vbusRise) := fun _ h => nomatch h

theorem vbusRemoved  : Statement (.vbusRemoved) := fun _ h => nomatch h

end Sys2Proof.Laws.Encoding
end

