-- ==== Sys2Proof/Laws/Records.lean ====
section
/-! SUPPORT. The laws of the error records (R567 to R573) and of the records of commands in flight: what writing a record may change,
when the record is there, and that a command's end changes its record alone. -/
namespace Sys2Proof.Machine

/-! ## Actions due -/

/-- Putting an action on the list changes the list alone, and it is on it. -/
theorem addDue_frame (s : State) (d : Due) :
    addDue s d = { s with err := { s.err with due := (addDue s d).err.due } } ∧ d ∈ (addDue s d).err.due ∧
      ∀ x ∈ s.err.due, x ∈ (addDue s d).err.due := by
  unfold addDue
  split
  · rename_i h
    exact ⟨rfl, by simpa using h, fun _ h => h⟩
  · exact ⟨rfl, by simp, fun _ h => by simp [h]⟩

@[simp] theorem errQ_addDue (s : State) (d : Due) (n : Nat) : errQ (addDue s d) n = errQ s n := by
  rw [(addDue_frame s d).1]; rfl

@[simp] theorem rget_addDue (s : State) (d : Due) (r : Reg) : rget (addDue s d) r = rget s r := by
  rw [(addDue_frame s d).1]; rfl

/-! ## Records -/

/-- Two steps that change records, actions due and registers make one. -/
theorem errRegs_trans {s t u : State} (h1 : t = { s with err := t.err, regs := t.regs }) (h2 : u = { t with err := u.err, regs := u.regs }) :
    u = { s with err := u.err, regs := u.regs } := by
  rw [h2, h1]

theorem addDue_errRegs {s t : State} (d : Due) (h : t = { s with err := t.err, regs := t.regs }) :
    addDue t d = { s with err := (addDue t d).err, regs := (addDue t d).regs } :=
  errRegs_trans h (by unfold addDue; split <;> rfl)

/-- Putting a record into its queue changes the record queues, the actions due and the counters of records. -/
theorem putRecord_frame (s : State) (r : ErrRec) :
    putRecord s r = { s with err := (putRecord s r).err, regs := (putRecord s r).regs } := by
  have hb : ∀ (t : State) (x : Reg) n, rbump t x n = { t with err := (rbump t x n).err, regs := (rbump t x n).regs } := fun _ _ _ => rfl
  have hq : ∀ (t : State) n q, setErrQ t n q = { t with err := (setErrQ t n q).err, regs := (setErrQ t n q).regs } := fun _ _ _ => rfl
  unfold putRecord
  dsimp only
  split
  · have h0 := errRegs_trans (hb s (.errOverflow r.source) 1) (hq _ r.source { errQ s r.source with escalated := true })
    split
    · exact addDue_errRegs _ h0
    · have h1 := addDue_errRegs (.dieFatal r.source causeReset) h0
      split
      · exact addDue_errRegs _ (errRegs_trans h1 (errRegs_trans (hb _ _ _) (hq _ _ _)))
      · split
        · exact addDue_errRegs _ (errRegs_trans (errRegs_trans h1 (errRegs_trans (hq _ _ _) (hb _ (.errRecords 4) 1))) (hb _ (.errRaised 4) 1))
        · exact errRegs_trans h1 (errRegs_trans (hq _ _ _) (hb _ _ _))
  · have h0 := errRegs_trans (hq s r.source { errQ s r.source with recs := (errQ s r.source).recs ++ [r], lastStatus := some r.status }) (hb _ (.errRecords r.source) 1)
    split
    · exact errRegs_trans h0 (hb _ _ _)
    · exact h0

/-- A queue with room takes the record as its last (R569). -/
theorem putRecord_room (s : State) (r : ErrRec) (h : (errQ s r.source).recs.length < 32) :
    (errQ (putRecord s r) r.source).recs = (errQ s r.source).recs ++ [r] ∧ (∀ n, n ≠ r.source → errQ (putRecord s r) n = errQ s n) ∧
      RegsBut s (putRecord s r) [.errRecords r.source, .errRaised r.source] ∧ (putRecord s r).err.due = s.err.due := by
  have h' : ¬ (errQ s r.source).recs.length ≥ 32 := by omega
  have hr : RegsBut s (putRecord s r) [.errRecords r.source, .errRaised r.source] := by
    intro x hx
    have h1 := hx (.errRecords r.source) (by simp)
    have h2 := hx (.errRaised r.source) (by simp)
    unfold putRecord
    simp only [h', if_false]
    split <;> simp [rbump, rget_rset_other, h1, h2]
  refine ⟨?_, fun n hn => ?_, hr, ?_⟩
  · unfold putRecord; simp only [h', if_false]; split <;> simp
  · unfold putRecord; simp only [h', if_false]; split <;> simp [errQ_setErrQ_other _ _ _ _ hn]
  · unfold putRecord; simp only [h', if_false]; split <;> rfl

/-- Marking an element for retirement changes marks of cores, clusters and stacks, the actions due, and what a follow-on record
changes (R571, R268). -/
theorem markRetire_frame (s : State) (w : Word32) :
    markRetire s w = { s with cores := (markRetire s w).cores, clusters := (markRetire s w).clusters, stks := (markRetire s w).stks,
                              err := (markRetire s w).err, regs := (markRetire s w).regs } := by
  have hp : ∀ (k : Stack) n (r : ErrRec), putRecord (setStack s n k) r =
      { s with stks := (setStack s n k).stks, err := (putRecord (setStack s n k) r).err, regs := (putRecord (setStack s n k) r).regs } := by
    intro k n r
    rw [putRecord_frame]
    rfl
  unfold markRetire
  dsimp only
  split
  · rfl
  · split <;> rfl
  · split
    · split
      · unfold followRecord; rw [hp]
      · rfl
    · rfl
  · unfold addDue; split <;> rfl

/-- The action of a raised record changes no more than that (R571). -/
theorem raisedAction_frame (s : State) (r : ErrRec) :
    raisedAction s r = { s with cores := (raisedAction s r).cores, clusters := (raisedAction s r).clusters, stks := (raisedAction s r).stks,
                                err := (raisedAction s r).err, regs := (raisedAction s r).regs } := by
  have ha : ∀ (t : State) (d : Due), addDue t d = { t with cores := (addDue t d).cores, clusters := (addDue t d).clusters, stks := (addDue t d).stks, err := (addDue t d).err, regs := (addDue t d).regs } := fun t d => by
    unfold addDue; split <;> rfl
  unfold raisedAction
  split
  · rfl
  · split
    · split
      · exact markRetire_frame _ _
      · rfl
    · split <;> exact ha _ _
    · exact ha _ _
    · rfl

/-- Writing a record changes no memory word, no queue and no unit but these. -/
theorem raiseRecord_frame (s : State) (r : ErrRec) :
    raiseRecord s r = { s with cores := (raiseRecord s r).cores, clusters := (raiseRecord s r).clusters, stks := (raiseRecord s r).stks,
                               err := (raiseRecord s r).err, regs := (raiseRecord s r).regs } := by
  unfold raiseRecord
  dsimp only
  split
  · rw [putRecord_frame]
  · rw [raisedAction_frame, putRecord_frame]

/-- A record of a resource that its queue does not hold yet is put there as it is, and nothing is raised (R571). -/
theorem raiseRecord_fresh (s : State) (r : ErrRec) (h : ∀ x ∈ (errQ s r.source).recs, x.resource ≠ r.resource) :
    raiseRecord s r = putRecord s { r with cls := min 5 r.cls, raised := false, time := s.time.now, timeFlags := timeFlags s } := by
  have hh : ((errQ s r.source).recs.any fun x => decide (x.resource = r.resource)) = false := by
    simpa [List.any_eq_false] using h
  unfold raiseRecord
  simp [hh, raisedAction]

theorem statusClass_le (st : Status) : statusClass st ≤ 5 := by cases st <;> decide

/-- A status that is recorded leaves its record where there is room and no record of the resource (R569). -/
theorem report_recorded (s : State) (st : Status) (res : Word32) (a d : Word64) (f : Bool) (h : statusRecorded st = true) :
    Recorded s (report s st res a d f) st res d := by
  intro hl hn
  unfold report
  rw [if_pos h, raiseRecord_fresh s _ hn]
  refine ⟨_, (putRecord_room s _ hl).1, rfl, ?_, rfl, rfl, rfl⟩
  exact Nat.min_eq_right (statusClass_le st)

theorem report_frame (s : State) (st : Status) (res : Word32) (a d : Word64) (f : Bool) :
    report s st res a d f = { s with cores := (report s st res a d f).cores, clusters := (report s st res a d f).clusters,
                                     stks := (report s st res a d f).stks, err := (report s st res a d f).err,
                                     regs := (report s st res a d f).regs } := by
  unfold report
  split
  · exact raiseRecord_frame _ _
  · rfl

/-- Putting a record into its queue changes the record counters of its die and of the welkin die alone (R572). -/
theorem putRecord_regs (s : State) (r : ErrRec) : RegsBut s (putRecord s r) (recordRegs r.source) := by
  intro x hx
  have h1 := hx (.errRecords r.source) (by simp [recordRegs])
  have h2 := hx (.errRaised r.source) (by simp [recordRegs])
  have h3 := hx (.errOverflow r.source) (by simp [recordRegs])
  have h4 := hx (.errRecords 4) (by simp [recordRegs])
  have h5 := hx (.errOverflow 4) (by simp [recordRegs])
  have h6 := hx (.errRaised 4) (by simp [recordRegs])
  unfold putRecord
  dsimp only
  split
  · split
    · simp [rbump, rget_rset_other, h3]
    · split
      · simp [rbump, rget_rset_other, h3, h5]
      · split <;> simp [rbump, rget_rset_other, h3, h4, h6]
  · split <;> simp [rbump, rget_rset_other, h1, h2]

theorem raisedAction_regs (s : State) (r : ErrRec) (h : r.source = resourceDie r.resource) :
    RegsBut s (raisedAction s r) (recordRegs r.source) := by
  intro x hx
  have hd : ∀ d, rget (addDue s d) x = rget s x := fun d => rget_addDue s d x
  unfold raisedAction
  split
  · rfl
  · split
    · split
      · unfold markRetire
        dsimp only
        split
        · rfl
        · split <;> rfl
        · split
          · split
            · unfold followRecord
              exact (putRecord_regs _ _) x (by rw [h] at hx; exact hx)
            · rfl
          · rfl
        · exact hd _
      · rfl
    · split <;> exact hd _
    · exact hd _
    · rfl

theorem report_regs (s : State) (st : Status) (res : Word32) (a d : Word64) (f : Bool) :
    RegsBut s (report s st res a d f) (recordRegs (resourceDie res)) := by
  intro x hx
  unfold report
  split
  · unfold raiseRecord
    dsimp only
    split
    · exact putRecord_regs _ _ x hx
    · rw [raisedAction_regs _ _ rfl x hx]
      exact putRecord_regs _ _ x hx
  · rfl

/-! ## Records of commands in flight -/

/-- Changing the record of a command changes it alone (R324). -/
theorem modFlight_is (s : State) (q : Nat) (seq : Word32) (f : Flight → Flight) :
    FlightIs s (modFlight s q seq f) q seq f ∧ modFlight s q seq f = { s with queues := (modFlight s q seq f).queues } := by
  refine ⟨⟨?_, fun k hk => ?_⟩, rfl⟩
  · simp [modFlight]
  · simp [modFlight, queueOf_setQueue_other _ _ _ _ hk]

/-- Taking requests back changes the park queues alone (R281). -/
theorem parkForget_frame (s : State) (t : Nat × Nat → Bool) : parkForget s t = { s with stks := (parkForget s t).stks } := by
  have hf : ∀ (f : State → Nat → Stack) (l : List Nat) (u : State),
      (l.foldl (fun s n => setStack s n (f s n)) u) = { u with stks := (l.foldl (fun s n => setStack s n (f s n)) u).stks } := by
    intro f l
    induction l with
    | nil => exact fun _ => rfl
    | cons n t ih => intro u; rw [List.foldl_cons, ih]; rfl
  unfold parkForget
  dsimp only
  split
  · exact hf (fun s n => { stackOf s n with parkQ := (stackOf s n).parkQ.filter fun r => !(match r.origin with | some o => t o | none => false) }) _ _
  · rfl

theorem ParkGone.rfl' (s : State) : ParkGone s s := fun _ => ⟨rfl, List.Sublist.refl _⟩

theorem ParkGone.trans {s t u : State} (h : ParkGone s t) (k : ParkGone t u) : ParkGone s u := fun n =>
  ⟨by rw [(k n).1, (h n).1], (k n).2.trans (h n).2⟩

/-- What is taken back is gone from the park queues, and nothing else of a stack changes (R281). -/
theorem parkForget_gone (s : State) (t : Nat × Nat → Bool) : ParkGone s (parkForget s t) := by
  have one : ∀ (g : ParkReq → Bool) (u : State) n, ParkGone u (setStack u n { stackOf u n with parkQ := (stackOf u n).parkQ.filter g }) := by
    intro g u n m
    by_cases h : m = n
    · subst h; simp [List.filter_sublist]
    · simp [stackOf_setStack_other _ _ _ _ h]
  have all : ∀ (g : ParkReq → Bool) (l : List Nat) (u : State),
      ParkGone u (l.foldl (fun s n => setStack s n { stackOf s n with parkQ := (stackOf s n).parkQ.filter g }) u) := by
    intro g l
    induction l with
    | nil => exact fun u => .rfl' u
    | cons n l ih => exact fun u => (one g u n).trans (ih _)
  unfold parkForget
  dsimp only
  split
  · exact all _ _ _
  · exact .rfl' s

theorem queueOf_parkForget (s : State) (t : Nat × Nat → Bool) (q : Nat) : queueOf (parkForget s t) q = queueOf s q := by
  rw [parkForget_frame]; rfl

theorem coreOf_parkForget (s : State) (t : Nat × Nat → Bool) (p : Nat) : coreOf (parkForget s t) p = coreOf s p := by
  rw [parkForget_frame]; rfl

/-- A command that ends with a status: its record says so, and beside it only its requests in the park queues go (R281). -/
theorem flightDone_is (s : State) (q : Nat) (seq : Word32) (st : Status) :
    FlightEnds s (flightDone s q seq st) q seq (ended st) ∧
      flightDone s q seq st = { s with queues := (flightDone s q seq st).queues, stks := (flightDone s q seq st).stks } := by
  have h := modFlight_is (parkForget s fun o => decide (o = (cmdOrigin + q, seq.toNat))) q seq (ended st)
  refine ⟨⟨⟨?_, fun k hk => ?_⟩, fun n => parkForget_gone s _ n⟩, ?_⟩
  · have := h.1.1; rwa [queueOf_parkForget] at this
  · have := h.1.2 k hk; rwa [queueOf_parkForget] at this
  · have hu : ∀ (k : Table Stack) (l : Table Queue) (u : State), u = { { s with stks := k } with queues := l } →
        u = { s with queues := u.queues, stks := u.stks } := by
      rintro k l u rfl
      rfl
    exact hu _ _ _ (h.2.trans (congrArg (fun t : State => { t with queues := (flightDone s q seq st).queues }) (parkForget_frame s _)))

/-- The end of a program (R219, R221 steps 6 and 7): its core is idle with the status and the PC, and beside it only the record of its
command changes, and its requests in the park queues go (R281). -/
theorem endReport_frame (s : State) (core p : Nat) (st : Status) (pc : BitVec 12) :
    (let t := endReport s core p st pc
     t = { s with cores := t.cores, queues := t.queues, stks := t.stks } ∧ (coreOf t p).phase = .idle ∧ (coreOf t p).lastStatus = st ∧ (coreOf t p).pc = pc ∧
       (coreOf t p).spad = (coreOf s p).spad ∧ (∀ q, q ≠ p → coreOf t q = coreOf s q) ∧ ParkGone s t) := by
  have hu : ∀ (k : Table Stack) (c : Table Core) (l : Table Queue) (u : State), u = { { s with stks := k } with cores := c, queues := l } →
      u = { s with cores := u.cores, queues := u.queues, stks := u.stks } := by
    rintro k c l u rfl
    rfl
  have hc : ∀ x, coreOf (parkForget s fun o => decide (o.1 = core)) x = coreOf s x := coreOf_parkForget s _
  refine ⟨hu _ _ _ _ (congrArg (fun t : State => { t with cores := (endReport s core p st pc).cores, queues := (endReport s core p st pc).queues })
    (parkForget_frame s fun o => decide (o.1 = core))), ?_, ?_, ?_, ?_, fun q hq => ?_, fun n => parkForget_gone s _ n⟩
  · simp [endReport, modFlight]
  · simp [endReport, modFlight]
  · simp [endReport, modFlight]
  · simp [endReport, modFlight]
  · simp only [endReport, modFlight, coreOf_setQueue]
    exact (coreOf_setCore_other _ _ _ _ hq).trans (hc q)

end Sys2Proof.Machine
end

