-- ==== Sys2Proof/WellFormed.lean ====
section
/-! DEFINITION. When the operands of a command are ones the spec lets it have: lane, unit, word and slot numbers in their
ranges, list lengths, codes that a table defines. The operand types already bound the rest. -/
namespace Sys2Proof

/-- Whether a lane of a fabric port exists: eight lanes and two spares, 0 to 9 (R349). -/
def laneOk (l : BitVec 4) : Bool := decide (l.toNat < 10)

/-- Whether an on-chip memory unit exists: a scratchpad of the 4,224 physical cores, or a cluster (R24, R230). -/
def unitOk (spad : Bool) (unit : BitVec 13) : Bool := decide (unit.toNat < if spad then 4224 else 64)

/-- The 64-byte lines of an on-chip memory (R231). -/
def linesOf (spad : Bool) : Nat := if spad then 8192 else 131072

/-- Whether a request is of the core class (R232). -/
def coreUnit (r : BankReq) : Bool := match r.unit with | .dma _ | .patrol => false | _ => true

/-- Which requesters ask for banks of a scratchpad and of a cluster memory (R232, R234). -/
def bankUnitOk (spad : Bool) : BankUnit → Bool
  | .sequencer | .atomicPort | .fe | .be0 | .be1 | .vector | .loadUnit | .fabric => spad
  | .core _ | .steward => !spad
  | .dma _ | .patrol => true

/-- A codeword lies on one of ten lanes and has 544 symbols (R351, R354). -/
def codewordOk (x : BitVec 4 × BitVec 10) : Bool := laneOk x.1 && decide (x.2.toNat ≤ 544)

/-- A stack request: an atomic's bytes lie in the word at their natural alignment (R210, R271). -/
def stackReqOk : StackReq → Bool
  | .read => true
  | .write _ _ => true
  | .atomic _ width off _ _ => decide (off.toNat % (2 ^ width.toNat) = 0)

/-- The operands of a command are ones the spec lets it have. -/
def Instr.wf : Instr → Bool
  | .trainingDone _ _ _ _ peerPort alloc =>
      decide (peerPort.toNat < 24) && decide (alloc.length ≤ 8)
  | .laneFail _ lane _ => laneOk lane
  | .laneSwap _ lane => laneOk lane
  | .flitReceive _ lanes data first again => lanes.all laneOk && decide (lanes.length = data.length) && (first ++ again).all codewordOk
  | .bankGrant spad unit core dma =>
      unitOk spad unit && ((core ++ dma).all fun r => decide (r.line < linesOf spad) && bankUnitOk spad r.unit)
        && core.all coreUnit && !dma.any coreUnit
  | .joinEmit done => decide (done.corrected.toNat ≤ 2048)
  | .eccWriteback spad unit word => unitOk spad unit && decide (word.toNat < 8 * linesOf spad)
  | .sramPatrol spad unit line found =>
      unitOk spad unit && decide (line.toNat < linesOf spad) && decide (found.bad.length ≤ 8)
        && found.upsets.all fun w => decide (w.toNat < 8 * linesOf spad)
  | .stackRequest _ r => stackReqOk r
  | .accumulatingWrite _ f32 mask _ _ => !f32 || decide (mask.toNat < 256)
  | .channelInterfaceFail _ chan => decide (chan.toNat < 33)
  | .dieFence _ cause _ => decide (1 ≤ cause.toNat ∧ cause.toNat ≤ 5)
  | .hostLinkUp _ speed width _ setup => decide (1 ≤ speed.toNat) && decide (speed.toNat ≤ 4) && decide (1 ≤ width.toNat) && decide (setup.decoders.length ≤ 4)
  | .boot vs _ _ _ => decide (vs.length ≤ 8)
  | .getCertificate _ slot => decide (slot.toNat < 8)
  | .challenge _ slot => decide (slot.toNat < 8)
  | _ => true

end Sys2Proof
end

