-- ==== Sys2Proof/Tests/Slice0.lean ====
section
/-! SUPPORT. Tests: commands run on small states, with results worked out by hand from the rules that the docstrings name; words of
the tile instructions; ill-formed operands; and for each statement a state that meets its hypotheses. -/

set_option Elab.async false

namespace Sys2Proof.Tests
open Sys2Proof Sys2Proof.Machine

/-- Whether a command answers a next state of which f holds. -/
def after (c : Instr) (s : State) (f : State → Bool) : Bool := match exec c s with | .next t => f t | _ => false

/-- Whether a command answers exactly t. -/
def gives (c : Instr) (s t : State) : Bool := after c s fun u => decide (u = t)

/-- A running program of 16 words at its third word, with the scalar registers 1 to 3 given. -/
def prog (a b c : Word64) : Core := { phase := .running, codeLen := 16, pc := 2, sregs := [(1, a), (2, b), (3, c)] }

/-- A package in RUNNING, with clusters 0 and 1, stack 0 and a program on core 0. -/
def run (c : Core) : State :=
  { cores := [(0, c)], clusters := [(0, { clearing := false }), (1, { clearing := false })], stks := [(0, { ready := true })]
    pkg := { stage := 5 }, localNs := 1000000000000 }

/-- The instruction i at the PC of core 0. -/
def place (i : Instr) (s : State) : State := setCore s 0 { coreOf s 0 with code := [(2, (encodeInsn i).getD 0)] }
/-- Whether an instruction, placed at the PC of core 0, answers a next state of which f holds. -/
def runs (i : Instr) (s : State) (f : State → Bool) : Bool := after i (place i s) f

def c1 : Core := prog 0xFFFFFFFFFFFFFFFE 3 64
def s1 : State := run c1

/-- Registers 1, 2 and 3 of core 0 are −2, 3 and 64; R196 gives each result. -/
theorem test_scalar_results :
    runs (.add 0 4 1 2) s1 (fun t => sreg (coreOf t 0) 4 = 1 && (coreOf t 0).pc = 3) = true ∧
    runs (.sub 0 4 2 1) s1 (fun t => sreg (coreOf t 0) 4 = 5) = true ∧
    runs (.mul 0 4 1 2) s1 (fun t => sreg (coreOf t 0) 4 = 0xFFFFFFFFFFFFFFFA) = true ∧
    runs (.shl 0 4 2 3) s1 (fun t => sreg (coreOf t 0) 4 = 3) = true ∧
    runs (.sra 0 4 1 2) s1 (fun t => sreg (coreOf t 0) 4 = 0xFFFFFFFFFFFFFFFF) = true ∧
    runs (.min 0 4 1 2) s1 (fun t => sreg (coreOf t 0) 4 = 0xFFFFFFFFFFFFFFFE) = true ∧
    runs (.lui 0 4 2 0xABCDEF) s1 (fun t => sreg (coreOf t 0) 4 = 0xABCDEF0000000003) = true := by decide +kernel

theorem test_scalar_s0 : runs (.add 0 0 1 2) s1 (fun t => sreg (coreOf t 0) 0 = 0 && (coreOf t 0).pc = 3) = true := by decide +kernel


/-- R196, R225: NOP and CLRNUM. -/
theorem test_nop_clrnum :
    runs (.nop 0) s1 (fun t => t = setCore (place (.nop 0) s1) 0 (issued (coreOf (place (.nop 0) s1) 0))) = true ∧
    runs (.clrnum 0) (run { c1 with numProg := [(1, {})], numCmd := [(1, {})] }) (fun t => (coreOf t 0).numProg = [] && (coreOf t 0).numCmd.length = 1) = true := by
  decide +kernel

/-- R196, R199: BEQ taken by −2 from PC 2 reaches 0; by −3 it leaves the code; not taken it goes on. Core 0 holds −2, 3 and 64. -/
theorem test_branches :
    runs (.beq 0 1 1 (-2)) s1 (fun t => (coreOf t 0).pc = 0) = true ∧ runs (.bne 0 1 1 5) s1 (fun t => (coreOf t 0).pc = 3) = true ∧
    runs (.blt 0 1 2 13) s1 (fun t => (coreOf t 0).pc = 15) = true ∧ runs (.bge 0 1 2 13) s1 (fun t => (coreOf t 0).pc = 3) = true ∧
    runs (.jmp 0 (-2)) s1 (fun t => (coreOf t 0).pc = 0) = true ∧
    runs (.jmp 0 14) s1 (fun t => (coreOf t 0).lastStatus = .tpPcRange && (coreOf t 0).pc = 2) = true ∧
    runs (.jmp 0 (-3)) s1 (fun t => (coreOf t 0).lastStatus = .tpPcRange) = true := by decide +kernel

/-- R199: the last word of a program of 3 words is no END. -/
theorem test_pc_range :
    runs (.add 0 4 1 2) (run { c1 with codeLen := 3 }) (fun t => (coreOf t 0).lastStatus = .tpPcRange && sreg (coreOf t 0) 4 = 1 && (coreOf t 0).phase = .idle) = true := by
  decide +kernel

/-- R196, R198, R244: the last word of the scratchpad is stored and read back, with its mark cleared; the byte beyond faults. -/
theorem test_scratchpad_words :
    runs (.sts 0 3 2 0x7FFB8) (run { c1 with spadPoison := [65534, 65535] })
      (fun t => leNat (mread (coreOf t 0).spad 0x7FFF8 8) = 3 && (coreOf t 0).spadPoison = [65534]) = true ∧
    runs (.lds 0 4 3 0) (run { c1 with spad := [(64, 5), (71, 1)] }) (fun t => sreg (coreOf t 0) 4 = 0x0100000000000005) = true ∧
    runs (.lds 0 4 3 0x7FFC0) s1 (fun t => (coreOf t 0).lastStatus = .scalarAddrBad) = true ∧
    runs (.sts 0 2 2 0) s1 (fun t => (coreOf t 0).lastStatus = .scalarAddrBad) = true := by decide +kernel

/-- R200: slot 3 from address 128 and back; DBASE puts a word at byte 16, DPART at byte 0x74. -/
theorem test_slots :
    runs (.dset 0 3 3 64) (run { c1 with spad := [(128, 7), (255, 9)] }) (fun t => slotRaw (coreOf t 0) 3 = BitVec.ofNat 1024 (7 + 9 * 2 ^ 1016)) = true ∧
    runs (.dget 0 3 3 64) (run { c1 with slots := [(3, 5)], spadPoison := [15, 16, 31, 32] })
      (fun t => (coreOf t 0).spad = [(128, 5)] && (coreOf t 0).spadPoison = [15, 32]) = true ∧
    runs (.dbase 0 3 2 2) s1 (fun t => slotRaw (coreOf t 0) 3 = BitVec.ofNat 1024 (3 * 2 ^ 128)) = true ∧
    runs (.dbase 0 3 2 3) s1 (fun t => (coreOf t 0).lastStatus = .illegalInsn) = true ∧
    runs (.dpart 0 3 2) s1 (fun t => slotRaw (coreOf t 0) 3 = BitVec.ofNat 1024 (3 * 2 ^ 928)) = true := by decide +kernel

/-- R196, R15: a register of the core's page, a reserved offset, and one beyond 0x3F8. -/
theorem test_rdreg :
    runs (.rdreg 0 4 0x3F0) s1 (fun t => (coreOf t 0).pc = 3) = true ∧ runs (.rdreg 0 4 0x400) s1 (fun t => (coreOf t 0).lastStatus = .scalarAddrBad) = true ∧
    runs (.rdreg 0 4 4) s1 (fun t => (coreOf t 0).lastStatus = .scalarAddrBad) = true ∧
    runs (.rdtime 0 4) { s1 with time := { s1.time with now := 77 } } (fun t => sreg (coreOf t 0) 4 = 77) = true := by decide +kernel


/-! ## Units -/

/-- A descriptor of n elements of a format from a base, in a space (R153). -/
def vec (fmt space base n : Nat) : BitVec 1024 :=
  BitVec.ofNat 1024 (base + (fmt + space * 2 ^ 8 + 2 ^ 13 + 0xFFF * 2 ^ 52) * 2 ^ 192 + n * 2 ^ 256 + 2 ^ 448)

/-- A descriptor of a row-major matrix of G16: m rows of n (R153). -/
def mat (base m n : Nat) : BitVec 1024 :=
  BitVec.ofNat 1024 (base + (2 + 2 * 2 ^ 13 + 0xFFF * 2 ^ 52) * 2 ^ 192 + n * 2 ^ 256 + m * 2 ^ 288 + 2 ^ 448 + n * 2 ^ 512)

/-- F32 1.0 and 2.0 at 0, 3.0 and 0.5 at 64; slots 1 to 3 name 0, 64 and 128. -/
def c2 : Core := { prog 0 0 0 with
  slots := [(1, vec 1 0 0 2), (2, vec 1 0 64 2), (3, vec 1 0 128 2), (4, vec 1 2 32768 2)]
  spad := mwrite (mwrite [] 0 [0, 0, 0x80, 0x3F, 0, 0, 0, 0x40]) 64 [0, 0, 0x40, 0x40, 0, 0, 0, 0x3F] }
def s2 : State := run c2
def qj (i : Instr) (slots : List (BitVec 5)) (num : Word64) (args : List Word64) : Job := queuedJob { c2 with code := [] } i slots num args

/-- R188: what an instruction leaves behind at its issue; R190: a ninth vector instruction waits. -/
theorem test_issue :
    runs (.dload 0 4 1 0) s2 (fun t => (coreOf t 0).lq = [qj (.dload 0 4 1 0) [4, 1] 0 []] && (coreOf t 0).issued = 1) = true ∧
    runs (.dstore 0 1 4 0) s2 (fun t => (coreOf t 0).lq.length = 1) = true ∧
    runs (.vadd 0 3 1 2 0 0 1) s2 (fun t => (coreOf t 0).vq = [qj (.vadd 0 3 1 2 0 0 1) [3, 1, 2] 0 [0]] && (coreOf t 0).pc = 3) = true ∧
    runs (.vscl 0 3 1 0 2 0 1) (run { c2 with sregs := [(2, 9)] }) (fun t => ((coreOf t 0).vq.map (·.args)) = [[9]]) = true ∧
    runs (.vadd 0 3 1 2 0 0 3) s2 (fun t => (coreOf t 0).lastStatus = .formatBad) = true ∧
    runs (.vadd 0 3 1 2 0 0 1) (run { c2 with vq := List.replicate 9 (qj (.nop 0) [] 0 []) }) (fun t => (coreOf t 0).vq.length = 9) = true := by
  decide +kernel

/-- R203 to R206: 1.0 + 3.0 and 2.0 + 0.5, by hand. -/
theorem test_vadd :
    after (.insnRetire 0 3) (run { c2 with vq := [qj (.vadd 0 3 1 2 0 0 1) [3, 1, 2] 0 [0]] })
      (fun t => mread (coreOf t 0).spad 128 8 = [0, 0, 0x80, 0x40, 0, 0, 0x20, 0x40] && (coreOf t 0).vq = [] && tget (fun _ => 0) (coreOf t 0).rets 2 = 1) = true := by
  decide +kernel

/-- R182: two elements of device memory are loaded. -/
theorem test_dload :
    after (.insnRetire 0 4) { run { c2 with lq := [qj (.dload 0 4 1 0) [4, 1] 0 []] } with dev := mwrite [] 32768 [1, 2, 3, 4, 5, 6, 7, 8] }
      (fun t => mread (coreOf t 0).spad 0 8 = [1, 2, 3, 4, 5, 6, 7, 8] && (coreOf t 0).lq = []) = true := by decide +kernel

/-- R183: a staged movement takes the free staging area, and a second one gets it after the first. -/
theorem test_staging :
    after (.stagingGrant 0) { s2 with clusters := [(0, { clearing := false, stageWait := [.core 0 1, .core 1 1] })] }
      (fun t => (clusterOf t 0).stageHold = some (.core 0 1) && (clusterOf t 0).stageWait = [.core 1 1]) = true ∧
    after (.stagingGrant 0) { s2 with clusters := [(0, { clearing := false, stageHold := some (.core 0 1), stageWait := [.core 1 1] })] }
      (fun t => (clusterOf t 0).stageHold = some (.core 0 1)) = true := by decide +kernel

/-- The address word of an offset in the scratchpad of the own core (R210). -/
def at0 (off : Nat) : Word64 := BitVec.ofNat 64 (0xFFF * 2 ^ 49 + off)

/-- R210: an aligned fetch-and-add on the scratchpad; SD gets the old value and the word the sum. -/
theorem test_atomics :
    runs (.aadd 0 4 1 2 0 1) (run { prog (at0 128) 7 0 with spad := [] }) (fun t => (coreOf t 0).atq.length = 1 && (coreOf t 0).busy = [4]) = true ∧
    runs (.aadd 0 4 1 2 0 1) (run (prog (at0 129) 7 0)) (fun t => (coreOf t 0).lastStatus = .atomicAddrBad) = true ∧
    after (.insnRetire 0 7) (run { prog 0 0 0 with spad := [(128, 5)], busy := [4], atq := [qj (.aadd 0 4 1 2 0 1) [] 0 [at0 128, 7, 0]] })
      (fun t => sreg (coreOf t 0) 4 = 5 && mget (coreOf t 0).spad 128 = 12 && (coreOf t 0).busy = [] && (coreOf t 0).atq = []) = true ∧
    after (.insnRetire 0 7) (run { prog 0 0 0 with spad := [(128, 5)], atq := [qj (.acas 0 4 1 2 3 1) [] 0 [at0 128, 6, 9]] })
      (fun t => sreg (coreOf t 0) 4 = 5 && mget (coreOf t 0).spad 128 = 5) = true := by decide +kernel

/-- R208, R209: an FMSG goes to the switch; a VC that the spec does not let it use. -/
theorem test_fabric_issue :
    runs (.fmsg 0 0 1 2 1 0 0 0) (run (prog 0x0005000000000000 7 0)) (fun t => (coreOf t 0).pc = 3) = true ∧
    runs (.fget 0 3 1 2 1 0 0 0) (run { c2 with sregs := [(1, 0x0005000000000000)] }) (fun t => (coreOf t 0).outst.length = 1 && t.fab.sw.length = 1 &&
      (t.fab.sw.map (·.pkt.ptype)) = [0x01] && (t.fab.sw.map (·.pkt.destNode)) = [5]) = true ∧
    runs (.fput 0 1 1 2 0 0 0 0) (run c2) (fun t => (coreOf t 0).lastStatus = .fabVcBad) = true := by decide +kernel

/-- R126, R137, R141: the sixty-fifth BE_DW waits. -/
def c3 : Core := { prog 0 0 0 with sregs := [(1, 0)], slots := [(1, mat 0 1 1), (2, mat 64 1 1), (3, mat 128 1 1)] }
theorem test_deferral :
    runs (.beDw 0 1 2 2 3 3 1 1 1 2 false 0 1) (run c3) (fun t => (coreOf t 0).defer.length = 1 && (coreOf t 0).pc = 3) = true ∧
    runs (.beDw 0 1 2 2 3 3 1 1 1 2 false 0 1) (run { c3 with defer := List.replicate 64 (qj (.nop 0) [] 0 []) })
      (fun t => (coreOf t 0).wait = 4 && (coreOf t 0).pc = 2 && (coreOf t 0).defer.length = 64) = true := by decide +kernel

/-- R80, R81: a load is queued on its engine; when its last one ends the tile is READY, and a SWAP takes it. -/
theorem test_engines :
    runs (.feWload 0 1 2 2 1 1) (run c3) (fun t => (coreOf t 0).fe.queue.length = 1 && (coreOf t 0).fe.loaded = some (.g16, .g16)) = true ∧
    runs (.beWload 0 1 2 false 1 1) (run c3) (fun t => (coreOf t 0).be0.queue.length = 1) = true ∧
    after (.gridClockStop 0 1) (run { c3 with be0 := { clocked := true } }) (fun t => !(coreOf t 0).be0.clocked) = true ∧
    after (.gridClockStop 0 2) (run { c3 with be1Clocked := true, run1 := [qj (.nop 0) [] 0 []] }) (fun t => (coreOf t 0).be1Clocked) = true ∧
    after (.deferralDispatch 0 false false) (run { c3 with defer := [qj (.beDw 0 1 2 2 3 3 1 1 1 2 false 0 1) [] 0 [0]] })
      (fun t => (coreOf t 0).defer = [] && (coreOf t 0).run1.length = 1 && (coreOf t 0).be1Clocked) = true ∧
    after (.dwEntryDone 0 true) (run { c3 with run1 := [queuedJob c3 (.beDw 0 1 2 2 3 3 1 1 1 2 false 0 5) [1, 2, 3, 3] 0 [0]] })
      (fun t => (coreOf t 0).run1 = [] && tget (fun _ => 0) (coreOf t 0).dwc 5 = 1) = true := by decide +kernel


/-! ## Waits, signals and the end of a program -/

def w2 : State := rset { run (prog 7 5 0) with evt := [(7, 5)] } (.evtOwner 0) 0x100
def w3 : State := rset { run (prog 7 6 0) with evt := [(7, 5)] } (.evtOwner 0) 0x100

/-- Core 0 at an instruction that it can issue now. -/
def ready (i : Instr) (s : State) : Bool := decide (canIssue (place i s) 0 i = some 0) && (coreOf s 0).busy.isEmpty && decide ((coreOf s 0).pc.toNat + 1 < (coreOf s 0).codeLen)

/-- R212 to R214, R334: registers 1 and 2 hold 7 and 5 or 6; counter 7 stands at 5. -/
theorem test_waits :
    (ready (.ewait 0 1 2) w2 && runs (.ewait 0 1 2) w2 (fun t => (coreOf t 0).pc = 3 && (coreOf t 0).wait = 0)) = true ∧
    runs (.ewait 0 1 2) w3 (fun t => (coreOf t 0).pc = 2 && (coreOf t 0).wait = 1 && (coreOf t 0).stall = some (.ewait 7 6)) = true ∧
    runs (.ewait 0 1 2) { w3 with evtFault := [(7, some .tainted)] } (fun t => (coreOf t 0).lastStatus = .tainted) = true ∧
    runs (.ewait 0 1 2) { w3 with evtFault := [(7, some .depFailed)] } (fun t => (coreOf t 0).lastStatus = .depFailed) = true ∧
    runs (.ewait 0 1 2) (rset w2 (.evtOwner 0) 3) (fun t => (coreOf t 0).lastStatus = .evtDenied) = true ∧
    runs (.lwait 0 16 0 0) w2 (fun t => (coreOf t 0).pc = 3) = true ∧
    runs (.lwait 0 16 0 1) w2 (fun t => (coreOf t 0).pc = 2 && (coreOf t 0).wait = 2) = true ∧
    runs (.lwait 0 3 0 0xFFFFFFFF) (run { prog 0 0 0 with dwc := [(3, 2)] }) (fun t => (coreOf t 0).pc = 3) = true ∧
    runs (.lwait 0 23 0 0) w2 (fun t => (coreOf t 0).lastStatus = .illegalInsn) = true ∧
    runs (.twait 0 2) { w2 with time := { now := 5 } } (fun t => (coreOf t 0).pc = 3) = true ∧
    runs (.twait 0 2) { w2 with time := { now := 4 } } (fun t => (coreOf t 0).wait = 6) = true ∧
    runs (.drain 0 0xFF) w2 (fun t => (coreOf t 0).pc = 3) = true ∧
    runs (.drain 0 0x08) (run { c2 with vq := [qj (.vadd 0 3 1 2 0 0 1) [3, 1, 2] 0 [0]], issued := 1 }) (fun t => (coreOf t 0).wait = 3) = true := by
  decide +kernel

/-- R213, R331: ESIGNAL queues its advance, which then adds register 2 to the counter and stops at 2^64 − 1. -/
theorem test_signals :
    runs (.esignal 0 1 2 0) w2 (fun t => (coreOf t 0).evq.length = 1 && (coreOf t 0).pc = 3) = true ∧
    after (.esignalSend 0) { run { prog 0 0 0 with evq := [qj (.esignal 0 1 2 0) [] 0 [7, 5]] } with evt := [(7, 5)] } (fun t => evtOf t 7 = 10 && (coreOf t 0).evq = []) = true ∧
    after (.esignalSend 0) { run { prog 0 0 0 with evq := [qj (.esignal 0 1 2 0) [] 0 [7, 5]] } with evt := [(7, 0xFFFFFFFFFFFFFFFD)] } (fun t => evtOf t 7 = 0xFFFFFFFFFFFFFFFF) = true ∧
    after (.esignalSend 0) { run { prog 0 0 0 with evq := [{ qj (.esignal 0 1 2 8) [] 0 [7, 5] with order := 1 }], vq := [qj (.vadd 0 3 1 2 0 0 1) [3, 1, 2] 0 [0]] } with evt := [(7, 5)] }
      (fun t => evtOf t 7 = 5 && (coreOf t 0).evq.length = 1) = true := by decide +kernel

/-- R187, R219, R220: END with nothing left ends with SUCCESS, with a vector instruction left it stalls; a word that is no
instruction; a program that has run for 1 µs. -/
theorem test_program_ends :
    runs (.endp 0) w2 (fun t => (coreOf t 0).phase = .idle && (coreOf t 0).lastStatus = .success && !(coreOf t 0).faulted && (coreOf t 0).pc = 2) = true ∧
    runs (.endp 0) (run { c2 with vq := [qj (.vadd 0 3 1 2 0 0 1) [3, 1, 2] 0 [0]], issued := 1 }) (fun t => (coreOf t 0).phase = .ending && (coreOf t 0).wait = 3) = true ∧
    after (.programFault 0) (run { prog 0 0 0 with code := [(2, 0xFFFFFFFFFFFFFFFF)] })
      (fun t => (coreOf t 0).phase = .idle && (coreOf t 0).lastStatus = .illegalInsn && (coreOf t 0).pc = 2 && (coreOf t 0).faulted) = true ∧
    after (.tpTimeout 0) { run { prog 0 0 0 with timeLimit := 1, startNs := 0 } with localNs := 1000 } (fun t => (coreOf t 0).lastStatus = .tpTimeout) = true ∧
    after (.tpTimeout 0) { run { prog 0 0 0 with timeLimit := 1, startNs := 0 } with localNs := 999 } (fun t => (coreOf t 0).phase = .running) = true := by decide +kernel

/-- R212, R217: a stall that is over lets the PC move on; a program starts from its code and arguments in device memory. -/
theorem test_release_and_start :
    after (.waitRelease 0) { run { prog 0 0 0 with stall := some (.ewait 7 5), wait := 1 } with evt := [(7, 5)] } (fun t => (coreOf t 0).pc = 3 && (coreOf t 0).wait = 0 && (coreOf t 0).stall = none) = true ∧
    after (.waitRelease 0) { run { prog 0 0 0 with stall := some (.ewait 7 6), wait := 1 } with evt := [(7, 5)] } (fun t => (coreOf t 0).pc = 2 && (coreOf t 0).wait = 1) = true ∧
    after (.waitRelease 0) (run { prog 0 0 0 with phase := .ending, stall := some .endp, wait := 3 }) (fun t => (coreOf t 0).phase = .idle && (coreOf t 0).lastStatus = .success) = true ∧
    after (.programStart 0) { run { phase := .loading, codeLen := 1, codeAddr := 0x4000000000008000, argAddr := 0x4000000000008008, argLen := 8, argOffset := 64, rank := 3, setSize := 5, sregs := [(9, 9)] } with
        dev := mwrite [] 0x8000 [1, 2, 3, 4, 5, 6, 7, 8, 9] }
      (fun t => (coreOf t 0).phase = .running && (coreOf t 0).pc = 0 && sreg (coreOf t 0) 1 = 64 && sreg (coreOf t 0) 2 = 3 && sreg (coreOf t 0) 3 = 5 && sreg (coreOf t 0) 4 = 0 &&
        sreg (coreOf t 0) 9 = 0 && tget (fun _ => 0) (coreOf t 0).code 0 = 0x0807060504030201 && mread (coreOf t 0).spad 64 2 = [9, 0]) = true := by decide +kernel

/-! ## Engines -/

def planeF : Plane := { st := .ready, wFmt := some .g16, aFmt := some .g16, kext := 1, ncol := 1, elems := [vzero false] }
def swapJob : Job := { queuedJob c3 (.feStream 0 1 2 2 0 1 1 2 false true 0) [1, 2, 2] 0 [0] with order := 5 }
def loadJob : Job := { queuedJob c3 (.feWload 0 1 2 2 1 1) [1] 0 [] with st := .started }

/-- R81, R82, R123: the tile of a load becomes READY; a stream with SWAP takes it. -/
theorem test_planes :
    after (.feTileReady 0) (run { c3 with fe := { shadow := { st := .loading }, queue := [loadJob] }, spad := [(0, 0x80), (1, 0x3F)] }) (fun t => (coreOf t 0).fe.shadow.st = .ready && (coreOf t 0).fe.queue.length ≤ 1 && (coreOf t 0).fe.shadow.elems.length = 1) = true ∧
    after (.beTileReady 0) (run { c3 with be0 := { shadow := { st := .loading }, queue := [{ queuedJob c3 (.beWload 0 1 2 false 1 1) [1] 0 [] with st := .started }] } }) (fun t => (coreOf t 0).be0.shadow.st = .ready) = true ∧
    after (.feSwap 0) (run { c3 with fe := { shadow := planeF, queue := [swapJob] } })
      (fun t => (coreOf t 0).fe.active = planeF && ((coreOf t 0).fe.queue.map (·.st)) = [.started] && (coreOf t 0).fe.shadow.st = .empty) = true ∧
    after (.feSwap 0) (run { c3 with fe := { shadow := { st := .loading }, queue := [swapJob] } }) (fun t => ((coreOf t 0).fe.queue.map (·.st)) = [.queued]) = true := by decide +kernel


/-! ## Queue commands -/

/-- A command record from its 8-byte words, by byte offset (R317). -/
def cmd (ws : List (Nat × Nat)) : CmdRec := { seq := 9, raw := BitVec.ofNat 1024 (ws.foldl (fun a x => a + x.2 * 2 ^ (8 * x.1)) 0) }

/-- s with a command of these words in flight, started, on queue 0. -/
def fly (ws : List (Nat × Nat)) (s : State) : State := setQueue s 0 { state := .running, flight := [{ cmd := cmd ws }] }
/-- Whether a command ends with a status and f holds then. -/
def flies (c : Instr) (ws : List (Nat × Nat)) (s : State) (st : Status) (f : State → Bool) : Bool :=
  after c (fly ws s) fun t => ((queueOf t 0).flight.map fun x => (x.done, x.status)) = [(true, st)] && f t

/-- The cells of a memory that bytes from an address on fill. -/
def cells (a : Nat) (bs : List Byte) : List Host.Cell := (bs.zipIdx.map fun x => (a + x.2, x.1)).filter fun x => decide (x.2 ≠ 0)

/-- Four F32 at device address 0x8400 on, an index tensor at 0x8440 naming 2 and 9; descriptors at 0x8000 on: the four, two at
0x8480, the indices, and four at 0x84C0; a code word at 0x8500. -/
def s5 : State := { run {} with
  cores := [], dev := cells 0x8000 (leBytes 128 (vec 1 2 0x8400 4).toNat) ++ cells 0x8080 (leBytes 128 (vec 1 2 0x8480 2).toNat) ++
    cells 0x8100 (leBytes 128 (vec 1 2 0x8440 2).toNat) ++ cells 0x8180 (leBytes 128 (vec 1 2 0x84C0 4).toNat) ++
    [(0x8400, 1), (0x8404, 2), (0x8408, 3), (0x840C, 4), (0x8440, 2), (0x8444, 9)] }
def onCopyUnit (ws : List (Nat × Nat)) : State :=
  setQueue s5 0 { state := .running, flight := [{ cmd := cmd ws, copyUnit := some 0 }] }
def moves (c : Instr) (ws : List (Nat × Nat)) (st : Status) (f : State → Bool) : Bool :=
  after c (onCopyUnit ws) fun t => ((queueOf t 0).flight.map fun x => (x.done, x.status)) = [(true, st)] && f t

/-- R602: index 9 of position 1 comes after the failure at position 0, whose slice cannot be read. -/
theorem test_gather_failure :
    after (.gather 0 9) { onCopyUnit [(0, 2), (0x40, 0x8000), (0x48, 0x8080), (0x50, 0x8100)] with devPoison := [0x420] }
      (fun t => ((queueOf t 0).flight.map fun x => (x.status, x.kindBlk)) = [(.memUncorrectable, BitVec.ofNat 128 (2 ^ 96 - 1))]) = true ∧
    after (.gather 0 9) { onCopyUnit [(0, 2), (0x40, 0x8000), (0x48, 0x8080), (0x50, 0x8100)] with
        dev := (s5.dev.filter fun x => decide (x.1 < 0x8440)) ++ [(0x8440, 9), (0x8444, 2)], devPoison := [0x420] }
      (fun t => ((queueOf t 0).flight.map fun x => (x.status, x.kindBlk)) = [(.memUncorrectable, 0x00000001000000090000000000000000)]) = true := by
  decide +kernel

/-- R167, R171 to R173, R176: the bytes of the elements reach their places; position 1 is out of range and gives +0. -/
theorem test_moves :
    moves (.copy 0 9) [(0, 1), (0x40, 0x8000), (0x48, 0x8180)] .success (fun t => mread t.dev 0x84C0 16 = [1, 0, 0, 0, 2, 0, 0, 0, 3, 0, 0, 0, 4, 0, 0, 0]) = true ∧
    moves (.gather 0 9) [(0, 2), (0x40, 0x8000), (0x48, 0x8080), (0x50, 0x8100)] .success (fun t => mread t.dev 0x8480 8 = [3, 0, 0, 0, 0, 0, 0, 0] &&
      ((queueOf t 0).flight.map (·.kindBlk)) = [0x00000001000000090000000000000001]) = true ∧
    moves (.scatter 0 9) [(0, 3), (0x40, 0x8000), (0x48, 0x8080), (0x50, 0x8100), (0x60, 8)] .success (fun t => mread t.dev 0x8400 16 = [1, 0, 0, 0, 2, 0, 0, 0, 0, 0, 0, 0, 0, 0, 0, 0]) = true := by
  decide +kernel

/-- R216, R321: a TILE_PROGRAM over cores 0 and 2 of cluster 0; a set with an absent core and no ALLOW_ABSENT. -/
theorem test_tile_program :
    after (.tileProgram 0 9) (fly [(0, 4), (0x40, 0x4000000000008500), (0x50, 1), (0x58, 5), (0x60, 1)] s5)
      (fun t => (coreOf t 0).phase = .loading && (coreOf t 2).phase = .loading && (coreOf t 1).phase = .idle && (coreOf t 2).rank = 1 && (coreOf t 2).setSize = 2 && (coreOf t 2).codeLen = 1) = true ∧
    flies (.tileProgram 0 9) [(0, 4), (0x40, 0x4000000000008500), (0x50, 1), (0x58, 5), (0x60, 1)] { s5 with clusters := [(0, { clearing := false, absent := 4 })] } .coreAbsent
      (fun t => (coreOf t 0).phase = .idle) = true ∧
    after (.tileProgram 0 9) (fly [(0, 4), (0x40, 0x4000000000008500), (0x50, 1), (0x58, 5), (0x60, 1), (0x68, 2 ^ 32)] { s5 with clusters := [(0, { clearing := false, absent := 4 })] })
      (fun t => (coreOf t 0).phase = .loading && (coreOf t 0).setSize = 1) = true := by decide +kernel

/-- R320, R325, R331, R334: the event commands. -/
theorem test_event_commands :
    flies (.fence 0 9) [(0, 7)] s5 .success (fun _ => true) = true ∧
    flies (.waitEvent 0 9) [(0, 8 + 2 ^ 13), (0x10, 5), (0x30, 7)] { s5 with evt := [(7, 5)] } .success (fun _ => true) = true ∧
    flies (.waitEvent 0 9) [(0, 8 + 2 ^ 13), (0x10, 6), (0x30, 7)] { s5 with evt := [(7, 5)], evtFault := [(7, some .tainted)] } .tainted (fun _ => true) = true ∧
    flies (.evtTimeout 0 9) [(0, 8 + 2 ^ 13), (0x10, 6), (0x30, 7), (0x40, 1)] { s5 with evt := [(7, 5)] } .evtTimeout (fun _ => true) = true ∧
    flies (.signalEvent 0 9) [(0, 9), (0x40, 7 + 2 ^ 17), (0x48, 10), (0x50, 7 + 3 * 2 ^ 16), (0x58, 12), (0x60, 7), (0x68, 99)] { s5 with evt := [(7, 5)] } .success (fun t => evtOf t 7 = 15) = true ∧
    flies (.signalEvent 0 9) [(0, 9), (0x40, 7 + 2 ^ 17), (0x48, 10), (0x50, 7 + 3 * 2 ^ 16), (0x58, 22)] { s5 with evt := [(7, 5)] } .success (fun t => evtOf t 7 = 22) = true ∧
    flies (.timeWait 0 9) [(0, 0xA), (0x40, 77)] { s5 with time := { now := 77, st := .holdover } } .success (fun t => ((queueOf t 0).flight.map (·.timeFlags)) = [1]) = true ∧
    after (.eventAdvance 7 [1, 0xFFFFFFFFFFFFFFFF] [3]) s5 (fun t => evtOf t 7 = 0xFFFFFFFFFFFFFFFF) = true ∧
    after (.eventAdvance 7 [1] [3, 2]) { s5 with evt := [(7, 1)] } (fun t => evtOf t 7 = 3) = true ∧
    after (.evtFaultClear 7) { s5 with evtFault := [(7, some .tainted)] } (fun t => evtMark t 7 = none) = true := by decide +kernel


/-! ## Configuration transactions (spec/17) -/

/-- A list of one entry, offset 0x90080 (CQ_Q_CFG of queue 1), MASK 0x78000 and VALUE 0x18000, at device address 0x8000. -/
def s6 : State := { s5 with dev := mwrite [] 0x8000 (leBytes 32 (0x90040 + 0x78000 * 2 ^ 64 + 0x18000 * 2 ^ 128)) }
def txn6 : Txn := { id := 4, shadow := [{ off := 0x90040, mask := 0x78000, value := 0x18000 }], lastNs := s5.localNs }
/-- A COMMIT of transaction 4 on queue 0 that holds its apply points since an instant. -/
def waiting (ws : List (Nat × Nat)) (hold : Option Nat) (applied : Bool) : State :=
  let s := fly ([(0, 0xB), (0x48, 4)] ++ ws) s6
  { s with cfg := { txn := some txn6, commit := some { q := 0, seq := 9, holdNs := hold, applied := applied } } }

/-- R551, R552: BEGIN, WRITE, COMMIT and ABORT. -/
theorem test_transactions :
    flies (.cfgTxnBegin 0 9) [(0, 0xB), (0x48, 4)] s6 .success (fun t => t.cfg.txn = some { id := 4, shadow := [], lastNs := s6.localNs }) = true ∧
    flies (.cfgTxnBegin 0 9) [(0, 0xB), (0x48, 4)] { s6 with cfg := { txn := some txn6 } } .cfgBusy (fun t => t.cfg.txn = some txn6) = true ∧
    flies (.cfgTxnBegin 0 9) [(0, 0xB), (0x48, 4)] (rset s6 .cfgCtrl 0x0100000000000000) .partDenied (fun t => t.cfg.txn = none) = true ∧
    flies (.cfgTxnWrite 0 9) [(0, 0xB), (0x40, 1), (0x48, 4), (0x50, 0x8000), (0x58, 1)] { s6 with cfg := { txn := some { id := 4 } } } .success (fun t => t.cfg.txn = some txn6) = true ∧
    flies (.cfgTxnWrite 0 9) [(0, 0xB), (0x40, 1), (0x48, 5), (0x50, 0x8000), (0x58, 1)] { s6 with cfg := { txn := some { id := 4 } } } .cfgTxnBad (fun t => t.cfg.txn = some { id := 4 }) = true ∧
    after (.cfgTxnCommit 0 9) (fly [(0, 0xB), (0x40, 2), (0x48, 4)] { s6 with cfg := { txn := some txn6 } })
      (fun t => t.cfg.commit = some { q := 0, seq := 9, holdNs := some s6.localNs } && ((queueOf t 0).flight.map (·.done)) = [false]) = true ∧
    flies (.cfgTxnAbort 0 9) [(0, 0xB), (0x40, 3), (0x48, 4)] { s6 with cfg := { txn := some txn6 } } .success (fun t => t.cfg.txn = none) = true := by decide +kernel

/-- R553: a COMMIT applies; one that has held 10,000 µs; one whose AT has come; a persist; an idle transaction. -/
theorem test_commits :
    after .cfgCommitApply (waiting [(0x40, 2)] (some 0) false) (fun t => rget t (.cqCfg 1) = 0x19000 && t.cfg.txn = none && t.cfg.commit = none &&
      ((queueOf t 0).flight.map fun x => (x.done, x.status)) = [(true, .success)]) = true ∧
    after .cfgQuiesceTimeout (setQueue (waiting [(0x40, 2)] (some 0) false) 1 { flight := [{ cmd := cmd [(0, 7)] }] })
      (fun t => t.cfg.txn = some txn6 && t.cfg.commit = none && ((queueOf t 0).flight.map (·.status)) = [.cfgQuiesceTimeout] && rget t (.cqCfg 1) = 0x1000) = true ∧
    after (.timedActionFire .commit) { waiting [(0x40, 10), (0x50, 5)] none false with time := { now := 5 } } (fun t => t.cfg.commit = some { q := 0, seq := 9, holdNs := some s6.localNs }) = true ∧
    after (.timedActionFire .commit) { waiting [(0x40, 10), (0x50, 5)] none false with time := { now := 4 } } (fun t => t.cfg.commit = some { q := 0, seq := 9 }) = true ∧
    after (.cfgPersist true) (rset (waiting [(0x40, 6)] (some 0) true) (.cqCfg 1) 0x19000)
      (fun t => t.cfg.commit = none && (flashBank t 2).isSome && rget t (.cfgCtr 4) = 1) = true ∧
    after .cfgIdleAbort { waiting [(0x40, 2)] (some 0) false with cfg := { txn := some { txn6 with lastNs := 0 } } } (fun t => t.cfg.txn = none) = true ∧
    after .cfgIdleAbort { waiting [(0x40, 2)] (some 0) false with cfg := { txn := some txn6 } } (fun t => t.cfg.txn = some txn6) = true := by decide +kernel

/-- R557, R558: a direct write applies, or is held while its queue has a command in flight, and applies later. -/
theorem test_direct_writes :
    after (.directWrite 0x90040 0x7F8000 0x18000) s6 (fun t => rget t (.cqCfg 1) = 0x19000 && t.cfg.pend = []) = true ∧
    after (.directWrite 0x90040 0x78000 0x18000) (setQueue s6 1 { flight := [{ cmd := cmd [(0, 7)] }] })
      (fun t => rget t (.cqCfg 1) = 0x1000 && t.cfg.pend = txn6.shadow) = true ∧
    after (.pendingApply 0x90040) { s6 with cfg := { pend := txn6.shadow } } (fun t => rget t (.cqCfg 1) = 0x19000 && t.cfg.pend = []) = true := by decide +kernel


/-! ## The queue engine and cluster time (spec/10) -/

/-- Queue 0 runs over device memory: ring at 0x10000 (slots 0 to 7 of stack 0 local 0x2000), completion ring at 0x18000, tail
line at 0x8000 reading a tail; queue entries 2^4. -/
def qs (tail : Nat) (k : Queue) : State :=
  let s : State := { s5 with dev := mwrite (mwrite [] 0x8000 (leBytes 4 tail)) 0x10000 (leBytes 128 (cmd [(0, 7)]).raw.toNat) }
  setQueue (rset (rset (rset (rset (rset s (.cqRing 0) 0x10000) (.cqCompl 0) 0x18000) (.cqTail 0) 0x8000) (.cqCtrl 0) 1) (.cqPart 0) 1) 0 k
def onQ (t : State) (f : Queue → Bool) : Bool := f (queueOf t 0)

/-- R313 to R315, R328: a wake and a poll read TAIL; a spurious wake is counted; enabling, resuming and disabling. -/
theorem test_queue_control :
    after (.tailWake 0) (qs 2 { state := .running, lineHeld := true }) (fun t => onQ t fun k => k.tail = 2 && k.lineHeld) = true ∧
    after (.tailWake 0) (qs 2 { state := .running, lineHeld := true, tail := 2 }) (fun t => rget t .cqSpurious = 1) = true ∧
    after (.tailPoll 0) (rset (qs 2 { state := .running }) (.cqCtrl 0) 3) (fun t => onQ t fun k => k.tail = 2 && k.pollNs = s5.localNs) = true ∧
    after (.tailPoll 0) (rset (qs 2 { state := .running, pollNs := s5.localNs - 1000 }) (.cqCtrl 0) 3) (fun t => onQ t fun k => k.tail = 0) = true ∧
    after (.resume 0) (qs 2 { state := .stopped }) (fun t => onQ t fun k => k.tail = 2 && k.state = .running) = true ∧
    after (.queueEnable 0) (qs 2 { state := .disabled }) (fun t => (onQ t fun k => k.tail = 2 && k.state = .running) && rbit t (.cqCtrl 0) 0) = true ∧
    after (.queueDisable 0) (qs 2 { state := .running, queued := [cmd [(0, 7)]] }) (fun t => (onQ t fun k => k.queued = [] && k.state = .disabled) && qFetch t 0 = 9 && !rbit t (.cqCtrl 0) 0) = true ∧
    after (.queueDisable 0) (qs 2 { state := .running, flight := [{ cmd := cmd [(0, 7)] }] }) (fun t => onQ t fun k => k.disabling && k.state = .running) = true := by decide +kernel

/-- R315, R316, R319, R322, R657: fetch, check, cancel and start. -/
theorem test_fetch_and_start :
    after (.commandFetch 0) (qs 2 { state := .running, tail := 2 }) (fun t => (onQ t fun k => k.queued = [{ cmd [(0, 7)] with seq := 0 }]) && qFetch t 0 = 1) = true ∧
    after (.commandCheck 0) (qs 2 { state := .running, queued := [cmd [(0, 0xD)]] }) (fun t => onQ t fun k => k.queued = [] && (k.flight.map fun x => (x.started, x.done, x.status)) = [(false, true, .cmdKindBad)]) = true ∧
    after (.commandCheck 0) (qs 2 { state := .running, queued := [cmd [(0, 7 + 2 ^ 18)]] }) (fun t => onQ t fun k => (k.flight.map (·.status)) = [.cmdBad]) = true ∧
    after (.commandCheck 0) (rset (qs 2 { state := .running, queued := [cmd [(0, 1)]] }) (.cqPart 0) 2) (fun t => onQ t fun k => (k.flight.map (·.status)) = [.partDenied]) = true ∧
    after (.commandCheck 0) (qs 2 { state := .running, queued := [cmd [(0, 7)]] }) (fun t => onQ t fun k => k.queued.length = 1 && k.flight = []) = true ∧
    after (.cancel 0) (qs 2 { state := .stopped, queued := [cmd [(0, 7)]] }) (fun t => onQ t fun k => k.queued = [] && (k.flight.map fun x => (x.started, x.status)) = [(false, .cancelled)] && k.cancelTo = some 2) = true ∧
    after (.commandStart 0) (qs 2 { state := .running, queued := [cmd [(0, 1), (0x40, 0x8000), (0x48, 0x8080)]] })
      (fun t => (onQ t fun k => k.queued = [] && (k.flight.map fun x => (x.started, x.done, x.copyUnit)) = [(true, false, some 0)]) && (clusterOf t 0).copyCmd = some (0, 9)) = true ∧
    after (.commandStart 0) (setCluster (qs 2 { state := .running, queued := [cmd [(0, 1), (0x40, 0x8000), (0x48, 0x8080)]] }) 0 { clearing := false, copyCmd := some (7, 7) })
      (fun t => onQ t fun k => k.queued.length = 1) = true ∧
    after (.commandStart 0) (qs 2 { state := .running, queued := [cmd [(0, 7 + 2 ^ 13), (0x10, 6), (0x30, 7)]] }) (fun t => onQ t fun k => k.queued.length = 1) = true := by
  decide +kernel

/-- R324, R326, R327: signal entry 0 adds 3 to counter 7; the record of slot 9 mod 16 stands at its place in the completion
ring, with SEQ at byte 8. -/
theorem test_command_finish :
    after (.commandFinish 0 9) (qs 2 { state := .running, flight := [{ cmd := cmd [(0, 7 + 2 ^ 16), (0x38, 7 + 3 * 2 ^ 32)], done := true }] })
      (fun t => evtOf t 7 = 3 && (onQ t fun k => k.flight = []) && rget t (.cqCompleted 0) = 1 && leNat (mread t.dev (0x18000 + 9 * 64 + 8) 4) = 9) = true ∧
    after (.commandFinish 0 9) (qs 2 { state := .running, flight := [{ cmd := cmd [(0, 7)] }] }) (fun t => onQ t fun k => k.flight.length = 1) = true := by decide +kernel

def good : TimeUnit := { now := 1000, st := .locked, refOk := true, ppsOk := true, goodEdges := 8 }
def timed (u : TimeUnit) : State := { s5 with time := u }

/-- R337 to R341, R347: edges, losses and returns; the master's and another package's messages. -/
theorem test_cluster_time :
    after (.timeppsEdge true) (timed { good with nextEdge := some 2000000 }) (fun t => t.time.now = 2000000 && t.time.st = .locked && t.time.stepped && rget t (.timeCtr 2) = 1) = true ∧
    after (.timeppsEdge true) (timed { good with nextEdge := some 1006 }) (fun t => t.time.now = 1000 && t.time.st = .slewing && t.time.slew = 6) = true ∧
    after (.timeppsEdge true) (timed { good with nextEdge := some 1005 }) (fun t => t.time.now = 1000 && t.time.st = .locked && t.time.slew = 0) = true ∧
    after (.timeRefLost true) (timed good) (fun t => t.time.st = .holdover && !t.time.ppsOk && t.time.refOk && rget t (.timeCtr 3) = 1) = true ∧
    after .timeRefReturn (timed { good with ppsOk := false }) (fun t => t.time.ppsOk) = true ∧
    after .timeRefReturn (timed { good with ppsOk := false, goodEdges := 7 }) (fun t => !t.time.ppsOk) = true ∧
    after .holdoverExpiry { timed { good with st := .holdover, lossNs := s5.localNs - 10000000000 } with localNs := s5.localNs } (fun t => t.time.st = .unsync) = true ∧
    after .holdoverExpiry (timed { good with st := .holdover, lossNs := s5.localNs - 9999999999 }) (fun t => t.time.st = .holdover) = true ∧
    after .epochStale (timed good) (fun t => t.time.epochStale) = true ∧
    after (.timeSet 3000000) (rset (timed good) .timeCtrl 1) (fun t => t.time.nextEdge = some 3000000) = true ∧
    after (.timeSet 3000001) (rset (timed good) .timeCtrl 1) (fun t => t.time.nextEdge = none) = true ∧
    after .timeMessageSend (rset (timed { good with now := 5000000 }) .timeCtrl 1) (fun t => t.time.msgMs = 6 && (t.fab.sw.map (·.pkt.ptype)) = [0x0B]) = true ∧
    after (.time 0) { rset (timed good) .timeCtrl 0x0003000000000000 with fab := { arrived := [{ pkt := { ptype := 0x0B, srcNode := 3, payload := leBytes 16 7000000 }, port := some 2 }] } }
      (fun t => t.time.nextEdge = some 7000000 && t.fab.arrived = []) = true := by decide +kernel


/-! ## Cluster memories and scratchpads (spec/07) -/

/-- R233 to R237: reads of one line go together, another line of the bank and the DMA class wait and are counted; after core 3 core 9 comes
first. R242, R245: corrected words. -/
theorem test_banks :
    after (.bankGrant true 0 [⟨.sequencer, 1, false⟩] [⟨.dma 5, 17, false⟩]) s5
      (fun t => rget t (.coreSpadDmaWait 0) = 1 && rget t (.coreSpadDmaMax 0) = 1 && (coreOf t 0).dmaWaits = [(5, 1)] && (coreOf t 0).dmaWaiting) = true ∧
    after (.bankGrant true 0 [⟨.fe, 1, false⟩, ⟨.sequencer, 17, true⟩] []) s5 (fun t => rget t (.coreSpadConflict 0) = 1 && rget t (.coreFeCtr 0 3) = 1) = true ∧
    after (.bankGrant true 0 [⟨.fe, 1, false⟩, ⟨.vector, 1, false⟩] [⟨.dma 5, 1, true⟩]) s5 (fun t => t.regs = s5.regs) = true ∧
    after (.bankGrant false 0 [⟨.core 3, 1, false⟩, ⟨.core 9, 65, false⟩] []) (setCluster s5 0 { clearing := false, rr := [(1, 3)] })
      (fun t => tget (fun _ => 64) (clusterOf t 0).rr 1 = 9) = true ∧
    after (.eccWriteback false 0 0xFFFFF) s5 (fun t => rget t (.cluCmemEcc 0) = 1) = true ∧
    after (.sramPatrol false 1 0x1FFFF { bad := [(0, false), (7, false)] }) s5 (fun t => rget t (.cluCmemEcc 1) = 2) = true ∧
    after (.sramPatrol false 1 0 { bad := [(0, true)] }) s5 (fun t => (clusterOf t 1).cmemPoison = [0] && rget t (.cluCmemEcc 1) = 0) = true := by decide +kernel

/-- R247 to R252: bank migration, clearing; a request on a busy cluster is kept. -/
theorem test_clearing :
    after (.cmemBankMigrate 0) (setCluster s5 0 { clearing := false, dues := [(5, false), (6, false)] }) (fun t => (clusterOf t 0).dues.length = 2 && ((clusterOf t 0).migrating.map (·.1)) = some 5) = true ∧
    after (.cmemBankMigrated 0) (setCluster s5 0 { clearing := false, cmem := [(1, 1)], migrating := some (5, 64) }) (fun t => tget (fun x => x) (clusterOf t 0).bankMap 5 = 64 && (clusterOf t 0).cmem = [(1, 1)] && (clusterOf t 0).migrating = none) = true ∧
    after (.clusterClear 0) (setCluster (setCore s5 3 { spad := [(0, 1)], spadPoison := [0] }) 0 { clearing := true, cmem := [(1, 1)] }) (fun t => (clusterOf t 0).cmem = [] && (coreOf t 3).spad = [] && (coreOf t 3).spadPoison = [] && (clusterOf t 0).clearing) = true ∧
    after (.clusterClearDone 0) (setCluster (setCore s5 66 { spad := [(0, 1)] }) 0 { clearing := true, cmem := [(1, 1)] }) (fun t => (clusterOf t 0).cmem = [] && (coreOf t 66).spad = [(0, 1)] && !(clusterOf t 0).clearing) = true ∧
    after (.clear 0) (setCluster s5 0 { clearing := false, cmem := [(1, 1)] }) (fun t => (clusterOf t 0).cmem = [] && (clusterOf t 0).clearReq) = true ∧
    after (.clear 0) (setCore (setCluster s5 0 { clearing := false, cmem := [(1, 1)] }) 0 { phase := .running }) (fun t => (clusterOf t 0).cmem = [(1, 1)] && (clusterOf t 0).clearReq) = true := by decide +kernel

def s8 : State := setCluster s5 0 { clearing := false, cmem := [(0, 0xFF), (8, 2)] }
/-- R253: the steward's loads, stores and AMOs; LR. -/
theorem test_steward_accesses :
    after (.stewardCmemAccess 0 0 (.load 1)) s8 (fun t => (clusterOf t 0).stewardData = 0xFF && (clusterOf t 0).lastFault = none) = true ∧
    after (.stewardCmemAccess 0 8 (.store 2 0x01020304)) s8 (fun t => mread (clusterOf t 0).cmem 8 4 = [4, 3, 2, 1]) = true ∧
    after (.stewardCmemAccess 0 8 (.amo .add true 5)) s8 (fun t => (clusterOf t 0).stewardData = 2 && mget (clusterOf t 0).cmem 8 = 7) = true ∧
    after (.stewardCmemAccess 0 0 .lr) s8 (fun t => (clusterOf t 0).lastFault = some 5) = true ∧
    after (.stewardCmemAccess 0 0 .sc) s8 (fun t => (clusterOf t 0).lastFault = some 7) = true ∧
    after (.stewardCmemAccess 0 0x7FFFFF (.load 1)) s8 (fun t => (clusterOf t 0).lastFault.isSome) = true := by decide +kernel

/-! ## Memory stacks (spec/08) -/

/-- R258, R263, R271 to R273: word 0x400 lies in stack 0 at local 0x1000. F32 1.0 + 1.0 in element 1; G16 elements elsewhere. -/
theorem test_stack_words :
    after (.stackRequest 0x420 .read) s5 (fun t => ((stackOf t 0).lastRead.extractLsb' 0 64) = 0x0000000200000001) = true ∧
    after (.stackRequest 0x420 (.write 5 0xAABBCC)) s5 (fun t => mread t.dev 0x8400 4 = [0xCC, 0, 0xAA, 0]) = true ∧
    after (.stackRequest 0x420 (.atomic .add 0 4 7 0)) s5 (fun t => mread t.dev 0x8404 4 = [9, 0, 0, 0]) = true ∧
    after (.accumulatingWrite 0x400 true 2 0x3F80000000000000 .nearest) { s5 with dev := mwrite [] 0x8000 [1, 0, 0, 0, 0, 0, 0x80, 0x3F] }
      (fun t => mread t.dev 0x8000 8 = [1, 0, 0, 0, 0, 0, 0, 0x40] && ((stackOf t 0).merge.map (·.word)) = [0x400] && rget t (.memAccWords 0) = 1) = true ∧
    after (.mergeWriteback 0) (setStack s5 0 { ready := true, merge := [⟨0x400, 0, s5.localNs - 2000⟩] }) (fun t => (stackOf t 0).merge = []) = true ∧
    after (.mergeWriteback 0) (setStack s5 0 { ready := true, merge := [⟨0x400, 0, s5.localNs - 1999⟩] }) (fun t => (stackOf t 0).merge.length = 1) = true ∧
    after (.flush 0) (setStack s5 0 { ready := true, merge := [⟨0x400, 0, s5.localNs⟩] }) (fun t => (stackOf t 0).merge = []) = true := by decide +kernel

/-- Word 0x420 of device memory with bits of one symbol bad, or of two (R262). -/
def oneBad : State := { s5 with devErrs := [(0x420, 0x5A * 2 ^ 40)] }
def twoBad : State := { s5 with devErrs := [(0x420, 0x5A * 2 ^ 40 + 2 ^ 64)] }
/-- R262, R263, R283: a read corrects one bad symbol, writes it back and counts it; two are uncorrectable and the word is poisoned. -/
theorem test_stack_code :
    after (.stackRequest 0x420 .read) oneBad (fun t => ((stackOf t 0).lastRead.extractLsb' 0 64) = 0x0000000200000001 && t.devErrs = [] && rget t (.memEcc 0) = 1 && t.dev = s5.dev) = true ∧
    after (.stackRequest 0x420 .read) twoBad (fun t => devPoisoned t 0x420 && rbit t (.memUe 0) 63 && ((errQ t 0).recs.map (·.status)) = [.memUncorrectable] && t.dev = s5.dev) = true := by decide +kernel

/-- R264, R266, R267, R275: patrol, sparing, interface failure, self-refresh. -/
theorem test_stack_repairs :
    after (.stackPatrol 0 3 []) s5 (fun t => tget (fun _ => 0) (stackOf t 0).patrolPos 3 = 1) = true ∧
    after (.stackPatrol 0 3 []) (setStack s5 0 { ready := true, patrolPos := [(3, 67108863)] }) (fun t => tget (fun _ => 0) (stackOf t 0).patrolPos 3 = 0 && rget t (.memPatrolPasses 0) = 1) = true ∧
    after (.stackPatrol 0 3 [(BitVec.ofNat 36 (chanWord 0 false 3 0), 0x5A)]) s5 (fun t => rget t (.memEcc 0) = 1 && rget t (.memChCorr 0 3) = 1) = true ∧
    after (.channelSpareCopy 0) (setStack s5 0 { ready := true, due := some 4 }) (fun t => (stackOf t 0).migrating = some 4) = true ∧
    after (.channelSpared 0) (setStack s5 0 { ready := true, migrating := some 4 }) (fun t => physChan (stackOf t 0) 4 = 32 && (stackOf t 0).failedCh = [4]) = true ∧
    after (.channelInterfaceFail 0 20) s5 (fun t => physChan (stackOf t 0) 20 = 32 && devPoisoned t 0x420 = true) = true ∧
    after (.selfRefreshEntry 0) (setDie s5 0 { dieOf s5 0 with st := .out }) (fun t => (stackOf t 0).selfRefresh && (stackOf t 0).kept && !(stackOf t 0).ready) = true := by decide +kernel

/-- Blocks 0x8 and 0x10 of device memory are parked in stack 0 (R276). -/
def parked (s : State) : State := rset (rset s (.memParkBase 0 0) 0x8000000000008000) (.memParkLimit 0 0) 0x10000
def parkReq (since core : Nat) : ParkReq := { addr := 0x400, accFmt := none, mask := 0, data := [], sinceNs := since, origin := some (core, 9) }
/-- R278, R279, R281: a write to a block with a slot goes into it; which slot a block without one takes is free. -/
theorem test_parking :
    after (.parkSlotFill 0x400 0xFFFFFFFF 0x0201) (setStack (parked s5) 0 { ready := true, slots := [{ tag := 8 }] })
      (fun t => decide (t = setStack (parked s5) 0 { ready := true, slots := [{ tag := 8 }] })) = true ∧
    after (.stackRequest 0x400 (.write 0xFFFFFFFF 0x0201)) (setStack (parked s5) 0 { ready := true, slots := [{ tag := 8 }] }) (fun t => ((stackOf t 0).slots.map fun x => (x.tag, x.data)) = [(8, [(0, 1), (1, 2)])] && t.dev = s5.dev && devByte t 0x8001 = 2) = true ∧
    after (.parkQueueGrant 0) (setStack (parked s5) 0 { ready := true, slots := [{ tag := 8 }], parkQ := [parkReq 0 0, parkReq 0 1] }) (fun t => ((stackOf t 0).parkQ.map (·.origin)) = [some (1, 9)]) = true ∧
    after (.holdOverrun 0) (rset (setStack (fly [(0, 1)] (parked s5)) 0 { ready := true, parkQ := [parkReq (s5.localNs - 1001) cmdOrigin] }) (.memPark 0) 1)
      (fun t => (stackOf t 0).parkQ = [] && ((queueOf t 0).flight.map (·.status)) = [.holdOverrun]) = true ∧
    after (.holdOverrun 0) (rset (setStack (fly [(0, 1)] (parked s5)) 0 { ready := true, parkQ := [parkReq (s5.localNs - 1000) cmdOrigin] }) (.memPark 0) 1)
      (fun t => (stackOf t 0).parkQ.length = 1) = true := by decide +kernel


/-! ## Update units (spec/09) -/

/-- A group of one block: rule 2 on G16 weights, gradient at 0x8000 and weights at 0x10000, all coefficients +0 (R288). -/
def group9 : BitVec 1024 := BitVec.ofNat 1024 (10 + 0x8000 * 2 ^ 128 + 0x10000 * 2 ^ 192 + 2 ^ (64 * 13 + 32))
/-- The same over a slow tier. -/
def slow9 : BitVec 1024 := BitVec.ofNat 1024 (10 + 2 ^ 8 + 0x8000 * 2 ^ 128 + 0x10000 * 2 ^ 192 + 2 ^ (64 * 13 + 32))
/-- An UPDATE of block 0 (R291). -/
def update9 : List (Nat × Nat) := [(0, 6), (0x48, 3), (0x50, 2 ^ 32)]
def s9 (d : BitVec 1024) (begun : Bool) (u : UpdUnit) : State :=
  setUpd (setQueue { s5 with dev := mwrite [] 0x8000 [1, 2, 3, 4] } 0 { state := .running, flight := [{ cmd := cmd update9, descs := [d], begun := begun }] }) 0 u
def task9 : UpdTask := { q := 0, seq := 9, step := 3, group := group9, next := 0, last := 1, key := 0 }
def block9 (st : UpdStep) : UpdBlock := { q := 0, seq := 9, index := 0, step := st, gAddr := 0x8000, cmdStep := 3, addrs := [0x8000, 0x10000], payload := [1, 2, 3], writes := [(0x10000, [5, 6])], journalRec := some 0 }
def onU (t : State) (f : UpdUnit → Bool) : Bool := f (updOf t 0)

/-- R289, R291, R410: an UPDATE enters the unit of stack 0; one whose group breaks R289; one whose reference stays unknown. -/
theorem test_update :
    after (.update 0 9) (s9 group9 false { ready := true }) (fun t => (onU t fun u => u.tasks = [task9]) && ((queueOf t 0).flight.map fun x => (x.begun, x.done)) = [(true, false)]) = true ∧
    after (.update 0 9) (s9 (group9 + 1) false { ready := true }) (fun t => (onU t fun u => u.tasks = []) && ((queueOf t 0).flight.map (·.status)) = [.updGroupBad]) = true ∧
    after (.collRefUnknown 0 9) (setQueue s5 0 { state := .running, flight := [{ cmd := cmd (update9 ++ [(0x58, 7)]), descs := [group9] }] })
      (fun t => ((queueOf t 0).flight.map fun x => (x.done, x.status)) = [(true, .collRefUnknown)]) = true := by decide +kernel

/-- R291, R299: the five steps of a block. -/
theorem test_update_steps :
    after (.updBlockDispatch 0) (s9 group9 true { ready := true, tasks := [task9] })
      (fun t => onU t fun u => (u.blocks.map fun b => (b.index, b.step, b.gAddr)) = [(0, .dispatched, 0x8000)]) = true ∧
    after (.updJournalWrite 0) (s9 group9 true { ready := true, blocks := [block9 .dispatched] }) (fun t => onU t fun u => (u.blocks.map fun b => (b.step, b.journalRec)) = [(.written, some 0)] && u.nextSeq = 2 && u.ringPos = 1) = true ∧
    after (.updCommit 0) (s9 group9 true { ready := true, blocks := [block9 .written] }) (fun t => onU t fun u => (u.blocks.map (·.step)) = [.committed]) = true ∧
    after (.updInPlace 0) (s9 group9 true { ready := true, blocks := [block9 .committed] })
      (fun t => (onU t fun u => (u.blocks.map (·.step)) = [.inPlace]) && mread t.dev 0x10000 2 = [5, 6]) = true ∧
    after (.updRetire 0) (s9 group9 true { ready := true, blocks := [block9 .inPlace] })
      (fun t => (onU t fun u => u.blocks = []) && rget t (.updCtr 0 0) = 1 && ((queueOf t 0).flight.map fun x => (x.progress, x.done)) = [(1, true)]) = true := by decide +kernel

/-- Slow-tier state: block 8 parked with a slot, the group's weights in host memory. -/
def t9 (x : HoldSlot) (u : UpdUnit) : State :=
  setStack { parked (s9 slow9 true u) with host := { mode := 1 }, hostMem := mwrite [] 0x10000 [7] } 0 { ready := true, slots := [x] }

/-- R300 to R305. -/
theorem test_journal :
    after (.journalInit 0) (setUpd (setStack s5 0 {}) 0 { journalInit := true }) (fun t => (stackOf t 0).ready && (onU t fun u => u.ready && !u.journalInit) && t.dev = []) = true ∧
    after (.slowReplay 0) (t9 { tag := 8 } { ready := true, slowReplay := [0] }) (fun t => (onU t fun u => u.slowReplay = []) && rget t (.updCtr 0 2) = 1) = true ∧
    after (.slowFetch 0) (t9 { tag := 8 } { ready := true }) (fun t => ((stackOf t 0).slots.map (·.fetch)) = [.active s5.localNs]) = true ∧
    after (.slowFetchDone 0) (t9 { tag := 8, fetch := .active s5.localNs } { ready := true }) (fun t => (((stackOf t 0).slots.map (·.fetch)).all fun f => match f with | .arrived bs => bs.length = 4096 && bs.head? = some 7 | _ => false) && rget t (.updCtr 0 4) = 1) = true ∧
    after (.slowFetchFail 0) { t9 { tag := 8, fetch := .active s5.localNs } { ready := true } with host := {} }
      (fun t => ((stackOf t 0).slots.map (·.fetch)) = [.failed] && rget t (.updCtr 0 5) = 1) = true ∧
    after (.releaseFailed 0) (t9 { tag := 8, fetch := .failed } { ready := true }) (fun t => (stackOf t 0).slots = []) = true := by decide +kernel


/-! ## Fabric ports and the switch (spec/11) -/

/-- Streams 0, 1, … of kinds over both directions of a link with a good bundle, each with one lane (R447, R450). -/
def streams (l : Nat) (ks : List Nat) (s : State) : State :=
  [0, 1].foldl (fun s d => ks.zipIdx.foldl (fun s (x : Nat × Nat) =>
    setLink (rset s (.dlkStream l d x.2) (BitVec.ofNat 64 (x.1 * 2 ^ 24 + 2 ^ 63))) l d
      { linkOf s l d with bundles := [(0, { mode := .full })], granted := tset (fun _ => 0) (linkOf s l d).granted x.2 1 }) s) s

/-- Node 1 with port 2 in a state. -/
def onPort (k : Port) : State := setPort (rset s5 .fabNodeId 1) 2 k
def px (t : State) (f : Port → Bool) : Bool := f (portOf t 2)
def act (st : PortSt) : Port := { st := st, width := 8, rxNext := 7, lanes := [0, 1, 2, 3, 4, 5, 6, 7], txLanes := [0, 1, 2, 3, 4, 5, 6, 7], replay := [{ fseq := 3, kind := 0 }] }

/-- R353 to R356: states of a port. Lane 9 bad leaves nine good lanes, width 8; seven bad lanes leave width 2, nine none. -/
theorem test_port_states :
    after (.portEnable 2 true) (onPort {}) (fun t => (px t fun k => k.st = .training && k.width = 0) && rbit t (.fabPortCtrl 2) 0) = true ∧
    after (.portEnable 2 false) (onPort (act .active)) (fun t => px t fun k => k.st = .disabled && k.replay = []) = true ∧
    after (.retrain 2) (onPort (act .active)) (fun t => px t fun k => k.st = .training && k.replay = [] && k.retrain) = true ∧
    after (.trainingDone 2 { bad := 0x200 } 0 5 6 (List.replicate 8 64)) (onPort { st := .training }) (fun t => px t fun k => k.st = .active && k.width = 8 && k.peerNode = 5 && k.peerPort = 6 && k.lanes = [0, 1, 2, 3, 4, 5, 6, 7]) = true ∧
    after (.trainingDone 2 { bad := 0x0FF, rev := true } 0x001 5 6 (List.replicate 8 64)) (onPort { st := .training }) (fun t => px t fun k => k.st = .active && k.width = 2 && k.lanes = [9, 8] && k.txLanes = [1, 2]) = true ∧
    after (.trainingDone 2 { bad := 0x1FF } 0 5 6 (List.replicate 8 64)) (onPort { st := .training }) (fun t => px t fun k => k.st = .training) = true ∧
    after (.trainingDone 2 { bad := 0 } 0 5 6 (List.replicate 8 64)) (onPort (act .recovery)) (fun t => px t fun k => k.st = .active && k.width = 8 && k.rxNext = 7 && (k.replay.head?.map (·.fseq)) = some 3) = true ∧
    after (.trainingRestart 2) (onPort { st := .training, sinceNs := s5.localNs - 1000000000, rxFailed := 1 }) (fun t => px t fun k => k.sinceNs = s5.localNs) = true ∧
    after (.recoveryTimeout 2) (onPort { act .recovery with sinceNs := s5.localNs - 10000000 }) (fun t => px t fun k => k.st = .training && k.replay = []) = true ∧
    after (.recoveryTimeout 2) (onPort { act .recovery with sinceNs := s5.localNs - 9999999 }) (fun t => px t fun k => k.st = .recovery) = true := by decide +kernel

/-- R355, R356: lane 3 loses lock, and its swap takes lane 8; with lanes 8 and 9 failed the port narrows to 4, with all but one failed it retires. -/
theorem test_lanes :
    after (.laneFail 2 3 true) (onPort (act .active)) (fun t => px t fun k => k.rxFailed = 8 && k.swapDue = [3]) = true ∧
    after (.laneFail 2 9 true) (onPort (act .active)) (fun t => px t fun k => k.rxFailed = 0x200 && k.swapDue = []) = true ∧
    after (.laneSwap 2 3) (onPort { act .active with rxFailed := 8, swapDue := [3] }) (fun t => (px t fun k => k.st = .recovery && k.lanes = [0, 1, 2, 8, 4, 5, 6, 7] && k.swapDue = []) &&
      ((errQ t 4).recs.map fun r => (r.status, r.resource)) = [(.fabLaneSpared, resource 0x06 23)]) = true ∧
    after (.laneSwap 2 3) (onPort { act .active with rxFailed := 0x308, swapDue := [3] }) (fun t => (px t fun k => k.st = .recovery && k.width = 4) && ((errQ t 4).recs.map (·.status)) = [.fabPortNarrowed]) = true ∧
    after (.laneSwap 2 3) (onPort { act .active with rxFailed := 0x3FE, swapDue := [3] }) (fun t => (px t fun k => k.st = .retired && k.replay = []) && ((errQ t 4).recs.map (·.status)) = [.fabPortRetired]) = true := by decide +kernel

/-- Port 2 receives a flit on eight lanes, byte i of the flit on lane i mod 8 (R352). -/
def receive (f : Flit) (first : List (BitVec 4 × BitVec 10)) : Instr := .flitReceive 2 [0, 1, 2, 3, 4, 5, 6, 7] (stripe 8 (flitBytes f)) first []
/-- The flits that lanes carried: port, FSEQ, ACK_SEQ and NAK. -/
def onWire (t : State) : List (Nat × Option (BitVec 12 × BitVec 12 × Bool)) :=
  t.fab.wire.map fun x => (x.1, (parseFlit (unstripe (x.2.map (·.2)))).map fun f => (f.fseq, f.ackSeq, f.nak))

/-- R357: the check value of CRC-64 with the ECMA-182 polynomial reflected (CRC-64/XZ), over "123456789". -/
theorem test_crc64 : crc64 [0x31, 0x32, 0x33, 0x34, 0x35, 0x36, 0x37, 0x38, 0x39] = 0x995DC9BBDF1939FA := by decide +kernel

/-- R359 to R361: a flit in order; one of which a codeword has 16 bad symbols; one out of order after a NAK; resends. -/
theorem test_flits :
    after (receive { fseq := 7, kind := 0 } [(0, 15)]) (onPort (act .active)) (fun t => (px t fun k => k.rxNext = 8) && rget t (.fabPortCtr 2 1) = 1 && rget t (.fabPortCtr 2 4) = 15) = true ∧
    after (receive { fseq := 7, kind := 0 } [(0, 16)]) (onPort (act .active)) (fun t => (px t fun k => k.rxNext = 7 && k.nakSent) && onWire t = [(2, some (0, 6, true))] && rget t (.fabPortCtr 2 5) = 1) = true ∧
    after (receive { fseq := 9, kind := 0 } []) (onPort { act .active with nakSent := true }) (fun t => t.fab.wire = [] && px t fun k => k.rxNext = 7) = true ∧
    after (.flitReplay 2) (onPort { act .active with nakSeen := true }) (fun t => onWire t = [(2, some (3, 6, false))] && px t fun k => k.resends = 1 && !k.nakSeen) = true ∧
    after (.flitReplay 2) (onPort { act .active with nakSeen := true, resends := 255 }) (fun t => t.fab.wire = [] && px t fun k => k.st = .recovery && k.replay.length = 1) = true := by decide +kernel

/-- A packet at the switch, with port 2 in RECOVERY and the route of node 5 through it. -/
def atSwitch (pk : Packet) (port : Option Nat) : State :=
  let s := streams 4 [kindFab] (rset (rset (onPort (act .recovery)) (.fabRoute 5) 4) (.fabBcast 1) (4 * 2 ^ 32))
  { s with fab := { s.fab with sw := [{ pkt := pk, port := port }] } }

/-- R373 to R377. -/
theorem test_switch :
    after (.packetForward 0) (atSwitch { ptype := 0x0A, destNode := 1 } (some 3)) (fun t => t.fab.sw = [] && t.fab.arrived.length = 1) = true ∧
    after (.packetForward 0) (atSwitch { ptype := 0x0A, destNode := 5 } none) (fun t => t.fab.sw = [] && px t fun k => (k.outq.map (·.pkt.hops)) = [14]) = true ∧
    after (.packetForward 0) (atSwitch { ptype := 0x0A, destNode := 6 } none) (fun t => t.fab.sw = [] && rget t (.fabDrop 0) = 1) = true ∧
    after (.packetForward 0) (atSwitch { ptype := 0x0E, destNode := 1 } none) (fun t => rget t (.fabDrop 6) = 1) = true ∧
    after (.packetForward 0) (atSwitch { ptype := 0x0A, destNode := 5, hops := 0 } (some 3)) (fun t => rget t (.fabDrop 1) = 1 && px t fun k => k.outq = []) = true ∧
    after (.broadcastForward 0) (atSwitch { ptype := 0x0A, bcast := true, btree := 1 } none) (fun t => t.fab.sw = [] && t.fab.arrived = [] && px t fun k => (k.outq.map (·.pkt.hops)) = [14]) = true ∧
    after (.fabStall 2) (rset (onPort { act .active with outq := [⟨{}, 0, 28, 0, false⟩], curNs := [(0, s5.localNs - 999)] }) .fabReqCtrl (2 ^ 32)) (fun t => (px t fun k => k.outq = []) && rget t (.fabDrop 5) = 1 && ((errQ t 4).recs.map (·.status)) = [.fabStall]) = true ∧
    after (.fabStall 2) (rset (onPort { act .active with outq := [⟨{}, 0, 28, 0, false⟩], curNs := [(0, s5.localNs - 998)] }) .fabReqCtrl (2 ^ 32)) (fun t => px t fun k => k.outq.length = 1) = true := by decide +kernel

/-- A packet that has arrived at node 1, from node 5; window 0 admits reads, writes and adds of 0x8000 to 0x8FFF. -/
def atUnit (pk : Packet) : State :=
  let s := rset (rset (rset (rset s5 .fabNodeId 1) (.fabWinBase 0) 0x8000) (.fabWinLimit 0) 0x8000) (.fabWinCtrl 0) 0xE0000000FFFF0000
  { s with fab := { arrived := [{ pkt := pk, port := some 3 }] } }
/-- Types, first bytes and AUX of the packets that the package sends. -/
def sent (t : State) : List (Byte × List Byte × Word64) := t.fab.sw.map fun x => (x.pkt.ptype, x.pkt.payload.take 4, x.pkt.aux)

/-- R364, R369: requests and their answers. -/
theorem test_remote_requests :
    after (.readReq 0) (atUnit { ptype := 1, srcNode := 5, addr := 0x8404, aux := 4 }) (fun t => ((sent t).map fun x => (x.1, x.2.1)) = [(2, [2, 0, 0, 0]), (5, [])]) = true ∧
    after (.readReq 0) (atUnit { ptype := 1, srcNode := 5, addr := 0x8FFD, aux := 4 }) (fun t => sent t = [(5, [], (statusCode .fabAccessDenied).setWidth 64)] && rget t (.fabDrop 2) = 1) = true ∧
    after (.write 0) (atUnit { ptype := 3, srcNode := 5, addr := 0x8404, payload := [9, 8] }) (fun t => mread t.dev 0x8404 3 = [9, 8, 0] && sent t = [(5, [], 0)]) = true ∧
    after (.write 0) (atUnit { ptype := 3, srcNode := 5, addr := 0x9000, payload := [9, 8] }) (fun t => t.dev = s5.dev && rget t (.fabDrop 2) = 1) = true ∧
    after (.accWrite 0) { atUnit { ptype := 4, srcNode := 5, addr := 0x8400, aux := 1, payload := [0, 0, 0x80, 0x3F] } with dev := mwrite [] 0x8400 [0, 0, 0x80, 0x3F] } (fun t => mread t.dev 0x8400 4 = [0, 0, 0, 0x40] && sent t = [(5, [], 0)]) = true := by decide +kernel

/-- A receive of core 0 from node 5, a get of it, and the requests under way. -/
def c10 : Core := { prog 0 0 0 with
  slots := [(1, vec 1 0 0 2)]
  frq := [{ queuedJob { prog 0 0 0 with slots := [(1, vec 1 0 0 2)] } (.frecv 0 1 1 2 1 4 0 0) [1] 0 [0x0005000000000000, 0] with st := .started }]
  posted := [{ order := 0, rxn := 6, node := 5, unit := 0, tag := 4, vc := 1, size := 8 }] }
def g10 : Core := { prog 0 0 0 with
  frq := [{ queuedJob { prog 0 0 0 with slots := [(1, vec 1 0 0 2)] } (.fget 0 1 1 2 1 4 0 0) [1] 0 [0x0005000000000000, 0] with st := .started, pos := 8 }]
  outst := [{ txn := 6, order := 0, sentNs := 0, pos := 0, len := 8 }] }
def at10 (c : Core) (pk : Packet) : State := { atUnit pk with cores := [(0, c)] }

/-- R366 to R371. -/
theorem test_packets_at_units :
    after (.readResp 0) (at10 g10 { ptype := 2, srcNode := 5, tag := 6, payload := [1, 2, 3, 4, 5, 6, 7, 8] }) (fun t => mread (coreOf t 0).spad 0 8 = [1, 2, 3, 4, 5, 6, 7, 8] && ((coreOf t 0).outst.map (·.got)) = [true]) = true ∧
    after (.readResp 0) (at10 g10 { ptype := 2, srcNode := 5, tag := 7 }) (fun t => rget t (.fabDrop 8) = 1 && (coreOf t 0).spad = []) = true ∧
    after (.resp 0) (at10 { g10 with outst := [{ txn := 6, order := 0, sentNs := 0, pos := 0, len := 8, got := true }] } { ptype := 5, srcNode := 5, tag := 6 }) (fun t => (coreOf t 0).outst = []) = true ∧
    after (.resp 0) (at10 g10 { ptype := 5, srcNode := 5, tag := 6, aux := (statusCode .fabAccessDenied).setWidth 64 }) (fun t => (coreOf t 0).phase = .idle && (coreOf t 0).lastStatus = .fabAccessDenied) = true ∧
    after (.cts 0) (at10 (prog 0 0 0) { ptype := 6, srcNode := 5, tag := 4, rxn := 6, aux := 8 }) (fun t => (coreOf t 0).cts = [{ node := 5, unit := 0, tag := 4, rxn := 6, size := 8 }]) = true ∧
    after (.sendData 0) (at10 c10 { ptype := 7, srcNode := 5, tag := 4, rxn := 6, addr := 4, payload := [1, 2] }) (fun t => mread (coreOf t 0).spad 4 2 = [1, 2] && ((coreOf t 0).posted.map (·.got)) = [2]) = true ∧
    after (.sendData 0) (at10 c10 { ptype := 7, srcNode := 5, tag := 4, rxn := 7 }) (fun t => rget t (.fabDrop 3) = 1) = true ∧
    after (.withdraw 0) (at10 { prog 0 0 0 with cts := [{ node := 5, unit := 0, tag := 4, rxn := 6, size := 8 }] } { ptype := 9, srcNode := 5, tag := 4, rxn := 6 }) (fun t => (coreOf t 0).cts = []) = true ∧
    after (.withdraw 0) (at10 c10 { ptype := 9, srcNode := 5, tag := 4, rxn := 6, aux := (statusCode .fabTimeout).setWidth 64 }) (fun t => (coreOf t 0).lastStatus = .fabTimeout) = true ∧
    after (.msg 0) (rset (atUnit { ptype := 0xA, destUnit := 0xFFF, aux := 7 + 3 * 2 ^ 32 }) (.fabRevt 0) 1) (fun t => evtOf t 7 = 3) = true ∧
    after (.msg 0) (atUnit { ptype := 0xA, destUnit := 0xFFF, aux := 7 + 3 * 2 ^ 32 }) (fun t => evtOf t 7 = 0 && rget t (.fabDrop 2) = 1) = true ∧
    after (.msg 0) (atUnit { ptype := 0xA, srcNode := 5, aux := 99 }) (fun t => (clusterOf t 0).mailbox = [{ value := 99, node := 5, unit := 0 }]) = true ∧
    after (.mgmt 0) (atUnit { ptype := 0xD, srcNode := 5 }) (fun t => (t.fab.mgmt.map (·.srcNode)) = [5]) = true ∧
    after (.fabTimeout 0) (rset (at10 g10 {}) .fabReqCtrl 1) (fun t => (coreOf t 0).lastStatus = .fabTimeout) = true := by decide +kernel


/-! ## Collectives (spec/12) -/

/-- A collective of one member, core 0 of node 1, in place on two F32: the list at 0x8000, the descriptor at 0x8080. -/
def s11 : State :=
  rset (rset { s5 with dev := mwrite (mwrite [] 0x8000 (leBytes 24 (2 ^ 48 + 0x8080 * 2 ^ 64 + 0x8080 * 2 ^ 128))) 0x8080 (leBytes 128 (vec 1 2 0x8400 2).toNat) } .fabNodeId 1) (.cqPart 0) 1
def coll11 : List (Nat × Nat) := [(0, 5), (0x40, 0x8000), (0x48, 7), (0x50, 2 ^ 20)]

/-- A collective of core 0 of node 1 and core 0 of node 5; its members have ended. -/
def two : Coll := { q := 0, seq := 9, ref := 7, attempt := 2, op := 0, fmt := .f32, width := 1, root := 0, num := 0, timeoutUs := 500, elems := 2
                    members := [{ node := 1, unit := 0 }, { node := 5, unit := 0 }] }
def open7 : SealEntry := { ref := 7, attempt := 2 }
def inColl (cl : Coll) (e : SealEntry) (pks : List Packet) : State :=
  let s := fly coll11 (rset s5 .fabNodeId 1)
  { s with coll := { entries := [e], colls := [cl] }, fab := { arrived := pks.map fun p => { pkt := p, port := some 3 } } }
def seal7 (t : State) : Option SealSt := (entryOf t 7).map (·.st)
def ends11 (t : State) : List (Bool × Status) := (queueOf t 0).flight.map fun x => (x.done, x.status)

/-- R391 to R394, R406, R409: a reduction of one member in place is sealed at once; a body with the reference 0 and a format that no reduction has. -/
theorem test_collective :
    after (.collective 0 9) (fly coll11 s11) (fun t => seal7 t = some .sealedOk && ends11 t = [(true, .success)] && rget t (.cumCtr 7) = 1) = true ∧
    after (.collective 0 9) (fly [(0, 5), (0x40, 0x8000), (0x50, 2 ^ 20)] s11) (fun t => ends11 t = [(true, .collBad)]) = true ∧
    after (.collective 0 9) (fly [(0, 5), (0x40, 0x8000), (0x48, 7), (0x50, 3 * 2 ^ 20)] s11) (fun t => ends11 t = [(true, .formatBad)]) = true ∧
    after (.collective 0 9) (rset (fly coll11 s11) (.cqPart 0) 2) (fun t => ends11 t = [(true, .partDenied)]) = true := by decide +kernel

/-- R411 to R414, R420: a collective without progress for 500 µs, an uncorrectable slot, and TAINT packets. -/
theorem test_taints :
    after (.collTimeout 0 9) (inColl { two with progressNs := s5.localNs - 500000 } open7 []) (fun t => seal7 t = some .failed && ends11 t = [(true, .collTimeout)] && (t.fab.sw.map fun x => (x.pkt.ptype, x.pkt.btree)) = [(0x0C, 1)]) = true ∧
    after (.collTimeout 0 9) (inColl { two with progressNs := s5.localNs - 499999 } open7 []) (fun t => seal7 t = some .opened) = true ∧
    after (.cumUncorrectable 0 9 3 0) (inColl { two with joins := [{ chunk := 3, share := 0, seg := [0] }] } open7 []) (fun t => seal7 t = some .failed && ends11 t = [(true, .tainted)]) = true ∧
    after (.taint 0) (inColl two open7 [{ ptype := 0x0C, payload := taintPayload 8 3 0x0123 1 }]) (fun t => (entryOf t 8).isSome && seal7 t = some .opened && rget t (.cumCtr 5) = 1 && rget t .cumTaint0 = 8) = true ∧
    after (.taint 0) (inColl two open7 [{ ptype := 0x0C, payload := taintPayload 7 3 0x0123 1 }]) (fun t => seal7 t = some .opened && rget t (.cumCtr 6) = 1) = true := by decide +kernel

def tok (aux : Word64) : Packet := { ptype := 8, destUnit := 0xFFF, srcUnit := 0xFFF, addr := 7, rxn := 0x200, aux := aux, srcNode := 5 }
def from5 : Coll := { two with members := [{ node := 5, unit := 0 }, { node := 1, unit := 0 }] }

/-- R406, R407: the tokens. -/
theorem test_tokens :
    after (.confirmToken 0) (inColl from5 open7 [tok 0xFFFFFFFE00000000]) (fun t => (t.fab.sw.map fun x => (x.pkt.destNode, x.pkt.aux)) = [(5, 0xFFFFFFFE00000000)] && seal7 t = some .opened && (t.coll.colls.map (·.confirmSent)) = [true]) = true ∧
    after (.confirmToken 0) (inColl { from5 with members := [{ node := 5, unit := 0 }, { node := 1, unit := 0, ended := false }] } open7 [tok 0xFFFFFFFE00000000]) (fun t => t.fab.sw = [] && (t.coll.colls.map (·.confirmAt)) = [true]) = true ∧
    after (.confirmToken 0) (inColl { two with confirmSent := true } open7 [tok 0xFFFFFFFE00000000]) (fun t => (t.fab.sw.map fun x => (x.pkt.destNode, x.pkt.aux)) = [(5, 0xFFFFFFFF00000000)] && seal7 t = some .sealedOk && ends11 t = [(true, .success)]) = true ∧
    after (.sealToken 0) (inColl from5 open7 [tok 0xFFFFFFFF00000000]) (fun t => t.fab.sw.length = 1 && seal7 t = some .sealedOk) = true ∧
    after (.sealToken 0) (inColl two { open7 with st := .sealedOk } [tok 0xFFFFFFFF00000000]) (fun t => t.fab.sw = [] && (t.coll.colls.map (·.passEnded)) = [true]) = true ∧
    after (.tokenResend 0 9) (inColl { two with confirmSent := true, tokenNs := s5.localNs - 100000 } open7 []) (fun t => (t.fab.sw.map (·.pkt.aux)) = [0xFFFFFFFE00000000]) = true ∧
    after (.tokenResend 0 9) (inColl { two with confirmSent := true, tokenNs := s5.localNs - 99999 } open7 []) (fun t => t.fab.sw = []) = true := by decide +kernel

/-- A join of share 0 whose one local input has 1.0 for its element, and whose sum stands at 2.0. -/
def join11 (crc : Nat) : Join := { chunk := 0, share := 0, seg := [0], rxn := 6, sum := [decodeScalar (scalarFmt .f32) 0x40000000]
                                   inputs := [{ from_ := 0, got := 4, data := mwrite [] 0 [0, 0, 0x80, 0x3F], auxSeen := [BitVec.ofNat 64 crc] }] }
def claimed (j : Join) : Coll := { two with slots := 4, joins := [j] }

/-- R398, R399, R401: the check of an input, with its CRC-32C and with another; a chunk that matches nothing; the sum sent to its owner. -/
theorem test_joins :
    after (.chunkCheck true 0) (inColl (claimed (join11 (crc32c [0, 0, 0x80, 0x3F]))) open7 [])
      (fun t => rget t (.cumCtr 2) = 4 && seal7 t = some .opened && (t.coll.colls.flatMap fun c => c.joins.flatMap fun j => j.sum.map (encodeScalar (scalarFmt .f32))) = [0x40400000]) = true ∧
    after (.chunkCheck true 0) (inColl (claimed (join11 1)) open7 []) (fun t => seal7 t = some .tainted) = true ∧
    after (.chunkData 0) (inColl two open7 [{ ptype := 8, tag := 99, payload := [1] }]) (fun t => rget t (.fabDrop 3) = 1) = true ∧
    after (.joinEmit { n := 0 }) (setCore (inColl (claimed { join11 0 with inputs := [] }) open7 []) 0 { inColl := true, phase := .running, posted := [{ order := 0, rxn := 6, node := 1, unit := 0, tag := 7, vc := 1, size := 4, chunk := some 0 }] })
      (fun t => ((t.fab.sw.take 1).map fun x => (x.pkt.ptype, x.pkt.payload)) = [(8, [0, 0, 0, 0x40])]) = true := by decide +kernel


/-! ## Errors, retirement, failover, debug (spec/18) -/

def rec12 (st : Status) (cls : Nat) : ErrRec := { status := st, cls := cls, source := 4, resource := 5 }
def withRecs (q : Nat) (l : List ErrRec) : State := setErrQ s5 q { recs := l }

/-- R569 to R573: a record raised by one class; a full queue; the log. -/
theorem test_error_records :
    decide (((errQ (raiseRecord s5 (rec12 .fabStall 2)) 4).recs.map fun r => (r.status, r.cls, r.raised)) = [(.fabStall, 2, false)]) = true ∧
    decide (((errQ (raiseRecord (withRecs 4 [rec12 .fabStall 2]) (rec12 .fabStall 2)) 4).recs.map fun r => (r.cls, r.raised)) = [(2, false), (3, true)]) = true ∧
    (let t := raiseRecord (withRecs 4 (List.replicate 32 (rec12 .fabStall 2))) (rec12 .fabStall 2)
     (errQ t 4).recs.length = 32 ∧ (errQ t 4).escalated = true ∧ Due.welkinFatal ∈ t.err.due ∧ rget t (.errOverflow 4) = 1) ∧
    (let t := raiseRecord (withRecs 1 (List.replicate 32 { rec12 .coreHwFault 3 with source := 1 })) { rec12 .coreHwFault 3 with source := 1 }
     (errQ t 1).recs.length = 32 ∧ Due.dieFatal 1 causeReset ∈ t.err.due ∧ ((errQ t 4).recs.map (·.status)) = [.errQueueOverflow]) ∧
    (let f := { rec12 .coreHwFault 3 with source := 1 }
     let t := raiseRecord (raiseRecord (withRecs 1 (List.replicate 32 f)) f) f
     ((errQ t 4).recs.map fun r => (r.cls, r.raised)) = [(4, false), (5, true)] ∧ Due.packageFatal .errQueueOverflow ∈ t.err.due) ∧
    after (.errRecordFree 4) (withRecs 4 [rec12 .fabStall 2]) (fun t => (errQ t 4).recs = [] && t.err.logSeq = 1) = true ∧
    after (.errRecordFree 4) (rset (rset (withRecs 4 [rec12 .fabStall 2]) .errCtrl 8) .errLogBase 0x8000) (fun t => (errQ t 4).recs = [] && t.err.logSeq = 2 && rget t .errLogWritten = 1) = true ∧
    after (.errRecordFree 4) (withRecs 4 [rec12 .fabStall 4]) (fun t => t.fld.live.eventNext = 1) = true := by decide +kernel

def core12 : Core := { prog 0 0 0 with spad := [(0, 1)] }
/-- R249, R579, R580: a hardware fault of core 3, its retirement with a spare and without one, and a scratchpad's. -/
theorem test_core_retirement :
    after (.coreHwFault 3) (setCore s5 3 core12) (fun t => (coreOf t 3).phase = .idle && (coreOf t 3).failed && (coreOf t 3).lastStatus = .coreHwFault && t.err.due.contains (.retire (coreRes 3))) = true ∧
    after (.coreRetired 3) { setCore s5 3 { core12 with phase := .idle } with err := { due := [.retire (coreRes 3)] } }
      (fun t => (clusterOf t 0).spare0 = 3 && physOf t 3 = some 64 && (coreOf t 64).spad = [] && ((errQ t 0).recs.map fun r => (r.status, r.detail)) = [(.coreRetired, 3)]) = true ∧
    after (.coreRetired 3) { setCluster (setCore s5 3 { core12 with phase := .idle }) 0 { clearing := false, spare0 := 1, spare1 := 2 } with err := { due := [.retire (coreRes 3)] } }
      (fun t => (clusterOf t 0).absent = 8 && physOf t 3 = none && ((errQ t 0).recs.map (·.status)) = [.coreLost]) = true ∧
    after (.spadRetireCopy 3) (setCore s5 3 { core12 with phase := .idle, retirePending := true }) (fun t => physOf t 3 = some 64 && (coreOf t 64).spad = [(0, 1)]) = true := by decide +kernel

/-- R581, R608, R624: application cores. -/
theorem test_failover :
    after (.appCoreFault 2 false) s5 (fun t => (svcOf t 2).out && ((errQ t 4).recs.map (·.status)) = [.appCoreFault]) = true ∧
    after (.appCoreFault 4 true) s5 (fun t => (clusterOf t 0).stewardOut && (clusterOf t 0).partnerServes) = true ∧
    after (.appCoreFault 4 false) (setCluster s5 1 { clearing := false, stewardOut := true, partnerServes := true }) (fun t => !(clusterOf t 1).partnerServes && t.err.due.contains (.dieFatal 0 causeReset)) = true ∧
    after (.appCoreFault 4 true) (setSvc s5 4 { halted := true }) (fun t => !(clusterOf t 0).stewardOut) = true ∧
    after (.appCoreResume 2) (setSvc s5 2 { out := true }) (fun t => !(svcOf t 2).out) = true ∧
    after (.appCoreResume 2) (setSvc s5 2 { out := true, locked := true }) (fun t => (svcOf t 2).out) = true ∧
    after (.appCoreResume 4) (setCluster s5 0 { clearing := false, stewardOut := true, partnerServes := true }) (fun t => !(clusterOf t 0).stewardOut && !(clusterOf t 0).partnerServes) = true ∧
    after (.stewardPartnerAccess 0 8 (.load 0)) (setCluster s5 1 { clearing := false, stewardOut := true, partnerServes := true, cmem := [(8, 77)] }) (fun t => (clusterOf t 0).stewardData = 77) = true ∧
    after (.stewardPartnerAccess 0 8 (.load 0)) s5 (fun t => (clusterOf t 0).lastFault = some 5) = true ∧
    after (.stewardPartnerAccess 0 8 (.store 0 1)) (setCluster s5 1 { clearing := false, stewardOut := true, partnerServes := true }) (fun t => (clusterOf t 1).cmem = [(8, 1)]) = true := by decide +kernel

def scopeOpen (n : BitVec 3) (c : Core) : State := { setCore s5 0 c with sec := { scopes := n } }
/-- R549, R601, R607, R608: scope bit 1 opens the sequencers, bit 0 the application cores. -/
theorem test_debug :
    after (.debugHalt (.sequencer 0) false) (scopeOpen 2 core12) (fun t => (coreOf t 0).halted && (coreOf t 0).haltNs = s5.localNs) = true ∧
    after (.debugHalt (.sequencer 0) true) (scopeOpen 2 { core12 with halted := true }) (fun t => (coreOf t 0).stepping) = true ∧
    after (.debugHalt (.sequencer 0) false) (scopeOpen 1 core12) (fun t => !(coreOf t 0).halted) = true ∧
    after (.debugHalt (.steward 3) false) (scopeOpen 1 core12) (fun t => (svcOf t 7).halted) = true ∧
    after (.debugHalt (.service 3) false) (scopeOpen 2 core12) (fun t => !(svcOf t 3).halted) = true ∧
    after (.debugResume (.sequencer 0)) (scopeOpen 2 { core12 with halted := true, haltNs := s5.localNs - 100, startNs := 50 }) (fun t => !(coreOf t 0).halted && (coreOf t 0).startNs = 150) = true ∧
    after (.debugResume (.steward 3)) (setSvc s5 7 { halted := true }) (fun t => !(svcOf t 7).halted) = true := by decide +kernel

/-! ## Die links and dies (spec/14) -/

/-- Direction 0 of link 2 with its bundle 1 in a mode; stream 6 holds its lanes, and lane 3 is next. -/
def linked (b : Bundle) : State := setLink s5 2 0 { bundles := [(1, b)], granted := [(6, 8)], turn := [(6, 3)] }
def bun (t : State) : Bundle := bundleOf (linkOf t 2 0) 1
def lane3 (x : LinkLane) : Bundle := { mode := .full, lanes := [(3, x)] }

/-- R443 to R445, R455 to R459: words, a bad beat, a replay, a diagnosis, a remap and a bundle that becomes HALF. -/
theorem test_die_links :
    after (.linkBeatReceive 2 false 1 3 (some (6, 7)) 0) (linked (lane3 {})) (fun t => (laneAt (bun t) 3).unacked = [7] && (laneAt (bun t) 3).credit = 1 && rget t (.dlkCtr 2 0 3) = 1 &&
      tget (fun _ => 0) (linkOf t 2 0).turn 6 = 4) = true ∧
    after (.linkBeatReceive 2 false 1 2 (some (6, 7)) 0) (linked (lane3 {})) (fun t => t = linked (lane3 {})) = true ∧
    after (.linkBeatReceive 2 false 1 3 (some (6, 7)) 1) (linked (lane3 {})) (fun t => (laneAt (bun t) 3).discard && (laneAt (bun t) 3).nakDue && (laneAt (bun t) 3).credit = 0) = true ∧
    after (.linkReplay 2 false 1 3 []) (linked (lane3 { unacked := [7, 8], nakSeen := true, discard := true }))
      (fun t => (laneAt (bun t) 3).credit = 2 && !(laneAt (bun t) 3).nakSeen && !(laneAt (bun t) 3).discard && rget t (.dlkCtr 2 0 0) = 1) = true ∧
    after (.laneDiagnosis 2 false 1 3 []) (linked (lane3 { replays := List.replicate 4 (s5.localNs - 1000) })) (fun t => rget t (.dlkCtr 2 0 1) = 1 && (laneAt (bun t) 3).replays = []) = true ∧
    after (.laneDiagnosis 2 false 1 3 [9]) (linked (lane3 { replays := [s5.localNs, 5, 5, s5.localNs - 1000] })) (fun t => (bun t).due = [9]) = true ∧
    after (.laneDiagnosis 2 false 1 3 [9]) (linked (lane3 { replays := [s5.localNs, 5, 5, s5.localNs - 1001] })) (fun t => (bun t).due = []) = true ∧
    after (.wireRemap 2 false ⟨1, none⟩) (linked { mode := .full, due := [9] }) (fun t => (bun t).failed = [9] && (bun t).due = [] && (bun t).mode = .full && rget t (.dlkCtr 2 0 2) = 1) = true ∧
    after (.wireRemap 2 false ⟨1, none⟩) (linked { mode := .full, failed := (List.range 16).map (264 + ·), due := [9] }) (fun t => (bun t).mode = .half) = true ∧
    after (.spareWireFail 2 false 1 5) (linked { mode := .full }) (fun t => (bun t).failed = [269]) = true := by decide +kernel

/-- R462 to R467: die 1 is fenced, reset, returns and is READY. -/
theorem test_dies :
    after (.dieFence 1 4 true) s5 (fun t => dieState t 1 = .fencing && ((errQ t 4).recs.map (·.status)) = [.dieOut]) = true ∧
    after (.dieFence 1 4 true) (setCore { s5 with err := { due := [.dieFatal 1 4] } } (66 * 16) core12) (fun t => (dieOf t 1).st = .out && (dieOf t 1).cause = 4 && (coreOf t (66 * 16)).phase = .idle && (coreOf t (66 * 16)).spad = [] && (errQ t 1).takenOver && !dieServes t 1 && dieServes t 0) = true ∧
    after (.dieFence 1 1 true) s5 (fun t => (dieOf t 1).st = .inService) = true ∧
    after (.dieReset 1) s5 (fun t => rbit t (.dlkDieCtrl 1) 1 && t.err.due.contains (.dieFatal 1 causeReset)) = true ∧
    after (.dieReturn 1 [] []) (setDie s5 1 { st := .out, cause := 4, linksUp := false }) (fun t => (dieOf t 1).st = .returning && (dieOf t 1).linksUp && (clusterOf t 16).clearing) = true ∧
    after (.dieReturn 1 [] []) { setDie s5 1 { st := .returning, cause := 4 } with clusters := (List.range 16).map fun c => (16 + c, { clearing := false }) } (fun t => (dieOf t 1).st = .ready) = true ∧
    after (.dieReturn 1 [] []) (setDie s5 1 { st := .returning, cause := 4 }) (fun t => (dieOf t 1).st = .returning) = true := by decide +kernel

/-! ## Cluster power (spec/15) -/

def powered (g : CluGov) : State := setCluGov s5 0 g
def cg (t : State) (f : CluGov → Bool) : Bool := f (cluGovOf t 0)
/-- R476 to R478, R483, R486, R490, R491. -/
theorem test_cluster_power :
    after (.droopDetect 0 1000) (powered {}) (fun t => (cg t fun g => g.droop = some 1000) && rget t (.govEv 5) = 1) = true ∧
    after (.droopDetect 0 999) (powered { droop := some 1000 }) (fun t => (cg t fun g => g.droop = some 1000) && rget t (.govEv 5) = 0) = true ∧
    after (.droopDetect 0 0) (powered {}) (fun t => cg t fun g => g.droop = none) = true ∧
    after (.stretchRecover 0 16) (powered { droop := some 1000 }) (fun t => (cg t fun g => g.droop = none && g.stretched = 16) && rget t (.govDroop 0 (droopBin 1000)) = 1 && rget t (.govEv 6) = 16) = true ∧
    after (.guardRecover 0) (powered { lg := 20, trigNs := s5.localNs - 1000000 }) (fun t => cg t fun g => g.lg = 21) = true ∧
    after (.guardRecover 0) (powered { lg := 20, trigNs := s5.localNs - 999999 }) (fun t => cg t fun g => g.lg = 20) = true ∧
    after (.graceExpiry 0) (powered { level := 24, wanted := 20, deferSince := some 0 }) (fun t => (cg t fun g => g.level = 20 && g.deferSince = none) && rget t (.govEv 1) = 1) = true ∧
    after (.idleOff 0) (rset (powered { idleSince := s5.localNs - 1000 }) (.govCluCtrl 0) 1) (fun t => cg t fun g => g.off) = true ∧
    after (.idleOff 0) (rset (powered { idleSince := s5.localNs - 999 }) (.govCluCtrl 0) 1) (fun t => cg t fun g => !g.off) = true ∧
    after (.clusterWake 0) (setQueue (powered { off := true }) 0 { state := .running, queued := [cmd [(0, 1), (0x40, 0x8000), (0x48, 0x8080)]] }) (fun t => (cg t fun g => !g.off) && (clusterOf t 0).clearing) = true ∧
    after .stepHoldExpiry { s5 with gov := { holdEnd := some 5 }, time := { now := 5 } } (fun t => t.gov.holdEnd = none) = true ∧
    after .stepHoldExpiry { s5 with gov := { holdEnd := some 6 }, time := { now := 5 } } (fun t => t.gov.holdEnd = some 6) = true ∧
    after (.timedActionFire (.window 1)) { rset (rset s5 (.govWinStart 1) 5) (.govWinCtrl 1) 0x8000000000000001 with time := { now := 5 } } (fun t => nbit (tget (fun _ => 0) t.gov.winFlags 1) 62 && !nbit (tget (fun _ => 0) t.gov.winFlags 1) 61) = true ∧
    after (.rampWindowEnd 1) { rset (rset s5 (.govWinStart 1) 5) (.govWinCtrl 1) 0x8000000000000001 with time := { now := 1005 }, gov := { winFlags := [(1, 2 ^ 62)] } } (fun t => nbit (tget (fun _ => 0) t.gov.winFlags 1) 61) = true := by decide +kernel


/-! ## The governor and the coolant loop (spec/15) -/

/-- R479, R481, R485, R488: the hard cap resets to 7,200 W, so three samples of 720,001 hundredths of a watt are above it. -/
theorem test_hard_caps :
    after (.hardCapFastPath 720001 720001 720001) s5 (fun t => t.gov.lhard = 20 && (cluGovOf t 63).level = 20 && t.gov.hardLimited && rget t (.govEv 2) = 1) = true ∧
    after (.hardCapFastPath 720001 720000 720001) s5 (fun t => t.gov.lhard = 24) = true ∧
    after (.thermalTrip 4 0x7300) s5 (fun t => t.pkg.thermTrip && (cluGovOf t 0).off && t.err.due.contains (.packageFatal .thermalTrip) && ((errQ t 4).recs.map (·.resource)) = [facility 0x14]) = true ∧
    after (.thermalTrip 4 0x72FF) s5 (fun t => !t.pkg.thermTrip) = true ∧
    after (.govCapWrite (.whole 0x1C2000000064)) { s5 with host := { mode := 1 }, gov := { draw := 5000 } } (fun t => rget t .govCap = 0x1C2000000064 && t.gov.effSoft = 10000) = true ∧
    after (.govCapWrite (.whole 0x1C2000000064)) { s5 with host := { mode := 1 }, gov := { draw := 50000 } } (fun t => t.gov.effSoft = 50000) = true := by decide +kernel

/-- R492 to R495. K_FLOW 1,000 pulses a litre and a least flow of 100. -/
def cooledBy (w : Word64) (g : Gov) : State := rset { s5 with gov := { g with cool := w } } .govCoolCtrl w
def cooled (g : Gov) : State := cooledBy (0x006403E800000000 + 1023 * 1024) g
theorem test_coolant :
    after (.valveUpdate (some 0x1400) (some 0x1900)) (cooled {}) (fun t => t.gov.tIn = 0x1400 && t.gov.tOut = 0x1900 && t.gov.valveNs = s5.localNs) = true ∧
    after (.valveUpdate none (some 0x1900)) (cooled { badIn := 1, flow := .low }) (fun t => t.gov.badIn = 2 && (t.gov.duty : Int) = dutyOf 1023) = true ∧
    after (.coolSensorFail false) (cooled { badIn := 3 }) (fun t => t.gov.sensorFail && (t.gov.duty : Int) = dutyOf 1023 && ((errQ t 4).recs.map (·.status)) = [.coolSensorFail]) = true ∧
    after (.coolSensorFail false) (cooled { badIn := 2 }) (fun t => !t.gov.sensorFail) = true ∧
    after (.flowComputation 1) (cooled { flow := .ok }) (fun t => t.gov.flow = .ok && t.gov.flowRate = 120 && t.gov.nLow = 0) = true ∧
    after (.flowComputation 0) (cooled { flow := .ok }) (fun t => t.gov.flow = .lost && ((errQ t 4).recs.map (·.status)) = [.flowLost]) = true ∧
    after (.flowComputation 1) (cooledBy 0x01E003E800000000 { flow := .ok, nLow := 1 }) (fun t => t.gov.flow = .low && rget t (.govEv 4) = 1) = true ∧
    after (.flowComputation 9) (cooledBy 0 { flow := .ok }) (fun t => t.gov.flow = .notMonitored) = true := by decide +kernel

/-- R478 to R484, R496, R498: an interval in which the package drew 2,048 units, two microjoules; the snapshot of an ENERGY_MARK. -/
theorem test_heart :
    after (.heartIntervalEnd [{ kind := .other, energy := 2049, cycles := 0, uses := [] }] (List.replicate 64 0x3200) 0x3200) { s5 with time := { now := 10000 } }
      (fun t => t.gov.lastEnd = 10000 && rget t (.govE 0) = 2 && tget (fun _ => 0) t.gov.rem (regOffset (.govE 0)) = 1 && (cluGovOf t 5).temp = 0x3200) = true ∧
    after (.heartIntervalEnd [{ kind := .other, energy := 2049, cycles := 0, uses := [] }] [] 0) { s5 with time := { now := 9999 } } (fun t => t.gov.lastEnd = 0) = true ∧
    after (.energyMark 0 9) (setQueue s5 0 { state := .running, flight := [{ cmd := cmd [(0, 0xC), (0x40, 0x8000)], descs := [0x0504030201] }] })
      (fun t => mread t.dev 0x8000 5 = [1, 2, 3, 4, 5] && ((queueOf t 0).flight.map fun x => (x.done, x.status)) = [(true, .success)]) = true := by decide +kernel

/-! ## The host port (spec/16) -/

/-- CXL.mem with one decoder that maps 0x100000000 on to device memory, which the host reaches over the memory stream of die 0. -/
def hosted : State := { streams 4 [kindMem] s5 with host := { mode := 1, speed := 4, width := 1, decoders := [{ base := 0x100000000, size := 0x10000000, ways := 0, gran := 0, dev := 0 }] } }

/-- R506 to R511, R522: line 0x210 is 0x8400; line 0 of stack 1 is absent. -/
theorem test_host_memory :
    decide (hostLine hosted 0x100008400 = some 0x210) = true ∧
    after (.cxlMemRead 0x100008400 true) hosted (fun t => t.host.lastRead.extractLsb' 0 64 = 0x0000000200000001 && !t.host.lastPoison && t.host.snoop = [0x210]) = true ∧
    after (.cxlMemRead 0x100001000 false) hosted (fun t => t.host.lastPoison && t.host.lastRead = 0 && rget t (.glbHostCtr 1) = 1) = true ∧
    after (.cxlMemWrite 0x100008400 2 0xAABB) hosted (fun t => mread t.dev 0x8400 3 = [1, 0xAA, 0]) = true ∧
    after (.cxlMemWrite 0x100001000 2 0xAABB) hosted (fun t => t.dev = s5.dev && t.host.rasErrs = 1 && rget t (.glbHostCtr 0) = 1) = true ∧
    after (.bisnp 0x210 none) { hosted with host := { hosted.host with snoop := [0x210, 5] } } (fun t => t.host.snoop = [5] && rget t (.glbHostCtr 2) = 1) = true ∧
    after (.bisnp 0x210 (some 7)) { hosted with host := { hosted.host with snoop := [0x210] } } (fun t => mget t.dev 0x8400 = 7) = true ∧
    after (.sfEviction 0x210 none) { hosted with host := { hosted.host with snoop := (List.range 16).map fun i => 0x210 + 65536 * (i + 1), sfWait := [0x210] } }
      (fun t => t.host.snoop.length = 16 && t.host.snoop.contains 0x210 && t.host.sfWait = [] && t.host.lastRead.extractLsb' 0 64 = 0x0000000200000001 && rget t (.glbHostCtr 3) = 1) = true := by decide +kernel

def hq : State := rset { hosted with queues := [(0, { state := .running, flight := [] })] } (.cqRing 0) 0x8000000000010000
/-- R502, R514, R522 to R526. -/
theorem test_host_link :
    after (.hostLinkUp true 4 1 false ⟨hosted.host.decoders, 0xFF0000000, true, false⟩) s5 (fun t => t.host.mode = 1 && t.host.cmdEn) = true ∧
    after (.hostLinkUp true 2 1 false ⟨hosted.host.decoders, 0, true, false⟩) s5 (fun t => t.host.mode = 0) = true ∧
    after .hostLinkDown hq (fun t => t.host.mode = 0 && rget t (.glbHostCtr 4) = 1 && (queueOf t 0).state = .disabled && ((errQ t 4).recs.map (·.status)) = [.hostLinkDown]) = true ∧
    after .perstN hosted (fun t => t.host.mode = 0) = true ∧
    after .flr { hosted with host := { hosted.host with cmdEn := true, msix := [(1, { addr := 4 })] } } (fun t => !t.host.cmdEn && t.host.msix = [] && t.host.mode = 1) = true ∧
    after (.ideFailure true) { hosted with host := { hosted.host with ideMem := true } } (fun t => !t.host.ideMem && rget t (.glbHostCtr 5) = 1 && ((errQ t 4).recs.map (·.status)) = [.hostIdeFail]) = true ∧
    after (.hostAccessTimeout (.command 0 9)) { fly [(0, 1), (0x40, 0x8000000000008000), (0x48, 0x8080)] hosted with host := hosted.host }
      (fun t => ((queueOf t 0).flight.map (·.status)) = [.hostAccessFail]) = true ∧
    after (.hostAccessTimeout (.engine 0)) hq (fun t => (queueOf t 0).state = .stopped && (queueOf t 0).lastStatus = .hostAccessFail) = true ∧
    after (.hostAccessTimeout (.load 0)) { setCore hosted 0 { prog 0 0 0 with phase := .loading, argAddr := 0x8000000000008000, argLen := 8 } with host := hosted.host } (fun t => (coreOf t 0).lastStatus = .hostAccessFail) = true := by decide +kernel

/-- R15, R518 to R520, R614, R615. 0x90040 is CQ_Q_CFG of queue 1. -/
theorem test_bar0 :
    after (.bar0Access true 0x90040 .read8) hosted (fun t => t.host.barData = 0x1000) = true ∧
    after (.bar0Access true 0x90044 .read4) (rset hosted (.cqCfg 1) 0x500000000) (fun t => t.host.barData = 5) = true ∧
    after (.bar0Access true 0x90042 .oddRead) hosted (fun t => t.host.barData = 0xFFFFFFFFFFFFFFFF && rget t (.glbHostCtr 6) = 1) = true ∧
    after (.bar0Access true 0x90040 .read8) s5 (fun t => t = s5) = true ∧
    after (.rcRead (BitVec.ofNat 28 (regOffset (.errOverflow 3)))) (rset hosted (.errOverflow 3) 8) (fun t => t.host.barData = 8 && rget t (.errOverflow 3) = 0) = true ∧
    after (.bar0Access true (BitVec.ofNat 28 (regOffset (.errOverflow 3))) .read4) (rset hosted (.errOverflow 3) 8) (fun t => t.host.barData = 8 && rget t (.errOverflow 3) = 8) = true ∧
    after (.bar0Access true 0xFF00 .read8) hosted (fun t => t.host.barData = 0) = true ∧
    after .cfgPeekData (rset hosted .cfgPeekAddr 0x90040) (fun t => t.host.barData = 0x1000) = true ∧
    after (.msixUnmask 3) { hosted with host := { hosted.host with cmdEn := true, msixEn := true, pba := [3], msix := [(3, { addr := 64, data := 9 })] } } (fun t => t.host.sent = [(64, 9)] && t.host.pba = []) = true ∧
    after (.welkinReset (.whole 1)) hosted (fun t => rget t .glbRegRejects = 1 && t.pkg.stage = 5) = true ∧
    after (.welkinReset (.whole 0xD1E50001)) hosted (fun t => t.pkg.stage = 0 && t.pkg.warm && t.host.mode = 0 && t.dev = hosted.dev) = true := by decide +kernel


/-! ## Security, boot and resets (spec/17, spec/22) -/

def spdm (m : Spdm) : State := { s5 with sec := { spdm := m } }
/-- Requests answered, none for ERROR, with the length of the body. -/
def outs (t : State) : List (Option Nat × Nat) := t.sec.out.map fun x => match x with | .error => (none, 0) | .answer r b => (some r, b.length)
def openSpdm : Spdm := { step := 3, sessions := [1] }

/-- R545 to R547: the start-up of a connection, requests out of order, and one before RUNNING. -/
theorem test_spdm :
    after .getVersion (spdm openSpdm) (fun t => outs t = [(some 0x84, 2)] && t.sec.spdm = { step := 1, log := [(0x84, [0x13, 0x12])] }) = true ∧
    after .getCapabilities (spdm { step := 1 }) (fun t => outs t = [(some 0xE1, 4)] && t.sec.spdm.step = 2) = true ∧
    after .getCapabilities (spdm { step := 3 }) (fun t => outs t = [(none, 0)]) = true ∧
    after .negotiateAlgorithms (spdm { step := 2 }) (fun t => outs t = [(some 0xE3, 12)] && t.sec.spdm.step = 3) = true ∧
    after .negotiateAlgorithms (spdm { step := 1 }) (fun t => outs t = [(none, 0)]) = true ∧
    after (.getDigests none) (spdm openSpdm) (fun t => outs t = [(some 0x81, 48)]) = true ∧
    after (.getDigests (some 2)) (spdm openSpdm) (fun t => outs t = [(none, 0)]) = true ∧
    after (.getDigests none) { spdm openSpdm with pkg := {} } (fun t => outs t = []) = true ∧
    after (.challenge (some 1) 0) (spdm openSpdm) (fun t => outs t = [(some 0x83, 384)] && t.sec.spdm.signed.isSome) = true ∧
    after (.challenge none 1) (spdm openSpdm) (fun t => outs t = [(none, 0)]) = true := by decide +kernel

theorem test_spdm_sessions :
    after (.getMeasurements none 0 false) (spdm openSpdm) (fun t => outs t = [(some 0xE0, 1)]) = true ∧
    after (.getMeasurements none 6 true) (spdm openSpdm) (fun t => outs t = [(some 0xE0, 433)] && (t.sec.spdm.signed.map fun l => l.map (·.1)) = some [0xE0]) = true ∧
    after (.getMeasurements none 7 true) (spdm openSpdm) (fun t => outs t = [(none, 0)]) = true ∧
    after .keyExchange (spdm { step := 3 }) (fun t => outs t = [(some 0xE4, 384)] && t.sec.spdm.handshake = [0]) = true ∧
    after .keyExchange (spdm { step := 3, handshake := [0, 1], sessions := [2, 3] }) (fun t => outs t = [(none, 0)]) = true ∧
    after (.finish 2) (spdm { step := 3, handshake := [2] }) (fun t => outs t = [(some 0xE5, 0)] && t.sec.spdm.sessions = [2] && t.sec.spdm.handshake = []) = true ∧
    after (.finish 1) (spdm { step := 3, handshake := [2] }) (fun t => outs t = [(none, 0)]) = true ∧
    after (.endSession 1) (spdm openSpdm) (fun t => outs t = [(some 0xEC, 0)] && t.sec.spdm.sessions = []) = true ∧
    after (.endSession 3) (spdm openSpdm) (fun t => outs t = [(none, 0)]) = true ∧
    after (.companionSignature none) (spdm openSpdm) (fun t => outs t = [(none, 0)]) = true := by decide +kernel

def hdr (kind svn floor : Nat) : ImgHdr := { kind := BitVec.ofNat 8 kind, svn := BitVec.ofNat 8 svn, svnFloor := BitVec.ofNat 8 floor, slot := 0, cls := 0 }
def okVerdict : Verdict := { rsa := true, slh := true }
def secure (f : SecUnit) : State := { s5 with sec := f }

/-- R521, R536 to R539, R544, R549, R598. -/
theorem test_security :
    after (.ideKeyProgram (some 1) (.cachemem false)) { hosted with sec := { spdm := openSpdm } } (fun t => t.host.ideMem && !t.host.ideIo) = true ∧
    after (.ideKeyProgram none (.cachemem false)) { hosted with sec := { spdm := openSpdm } } (fun t => !t.host.ideMem) = true ∧
    after (.fieldRecordRead (some 1) 0 0 4) (spdm openSpdm) (fun t => outs t = [(some 0xFE, 12)]) = true ∧
    after (.fieldRecordRead (some 1) 0 0x1FFFE 4) (spdm openSpdm) (fun t => outs t = [(none, 0)]) = true ∧
    after (.present okVerdict false (some { hdr 6 0 0 with scopes := 3, bind := 8, bindOk := true })) (secure {}) (fun t => t.sec.scopes = 3) = true ∧
    after (.present okVerdict false (some { hdr 6 0 0 with scopes := 3 })) (secure {}) (fun t => t.sec.scopes = 0 && t.sec.dbgStatus = statusCode .debugGrantBad) = true ∧
    after (.present okVerdict false (some { hdr 6 0 0 with scopes := 3, bind := 8, bindOk := true, nonce := 5 })) (secure {}) (fun t => t.sec.scopes = 0) = true ∧
    after (.flashPairWrite true) { secure { flash := [(0, some { seq := 7, hdr := hdr 1 1 0 })], toWrite := some { seq := 0, hdr := hdr 1 2 0 } } with pkg := { stage := 5 } }
      (fun t => ((flashBank t 1).map fun b => (b.seq, b.hdr.svn)) = some (8, 2) && ((flashBank t 0).map (·.seq)) = some 7 && t.sec.updDone && t.sec.updStatus = statusCode .success) = true := by decide +kernel

/-- An image of KIND 1 with an empty payload at 0x8000, in RECOVERY_MODE (R535, R619). -/
def imaged (svn : Byte) : State :=
  rset (rset { s5 with pkg := { stage := 6 }, dev := mwrite [] 0x8000 [1, 1, 0, 0, svn], sec := { fuses := { fwSvn := 3 } } } .secUpdateAddr 0x8000) .secUpdateCtrl (0x4390 * 2 ^ 32 + 3)
/-- R536, R544: SVN 3 is not below the fuse's count, SVN 2 is; broken digests. -/
theorem test_go :
    after (.go okVerdict true) (imaged 3) (fun t => (t.sec.toWrite.map (·.hdr.svn)) = some 3) = true ∧
    after (.go okVerdict true) (imaged 2) (fun t => t.sec.toWrite = none && t.sec.updDone && t.sec.updStatus = statusCode .secRollback) = true ∧
    after (.go { okVerdict with payload := 1 } true) (imaged 3) (fun t => t.sec.updStatus = statusCode .secImageBad && !rbit t .secUpdateCtrl 0) = true := by decide +kernel

/-- R538, R540 to R543. -/
theorem test_boot :
    after (.boot [okVerdict] [] [] []) State.reset (fun t => t.pkg.stage = 1 && !pinReady t) = true ∧
    after (.boot [okVerdict] [] [] []) { State.reset with pkg := { stage := 1 } } (fun t => t.pkg.stage = 6 && t.fld.writing.isSome && t.pkg.failStatus = statusCode .secImageBad) = true ∧
    after (.boot [okVerdict] [] [] []) { State.reset with pkg := { stage := 1 }, sec := { flash := [(0, some { seq := 1, hdr := hdr 1 0 0 })] } } (fun t => t.pkg.stage = 2 && t.pkg.fwBank = 0) = true ∧
    after (.boot [okVerdict, { okVerdict with rsa := false }] [] [] []) { State.reset with pkg := { stage := 1 }, sec := { flash := [(0, some { seq := 1, hdr := hdr 1 0 0 }), (1, some { seq := 2, hdr := hdr 1 0 0 })] } }
      (fun t => t.pkg.stage = 2 && t.pkg.fwBank = 0 && t.pkg.failStatus = statusCode .secImageBad) = true ∧
    after (.boot [] [] [] []) { State.reset with pkg := { stage := 2 } } (fun t => t.pkg.stage = 3 && (clusterOf t 63).clearing) = true ∧
    after (.boot [] [] [] []) { State.reset with pkg := { stage := 3 } } (fun t => t.pkg.stage = 4 && t.pkg.cfgSource = 0) = true ∧
    after (.boot [] [] [] []) { State.reset with pkg := { stage := 4 }, clusters := (List.range 64).map fun c => (c, { clearing := false }) } (fun t => t.pkg.stage = 5 && pinReady t && t.fld.writing.isSome) = true ∧
    after (.boot [] [] [] []) { State.reset with pkg := { stage := 4 } } (fun t => t.pkg.stage = 4) = true := by decide +kernel

def warmed : State := { s5 with sec := { scopes := 7, fuses := { serial := 9 } }, stks := [(0, { ready := true })] }
/-- R462, R577, R578, R633, R636 to R639. -/
theorem test_resets :
    after (.pkgResetN 99 true) warmed (fun t => t = warmed) = true ∧
    after (.pkgResetN 100 true) warmed (fun t => t.pkg.stage = 0 && !t.pkg.inReset && t.sec.scopes = 0 && t.sec.fuses.serial = 9 && t.cores = [] && t.dev = s5.dev) = true ∧
    after (.pkgResetN 100 false) warmed (fun t => t.pkg.inReset) = true ∧
    after (.pkgResetN 100 true) { warmed with pkg := { inReset := true } } (fun t => !t.pkg.inReset) = true ∧
    after .vbusRemoved { warmed with pkg := { inReset := true } } (fun t => t.dev = [] && !t.pkg.powered && t.sec.fuses.serial = 9) = true ∧
    after .vbusRise { warmed with pkg := { powered := false } } (fun t => t.pkg.powered && t.pkg.inReset) = true ∧
    after (.vbusFault 5399) warmed (fun t => t.err.due.contains (.packageFatal .vbusFault) && ((errQ t 4).recs.map (·.status)) = [.vbusFault]) = true ∧
    after (.vbusFault 5400) warmed (fun t => t = warmed) = true ∧
    after (.sysclkLoss false) warmed (fun t => t.err.due.contains (.dieFatal 3 2)) = true ∧
    after (.sysclkLoss true) warmed (fun t => t.err.due.contains (.packageFatal .dieOut)) = true ∧
    after (.welkinFatal false true) { warmed with err := { due := [.welkinFatal] } } (fun t => t.pkg.stage = 0 && t.pkg.fatalBefore && t.queues = [] && t.dev = s5.dev) = true ∧
    after (.welkinFatal false true) { warmed with err := { due := [.welkinFatal] }, pkg := { stage := 4, fatalBefore := true } } (fun t => t.err.due.contains (.packageFatal .welkinRepeat)) = true ∧
    after .packageFatal { warmed with err := { due := [.packageFatal .vbusFault] } } (fun t => t.pkg.fatal = some .vbusFault && !pinFaultN t && (cluGovOf t 5).off && t.host.viral) = true := by decide +kernel

def fielded (f : FldUnit) : State := { s5 with fld := f }
/-- R588 to R592, R595. -/
theorem test_field_record :
    after .fieldWriteStart (fielded { pend := some 2 }) (fun t => (t.fld.writing.map fun w => (w.cause, w.bank)) = some (2, 0) && rget t (.fldCtr 0) = 1 && t.fld.snap.writes = 1) = true ∧
    after .fieldWriteStart (fielded { pend := some 2, lastStart := some (s5.localNs - 299999999999) }) (fun t => t.fld.writing = none) = true ∧
    after .fieldWriteStart (fielded { pend := some 2, lastStart := some (s5.localNs - 300000000000), banks := [(0, some (5, {}))] }) (fun t => (t.fld.writing.map (·.bank)) = some 1) = true ∧
    after (.fieldWriteEnd true) (fielded { banks := [(0, some (5, {}))], writing := some { cause := 2, startNs := 0, bank := 1 } }) (fun t => ((fldBank t 1).map (·.1)) = some 6 && t.fld.writing = none) = true ∧
    after (.fieldWriteEnd false) (fielded { banks := [(0, some (5, {}))], writing := some { cause := 2, startNs := 0, bank := 1 } }) (fun t => (fldBank t 1).isNone && t.fld.lastFailed && rget t (.fldCtr 1) = 1) = true ∧
    after .writeNow (fielded {}) (fun t => t.fld.pend = some 4 && t.fld.request) = true ∧
    after .writeNow (fielded { pend := some 2 }) (fun t => t.fld.pend = some 2 && rget t (.fldCtr 2) = 1) = true ∧
    after (.histogramTick [0x3200, 0, 0, 0, 0] []) (fielded {}) (fun t => t.fld.live.powerOn = 1 && tget (fun _ => 0) t.fld.live.temp (tempBin 0x3200) = 1) = true := by decide +kernel


/-! ## The rest of the tile instructions, issued and retired -/

/-- Issue an instruction on core 0 of s and retire the oldest of a unit. -/
def both (i : Instr) (unit : BitVec 3) (s : State) (f : State → Bool) : Bool := runs i s fun t => after (.insnRetire 0 unit) t f
/-- 8 bytes that a vector instruction on A = (1.0, 2.0), B = (3.0, 0.5), C = (1.0, 1.0) leaves in D. -/
def vout (i : Instr) : List Byte :=
  match exec i (place i s15) with
  | .next t => match exec (.insnRetire 0 3) t with | .next u => mread (coreOf u 0).spad 128 8 | _ => []
  | _ => []
where s15 : State := run { c2 with
  slots := [(1, vec 1 0 0 2), (2, vec 1 0 64 2), (3, vec 1 0 128 2), (4, vec 1 0 192 2), (5, vec 1 0 128 1)]
  spad := mwrite c2.spad 192 [0, 0, 0x80, 0x3F, 0, 0, 0x80, 0x3F] }

/-- R203 to R206, by hand. -/
theorem test_vector_results :
    vout (.vsub 0 3 1 2 0 0 1) = [0, 0, 0, 0xC0, 0, 0, 0xC0, 0x3F] ∧
    vout (.vmul 0 3 1 2 0 0 1) = [0, 0, 0x40, 0x40, 0, 0, 0x80, 0x3F] ∧
    vout (.vfma 0 3 1 2 4 0 1) = [0, 0, 0x80, 0x40, 0, 0, 0, 0x40] ∧
    vout (.vmax 0 3 1 2 0 0 1) = [0, 0, 0x40, 0x40, 0, 0, 0, 0x40] ∧
    vout (.vmin 0 3 1 2 0 0 1) = [0, 0, 0x80, 0x3F, 0, 0, 0, 0x3F] ∧
    vout (.vabs 0 3 1 0 0 0 1) = [0, 0, 0x80, 0x3F, 0, 0, 0, 0x40] ∧
    vout (.vneg 0 3 1 0 0 0 1) = [0, 0, 0x80, 0xBF, 0, 0, 0, 0xC0] ∧
    vout (.vcopy 0 3 1 0 0 0 1) = [0, 0, 0x80, 0x3F, 0, 0, 0, 0x40] ∧
    vout (.vsel 0 3 1 2 4 0 1) = [0, 0, 0x80, 0x3F, 0, 0, 0, 0x40] ∧
    vout (.vrcp 0 3 1 0 0 0 1) = [0, 0, 0x80, 0x3F, 0, 0, 0, 0x3F] ∧
    vout (.vsqrt 0 3 4 0 0 0 1) = [0, 0, 0x80, 0x3F, 0, 0, 0x80, 0x3F] ∧
    vout (.vrsqrt 0 3 4 0 0 0 1) = [0, 0, 0x80, 0x3F, 0, 0, 0x80, 0x3F] ∧
    vout (.vexp2 0 3 4 0 0 0 1) = [0, 0, 0, 0x40, 0, 0, 0, 0x40] ∧
    vout (.vlog2 0 3 4 0 0 0 1) = [0, 0, 0, 0, 0, 0, 0, 0] ∧
    vout (.vrsum 0 5 1 0 0 0 1) = [0, 0, 0x40, 0x40, 0, 0, 0, 0] ∧
    vout (.vrmax 0 5 1 0 0 0 1) = [0, 0, 0, 0x40, 0, 0, 0, 0] := by decide +kernel

/-- R210: 128 holds −1; the larger of −1 and 7, the smaller, a swap, and 1.0 + 2.0 in F32. -/
theorem test_more_atomics :
    both (.amax 0 4 1 2 0 0) 7 (run { prog (at0 128) 7 0 with spad := mwrite [] 128 [255, 255, 255, 255] }) (fun t => mread (coreOf t 0).spad 128 4 = [7, 0, 0, 0] && sreg (coreOf t 0) 4 = 0xFFFFFFFF) = true ∧
    both (.amin 0 4 1 2 0 0) 7 (run { prog (at0 128) 7 0 with spad := mwrite [] 128 [255, 255, 255, 255] }) (fun t => mread (coreOf t 0).spad 128 4 = [255, 255, 255, 255]) = true ∧
    both (.aswap 0 4 1 2 0 0) 7 (run { prog (at0 128) 7 0 with spad := mwrite [] 128 [255, 255, 255, 255, 9] }) (fun t => mread (coreOf t 0).spad 128 5 = [7, 0, 0, 0, 9]) = true ∧
    both (.afadd 0 4 1 2 0 2) 7 (run { prog (at0 128) 0x3F800000 0 with spad := mwrite [] 128 [0, 0, 0, 0x40] }) (fun t => mread (coreOf t 0).spad 128 4 = [0, 0, 0x40, 0x40]) = true := by decide +kernel

/-- R171 to R173: a gather of the scratchpad's four elements by the indices 2 and 9, and a scatter. -/
def c15 : Core := { prog 0 0 0 with
  slots := [(1, vec 1 0 0 4), (2, vec 1 0 64 2), (3, vec 1 0 128 2)]
  spad := mwrite (mwrite [] 0 [1, 0, 0, 0, 2, 0, 0, 0, 3, 0, 0, 0, 4, 0, 0, 0]) 128 [2, 0, 0, 0, 9, 0, 0, 0] }
theorem test_index_loads :
    both (.dgather 0 1 2 3 0 0 0) 4 (run c15) (fun t => mread (coreOf t 0).spad 64 8 = [3, 0, 0, 0, 0, 0, 0, 0] && (coreOf t 0).pc = 3) = true ∧
    both (.dscatter 0 1 2 3 0 0 false 0) 4 (run c15) (fun t => mread (coreOf t 0).spad 0 12 = [1, 0, 0, 0, 2, 0, 0, 0, 0, 0, 0, 0]) = true := by decide +kernel

/-- R196. -/
theorem test_more_scalars :
    runs (.and 0 4 1 3) s1 (fun t => sreg (coreOf t 0) 4 = 64) = true ∧ runs (.or 0 4 2 3) s1 (fun t => sreg (coreOf t 0) 4 = 67) = true ∧
    runs (.xor 0 4 1 2) s1 (fun t => sreg (coreOf t 0) 4 = 0xFFFFFFFFFFFFFFFD) = true ∧ runs (.shr 0 4 1 2) s1 (fun t => sreg (coreOf t 0) 4 = 0x1FFFFFFFFFFFFFFF) = true ∧
    runs (.max 0 4 1 2) s1 (fun t => sreg (coreOf t 0) 4 = 3) = true ∧ runs (.addi 0 4 1 (-1)) s1 (fun t => sreg (coreOf t 0) 4 = 0xFFFFFFFFFFFFFFFD) = true ∧
    runs (.andi 0 4 1 0xF) s1 (fun t => sreg (coreOf t 0) 4 = 14) = true ∧ runs (.li 0 4 (-2)) s1 (fun t => sreg (coreOf t 0) 4 = 0xFFFFFFFFFFFFFFFE) = true := by decide +kernel

/-- R366, R397: the sends wait in the send queue, FACC's writes go out, FCRECV posts a receive. -/
theorem test_more_fabric :
    runs (.fsend 0 1 1 2 1 4 0 0) (run { c2 with sregs := [(1, 0x0005000000000000)] }) (fun t => (coreOf t 0).fsq.length = 1 && t.fab.sw = []) = true ∧
    runs (.fcsend 0 1 1 2 1 4 0 0) (run { c2 with sregs := [(1, 0x0005000000000000)] }) (fun t => (coreOf t 0).fsq.length = 1 && t.fab.sw = []) = true ∧
    runs (.fcrecv 0 1 1 2 1 4 0 0) (run { c2 with sregs := [(1, 0x0005000000000000)] }) (fun t => (coreOf t 0).frq.length = 1 && ((coreOf t 0).posted.map (·.size)) = [8] && (t.fab.sw.map (·.pkt.ptype)) = [6]) = true ∧
    runs (.frecv 0 1 1 2 1 4 0 0) (run { c2 with sregs := [(1, 0x0005000000000000)] }) (fun t => (coreOf t 0).frq.length = 1 && (t.fab.sw.map (·.pkt.ptype)) = [6]) = true ∧
    runs (.facc 0 1 1 2 1 4 0 0) (run { c2 with sregs := [(1, 0x0005000000000000)] }) (fun t => (coreOf t 0).fsq.length = 1 && (t.fab.sw.map (·.pkt.ptype)) = [4]) = true ∧
    runs (.fput 0 1 1 2 1 4 0 0) (run { c2 with sregs := [(1, 0x0005000000000000)] }) (fun t => (t.fab.sw.map fun x => (x.pkt.ptype, x.pkt.payload)) = [(3, [0, 0, 0x80, 0x3F, 0, 0, 0, 0x40])]) = true := by decide +kernel

/-- R84, R123, R300, R547. -/
theorem test_more_rows :
    runs (.feStream 0 1 2 2 0 1 1 2 false true 0) (run { c3 with fe := { loaded := some (.g16, .g16), shadow := planeF } }) (fun t => (coreOf t 0).fe.queue.length = 1 && (coreOf t 0).fe.swapped = some (.g16, .g16)) = true ∧
    runs (.feStream 0 1 2 2 0 1 1 2 false true 0) (run c3) (fun t => (coreOf t 0).lastStatus = .feNoTile) = true ∧
    runs (.beDx 0 1 2 2 0 1 1 2 false true 0) (run c3) (fun t => (coreOf t 0).lastStatus = .beNoTile) = true ∧
    runs (.beDx 0 1 2 2 0 1 1 2 false true 0) (run { c3 with be0 := { loaded := some (.g16, .g16), shadow := planeF } }) (fun t => (coreOf t 0).be0.queue.length = 1) = true ∧
    after (.getCertificate none 0) (spdm openSpdm) (fun t => (outs t).map (·.1) = [some 0x82]) = true ∧
    after (.getCertificate none 1) (spdm openSpdm) (fun t => outs t = [(none, 0)]) = true := by decide +kernel

/-- Device memory that lists nothing holds no record to recover (R298, R300). -/
theorem no_records (s : State) (n : Nat) (hd : s.dev = []) (hp : s.devPoison = []) (hs : s.stks = []) (he : s.devErrs = []) : recoveryOrder s n = [] := by
  have hb : ∀ w, wordReadable s w = true := by
    intro w; simp [wordReadable, devBad, devDead, devPattern, devPoisoned, stackOf, hs, hp, he, tget, setHas]
  have hz : ∀ a, homeByte s a = 0 := by
    intro a; simp [homeByte, rawByte, slotAt, stackOf, he, hs, hd, tget, mget, memZero]
  have hr : ∀ r, recStateOf s n r = 0 := by
    intro r
    have h8 : recWord s n r 0 = 0 := by
      simp [recWord, localRead, hz, upto, leNat]
    simp [recStateOf, h8, recState, nfld]
  have hf : ∀ l : List Nat, List.filter (fun _ => false) l = [] := fun l => by simp
  simp only [recoveryOrder, headerReadable, hb, hr]
  simp only [ne_eq, not_true_eq_false, decide_false, Bool.and_false, hf, sortBy, List.foldr]
  simp

/-- Recovery with no record to find serves the stack again (R300). -/
theorem no_recovery (s : State) (n : Nat) (hf : journalFix s n = s) (hs : setUpd s n { updOf s n with nextSeq := seqAfter s n } = s)
    (h : recoveryOrder s n = []) : recoverStack s n = stackBack s n := by
  simp [recoverStack, hf, hs, h, recoverAll]

def recovering : State := setUpd {} 0 { recovering := true }
/-- The next sequence number after an empty journal is 1 (R298, R300). -/
theorem no_sequence : seqAfter recovering 0 = 1 := by
  have hr : ∀ r, recWord recovering 0 r 1 = 0 := by
    intro r
    have hz : ∀ a, homeByte recovering a = 0 := by
      intro a; simp [homeByte, rawByte, slotAt, stackOf, recovering, setUpd, tget, mget, memZero]
    simp [recWord, localRead, hz, upto, leNat]
  have hc : ∀ (p : Nat → Bool) (l : List Nat), l.foldl (fun m r => if p r then max m (0 + 1) else m) 1 = 1 := by
    intro p l
    induction l with
    | nil => rfl
    | cons x l ih => simp [ih]
  rw [seqAfter]; simp only [hr]
  exact hc (fun r => wordReadable recovering (devAddr 0 (recBase recovering 0 r) / 32)) _
/-- R300: with no record, the stack serves again. -/
theorem test_journal_recovery :
    recoveryOrder recovering 0 = [] ∧
    exec (.journalRecovery 0) recovering = .next (setUpd (setStack recovering 0 { ready := true }) 0 { ready := true }) := by
  have h := no_records recovering 0 rfl rfl rfl rfl
  refine ⟨h, ?_⟩
  have e : exec (.journalRecovery 0) recovering = .next (recoverStack recovering 0) := rfl
  have hf : journalFix recovering 0 = recovering := rfl
  have hs : setUpd recovering 0 { updOf recovering 0 with nextSeq := seqAfter recovering 0 } = recovering := by
    rw [no_sequence]; decide +kernel
  rw [e, no_recovery recovering 0 hf hs h]
  exact congrArg Host.Outcome.next (by decide +kernel)

/-! ## The queue, the words of the tile instructions, well-formed operands -/

/-- A step takes the front command; an empty queue idles and a nanosecond passes (log entry 1). -/
theorem test_step :
    (match step { s1 with pending := [.evtFaultClear 7, .flr] } with | .next t => decide (t.pending = [.flr]) | _ => false) = true ∧
    (match step s1 with | .next t => decide (t.localNs = s1.localNs + 1) && decide (t.cores = s1.cores) | _ => false) = true := by decide +kernel


/-- A word from the fields of R186: CLASS, OP, and operand values by their lowest bits. -/
def word (cls op : Nat) (ops : List (Nat × Nat)) : Word64 :=
  BitVec.ofNat 64 (cls * 2 ^ 61 + op * 2 ^ 55 + (ops.map fun x => x.2 * 2 ^ x.1).sum)

/-- R186, R196 to R212: for each class, words written from the tables, and one of an OP that no table assigns. -/
theorem test_decode :
    decodeInsn 7 (word 0 0x02 [(50, 4), (45, 5), (40, 6)]) = some (.sub 7 4 5 6) ∧
    decodeInsn 7 (word 0 0x12 [(45, 5), (40, 6), (0, 2 ^ 40 - 3)]) = some (.beq 7 5 6 (-3)) ∧
    decodeInsn 7 (word 0 0x0F [(50, 31), (45, 1), (0, 0xABCDEF)]) = some (.lui 7 31 1 0xABCDEF) ∧
    decodeInsn 7 (word 1 0x02 [(50, 3), (45, 5), (43, 2)]) = some (.dbase 7 3 5 2) ∧
    decodeInsn 7 (word 1 0x0B [(50, 1), (45, 2), (40, 3), (37, 5), (35, 3), (34, 1), (29, 9)]) = some (.dscatter 7 1 2 3 5 3 true 9) ∧
    decodeInsn 7 (word 2 0x00 [(50, 1), (46, 2), (42, 3), (33, 300), (27, 33)]) = some (.feWload 7 1 2 3 300 33) ∧
    decodeInsn 7 (word 2 0x01 [(50, 1), (45, 2), (40, 3), (35, 4), (26, 500), (20, 32), (16, 1), (15, 1), (14, 0), (9, 6)]) = some (.feStream 7 1 2 3 4 500 32 1 true false 6) ∧
    decodeInsn 7 (word 2 0x0A [(50, 1), (46, 2), (41, 3), (36, 4), (31, 5), (26, 6), (20, 7), (14, 8), (10, 1), (9, 1), (4, 9), (0, 15)]) = some (.beDw 7 1 2 3 4 5 6 7 8 1 true 9 15) ∧
    decodeInsn 7 (word 3 0x08 [(50, 1), (45, 2), (40, 3), (35, 4), (30, 5), (26, 1)]) = some (.vscl 7 1 2 3 4 5 1) ∧
    decodeInsn 7 (word 3 0x19 [(50, 1), (45, 2)]) = some (.vrmax 7 1 2 0 0 0 0) ∧
    decodeInsn 7 (word 4 0x02 [(50, 1), (45, 2), (40, 3), (37, 6), (21, 0xFFFF), (19, 2), (14, 5)]) = some (.fcsend 7 1 2 3 6 0xFFFF 2 5) ∧
    decodeInsn 7 (word 5 0x03 [(50, 1), (45, 2), (40, 3), (35, 4), (32, 1)]) = some (.acas 7 1 2 3 4 1) ∧
    decodeInsn 7 (word 6 0x01 [(50, 1), (45, 2), (37, 0x81)]) = some (.esignal 7 1 2 0x81) ∧
    decodeInsn 7 (word 6 0x02 [(50, 22), (45, 2), (0, 5)]) = some (.lwait 7 22 2 5) ∧
    decodeInsn 7 (word 7 0x01 []) = some (.endp 7) ∧
    decodeInsn 7 (word 0 0x1A []) = none ∧ decodeInsn 7 (word 1 0x04 []) = none ∧ decodeInsn 7 (word 3 0x0B []) = none ∧ decodeInsn 7 (word 7 0x02 []) = none := by decide +kernel

/-- R187: reserved bits are ignored; no command row is a tile instruction, and no table word spells a command. -/
theorem test_codec :
    decodeInsn 7 (word 3 0x00 [(50, 1), (45, 2), (40, 3), (26, 1), (0, 0x3FFFFFF)]) = decodeInsn 7 (word 3 0x00 [(50, 1), (45, 2), (40, 3), (26, 1)]) ∧
    encodeInsn (.sub 7 4 5 6) = some (word 0 0x02 [(50, 4), (45, 5), (40, 6)]) ∧ encodeInsn .flr = none ∧ decodeTableWord 64 0 = none := by decide +kernel

/-- Operands that the spec does not let a command have (WellFormed), each beside one that it does. -/
theorem test_wf :
    (Instr.trainingDone 0 { bad := 0 } 0 5 24 []).wf = false ∧ (Instr.trainingDone 0 { bad := 0 } 0 5 23 []).wf = true ∧ (Instr.trainingDone 0 { bad := 0 } 0 5 0 (List.replicate 9 0)).wf = false ∧
    (Instr.laneFail 0 10 true).wf = false ∧ (Instr.laneFail 0 9 true).wf = true ∧
    (Instr.laneSwap 0 10).wf = false ∧ (Instr.laneSwap 0 9).wf = true ∧ (Instr.flitReceive 0 [10] [[]] [] []).wf = false ∧ (Instr.flitReceive 0 [9] [[]] [] []).wf = true ∧ (Instr.flitReceive 0 [9] [] [] []).wf = false ∧
    (Instr.flitReceive 0 [] [] [(10, 0)] []).wf = false ∧ (Instr.flitReceive 0 [] [] [] [(9, 545)]).wf = false ∧ (Instr.flitReceive 0 [] [] [(9, 544)] []).wf = true ∧
    (Instr.bankGrant true 4224 [] []).wf = false ∧ (Instr.bankGrant true 4223 [⟨.fe, 8192, false⟩] []).wf = false ∧ (Instr.bankGrant true 4223 [⟨.fe, 8191, false⟩] []).wf = true ∧ (Instr.bankGrant true 4223 [] [⟨.fe, 8191, false⟩]).wf = false ∧
    (Instr.bankGrant false 64 [] []).wf = false ∧ (Instr.bankGrant false 63 [⟨.fe, 0, false⟩] []).wf = false ∧ (Instr.bankGrant false 63 [⟨.core 5, 0, false⟩] [⟨.dma 1, 0, false⟩]).wf = true ∧ (Instr.bankGrant false 63 [⟨.patrol, 0, false⟩] []).wf = false ∧
    (Instr.eccWriteback false 64 0).wf = false ∧ (Instr.eccWriteback true 0 0x10000).wf = false ∧ (Instr.sramPatrol true 0 8192 { bad := [] }).wf = false ∧
    (Instr.sramPatrol true 0 0 { bad := List.replicate 9 (0, false) }).wf = false ∧ (Instr.sramPatrol true 0 0 { bad := [], upsets := [0x10000] }).wf = false ∧ (Instr.stackRequest 0 (.atomic .add 1 3 0 0)).wf = false ∧
    (Instr.stackRequest 0 (.atomic .add 1 4 0 0)).wf = true ∧ (Instr.accumulatingWrite 0 true 0x100 0 .nearest).wf = false ∧
    (Instr.channelInterfaceFail 0 33).wf = false ∧ (Instr.dieFence 0 0 true).wf = false ∧ (Instr.dieFence 0 6 true).wf = false ∧
    (Instr.hostLinkUp true 0 1 true ⟨[], 0, true, false⟩).wf = false ∧ (Instr.hostLinkUp true 1 0 true ⟨[], 0, true, false⟩).wf = false ∧ (Instr.hostLinkUp true 1 3 true ⟨[], 0, true, false⟩).wf = true ∧ (Instr.boot (List.replicate 9 okVerdict) [] [] []).wf = false ∧
    (Instr.getCertificate none 8).wf = false ∧ (Instr.challenge none 8).wf = false := by decide +kernel


/-! ## The hypotheses of the statements can be met

One theorem for each statement: concrete states and operands that meet the hypotheses of its clauses together. -/

/-- Each instruction of a list, placed at the PC of core 0, issues there with the registers it reads, and has a next one. -/
def AllIssue (s : State) (l : List (Instr × List (BitVec 5))) : Prop :=
  ∀ x ∈ l, Issues (place x.1 s) 0 x.1 0 x.2 ∧ HasNext (coreOf (place x.1 s) 0)

/-- Every clause at core 0 of s1. -/
theorem witness_ScalarClass :
    AllIssue s1 ([Instr.add, .sub, .and, .or, .xor, .shl, .shr, .sra, .mul, .min, .max].map fun f => (f 0 4 1 2, [1, 2])) ∧
    AllIssue s1 [(.addi 0 4 1 (-1), [1]), (.andi 0 4 1 5, [1]), (.li 0 4 (-1), []), (.lui 0 4 1 0xFFFFFF, [1]), (.rdtime 0 4, []),
      (.nop 0, []), (.clrnum 0, []), (.add 0 0 1 2, [1, 2])] := by
  unfold AllIssue Issues HasNext; decide +kernel

def sLast : State := run { c1 with codeLen := 3 }
/-- Branches taken to the first and the last word of 16 and not taken; the last instruction of a program of 3; jumps just outside. -/
theorem witness_BranchesAndPcRange :
    AllIssue s1 [(.beq 0 1 1 (-2), [1, 1]), (.bne 0 1 1 5, [1, 1]), (.blt 0 1 2 13, [1, 2]), (.bge 0 1 2 13, [1, 2]), (.jmp 0 13, [])] ∧
    (sreg c1 1).toInt < (sreg c1 2).toInt ∧ 0 ≤ (c1.pc.toNat : Int) + (-2 : BitVec 40).toInt ∧
    (c1.pc.toNat : Int) + (13 : BitVec 40).toInt < c1.codeLen ∧
    Issues (place (.nop 0) sLast) 0 (.nop 0) 0 [] ∧ Issues (place (.add 0 4 1 2) sLast) 0 (.add 0 4 1 2) 0 [1, 2] ∧ ¬ HasNext (coreOf sLast 0) ∧
    Issues (place (.jmp 0 (-3)) s1) 0 (.jmp 0 (-3)) 0 [] ∧ (c1.pc.toNat : Int) + (-3 : BitVec 40).toInt < 0 ∧
    Issues (place (.jmp 0 14) s1) 0 (.jmp 0 14) 0 [] ∧ (c1.codeLen : Int) ≤ (c1.pc.toNat : Int) + (14 : BitVec 40).toInt := by
  unfold AllIssue Issues HasNext; decide +kernel

/-- The effective address of a scalar access of core 0. -/
def ea (s : State) (sa : BitVec 5) (imm : BitVec 40) : Nat := (sreg (coreOf s 0) sa + imm.signExtend 64).toNat
def sPoison : State := run { c1 with spadPoison := [7, 9, 15, 32], spadBad := [7, 9, 15, 32] }
def sClears : State := setCluster sPoison 0 { clusterOf sPoison 0 with clearing := true }

/-- The last word and the word beyond it; slot 31 from 128 with the words before and after marked; planes 0 to 2 and 3; the offsets
0x3F8, a reserved one and one beyond; the four memory instructions while the scratchpad is cleared. -/
theorem witness_ScratchpadSlotsAndRegisters :
    AllIssue sPoison [(.lds 0 4 3 0, [3]), (.lds 0 4 3 0x7FFB8, [3]), (.sts 0 3 2 0x7FFB8, [3, 2]), (.dset 0 31 3 64, [3]), (.dget 0 31 3 64, [3]),
      (.dbase 0 3 2 0, [2]), (.dbase 0 3 2 2, [2]), (.dpart 0 3 2, [2]), (.dbase 0 3 2 3, [2]), (.rdreg 0 4 0x3F8, []), (.rdreg 0 4 0, []),
      (.rdreg 0 4 0x3F0, []), (.rdreg 0 4 0x400, []), (.rdreg 0 4 4, []), (.lds 0 4 3 0x7FFC0, [3]), (.sts 0 3 2 1, [3, 2])] ∧
    (ea sPoison 3 0 % 8 = 0 ∧ ea sPoison 3 0 + 8 ≤ 0x80000 ∧ Clean (coreOf sPoison 0).spadPoison (ea sPoison 3 0) 8 ∧ Clean (coreOf sPoison 0).spadBad (ea sPoison 3 0) 8) ∧
    spadClears sPoison 0 = false ∧ spadClears sClears 0 = true ∧
    AllIssue sClears [(.lds 0 4 3 0, [3]), (.sts 0 3 2 0, [3, 2]), (.dset 0 31 3 64, [3]), (.dget 0 31 3 64, [3])] ∧
    (ea sPoison 3 0x7FFB8 % 8 = 0 ∧ ea sPoison 3 0x7FFB8 + 8 = 0x80000 ∧ Clean (coreOf sPoison 0).spadPoison (ea sPoison 3 0x7FFB8) 8 ∧ Clean (coreOf sPoison 0).spadBad (ea sPoison 3 0x7FFB8) 8) ∧
    (ea sPoison 3 64 % 128 = 0 ∧ ea sPoison 3 64 + 128 ≤ 0x80000 ∧ Clean (coreOf sPoison 0).spadPoison (ea sPoison 3 64) 128 ∧ Clean (coreOf sPoison 0).spadBad (ea sPoison 3 64) 128) ∧
    ¬ (ea sPoison 3 0x7FFC0 % 8 = 0 ∧ ea sPoison 3 0x7FFC0 + 8 ≤ 0x80000) ∧ ¬ (ea sPoison 3 1 % 8 = 0 ∧ ea sPoison 3 1 + 8 ≤ 0x80000) ∧
    regCore 0 0x3F8 = none ∧ (regCore 0 0).isSome = true := by
  unfold AllIssue Issues HasNext Clean; decide +kernel

/-- The status with which the checks of a load-unit instruction on core 0 end its program, if they do. -/
def moveStatus (i : Instr) (num : BitVec 5) (slots : List (BitVec 5)) (s : State) : Option (Option Status) :=
  (moveOf i).map fun x => moveFault (some 0) x.1 x.2 (sreg (coreOf (place i s) 0) num) (slots.map (slotDesc (coreOf (place i s) 0)))

/-- The four moves with eight queued before them, and one of unequal shapes; a vector instruction and one of a bad format. -/
theorem witness_LoadAndVectorIssue :
    AllIssue (run c15) [(.dload 0 4 1 0, [0]), (.dstore 0 1 4 0, [0]), (.dgather 0 1 2 3 0 0 0, [0]), (.dscatter 0 1 2 3 0 0 false 0, [0])] ∧
    (coreOf (run c15) 0).lq.length < 9 ∧
    moveStatus (.dload 0 4 1 0) 0 [4, 1] (run c2) = some none ∧ moveStatus (.dstore 0 1 4 0) 0 [1, 4] (run c2) = some none ∧
    moveStatus (.dgather 0 1 2 3 0 0 0) 0 [1, 2, 3] (run c15) = some none ∧
    moveStatus (.dscatter 0 1 2 3 0 0 false 0) 0 [1, 2, 3] (run c15) = some none ∧
    moveStatus (.dload 0 4 1 0) 0 [4, 1] (run { c2 with slots := [(1, vec 1 0 0 3), (4, vec 1 2 32768 2)] }) = some (some .descShapeBad) ∧
    AllIssue s2 ((List.map (fun f => f 0 3 1 2 0 0 1)
      [Instr.vadd, .vsub, .vmul, .vfma, .vmax, .vmin, .vabs, .vneg, .vsel, .vcopy, .vexp2, .vlog2, .vrcp, .vrsqrt, .vsqrt, .vrsum, .vrmax]).map
        fun i => (i, [0])) ∧
    AllIssue s2 [(.vscl 0 3 1 0 2 0 1, [0, 2])] ∧ (coreOf s2 0).vq.length < 9 ∧
    vecFault 0 .add (slotDesc c2 3) [slotDesc c2 1, slotDesc c2 2] 1 (sreg c2 0) = none ∧
    vecFault 0 .add (slotDesc c2 3) [slotDesc c2 1, slotDesc c2 2] 3 (sreg c2 0) = some .formatBad := by
  unfold AllIssue Issues HasNext; decide +kernel

def c3s : Core := { c3 with fe := { loaded := some (.g16, .g16), shadow := planeF }, be0 := { loaded := some (.g16, .g16), shadow := planeF } }

/-- Loads, streams on a plane that is loaded, a BE_DW with the list at 63 and at 64. -/
theorem witness_EngineIssueAndDeferral :
    AllIssue (run c3s) [(.feWload 0 1 2 2 1 1, []), (.beWload 0 1 2 false 1 1, []), (.feStream 0 1 2 2 0 1 1 2 false true 0, [0, 0]),
      (.beDx 0 1 2 2 0 1 1 2 false true 0, [0, 0]), (.beDw 0 1 2 2 3 3 1 1 1 2 false 0 1, [1, 0])] ∧
    queuedCount isLoad c3s.fe.queue < 4 ∧ queuedCount isLoad c3s.be0.queue < 4 ∧ queuedCount isStream c3s.fe.queue < 4 ∧
    queuedCount isStream c3s.be0.queue < 4 ∧ c3s.defer.length < 64 ∧ c3s.dxHold = false ∧
    feLoadFault 0 (slotDesc c3s 1) 2 2 1 1 = none ∧ beLoadFault 0 (slotDesc c3s 1) 2 false 1 1 = none ∧
    streamFault false 0 (tileOf c3s.fe true) (slotDesc c3s 1) (slotDesc c3s 2) (slotDesc c3s 2) 1 1 1 2 false (sreg c3s 0) = none ∧
    streamFault true 0 (tileOf c3s.be0 true) (slotDesc c3s 1) (slotDesc c3s 2) (slotDesc c3s 2) 1 1 1 2 false (sreg c3s 0) = none ∧
    dwFault 0 (slotDesc c3 1) (slotDesc c3 2) (slotDesc c3 3) (slotDesc c3 3) 2 2 1 1 1 false (sreg c3 0) = none ∧
    AllIssue (run { c3 with defer := List.replicate 63 (qj (.nop 0) [] 0 []) }) [(.beDw 0 1 2 2 3 3 1 1 1 2 false 0 1, [1, 0])] ∧
    AllIssue (run { c3 with defer := List.replicate 64 (qj (.nop 0) [] 0 []) }) [(.beDw 0 1 2 2 3 3 1 1 1 2 false 0 1, [1, 0])] := by
  unfold AllIssue Issues HasNext; decide +kernel

/-- Endpoint node 5. -/
def c5 : Core := { c2 with sregs := [(1, 0x0005000000000000), (2, at0 128), (5, at0 129)] }
/-- The eight fabric instructions and the six atomics; a VC and an address that end the program. -/
theorem witness_FabricAndAtomicIssue :
    AllIssue (run c5) ([Instr.fsend, .frecv, .fcsend, .fcrecv, .fput, .fget, .facc, .fmsg].map fun f => (f 0 1 1 2 1 4 0 0, [1, 2, 0])) ∧
    (([.send, .recv, .csend, .crecv, .put, .get, .acc, .msg].map fun o => fabFault 0 o (slotDesc c5 1) 1 0 (sreg c5 0)) = List.replicate 8 none) ∧
    fabFault 0 .put (slotDesc c5 1) 0 0 (sreg c5 0) = some .fabVcBad ∧ c5.fsq.length < 17 ∧ c5.frq.length < 17 ∧
    AllIssue (run c5) ([Instr.aadd, .aswap, .amax, .amin].map fun f => (f 0 4 2 1 0 1, [2, 1])) ∧
    AllIssue (run c5) [(.acas 0 4 2 1 3 1, [2, 1, 3]), (.afadd 0 4 2 1 0 3, [2, 1])] ∧ c5.atq.length < 8 ∧
    (([.add, .swap, .cas, .max, .min].map fun o => atomFault 0 o 1 (sreg c5 2)) = List.replicate 5 none) ∧
    atomFault 0 .fadd 3 (sreg c5 2) = none ∧
    atomFault 0 .add 1 (sreg c5 5) = some .atomicAddrBad := by
  unfold AllIssue Issues HasNext; decide +kernel


/-- Counter 7 at 5, waits for 5 and 6, with and without a mark and an owner; a local counter, cluster time and the scopes, come or not;
the event port with seven in it. -/
theorem witness_WaitsAndSignals :
    AllIssue w2 [(.ewait 0 1 2, [1, 2]), (.lwait 0 16 0 0, [0]), (.lwait 0 16 0 1, [0]), (.lwait 0 23 0 0, [0]), (.twait 0 2, [2]), (.drain 0 0xFF, []),
      (.esignal 0 1 2 0, [1, 2])] ∧
    AllIssue w3 [(.ewait 0 1 2, [1, 2])] ∧ evtAllowed w2 0 7 = true ∧ evtAllowed w3 0 7 = true ∧ evtAllowed (rset w2 (.evtOwner 0) 3) 0 7 = false ∧
    sreg (coreOf w2 0) 2 ≤ evtOf w2 7 ∧ ¬ sreg (coreOf w3 0) 2 ≤ evtOf w3 7 ∧ stallMark w3 (.ewait 7 6) = none ∧
    evtMark { w3 with evtFault := [(7, some .tainted)] } 7 = some .tainted ∧ localCounter (coreOf w2 0) 16 = some 0 ∧
    (0 - ((0 : Word64).setWidth 32 + 0) : Word32).toNat < 2 ^ 31 ∧ ¬ (0 - ((0 : Word64).setWidth 32 + 1) : Word32).toNat < 2 ^ 31 ∧
    sreg (coreOf w2 0) 2 ≤ (5 : Word64) ∧ ¬ sreg (coreOf w2 0) 2 ≤ (4 : Word64) ∧ scopesClear (coreOf w2 0) 0xFF 0 = true ∧
    scopesClear { c2 with vq := [qj (.vadd 0 3 1 2 0 0 1) [3, 1, 2] 0 [0]] } 0x08 1 = false ∧ stallMark w2 (.drain 8) = none ∧
    AllIssue { w2 with cores := [(0, { coreOf w2 0 with evq := List.replicate 7 (qj (.nop 0) [] 0 []) })] } [(.esignal 0 1 2 0, [1, 2])] ∧
    liveCore w2 0 = some 0 := by
  unfold AllIssue Issues HasNext; decide +kernel

def bad : State := run { prog 0 0 0 with code := [(2, 0xFFFFFFFFFFFFFFFF)] }
/-- A running program, a word that is no instruction, and a program that has run for exactly its limit. -/
theorem witness_ProgramEnds :
    (coreOf w2 0).phase ≠ .idle ∧ (coreOf w2 0).fault = none ∧ (coreOf w2 0).atq = [] ∧ liveCore bad 0 = some 0 ∧ (coreOf bad 0).phase = .running ∧ (coreOf bad 0).stall = none ∧ (coreOf bad 0).halted = false ∧
    decodeInsn 0 (codeWord (coreOf bad 0)) = none ∧
    (let s := { run { prog 0 0 0 with timeLimit := 1, startNs := 0 } with localNs := 1000 }
     progCore s 0 = some 0 ∧ (coreOf s 0).timeLimit ≠ 0 ∧ (coreOf s 0).halted = false ∧ (coreOf s 0).startNs + 1000 * (coreOf s 0).timeLimit.toNat = s.localNs) := by
  decide +kernel

def endBusy : State := run { c2 with vq := [qj (.vadd 0 3 1 2 0 0 1) [3, 1, 2] 0 [0]], issued := 1 }
def stalled (st : Stall) : State := { run { prog 0 0 0 with stall := some st, wait := 1 } with evt := [(7, 5)] }
def loading : State :=
  { run { phase := .loading, codeLen := 1, codeAddr := 0x4000000000008000, argAddr := 0x4000000000008008, argLen := 8, argOffset := 64, rank := 3,
          setSize := 5, sregs := [(9, 9)] } with dev := mwrite [] 0x8000 [1, 2, 3, 4, 5, 6, 7, 8, 9] }
/-- END with nothing left and with a vector instruction left; three stalls that are over; a program to load. -/
theorem witness_ProgramStartAndRelease :
    Issues (place (.endp 0) w2) 0 (.endp 0) 0 [] ∧ scopesClear (coreOf w2 0) 0xFF 0 = true ∧ (coreOf w2 0).evq = [] ∧
    Issues (place (.endp 0) endBusy) 0 (.endp 0) 0 [] ∧ scopesClear (coreOf endBusy 0) 0xFF 1 = false ∧
    liveCore (stalled (.ewait 7 5)) 0 = some 0 ∧ (coreOf (stalled (.ewait 7 5)) 0).halted = false ∧
    stallOver (stalled (.ewait 7 5)) (coreOf (stalled (.ewait 7 5)) 0) (.ewait 7 5) = true ∧ HasNext (coreOf (stalled (.ewait 7 5)) 0) ∧
    liveCore (stalled (.twait 0)) 0 = some 0 ∧ stallOver (stalled (.twait 0)) (coreOf (stalled (.twait 0)) 0) (.twait 0) = true ∧ HasNext (coreOf (stalled (.twait 0)) 0) ∧
    liveCore (stalled .endp) 0 = some 0 ∧ stallOver (stalled .endp) (coreOf (stalled .endp) 0) .endp = true ∧
    physOf loading 0 = some 0 ∧ (coreOf loading 0).phase = .loading ∧ clusterRuns loading 0 = true ∧ loading.devErrs = [] ∧
    launchReaches loading (clusterDie 0) 0x4000000000008000 8 = true ∧ launchReaches loading (clusterDie 0) 0x4000000000008008 8 = true ∧
    (launchRead loading 0x4000000000008000 8).isOk = true ∧ (launchRead loading 0x4000000000008008 8).isOk = true ∧
    (spadWrite loading 0 64 [9, 0, 0, 0, 0, 0, 0, 0]).2 = none := by
  unfold Issues HasNext; decide +kernel

def loadsF : State := run { c3 with fe := { shadow := { st := .loading }, queue := [loadJob] }, spad := [(0, 0x80), (1, 0x3F)] }
def beLoadJob : Job := { queuedJob c3 (.beWload 0 1 2 false 1 1) [1] 0 [] with st := .started }
def loadsB : State := run { c3 with be0 := { shadow := { st := .loading }, queue := [beLoadJob] } }
def swapsF : State := run { c3 with fe := { shadow := planeF, queue := [swapJob] } }
def planeT : Plane := { planeF with wFmt := some .t2, aFmt := some .t2 }
/-- A stream is in the grid with a tile of another class, or of the same. -/
def swapsIn (t : Plane) : State := run { c3 with fe := { active := t, shadow := planeF, queue := [{ swapJob with st := .started, order := 4 }, swapJob] } }
def dwJob : Job := queuedJob c3 (.beDw 0 1 2 2 3 3 1 1 1 2 false 0 5) [1, 2, 3, 3] 0 [0]
/-- One load of each engine, a SWAP on a READY tile, in an idle grid, after a stream of another class and of the same; an engine with nothing left, and the deferral list with either half free. -/
theorem witness_EngineEvents :
    liveCore loadsF 0 = some 0 ∧ (coreOf loadsF 0).fe.shadow.st = .loading ∧
    ((coreOf loadsF 0).fe.queue.find? fun j => isLoad j && decide (j.st = .started)) = some loadJob ∧ loadWaits [loadJob] loadJob = false ∧
    queuedCount isLoad [loadJob] = 0 ∧ (loadWeights loadsF 0 loadJob).isOk = true ∧
    (coreOf loadsB 0).be0.shadow.st = .loading ∧ ((coreOf loadsB 0).be0.queue.find? fun j => isLoad j && decide (j.st = .started)) = some beLoadJob ∧
    loadWaits [beLoadJob] beLoadJob = false ∧ queuedCount isStream [beLoadJob] = 0 ∧ (loadWeights loadsB 0 beLoadJob).isOk = true ∧
    waitingStream (coreOf swapsF 0).fe = some swapJob ∧ streamSwap swapJob.insn = some true ∧ tileReady (coreOf swapsF 0).fe = true ∧
    streaming (coreOf swapsF 0).fe = false ∧
    (∀ t ∈ [planeT, planeF], liveCore (swapsIn t) 0 = some 0 ∧ waitingStream (coreOf (swapsIn t) 0).fe = some swapJob ∧ tileReady (coreOf (swapsIn t) 0).fe = true ∧
      streaming (coreOf (swapsIn t) 0).fe = true) ∧
    planeClass (coreOf (swapsIn planeT) 0).fe.active ≠ planeClass planeF ∧ planeClass (coreOf (swapsIn planeF) 0).fe.active = planeClass planeF ∧
    physOf s1 0 = some 0 ∧ (coreOf s1 0).fe.queue = [] ∧ (coreOf s1 0).fe.shadow.st ≠ .loading ∧ (coreOf s1 0).be0.queue = [] ∧
    (coreOf s1 0).run0 = [] ∧ (coreOf s1 0).run1 = [] ∧
    dwHeld dwJob [] = false ∧ (coreOf (run { c3 with defer := [dwJob] }) 0).defer = [dwJob] ∧
    dwHeld { dwJob with insn := .beDw 0 1 2 2 3 3 1 1 1 2 false 0 5, descs := [mat 0 1 1, mat 64 1 1, mat 4096 1 1, mat 4096 1 1] } [dwJob] = false ∧
    (dwRun (run { c3 with run1 := [dwJob] }) 0 0 false dwJob).2 = none := by decide +kernel

def atomJob : Job := qj (.aadd 0 4 1 2 0 1) [] 0 [at0 128, 7, 0]
def atomS : State := run { prog 0 0 0 with spad := [(128, 5)], busy := [4], atq := [atomJob] }
/-- A program that a fault has ended but for its atomic, and one with an atomic that the fault finds. -/
def endingS : State := setCore atomS 0 { coreOf atomS 0 with phase := .ending, fault := some (.illegalInsn, 2) }
theorem witness_ProgramEnds_atomics :
    (coreOf atomS 0).phase ≠ .idle ∧ (coreOf atomS 0).fault = none ∧ (coreOf atomS 0).atq ≠ [] ∧
    liveCore endingS 0 = some 0 ∧ (coreOf endingS 0).fault = some (.illegalInsn, 2) ∧ (coreOf endingS 0).atq = [atomJob] ∧
    atomReaches endingS 0 atomJob = true ∧ (atomJobRun endingS 0 0 atomJob).2 = none := by decide +kernel
def vecS : State := run { c2 with vq := [qj (.vadd 0 3 1 2 0 0 1) [3, 1, 2] 0 [0]] }
def ldS : State := { run { c2 with lq := [qj (.dload 0 4 1 0) [4, 1] 0 []] } with dev := mwrite [] 32768 [1, 2, 3, 4, 5, 6, 7, 8] }
/-- An atomic on the scratchpad, a vector instruction, a load; a free staging area with one request. -/
theorem witness_RetirementAndStaging :
    liveCore atomS 0 = some 0 ∧ (atomOf atomJob.insn).isSome = true ∧ atomWidth .add 1 = some (8, .f64) ∧
    (let a := atomAddr (jobArg atomJob 0)
     ¬ (a.space = 2 ∧ devParked atomS a.off = true) ∧ (coreOf atomS 0).fault = none ∧ spaceFault atomS a.space (atomUnit 0 a) a.off 8 = none ∧
     atomReaches atomS 0 atomJob = true ∧ settle atomS a.space a.off 8 = atomS ∧ (memRead atomS a.space (atomUnit 0 a) a.off 8).isOk = true ∧
     (memWrite atomS a.space (atomUnit 0 a) a.off (leBytes 8 12)).2 = none) ∧
    liveCore vecS 0 = some 0 ∧ (vecRun none vecS 0 0 (qj (.vadd 0 3 1 2 0 0 1) [3, 1, 2] 0 [0])).2 = none ∧
    liveCore ldS 0 = some 0 ∧ jobStaged 0 (qj (.dload 0 4 1 0) [4, 1] 0 []) = false ∧
    reachesAll ldS 0 kindCopy (moveTensors 0 (qj (.dload 0 4 1 0) [4, 1] 0 [])) = true ∧ (loadRun none ldS 0 0 (qj (.dload 0 4 1 0) [4, 1] 0 [])).2 = none ∧
    (let k := clusterOf { s2 with clusters := [(0, { clearing := false, stageWait := [.core 0 1, .core 1 1] })] } 0
     k.stageHold = none ∧ k.stageWait = .core 0 1 :: [.core 1 1]) := by decide +kernel

/-- The flight of command 9 of queue 0 where it is at work, as a command of a kind. -/
def inWork (s : State) (kind : Nat) (f : Flight → Bool) : Bool := match workOf s 0 9 kind with | some x => f x && !x.begun | none => false
def wCopy : List (Nat × Nat) := [(0, 1), (0x40, 0x8000), (0x48, 0x8180)]
def wBadCopy : List (Nat × Nat) := [(0, 1), (0x40, 0x8000), (0x48, 0x8080)]
/-- The descriptors at pointers, or none where one cannot be read. -/
def descsAt (s : State) (ps : List Word64) : List (BitVec 1024) := match ptrDescs s ps with | .ok l => l | .error _ => []
def wGather : List (Nat × Nat) := [(0, 2), (0x40, 0x8000), (0x48, 0x8080), (0x50, 0x8100)]
def wScatter : List (Nat × Nat) := [(0, 3), (0x40, 0x8000), (0x48, 0x8080), (0x50, 0x8100), (0x60, 8)]
/-- Whether the hypotheses of MoveCommands hold for a movement with these descriptors, up to the status of its checks. -/
def moveHyps (ws : List (Nat × Nat)) (kind : Nat) (mk : MoveKind) (raws : List (BitVec 1024)) (st : Option Status) : Bool :=
  let s := onCopyUnit ws
  let ts := raws.map fun r => tensorOf none (parseDesc r)
  inWork s kind (fun f => decide (f.copyUnit = some 0)) && reachesAll s 0 kindCopy ts && decide (ptrSettle s [0x8000] = s) && clusterRuns s 0 && decide (moveFault none mk (fun _ => false) 0 (raws.map parseDesc) = st)
    && (decide (st ≠ none) || (decide (moveOvl mk ts ≠ .staged) && (moveRun none s (copyUnit 0) ⟨0, .nearest, 1⟩ mk ts).err.isNone))
/-- Each movement at good descriptors, which are where its pointers say, and a COPY of unequal shapes. -/
theorem witness_MoveCommands :
    moveHyps wCopy 1 .copy [vec 1 2 0x8400 4, vec 1 2 0x84C0 4] none = true ∧
    moveHyps wGather 2 (.gather (indexDim (cmd wGather)) (indexMode (cmd wGather))) [vec 1 2 0x8400 4, vec 1 2 0x8480 2, vec 1 2 0x8440 2] none = true ∧
    moveHyps wScatter 3 (.scatter (indexDim (cmd wScatter)) (indexMode (cmd wScatter)) false) [vec 1 2 0x8400 4, vec 1 2 0x8480 2, vec 1 2 0x8440 2] none = true ∧
    moveHyps wBadCopy 1 .copy [vec 1 2 0x8400 4, vec 1 2 0x8480 2] (some .descShapeBad) = true ∧
    descsAt (onCopyUnit wCopy) [0x8000, 0x8180] = [vec 1 2 0x8400 4, vec 1 2 0x84C0 4] ∧
    descsAt (onCopyUnit wCopy) [0x8000, 0x8080, 0x8100] = [vec 1 2 0x8400 4, vec 1 2 0x8480 2, vec 1 2 0x8440 2] ∧
    (numCtrl 0).getD ⟨0, .nearest, 1⟩ = ⟨0, .nearest, 1⟩ := by decide +kernel

def wTile : List (Nat × Nat) := [(0, 4), (0x40, 0x4000000000008500), (0x50, 1), (0x58, 5), (0x60, 1)]
/-- Cores 0 and 2 of cluster 0; a program of no code. -/
theorem witness_TileProgramLaunch :
    inWork (fly wTile s5) 4 (fun _ => true) = true ∧ maskClusters (cmd wTile) = [0] ∧ dieServes (fly wTile s5) (clusterDie 0) = true ∧
    launchAddrs (cmd wTile) = [0x4000000000008500] ∧ launchDie 0x4000000000008500 = some 0 ∧ progBad (cmd wTile) = false ∧
    (setCores (cmd wTile)).filter (fun x => (physOf (fly wTile s5) x).isSome) = [0, 2] ∧ setCores (cmd wTile) = [0, 2] ∧
    (let w := [(0, 4), (0x40, 0x4000000000008500), (0x50, 1), (0x58, 5)]
     inWork (fly w s5) 4 (fun _ => true) = true ∧ progBad (cmd w) = true ∧ (setCores (cmd w)).filter (fun x => (physOf (fly w s5) x).isSome) = 0 :: [2]) := by decide +kernel

def wWait (n : Nat) : List (Nat × Nat) := [(0, 8 + 2 ^ 13), (0x10, n), (0x30, 7), (0x40, 1)]
/-- A FENCE; a WAIT_EVENT whose wait holds, is marked, or has timed out; a SIGNAL_EVENT; a TIME_WAIT whose time has just come. -/
theorem witness_EventCommands :
    inWork (fly [(0, 7)] s5) 7 (fun _ => true) = true ∧
    inWork (fly (wWait 5) { s5 with evt := [(7, 5)] }) 8 (fun f => decide (cmdNwait f.cmd = 1 ∧ ¬ (evtOf { s5 with evt := [(7, 5)] } (waitCtr f.cmd 0) < waitVal f.cmd 0))) = true ∧
    (let s := fly (wWait 6) { s5 with evt := [(7, 5)], evtFault := [(7, some .tainted)] }
     inWork s 8 fun f => decide (evtOf s (waitCtr f.cmd 0) < waitVal f.cmd 0 ∧ evtMark s (waitCtr f.cmd 0) = some .tainted ∧
       cmdFld f.cmd 0x40 0 32 ≠ 0 ∧ f.startNs + 1000 * cmdFld f.cmd 0x40 0 32 ≤ s.localNs)) = true ∧
    inWork (fly [(0, 9), (0x40, 7 + 2 ^ 17), (0x48, 10)] s5) 9 (fun _ => true) = true ∧
    (let s := fly [(0, 0xA), (0x40, 77)] { s5 with time := { now := 77 } }
     inWork s 0xA fun f => decide (cmdWord f.cmd 0x40 = s.time.now)) = true := by decide +kernel


/-- The flight of command 9 of queue 0 where it is a configuration transaction's step at work. -/
def inCfg (s : State) (step : Nat) : Bool := match cfgWork s 0 9 step with | some f => decide (cmdFld f.cmd 0x48 0 32 = 4) | none => false
def cfgS (step : Nat) (c : CfgUnit) : State := fly [(0, 0xB), (0x40, step), (0x48, 4), (0x50, 0x8000), (0x58, 1)] { s6 with cfg := c }
/-- The administrator's steps on transaction 4. -/
theorem witness_ConfigTransactions :
    s6.devErrs = [] ∧ adminBad (cfgS 0 {}) 0 = false ∧ inCfg (cfgS 0 {}) 0 = true ∧ (cfgS 0 {}).cfg.txn = none ∧
    inCfg (cfgS 1 { txn := some { id := 4 } }) 1 = true ∧ inCfg (cfgS 2 { txn := some txn6 }) 2 = true ∧ inCfg (cfgS 3 { txn := some txn6 }) 3 = true ∧
    (cfgS 1 { txn := some { id := 4 } }).cfg.commit = none ∧ txn6.id.toNat = 4 ∧
    (hdRead s6 (ptrHost 0x8000) (ptrAddr 0x8000 7) 32).isOk = true ∧
    (listEntries (leBytes 32 (0x90040 + 0x78000 * 2 ^ 64 + 0x18000 * 2 ^ 128))) = txn6.shadow.map (fun e => (e, true)) ∧
    (txn6.shadow.foldl stageEntry []).length ≤ 4096 := by decide +kernel

def held (hold : Option Nat) (applied : Bool) : State := waiting [(0x40, 10), (0x50, 5)] hold applied
def busyS : State := setQueue (waiting [(0x40, 2)] (some 0) false) 1 { flight := [{ cmd := cmd [(0, 7)] }] }
/-- One entry, whose queue is idle or has a command in flight; an AT that has come; an idle transaction; a write at and before its point, and one
of the owner of a counter group. -/
theorem witness_ConfigApplication :
    (flightOf (held (some 0) false) 0 9).isSome = true ∧ allReached (held (some 0) false) txn6.shadow = true ∧
    commitCheck (held (some 0) false) txn6.shadow = none ∧ (txn6.shadow.map (·.off)).Nodup ∧ regAt 0x90040 = some (.cqCfg 1) ∧
    regOffset (.cqCfg 1) = 0x90040 ∧ allReached busyS txn6.shadow = false ∧
    0 + 1000 * max 1 (rfld busyS .cfgCtrl 0 32) ≤ busyS.localNs ∧ rfld s6 .cfgCtrl 40 16 ≠ 0 ∧
    0 + rfld s6 .cfgCtrl 40 16 * 10 ^ 9 ≤ s6.localNs ∧ cmdWord (cmd [(0, 0xB), (0x48, 4), (0x40, 10), (0x50, 5)]) 0x50 = (5 : Word64) ∧
    (held none false).cfg.commit = some { q := 0, seq := 9, holdNs := none, applied := false } ∧ (held (some 0) false).cfg.pend = [] ∧
    cmdFld (cmd [(0, 0xB), (0x48, 4), (0x40, 10), (0x50, 5)]) 0x40 2 1 = 0 ∧
    cfgReg 0x90040 = some (.cqCfg 1) ∧ (0x7F8000 &&& rwsBits (.cqCfg 1) : Word64) ≠ 0 ∧ shadowOf s6.cfg.pend 0x90040 = none ∧
    commitCheck s6 txn6.shadow = none ∧ applyPoint s6 (.cqCfg 1) = true ∧ applyPoint busyS (.cqCfg 1) = false ∧ busyS.cfg.pend.length < 256 ∧
    shadowOf txn6.shadow 0x90040 = some { off := 0x90040, mask := 0x78000, value := 0x18000 } ∧
    plainReg (.cqCfg 1) = true ∧ (0x78000 &&& ~~~rwsBits (.cqCfg 1) : Word64) = 0 ∧
    commitCheck { s6 with cfg := { s6.cfg with pend := [] } } txn6.shadow = none ∧
    (persistBank (held (some 0) true)).len ≤ bankSize 2 - 0x1000 ∧ (held (some 0) true).cfg.commit = some { q := 0, seq := 9, holdNs := some 0, applied := true } ∧
    cfgReg (regOffset (.evtOwner 0)) = some (.evtOwner 0) ∧ (1 &&& rwsBits (.evtOwner 0) : Word64) ≠ 0 ∧
    commitCheck s6 [{ off := regOffset (.evtOwner 0), mask := 1, value := 1 }] = none := by decide +kernel
/-- TAIL 2 and 0 in a running, polled, stopped and disabled queue; a queue with a command in flight and one with a fetched command. -/
theorem witness_QueueControl :
    (qs 2 {}).devErrs = [] ∧ (readTail (qs 2 {}) 0).isOk = true ∧ ((2 : Word32) - qFetch (qs 2 {}) 0).toNat ≤ qSize (qs 2 {}) 0 ∧
    (let k := queueOf (qs 2 { state := .running, lineHeld := true }) 0
     k.lineHeld = true ∧ k.state = .running ∧ k.tail ≠ 2 ∧ k.disabling = false) ∧
    (queueOf (qs 2 { state := .running, lineHeld := true, tail := 2 }) 0).tail = 2 ∧
    (let k := queueOf (qs 2 { state := .running, wake := true, woken := true, tail := 2 }) 0
     k.lineHeld = false ∧ k.wake = true ∧ k.woken = true ∧ k.tail = 2 ∧ k.cancelAsked = false) ∧
    (let s := rset (qs 2 { state := .running }) (.cqCtrl 0) 3
     rbit s (.cqCtrl 0) 1 = true ∧ (queueOf s 0).pollNs + 1000 * max 1 (rfld s .cqPollCtrl 0 16) ≤ s.localNs) ∧
    (queueOf (qs 2 { state := .stopped }) 0).cancelTo = none ∧ (queueOf (qs 2 { state := .disabled }) 0).state = .disabled ∧
    (queueOf (qs 2 { state := .running, queued := [cmd [(0, 7)]] }) 0).queued ≠ [] ∧
    (queueOf (qs 2 { state := .running, flight := [{ cmd := cmd [(0, 7)] }] }) 0).flight ≠ [] := by decide +kernel

/-- A record to fetch with 31 fetched; a bad record at the head; a stopped queue to cancel; a command that starts, a movement that starts. -/
theorem witness_FetchAndStart :
    (let s := qs 2 { state := .running, tail := 2, queued := List.replicate 31 (cmd [(0, 7)]) }
     qFetch s 0 ≠ (queueOf s 0).tail ∧ (queueOf s 0).queued.length < 32 ∧ queuedTotal s < 16384 ∧
     (ringRead s 0 ((qFetch s 0).toNat % qSize s 0 * 128) 128).isOk = true) ∧
    headFault (qs 2 { state := .running, queued := [cmd [(0, 0xD)]] }) 0 (cmd [(0, 0xD)]) = some .cmdKindBad ∧
    (let s := qs 2 { state := .stopped, queued := [cmd [(0, 7)]] }
     (readTail s 0).isOk = true ∧ ((2 : Word32) - qFetch s 0).toNat ≤ qSize s 0 ∧ (2 : Word32) ≠ qFetch s 0) ∧
    canStart (qs 2 { state := .running, queued := [cmd [(0, 7)]] }) 0 = some (cmd [(0, 7)]) ∧
    startsFirst (qs 2 { state := .running, queued := [cmd [(0, 7)]] }) 0 (cmd [(0, 7)]) = true ∧
    canStart (qs 2 { state := .running, queued := [cmd wBadCopy] }) 0 = some (cmd wBadCopy) ∧
    startsFirst (qs 2 { state := .running, queued := [cmd wBadCopy] }) 0 (cmd wBadCopy) = true := by decide +kernel

def fin : Flight := { cmd := cmd [(0, 7 + 2 ^ 16), (0x38, 7 + 3 * 2 ^ 32)], done := true }
def finS : State := qs 2 { state := .running, flight := [fin] }
/-- A FENCE with one signal. -/
theorem witness_CommandFinishes :
    fin.signalled = false ∧ flightStatus fin = .success ∧ (queueOf finS 0).flight = [fin] ∧ (queueOf finS 0).shut = false ∧ (queueOf finS 0).disabling = false ∧
    stewardsHalted finS fin.cmd = false ∧ collOf finS 0 9 = none ∧ cmdNsig fin.cmd = 1 ∧ cmdFld fin.cmd 0 10 1 = 0 ∧
    (hdWrite (finishWork finS 0 fin) (ptrHost (rget finS (.cqCompl 0))) (ptrAddr (rget finS (.cqCompl 0)) 12 + 9 % qSize finS 0 * 64)
      (completionBytes (finishWork finS 0 fin) { fin with signalled := true, launched := [] })).2 = none := by decide +kernel

def timeIn (src payload : Nat) : InPkt := { pkt := { ptype := 0x0B, srcNode := BitVec.ofNat 16 src, payload := leBytes 16 payload }, port := some 2 }
/-- Edges just beyond 1 ms and 5 ns and within; losses, returns, expiry at their instants; the master's time and a message that names the present. -/
theorem witness_ClusterTime :
    ((1001001 : Int) - good.now.toNat > 1000000 ∧ (1006 : Int) - good.now.toNat > 5 ∧ ((995 : Int) - good.now.toNat).natAbs ≤ 5) ∧
    (good.refOk = true ∧ good.ppsOk = true ∧ good.st = .locked ∧ 8 ≤ good.goodEdges) ∧
    edgeExpected (timed { good with nextEdge := some 2000000 }) = (true, 1) ∧ edgesMissed (timed good) = true ∧
    (let s := rset (timed { good with now := 5000000 }) .timeCtrl 1
     500000 ≤ edgeIn s ∧ s.time.nextEdge = none ∧ s.time.msgMs ≠ (nearestMs (s.time.now + BitVec.ofNat 64 (edgeIn s))).toNat / 1000000) ∧
    leNat (timeIn 3 999).pkt.payload % 2 ^ 64 < good.now.toNat ∧
    (let u : TimeUnit := { good with st := .holdover, lossNs := s5.localNs - 10 ^ 10 }
     u.lossNs + 10 ^ 10 ≤ s5.localNs ∧ good.epochStale = false ∧ good.lastMsgNs + 10 ^ 9 ≤ s5.localNs) ∧
    (let s := rset (timed { good with now := 5000000 }) .timeCtrl 1
     rbit s .timeCtrl 0 = true ∧ (3000000 : Word64).toNat % 1000000 = 0) ∧
    (let s := { rset (timed good) .timeCtrl 0x0003000000000000 with fab := { arrived := [timeIn 3 1000] } }
     rbit s .timeCtrl 0 = false ∧ arrivedAt s 0 0x0B = some (timeIn 3 1000) ∧ (timeIn 3 1000).pkt.srcNode.toNat = rfld s .timeCtrl 48 16 ∧
     s.time.now.toNat ≤ leNat (timeIn 3 1000).pkt.payload % 2 ^ 64) := by decide +kernel

/-- Lines 0 and 16 of a scratchpad that serves and of one that is cleared, lines 0 and 64 of a cluster memory; the last word and line of the
memory of cluster 1. -/
theorem witness_OnChipBanks :
    logicalOf s5 0 = some 0 ∧ logicalOf s5 66 = some 64 ∧ sramServes s5 false 1 = true ∧ (0xFFFFF : BitVec 20).toNat * 8 < 0x800000 ∧
    0xFFFFF ∉ (clusterOf s5 1).cmemPoison ∧ 0xFFFFF ∉ (clusterOf s5 1).cmemBad ∧ (0x1FFFF : BitVec 17).toNat * 64 < 0x800000 ∧
    (∀ i, i < 8 → 8 * 0x1FFFF + i ∉ (clusterOf s5 1).cmemPoison ∧ 8 * 0x1FFFF + i ∉ (clusterOf s5 1).cmemBad) ∧
    clusterRuns s5 0 = true ∧ (clusterOf s5 0).clearing = false ∧ (coreOf s5 0).dmaWaits = [] ∧ 0 % 16 = 16 % 16 ∧ 0 % 16 ≠ 17 % 16 ∧
    (let s := setCluster s5 0 { clusterOf s5 0 with clearing := true }
     logicalOf s 0 = some 0 ∧ clusterRuns s 0 = true ∧ (clusterOf s 0).clearing = true) ∧
    (clusterOf s5 0).half = false ∧ 0 % 64 = 64 % 64 ∧
    (3 + 64 - tget (fun _ => 64) (clusterOf s5 0).rr 0) % 65 < (5 + 64 - tget (fun _ => 64) (clusterOf s5 0).rr 0) % 65 := by decide +kernel

/-- A bank that is due and one under way; a clearing; a request on an idle and on a busy cluster; a steward at the memory's end. -/
theorem witness_ClearingAndStewards :
    (let s := setCluster s5 0 { clearing := false, dues := [(5, false)] }
     (clusterOf s 0).dues = [(5, false)] ∧ (clusterOf s 0).half = false ∧ (clusterOf s 0).migrating = none ∧ cmemSpares (clusterOf s 0) ≠ [] ∧ sramServes s false 0 = true) ∧
    (clusterOf (setCluster s5 0 { clearing := false, migrating := some (5, 64) }) 0).migrating = some (5, 64) ∧
    (let s := setCluster s5 0 { clearing := true, cmem := [(1, 1)] }
     (clusterOf s 0).clearing = true ∧ cluOff s 0 = false ∧ s.gov.flow ≠ .lost) ∧ clusterRuns s8 0 = true ∧ (clusterOf s8 0).cmemBad = [] ∧ dieServes s5 (clusterDie 0) = true ∧
    clusterIdle s5 0 = true ∧ clusterIdle (setCore s5 0 { phase := .running }) 0 = false ∧
    ((clusterOf s8 0).stewardOut = false ∧ dieServes s8 (clusterDie 0) = true ∧ (clusterOf s8 0).clearing = false ∧ cluOff s8 0 = false ∧
     (clusterOf s8 0).half = false ∧ (clusterOf s8 0).cmemPoison = []) ∧
    (0x7FFFF8 % 2 ^ (3 : BitVec 2).toNat = 0 ∧ 0x7FFFF8 + 2 ^ (3 : BitVec 2).toNat ≤ 0x800000) := by decide +kernel

/-- Word 0x420 without and with a bad symbol, once and for the 1,024th time in a day, and the last word of stack 0. -/
theorem witness_StackWords :
    devParked s5 (32 * 0x420) = false ∧ devPoisoned s5 0x420 = false ∧ devFault s5 false 0x420 = none ∧ devFault s5 true 0x420 = none ∧
    devParked s5 0 = false ∧ devPoisoned s5 0 = false ∧ devFault s5 true 0 = none ∧ s5.devErrs = [] ∧
    devFault oneBad false 0x420 = none ∧ slotAt oneBad 0x8400 = none ∧ devPattern oneBad 0x420 ≠ 0 ∧ rsFound (devPattern oneBad 0x420) = .corrected ∧
    rsLeft (devPattern oneBad 0x420) = 0 ∧ devParked oneBad 0x8400 = false ∧ devPoisoned oneBad 0x420 = false ∧
    (noteCorr (stackOf oneBad 0).corr oneBad.time.now.toNat 4 86400000000000 1024).2 = false ∧
    (noteCorr (List.replicate 1023 (4, 5)) 6 4 86400000000000 1024).2 = true ∧ (stackOf oneBad 0).due = none ∧ spareFree (stackOf oneBad 0) = true := by decide +kernel

/-- An add to word 0x400, an entry exactly 2 µs old, patrols before and at the last word of a channel, and a corrected and an uncorrectable word of channel 3. -/
theorem witness_AccumulationAndPatrol :
    (devParked s5 (32 * 0x400) = false ∧ devPoisoned s5 0x400 = false ∧ devFault s5 true 0x400 = none) ∧ s5.devErrs = [] ∧ dieServes s5 0 = true ∧
    (s5.localNs - 2000) + 2000 ≤ s5.localNs ∧ (stackOf s5 0).ready = true ∧ rfld s5 (.memPatrol 0) 0 20 ≠ 0 ∧ (stackOf s5 0).half = false ∧
    tget (fun _ => 0) (stackOf s5 0).patrolPos 3 + 1 < 67108864 ∧ (stackOf s5 0).merge = [] ∧ devStack (32 * chanWord 0 false 3 0) = 0 ∧
    devChan false (32 * chanWord 0 false 3 0) = 3 ∧ 67108864 ≤ 67108863 + 1 ∧
    (let h := chanWord 0 false 3 0
     devPoisoned s5 h = false ∧ devParked s5 (32 * h) = false ∧ devDead s5 h = false ∧ slotAt s5 (32 * h) = none ∧ (BitVec.ofNat 36 h).toNat = h) ∧
    s5.host.snoop.contains (chanWord 0 false 3 0 / 2) = false ∧
    ({ s5 with host := { s5.host with snoop := [chanWord 0 false 3 0 / 2] } } : State).host.snoop.contains (chanWord 0 false 3 0 / 2) = true ∧
    rsFound 0x5A = .corrected ∧ rsLeft 0x5A = 0 ∧ rsFound 0x5A01 = .uncorrectable ∧ chanPoison s5 0 3 < 16 := by decide +kernel

/-- A channel that is due, one being copied, one that fails; a lost die; a parked block without a slot; a request that may go and one overdue. -/
theorem witness_SparingAndParking :
    (stackOf s5 0).ready = true ∧ spareFree (stackOf s5 0) = true ∧ (20 : BitVec 6).toNat < 32 ∧ (stackOf s5 0).half = false ∧ 20 ∉ (stackOf s5 0).failedCh ∧
    (dieOf (setDie s5 0 { dieOf s5 0 with st := .out }) 0).st = .out ∧ (stackOf s5 0).migrating = none ∧
    (∀ x ∈ (stackOf (parked s5) 0).slots, x.tag = (parkReq 0 0).addr * 32 / 4096 → x.updating = false) ∧ (parkReq 0 0).origin = some (0, 9) ∧
    (devParked (parked s5) 0x8000 = true ∧ slotOf (parked s5) 0x8000 = none ∧ (stackOf (parked s5) 0).slots.length < 65536 ∧
     devFault (parked s5) true 0x400 = none ∧ parkHeld (parked s5) 0 = false ∧ devStack 0x8000 = 0 ∧
     (stackOf (parked s5) 0).deadCh = [] ∧ (parked s5).devErrs = []) ∧
    cmdOrigin < collOrigin ∧ (stackOf (parked s5) 0).parkQ = [] ∧ devParked s5 (32 * (parkReq 0 0).addr) = false ∧
    (let s := setStack (parked s5) 0 { ready := true, parkQ := [parkReq 0 0] }
     (stackOf s 0).parkQ.length < 64 ∧ devStack (32 * (parkReq 0 0).addr) = 0 ∧ devParked s (32 * (parkReq 0 0).addr) = true ∧
     slotOf s (32 * (parkReq 0 0).addr) = none ∧ parkHeld s 0 = false) ∧
    ((slotOf (setStack (parked s5) 0 { ready := true, slots := [{ tag := 8 }], parkQ := [parkReq 0 0] }) (32 * (parkReq 0 0).addr)).map (·.updating)) = some false ∧
    ((slotOf (setStack (parked s5) 0 { ready := true, slots := [{ tag := 8, updating := true }], parkQ := [parkReq 0 0] }) (32 * (parkReq 0 0).addr)).map (·.updating)) = some true ∧
    (let s := rset (setStack (fly [(0, 1)] (parked s5)) 0 { ready := true, parkQ := [parkReq (s5.localNs - 1001) cmdOrigin] }) (.memPark 0) 1
     rfld s (.memPark 0) 0 32 ≠ 0 ∧ s5.localNs - 1001 + 1000 * rfld s (.memPark 0) 0 32 < s.localNs) := by decide +kernel

/-- The block of group9 at each of its steps. -/
theorem witness_UpdateBlocks :
    (inWork (s9 group9 false { ready := true }) 6 fun f => decide (f.descs = [group9]) && decide (cmdFld f.cmd 0x50 0 32 = 0 ∧ cmdFld f.cmd 0x50 32 32 = 1
      ∧ cmdWord f.cmd 0x58 = 0)) = true ∧
    groupFault (s9 group9 false { ready := true }) (groupOf group9) 0 1 = none ∧
    (∀ n, n < 32 → (nextOwn (groupOf group9) n 0 1).isSome → unitServes (s9 group9 false { ready := true }) n = true) ∧
    (let s := setQueue s5 0 { state := .running, flight := [{ cmd := cmd (update9 ++ [(0x58, 7)]), descs := [group9] }] }
     (inWork s 6 fun f => decide (cmdWord f.cmd 0x58 ≠ 0 ∧ f.tried + 1000 * max 1 (rfld s .cumCtrl 32 32) ≤ s.localNs)) = true ∧ entryOf s 7 = none) ∧
    unitServes (s9 group9 true { ready := true }) 0 = true ∧ (groupOf group9).tier = false ∧ (groupOf group9).stamp = false ∧
    nextOwn (groupOf group9) 0 task9.next task9.last = some 0 ∧
    (readPieces (s9 group9 true { ready := true }) (groupOf group9) 0 (0 :: pieces (groupOf group9))).isOk = true ∧
    (freeRecord (s9 group9 true { ready := true }) 0).isSome = true ∧ recordOpen (s9 group9 true { ready := true }) 0 (pieceAddr (groupOf group9) 0 0) = false ∧
    (s9 group9 true { ready := true }).devErrs = [] ∧
    (freeRecord (s9 group9 true { ready := true, blocks := [block9 .dispatched] }) 0).isSome = true ∧
    (block9 .written).slow = false ∧ (block9 .inPlace).skip = false ∧ ({ block9 .committed with skip := true } : UpdBlock).skip = true ∧
    (memWrites 2 0 ((block9 .committed).writes ++ []) (s9 group9 true { ready := true, blocks := [block9 .committed] })).2 = none ∧
    (flightOf (s9 group9 true { ready := true, blocks := [block9 .inPlace] }) 0 9).isSome = true ∧
    (let s := s9 group9 true { ready := true, blocks := [block9 .dispatched] }
     let b := { block9 .dispatched with step := .written, journalRec := some 0, recSeq := (updOf s 0).nextSeq }
     freeRecord s 0 = some 0 ∧ (localPut s 0 (recBase s 0 0) (commitWord b 1 (recCrc b) ++ headerTail b ++ b.payload)).2 = none) ∧
    (setCommit (s9 group9 true { ready := true, blocks := [block9 .written] }) 0 (block9 .written) 2).2 = none ∧
    (setCommit (s9 group9 true { ready := true, blocks := [block9 .inPlace] }) 0 (block9 .inPlace) 0).2 = none ∧
    ((memWrites 2 0 (block9 .committed).writes { s9 group9 true { ready := true } with host := { mode := 1, snoop := [0x400] } }).2.map (·.wait)) = some true ∧
    ((memWrites 2 0 (block9 .committed).writes (setStack (s9 group9 true { ready := true }) 0 { ready := true, deadCh := List.range 33 })).2.map (·.wait)) = some false := by decide +kernel


/-- A stack that returns, one that starts, a replay; a slow-tier slot queued, fetched at the end of its time, and with the link down. -/
theorem witness_JournalAndSlowTier :
    recovering.devErrs = [] ∧ (updOf recovering 0).recovering = true ∧ (updOf (setUpd (setStack s5 0 {}) 0 { journalInit := true }) 0).journalInit = true ∧
    (let s := t9 { tag := 8 } { ready := true, slowReplay := [0] }
     (updOf s 0).slowReplay = [0] ∧ unitServes s 0 = true ∧ hostServes s = true ∧ s.host.snoop = []) ∧
    dieCalled recovering 0 = false ∧ recoveryHeld recovering 0 = false ∧
    (let s := t9 { tag := 8 } { ready := true }
     (slowGroup s 8).isSome = true ∧ unitServes s 0 = true ∧ buffersUsed s 0 < 64) ∧
    (let x : HoldSlot := { tag := 8, fetch := .active s5.localNs }
     let s := t9 x { ready := true }
     (stackOf s 0).slots = [x] ∧ fetchLate s 0 x = false ∧ (updOf s 0).tasks = [] ∧
     ((slowGroup s 8).map fun g => (slowPieces s g (groupIndex g 8) (pieces g)).isOk) = some true) ∧
    hostServes { t9 { tag := 8, fetch := .active s5.localNs } { ready := true } with host := {} } = false := by decide +kernel

/-- Each state of a port, lanes that allow a width or none, the ends of the waits, a lane that fails or counts too many; swaps that keep, narrow and retire. -/
theorem witness_FabricPorts :
    ((portOf (onPort {}) 2).st = .disabled ∧ rfld (onPort {}) .fabNodeId 0 16 ≠ 0xFFFF) ∧ (portOf (onPort (act .active)) 2).st ≠ .disabled ∧
    (widthFor (min (10 - countBits (0x1FF : BitVec 10)) (10 - countBits (0 : BitVec 10))) = 0 ∧
     widthFor (min (10 - countBits (0x0FF : BitVec 10)) (10 - countBits (0x001 : BitVec 10))) = 2) ∧
    ((s5.localNs - 10 ^ 9) + 10 ^ 9 ≤ s5.localNs ∧ (s5.localNs - 10 ^ 7) + 10 ^ 7 ≤ s5.localNs ∧ (portOf (onPort (act .recovery)) 2).st = .recovery) ∧
    (portOf (onPort { st := .training }) 2).st = .training ∧ (portOf (onPort { st := .retired }) 2).st = .retired ∧
    ((act .active).st = .active ∧ (act .recovery).st = .recovery ∧ (act .active).rxFailed.getLsbD 9 = false ∧ (9 : BitVec 4).toNat < 10) ∧
    (let s := rset (onPort { act .active with symCount := [(9, 3)], symStart := s5.localNs }) (.fabPortLane 2) 2
     max 1 (rfld s (.fabPortLane 2) 0 32) < tget (fun _ => 0) (portOf s 2).symCount 9 ∧ s.localNs ≤ (portOf s 2).symStart + 10 ^ 9) ∧
    (rfld (onPort (act .active)) (.fabPortLane 2) 0 32 < 2 ^ 32 ∧ (onPort (act .active)).localNs ≤ s5.localNs + 10 ^ 9) ∧
    (∀ st ∈ [PortSt.active, .recovery], portUsable (act st) = true ∧
      ([0x008, 0x308, 0x3FE].map fun r => portWidth { act st with rxFailed := r, swapDue := [3] }) = [8, 4, 0]) ∧ (act .active).width = 8 := by decide +kernel

/-- A flit at rxNext, a first and a second bad flit, resends below and at the limit. -/
theorem witness_FlitRetry :
    (flitIn (act .active) (List.zip [0, 1, 2, 3, 4, 5, 6, 7] (stripe 8 (flitBytes { fseq := 7, kind := 0 }))) []).map (fun f => (f.kind, f.fseq)) = some (0, 7) ∧ flitIn (act .active) [] [] = none ∧
    15 < (16 : BitVec 10).toNat ∧ (packetSlots {}).length ≤ 15 ∧ (∀ x ∈ packetSlots {}, slotEntry x ≠ emptySlot) ∧
    (act .active).st = .active ∧ (act .active).rxNext = 7 ∧ (act .active).nakSent = false ∧ (act .active).replay ≠ [] ∧
    (let s := onPort { act .active with nakSeen := true }
     (portOf s 2).nakSeen = true ∧ (portOf s 2).resends < max 1 (rfld s (.fabPortCtrl 2) 8 8) ∧ max 1 (rfld s (.fabPortCtrl 2) 8 8) ≤ 255) := by decide +kernel

/-- A package whose collective has claimed slots. -/
def claimS : State := inColl { two with slots := 4 } open7 []
/-- Packets for the node and beyond it, by way of a route, without one and without a hop; a broadcast of the package; a packet stalled for exactly the limit. -/
theorem witness_Switching :
    (let s := atSwitch { ptype := 0x0A, destNode := 5 } none
     s.fab.sw[0]? = some { pkt := { ptype := 0x0A, destNode := 5 }, port := none } ∧ ownNode s = 1 ∧ knownType 0x0A = true ∧ knownType 0x0E = false ∧
     dieServes s (dieOfUnit 0) = true ∧ routeOf s { ptype := 0x0A, destNode := 5 } = some 2 ∧ routeOf s { ptype := 0x0A, destNode := 6 } = none ∧
     isRequest 0x0A = false ∧ (portOf s 2).st = .recovery ∧
     (let x : InPkt := { pkt := { ptype := 0x0A, destNode := 5 }, port := none }
      overtakes (routeStrict s x) s.fab.sw 0 x = false ∧ toCumulus s x = false)) ∧
    (let x : InPkt := { pkt := { ptype := ptChunk, destNode := 5, cum := true, tag := Coll.tag { two with slots := 4 } }, port := none }
     toCumulus claimS x = true ∧ knownType x.pkt.ptype = true) ∧
    ([((1 : Half), none), (5, none), (1, some 3)].map fun x => fabHeld (atSwitch {} none) { pkt := { ptype := 0x0A, destNode := x.1 }, port := x.2 }) = [false, false, false] ∧
    (let s := atSwitch { ptype := 0x0A, bcast := true, btree := 1 } none
     ((upto 0 24).filter fun p => rbit s (.fabBcast 1) (32 + p)) = [2] ∧ (portOf s 2).st ≠ .active) ∧
    (let s := rset (onPort { act .active with outq := [{ pkt := {}, sinceNs := 0, inp := 28, inCls := 0 }], curNs := [(0, s5.localNs - 999)] }) .fabReqCtrl (2 ^ 32)
     (portOf s 2).st = .active ∧ (portOf s 2).cur = [] ∧ creditOf (portOf s 2) (keyOf 0 0) = 0 ∧ rfld s .fabReqCtrl 32 32 ≠ 0 ∧
     0 < tget (fun _ => 0) (portOf s 2).curNs (keyOf 0 0) ∧ tget (fun _ => 0) (portOf s 2).curNs (keyOf 0 0) - 1 + 1000 * rfld s .fabReqCtrl 32 32 ≤ s.localNs) := by decide +kernel

def readPk : Packet := { ptype := 1, srcNode := 5, addr := 0x8FFC, aux := 4 }
def writePk : Packet := { ptype := 3, srcNode := 5, addr := 0x8FFE, payload := [9, 8] }
def accPk : Packet := { ptype := 4, srcNode := 5, addr := 0x8400, aux := 1, payload := [0, 0, 0x80, 0x3F] }
/-- Requests that end at the window's last byte, and one that goes a byte further. -/
theorem witness_RemoteRequests :
    (arrivedAt (atUnit readPk) 0 0x01 = some { pkt := readPk, port := some 3 } ∧ windowAdmits (atUnit readPk) readPk 4 63 = true ∧
     requestReaches (atUnit readPk) readPk 4 = true ∧ (atUnit readPk).devErrs = [] ∧
     (devRead (takeArrived (atUnit readPk) 0) 0x8FFC 4).isOk = true ∧ windowAdmits (atUnit readPk) { readPk with addr := 0x8FFD } 4 63 = false) ∧
    (arrivedAt (atUnit writePk) 0 0x03 = some { pkt := writePk, port := some 3 } ∧ windowAdmits (atUnit writePk) writePk 2 62 = true ∧ requestReaches (atUnit writePk) writePk 2 = true ∧
     (devWrite (takeArrived (atUnit writePk) 0) 0x8FFE [9, 8]).2 = none ∧ windowAdmits (atUnit writePk) { writePk with addr := 0x8FFF } 2 62 = false) ∧
    (arrivedAt (atUnit accPk) 0 0x04 = some { pkt := accPk, port := some 3 } ∧ windowAdmits (atUnit accPk) accPk 4 61 = true ∧ requestReaches (atUnit accPk) accPk 4 = true ∧
     fmtOfCode (accPk.aux.extractLsb' 0 4) = some .f32 ∧
     (accAll .nearest .f32 (accRequests .f32 0x8400 accPk.payload) (takeArrived (atUnit accPk) 0)).err = none ∧ fmtOfCode (accPk.aux.extractLsb' 0 4) ≠ some .g16 ∧
     fmtOfCode ((3 : Word64).extractLsb' 0 4) ≠ some .g16 ∧ fmtOfCode ((3 : Word64).extractLsb' 0 4) ≠ some .f32 ∧
     windowAdmits (atUnit accPk) { accPk with srcNode := 5, addr := 0x9000 } 4 61 = false) := by decide +kernel

def rspPk : Packet := { ptype := 2, srcNode := 5, tag := 6, payload := [1, 2, 3, 4, 5, 6, 7, 8] }
def sdPk : Packet := { ptype := 7, srcNode := 5, tag := 4, rxn := 6, addr := 4, payload := [1, 2] }
/-- Whether the request of a packet is found, on core 0, with the instruction it belongs to. -/
def finds (s : State) (pk : Packet) : Bool :=
  match outstOf s pk with
  | some (p, o) => decide (p = 0) && ((coreOf s 0).frq.find? fun j => decide (j.order = o.order)).isSome
  | none => false
/-- Responses with and without their request; a CTS with 63 held; data and a WITHDRAW of a posted receive and of none. -/
theorem witness_PacketsAtUnits :
    (finds (at10 g10 rspPk) rspPk = true ∧ finds (at10 g10 { ptype := 5, srcNode := 5, tag := 6 }) { ptype := 5, srcNode := 5, tag := 6 } = true ∧
     outstOf (at10 g10 rspPk) { rspPk with tag := 7 } = none ∧
     ((coreOf (at10 g10 rspPk) 0).frq.map fun j => (writeStream (takeArrived (at10 g10 rspPk) 0) (jobTensor 0 j 0) 0 rspPk.payload).2) = [none]) ∧
    (let s := at10 { prog 0 0 0 with cts := List.replicate 63 { node := 5, unit := 0, tag := 4, rxn := 6, size := 8 } } { ptype := 6, srcNode := 5 }
     physOf s 0 = some 0 ∧ (coreOf s 0).cts.length < 64 ∧ memberOfCore s 0 = none) ∧
    ((postedOf (at10 c10 sdPk) sdPk).map (·.1) = some 0 ∧ ((coreOf (at10 c10 sdPk) 0).frq.find? fun j => decide (j.order = 0)).isSome = true ∧
     ((coreOf (at10 c10 sdPk) 0).frq.map jobMode) = [0] ∧ postedOf (at10 c10 sdPk) { sdPk with rxn := 7 } = none ∧ (coreOf (at10 c10 sdPk) 0).inColl = false ∧
     ((coreOf (at10 c10 sdPk) 0).frq.map fun j => (writeStream (takeArrived (at10 c10 sdPk) 0) (jobTensor 0 j 0) 4 (sdPk.payload.take 4)).2) = [none]) := by
  decide +kernel


/-- A send of core 0 to unit 0 of node 5 under way, for which the CTS is held; a WITHDRAW of that CTS. -/
def sendC : Core := { prog 0 0 0 with
  slots := [(1, vec 1 0 0 2)], cts := [{ node := 5, unit := 0, tag := 4, rxn := 6, size := 8 }]
  fsq := [{ queuedJob { prog 0 0 0 with slots := [(1, vec 1 0 0 2)] } (.fsend 0 1 1 2 1 4 0 0) [1] 0 [0x0005000000000000, 0] with st := .started }] }
def wdPk : Packet := { ptype := 9, srcNode := 5, tag := 4, rxn := 6 }
theorem witness_PacketsAtUnits_withdraw :
    (let s := at10 sendC wdPk
     let c := coreOf s 0
     (arrivedAt s 0 0x09).isSome = true ∧ physOf s 0 = some 0 ∧ postedOf s wdPk = none ∧
     (c.cts.find? fun y => decide (y.rxn = wdPk.rxn) && decide (y.tag = wdPk.tag) && decide (y.node = wdPk.srcNode) && decide (y.unit = wdPk.srcUnit)) = c.cts.head? ∧
     (c.fsq.map fun j => (jobOp j, jobSize 0 j, matchCts s c j == c.cts.head?, (readStream s (jobTensor 0 j 0)).isOk)) = [(some .send, 8, true, true)]) ∧
    (let s := at10 { sendC with fsq := [] } wdPk
     (coreOf s 0).fsq = [] ∧ physOf s 0 = some 0) ∧
    (let s := at10 { sendC with cts := [] } wdPk
     (coreOf s 0).cts = [] ∧ physOf s 0 = some 0 ∧ postedOf s wdPk = none) := by decide +kernel

def msgS (n : Nat) : State := setCluster (rset (atUnit { ptype := 0xA, destUnit := 0xFFF, aux := 7 + 3 * 2 ^ 32 }) (.fabRevt 0) 1) 0
  { clearing := false, mailbox := List.replicate n { value := 0, node := 0, unit := 0 } }
/-- Messages for an admitted and a refused counter, a mailbox of 63 and of 64, and a request that has waited for exactly the limit. -/
theorem witness_PacketsAtUnits_messages :
    rbit (msgS 0) (.fabRevt (7 / 256 / 64)) (7 / 256 % 64) = true ∧ rbit (atUnit {}) (.fabRevt (7 / 256 / 64)) (7 / 256 % 64) = false ∧
    (clusterOf (msgS 63) 0).mailbox.length < 64 ∧ 64 ≤ (clusterOf (msgS 64) 0).mailbox.length ∧
    (arrivedAt (atUnit { ptype := 0xA, aux := 99 }) 0 0x0A).isSome = true ∧ (arrivedAt (atUnit { ptype := 0xD }) 0 0x0D).isSome = true ∧
    (let s := rset (at10 g10 {}) .fabReqCtrl 1
     liveCore s 0 = some 0 ∧ rfld s .fabReqCtrl 0 32 ≠ 0 ∧ 0 + 1000 * rfld s .fabReqCtrl 0 32 ≤ s.localNs ∧ (coreOf s 0).outst.length = 1 ∧
     (((coreOf s 0).fsq ++ (coreOf s 0).frq).find? fun j => decide (j.order = 0)).isSome = true) := by decide +kernel

def self11 : BitVec 1024 := vec 1 2 0x8400 2
/-- What the hypotheses of CollectiveCommand say of the list of s11 and a body. -/
def collHyps (ws : List (Nat × Nat)) (body : Option Status) : Bool :=
  let s := fly ws s11
  inWork s 5 fun f => match memberList s f.cmd with
    | .ok es => decide (es.length = 1) && decide (collBodyFault s 0 f.cmd es = body) && (body.isSome ||
        ((ptrDescs s [0x8080, 0x8080]).isOk && decide (collMemberFault 0 1 1 [(0, self11, self11)] = none)
          && decide (collElems 0 (parseDesc self11) (parseDesc self11) = 2) && decide (entryOf s 7 = none) && decide (s.coll.colls = [])))
    | _ => false
/-- A body that is good and one with a bad reference; a collective that is done behind another command. -/
theorem witness_CollectiveCommand :
    collHyps coll11 none = true ∧ collHyps [(0, 5), (0x40, 0x8000), (0x50, 2 ^ 20)] (some .collBad) = true ∧
    (cmdFld (cmd coll11) 0x50 16 4 = 0 ∧ cmdFld (cmd coll11) 0x50 24 1 = 0 ∧ cmdFld (cmd coll11) 0x50 20 4 = 1 ∧ cmdFld (cmd coll11) 0x50 40 16 = 0) ∧
    (fly coll11 s11).devErrs = [] ∧ (fly coll11 s11).coll.entries.length < 1024 ∧ claimsDue (fly coll11 s11) = [] ∧
    (let c := cmd [(0, 5), (0x40, 0x8000), (0x50, 2 ^ 20 + 2 ^ 24)]
     let s := setQueue { s11 with coll := { s11.coll with starts := [(1, 8), (0, 9)] } } 0 { state := .running, flight := [{ cmd := c }] }
     claimsDue s = [(0, 9)] ∧ claimsDue (setQueue s 1 { state := .running, flight := [{ cmd := { c with seq := 8 } }] }) = [(1, 8), (0, 9)]) ∧
    (let g : Flight := { cmd := { cmd coll11 with seq := 8 } }
     let s := setQueue (inColl two open7 []) 0 { state := .running, flight := [g, { cmd := cmd coll11, begun := true, done := true }] }
     (queueOf s 0).flight.head? = some g ∧ g.cmd.seq ≠ 9 ∧ stewardsHalted s (cmd coll11) = false ∧ collOf s 0 9 = some two ∧ ((flightOf s 0 9).map fun f => f.signalled) = some false ∧ cmdKind (cmd coll11) = 5) := by decide +kernel

/-- A collective that has just reached its TIMEOUT, an uncorrectable word of a chunk that a join holds; messages for an unknown reference, an older attempt and a sealed entry. -/
theorem witness_Taints :
    (let cl := { two with progressNs := s5.localNs - 500000, joins := [{ chunk := 3, share := 0, seg := [0] }] }
     let s := inColl cl open7 []
     collOf s 0 9 = some cl ∧ (s.coll.colls.filter fun c => decide (c.ref = cl.ref)) = [cl] ∧ cl.failing = none ∧
     (∀ i ∈ ownMembers s cl, clusterRuns s ((memberAt cl i).unit.toNat / 64) = true) ∧
     (0 : BitVec 13).toNat < 4160 ∧ 0 ∉ s.coll.retired ∧ (∀ c ∈ s.coll.colls, 0 ∉ c.retire) ∧ ¬ ((4160 : BitVec 13).toNat < 4160) ∧
     entryOf s 7 = some open7 ∧ open7.st = .opened ∧ open7.attempt = cl.attempt ∧ cl.timeoutUs ≠ 0 ∧
     cl.progressNs + 1000 * max 500 cl.timeoutUs ≤ s.localNs ∧ (∃ j ∈ cl.joins, j.chunk = 3)) ∧
    (let s := inColl two open7 [{ ptype := 0x0C, payload := taintPayload 8 3 0x0123 1 }]
     (arrivedAt s 0 0x0C).isSome = true ∧ entryOf s 8 = none ∧ (∀ c ∈ s.coll.colls, c.ref ≠ 8) ∧ sealUsed s < 1024 ∧
     (1 : Byte).toNat < open7.attempt.toNat ∧ rbit s .cumTaint1 63 = false) ∧
    (entryOf (inColl two { open7 with st := .sealedOk } []) 7).isSome = true := by decide +kernel

/-- A confirm and a seal token at a package that is not the first and at the first. -/
theorem witness_Tokens :
    (let s := inColl from5 open7 [tok 0xFFFFFFFE00000000]
     isToken (tok 0xFFFFFFFE00000000) = true ∧ tokenColl (takeArrived s 0) (tok 0xFFFFFFFE00000000) = some (from5, open7) ∧ collOf s 0 9 = some from5 ∧
     isFirst s from5 = false ∧ 1 < (packagesOf from5).length ∧ allConfirmed s from5 = true) ∧
    (let cl : Coll := { from5 with members := [{ node := 5, unit := 0 }, { node := 1, unit := 0, ended := false }] }
     let s := inColl cl open7 [tok 0xFFFFFFFE00000000]
     tokenColl (takeArrived s 0) (tok 0xFFFFFFFE00000000) = some (cl, open7) ∧ collOf s 0 9 = some cl ∧ allConfirmed s cl = false) ∧
    (let cl : Coll := { two with confirmSent := true }
     let s := inColl cl open7 [tok 0xFFFFFFFE00000000]
     tokenColl (takeArrived s 0) (tok 0xFFFFFFFE00000000) = some (cl, open7) ∧ collOf s 0 9 = some cl ∧ isFirst s cl = true) ∧
    (let s := inColl from5 open7 [tok 0xFFFFFFFF00000000]
     tokenColl (takeArrived s 0) (tok 0xFFFFFFFF00000000) = some (from5, open7)) ∧
    (let cl : Coll := { two with confirmSent := true, tokenNs := s5.localNs - 100000 }
     let s := inColl cl open7 []
     collOf s 0 9 = some cl ∧ entryOf s 7 = some open7 ∧ cl.passEnded = false ∧ cl.tokenNs + 100000 ≤ s.localNs) := by decide +kernel

def sumCore (ps : List Posted) (cts : List HeldCts) : Core := { inColl := true, phase := .running, posted := ps, cts := cts }
def own0 : Posted := { order := 0, rxn := 6, node := 1, unit := 0, tag := 7, vc := 1, size := 4, chunk := some 0 }
/-- An input whose check agrees and one whose check does not; a packet that nothing claims and one of a posted receive; a sum for its owner and for the next package. -/
theorem witness_ChunksAndJoins :
    (let j := join11 (crc32c [0, 0, 0x80, 0x3F])
     let s := inColl (claimed j) open7 []
     ((joinChecks s)[0]?.map fun x => (x.1, x.2.1)) = some (claimed j, j) ∧ collOf s 0 9 = some (claimed j) ∧
     (j.inputs.map fun i => chunkGood i.auxSeen j.chunk (mread i.data 0 (hopBytes (claimed j) (joinHop j)))) = [true]) ∧
    ((join11 1).inputs.map fun i => chunkGood i.auxSeen 0 (mread i.data 0 (hopBytes (claimed (join11 1)) (joinHop (join11 1))))) = [false] ∧
    (let s := inColl two open7 [{ ptype := 8, tag := 99, payload := [1] }]
     claimOf s 99 = none ∧ postedOf s { ptype := 8, tag := 99, payload := [1] } = none ∧ isToken { ptype := 8, tag := 99, payload := [1] } = false) ∧
    (let pk : Packet := { ptype := 8, srcNode := 1, tag := 7, rxn := 6, payload := [1] }
     let s := setCore (inColl two open7 [pk]) 0 (sumCore [own0] [])
     claimOf s 7 = none ∧ postedOf s pk = some (0, own0) ∧ (coreOf s 0).inColl = true) ∧
    (let j : Join := { join11 0 with inputs := [] }
     let s := setCore (inColl (claimed j) open7 []) 0 (sumCore [own0] [])
     (joinsReady s)[0]? = some (claimed j, j) ∧ physOf s (memberAt (claimed j) 0).unit.toNat = some 0 ∧ j.succ = none ∧
     ((coreOf s 0).posted.find? fun x => decide (x.chunk = some (BitVec.ofNat 32 j.chunk)) && decide (x.tag = (claimed j).tag) && decide (x.got = 0)) = some own0) ∧
    (let j : Join := { join11 0 with inputs := [], succ := some 1, cts := some { node := 5, unit := 0, tag := 7, rxn := 6, size := 4 } }
     let s := setCore (inColl (claimed j) open7 []) 0 (sumCore [] [])
     (joinsReady s)[0]? = some (claimed j, j) ∧ physOf s (memberAt (claimed j) 0).unit.toNat = some 0 ∧ j.cts.isSome = true) := by decide +kernel

def feedJ : Join := { join11 0 with sum := [], inputs := [{ from_ := 0, got := 0, data := [], auxSeen := [] }] }
def feedPk : Packet := { ptype := 8, srcNode := 1, srcUnit := 0, cum := true, tag := 7, payload := [0, 0, 0x80, 0x3F], aux := 5 }
/-- R398: a packet of member 0's core, of chunk 0, is put into the input of the join of the collective that its tag names. -/
theorem test_join_feed :
    claimOf (inColl (claimed feedJ) open7 [feedPk]) 7 = some (claimed feedJ) ∧
    (joinFeed (takeArrived (inColl (claimed feedJ) open7 [feedPk]) 0) (claimed feedJ) feedPk).isSome = true ∧
    after (.chunkData 0) (inColl (claimed feedJ) open7 [feedPk])
      (fun t => (t.coll.colls.flatMap fun c => c.joins.flatMap fun j => j.inputs.map fun i => (i.got, i.data, i.auxSeen)) = [(4, [(2, 0x80), (3, 0x3F)], [5])]) = true := by decide +kernel


/-- A queue of 31 records and of 32; a record to free below class 3 and of class 4, with and without the log. -/
theorem witness_ErrorRecords :
    (errQ (withRecs 4 (List.replicate 31 (rec12 .fabStall 2))) 4).recs.length < 32 ∧ 32 ≤ (errQ (withRecs 4 (List.replicate 32 (rec12 .fabStall 2))) 4).recs.length ∧
    (rec12 .fabStall 2).resource.toNat / 2 ^ 24 ≠ 4 ∧ (rec12 .fabStall 2).source = 4 ∧ (errQ (withRecs 1 (List.replicate 32 (rec12 .fabStall 2))) 4).recs.length < 32 ∧
    handlerServes (withRecs 4 [rec12 .fabStall 2]) 4 = true ∧ (rec12 .fabStall 2).cls < 3 ∧ rbit (withRecs 4 [rec12 .fabStall 2]) .errCtrl 3 = false ∧
    (let s := rset (rset (withRecs 4 [rec12 .fabStall 2]) .errCtrl 8) .errLogBase 0x8000
     rbit s .errCtrl 3 = true ∧ rfld s .errCtrl 0 3 = 0 ∧ (writeLog s (rec12 .fabStall 2)).2 = none) ∧
    (rec12 .fabStall 4).cls = 4 := by decide +kernel

/-- Core 3 with a program, due for retirement with a spare and with none, and due for its scratchpad. -/
theorem witness_CoreRetirement :
    (let s := setCore s5 3 core12
     (coreOf s 3).failed = false ∧ dieServes s 0 = true ∧ coreListed s 3 = true ∧ logicalOf s 3 = some 3 ∧ (coreOf s 3).inColl = false ∧
     (coreOf s 3).phase ≠ .idle ∧ (coreOf s 3).fault = none ∧ (coreOf s 3).atq = [] ∧ (errQ s (resourceDie (coreRes 3))).recs.length < 32) ∧
    (let s := { setCore s5 3 { core12 with phase := .idle } with err := { due := [.retire (coreRes 3)] } }
     (coreOf s 3).phase = .idle ∧ coreListed s 3 = true ∧ logicalOf s 3 = some 3 ∧ Due.retire (coreRes 3) ∈ s.err.due ∧ freeSpare s 0 = some 0) ∧
    (let s := { setCluster (setCore s5 3 { core12 with phase := .idle }) 0 { clearing := false, spare0 := 1 } with err := { due := [.retire (coreRes 3)] } }
     freeSpare s 0 = some 1 ∧ logicalOf s 3 = some 3) ∧
    (let s := { setCluster (setCore s5 3 { core12 with phase := .idle }) 0 { clearing := false, spare0 := 1, spare1 := 2 } with err := { due := [.retire (coreRes 3)] } }
     freeSpare s 0 = none ∧ logicalOf s 3 = some 3 ∧ coreListed s 3 = true) ∧
    (let s := setCore s5 3 { core12 with phase := .idle, retirePending := true }
     (coreOf s 3).retirePending = true ∧ sramServes s true 3 = true ∧ freeSpare s 0 = some 0) := by decide +kernel

def partner8 : State := setCluster s5 1 { clearing := false, stewardOut := true, partnerServes := true, cmem := [(8, 77)] }
/-- A service core and a steward in service, halted, out, locked; a partner's memory to its end; open and closed scopes. -/
theorem witness_FailoverAndDebug :
    ((svcOf s5 2).out = false ∧ (clusterOf s5 0).stewardOut = false ∧ dieServes s5 (clusterDie 0) = true ∧ (svcOf s5 4).halted = false ∧ partnerOf 0 = 1) ∧
    (svcOf (setSvc s5 4 { halted := true }) 4).halted = true ∧ (svcOf s5 2).locked = false ∧ (svcOf (setSvc s5 2 { locked := true }) 2).locked = true ∧
    (clusterOf partner8 1).stewardOut = true ∧ (svcOf partner8 4).locked = false ∧
    (clusterRuns partner8 1 = true ∧ (clusterOf partner8 1).cmemBad = [] ∧ (clusterOf partner8 1).partnerServes = true ∧ (clusterOf partner8 1).clearing = false ∧ cluOff partner8 1 = false ∧ (clusterOf partner8 1).half = false ∧
     (clusterOf partner8 1).cmemPoison = [] ∧ 0x7FFFF8 % 2 ^ (3 : BitVec 2).toNat = 0 ∧ 0x7FFFF8 + 2 ^ (3 : BitVec 2).toNat ≤ 0x800000) ∧
    (let s := scopeOpen 3 core12
     s.sec.scopes.getLsbD 0 = true ∧ s.sec.scopes.getLsbD 1 = true ∧ physOf s 0 = some 0 ∧ (coreOf s 0).halted = false) ∧
    (coreOf (scopeOpen 3 { core12 with halted := true }) 0).halted = true := by decide +kernel

/-- A lane whose turn it is, and one whose turn it is not; a beat with a bad bit; one that replays, the fourth time within 1 µs; a wire to replace with a spare left and with none. -/
theorem witness_DieLinks :
    (let k := bundleOf (linkOf (linked (lane3 {})) 2 0) 1
     3 < bundleLanes k ∧ (laneAt k 3).unacked.length < 32 ∧ (laneAt k 3).nakSeen = false ∧ (laneAt k 3).discard = false ∧ k.mode = .full ∧
     0 < sparesLeft k ∧ k.failed.contains (264 + 15) = false) ∧
    turnLane (linked (lane3 {})) 2 0 6 = some (1, 3) ∧ turnLane (linked (lane3 {})) 2 0 6 ≠ some (1, 2) ∧
    beatGood (onWires (beatOf (linked (lane3 {})) 2 0 1 3 (some 7) false) 1) = false ∧ (laneAt (lane3 { nakSeen := true, unacked := [7] }) 3).unacked ≠ [] ∧
    (laneAt (lane3 { nakSeen := true }) 3).nakSeen = true ∧ (laneAt (lane3 { nakSeen := true }) 3).unacked = [] ∧
    (let x := linkOf (linked (lane3 {})) 2 0
     laneStream x (1, 3) = some 6 ∧ gotWords x = 0 ∧ dirPaused x = false ∧ (streamHolds x 6).length = 8 ∧
     (streamHolds x 6)[tget (fun _ => 0) x.rturn 6 % 8]? = some (1, 0) ∧ (streamHolds x 6)[tget (fun _ => 0) [(6, 3)] 6 % 8]? = some (1, 3) ∧
     streamHolds { x with granted := [(5, 3), (6, 1)] } 6 = [(1, 3)] ∧ laneStream { x with granted := [(5, 3), (6, 1)] } (1, 3) = some 6) ∧
    failedClocks (lane3 {}) = 0 ∧ 280 ∉ (lane3 {}).due ∧ 
    (let s := setLink s5 2 0 { bundles := [(1, { mode := .full, due := [9] })], starved := List.range 16 }
     ∀ g ∈ grants s 2 0, g.2 = 0 → 0 < streamLanes s 2 0 g.1 → g.1 ∈ (linkOf s 2 0).starved) ∧
    (let k : Bundle := { mode := .full, due := [9], failed := (List.range 16).map (264 + ·) }
     trainMode { k with failed := setAdd 9 k.failed } false = .half ∧ trainMode { k with failed := setAdd 9 ((List.range 148).map (132 + ·)) } false = .disabled ∧
     sparesLeft { k with failed := (List.range 148).map (132 + ·) } = 0) ∧
    (let x := laneAt (lane3 { replays := List.replicate 4 (s5.localNs - 1000) }) 3
     x.replays.length = 4 ∧ x.replays.getD 0 0 ≤ x.replays.getD 3 0 + 1000) ∧
    (let k : Bundle := { mode := .full, due := [9] }
     k.due = 9 :: [] ∧ 9 ∉ ([] : List Nat) ∧ 9 < 264 ∧ 0 < sparesLeft k ∧ sparesLeft { k with failed := (List.range 16).map (264 + ·) } = 0) := by decide +kernel

def outDie : State := setDie { s5 with stks := [] } 1 { st := .out, cause := 4, linksUp := false }
def backDie : State := { setDie s5 1 { st := .returning, cause := 4 } with clusters := (List.range 16).map fun c => (16 + c, { clearing := false }) }
/-- A die to fence, to reset, that returns, that is done. -/
theorem witness_DiesOutAndBack :
    causeThere s5 1 4 = true ∧ (dieOf s5 1).st = .inService ∧ s5.queues = [] ∧ s5.coll.colls = [] ∧ s5.cfg.commit = none ∧
    rbit s5 (.dlkDieCtrl 1) 1 = false ∧ outDie.pkg.fatal = none ∧ (dieOf outDie 1).st = .out ∧
    (∀ k ∈ [8, 9, 10, 11, 12, 13, 14, 15], (stackOf outDie k).ready = false ∧ (stackOf outDie k).failedCh = []) ∧
    (dieOf backDie 1).st = .returning ∧ dieDone backDie 1 = true := by decide +kernel
theorem witness_DiesOutAndBack_empty :
    (∀ q, (queueOf s5 q).flight = [] ∧ (queueOf s5 q).queued = []) ∧ ∀ k, (updOf s5 k).tasks = [] ∧ (updOf s5 k).blocks = [] :=
  ⟨fun _ => ⟨rfl, rfl⟩, fun _ => ⟨rfl, rfl⟩⟩

/-- A die in service that power-good leaves, and one that is FENCING. -/
def fencingDie : State := { s5 with stks := [], queues := [], err := { due := [.dieFatal 1 4] } }
theorem witness_DiesOutAndBack_fence :
    dieState s5 1 = .inService ∧ dieState fencingDie 1 = .fencing ∧ Due.dieFatal 1 ((4 : BitVec 3).setWidth 8) ∈ fencingDie.err.due ∧
    fencingDie.queues = [] ∧ fencingDie.coll.colls = [] ∧ fencingDie.cfg.commit = none := by decide +kernel
theorem witness_DiesOutAndBack_fence_empty :
    (∀ q, (queueOf fencingDie q).flight = [] ∧ (queueOf fencingDie q).queued = []) ∧
    ∀ k, (updOf fencingDie k).tasks = [] ∧ (updOf fencingDie k).blocks = [] :=
  ⟨fun _ => ⟨rfl, rfl⟩, fun _ => ⟨rfl, rfl⟩⟩

/-- Each event of a cluster at its threshold. -/
theorem witness_ClusterPower :
    clusterRuns (powered {}) 0 = true ∧ droopThresh (powered {}) < (1000 : BitVec 16).toNat ∧ (cluGovOf (powered { droop := some 1000 }) 0).droop = some 1000 ∧
    16 ≤ (16 : BitVec 32).toNat ∧ ((cluGovOf (powered { lg := 20, trigNs := s5.localNs - 1000000 }) 0).lg < 24 ∧ (s5.localNs - 1000000) + 1000000 ≤ s5.localNs) ∧
    ((cluGovOf (powered { deferSince := some 0 }) 0).deferSince = some 0 ∧ 0 + 1000 * graceUs (powered {}) ≤ s5.localNs) ∧
    (let s := rset (powered { idleSince := s5.localNs - 1000 }) (.govCluCtrl 0) 1
     dieServes s (clusterDie 0) = true ∧ clusterActive s 0 = false ∧ rfld s (.govCluCtrl 0) 0 32 = 1 ∧ (cluGovOf s 0).off = false ∧
     (cluGovOf s 0).idleSince + 1000 * 1 ≤ s.localNs) ∧
    (let s := setQueue (powered { off := true }) 0 { state := .running, queued := [cmd [(0, 1), (0x40, 0x8000), (0x48, 0x8080)]] }
     (cluGovOf s 0).off = true ∧ s.queues.length = 1 ∧ (neededClusters s 0 (cmd [(0, 1), (0x40, 0x8000), (0x48, 0x8080)])).contains 0 = true) ∧
    (5 : Nat) ≤ (5 : Word64).toNat ∧
    (let s := { rset (rset s5 (.govWinStart 1) 5) (.govWinCtrl 1) 0x8000000000000001 with time := { now := 5 } }
     rbit s (.govWinCtrl 1) 63 = true ∧ nbit (tget (fun _ => 0) s.gov.winFlags 1) 62 = false ∧ (rget s (.govWinStart 1)).toNat ≤ s.time.now.toNat) ∧
    (nbit (2 ^ 62) 62 = true ∧ nbit (2 ^ 62) 61 = false ∧ 5 + 1000 * 1 ≤ (1005 : Word64).toNat) := by decide +kernel

/-- An idle cluster past its time, with and without a droop event that runs. -/
theorem witness_ClusterPower_idle :
    govHeld s5 = false ∧
    (∀ g ∈ [({ idleSince := s5.localNs - 1000 } : CluGov), { idleSince := s5.localNs - 1000, droop := some 1000 }],
      let s := rset (powered g) (.govCluCtrl 0) 1
      govHeld s = false ∧ dieServes s (clusterDie 0) = true ∧ clusterActive s 0 = false ∧ rfld s (.govCluCtrl 0) 0 32 = 1 ∧
      (cluGovOf s 0).off = false ∧ (cluGovOf s 0).idleSince + 1000 * 1 ≤ s.localNs) := by decide +kernel

def capS : State := { s5 with host := { mode := 1 }, gov := { draw := 5000 } }
/-- Samples at and just above the cap, a write of GOV_CAP that keeps the hard cap, temperatures at and below 115 °C. -/
theorem witness_HardCaps :
    s5.gov.fastNs = none ∧ s5.localNs < s5.localNs - 999 + 1000 ∧ hardCap s5 < (720001 : BitVec 32).toNat ∧ (720000 : BitVec 32).toNat ≤ hardCap s5 ∧ barReachable capS true = true ∧
    barServes capS true (regOffset .govCap) = true ∧
    hardCap capS ≤ hardCap (rset capS .govCap ((rget capS .govCap &&& ~~~(0xFFFF0000FFFF : Word64)) ||| (0x1C2000000064 &&& (0xFFFF0000FFFF : Word64)))) ∧
    115 * 256 ≤ (0x7300 : Half).toInt ∧ s5.pkg.fatal = none ∧ (0x72FF : Half).toInt < 115 * 256 := by decide +kernel

theorem witness_HardCaps_held : govHeld s5 = false ∧ govHeld { s5 with pkg := { s5.pkg with thermTrip := true } } = true := by decide +kernel

/-- A tick of the valve, a third failed read, and flows with K_FLOW 0 and 1,000 that are enough, too small and none. -/
theorem witness_CoolantLoop :
    (let s := cooled {}
     s.pkg.stage = 5 ∧ s.pkg.fatal = none ∧ s.gov.valveNs + 10 ^ 8 ≤ s.localNs ∧ s.gov.flowNs + 10 ^ 8 ≤ s.localNs) ∧
    (throttled (cooled { flow := .low }) = true ∨ (cooled { flow := .low }).gov.flow = .low) ∧
    (3 ≤ (cooled { badIn := 3 }).gov.badIn ∧ (cooled { badIn := 3 }).gov.sensorFail = false) ∧
    nfld (cooledBy 0 {}).gov.cool.toNat 32 16 = 0 ∧
    (let s := cooled { flow := .ok }
     nfld s.gov.cool.toNat 32 16 ≠ 0 ∧ nfld s.gov.cool.toNat 48 16 * nfld s.gov.cool.toNat 32 16 ≤ (1 : BitVec 32).toNat * 120000 ∧ s.gov.flow = .ok) ∧
    (let s := cooledBy 0x01E003E800000000 { flow := .ok, nLow := 1 }
     (1 : BitVec 32).toNat * 120000 < nfld s.gov.cool.toNat 48 16 * nfld s.gov.cool.toNat 32 16 ∧
     nfld s.gov.cool.toNat 48 16 * nfld s.gov.cool.toNat 32 16 ≤ 4 * ((1 : BitVec 32).toNat * 120000) ∧ 1 ≤ s.gov.nLow ∧ s.gov.draw ≤ 300000 ∧ s.gov.draw ≤ hardCap s) := by
  decide +kernel

/-- A governor held after a trip; a flow that is LOST and one that is OK where K_FLOW is 0. -/
theorem witness_CoolantLoop_held :
    govHeld { s5 with pkg := { s5.pkg with thermTrip := true } } = true ∧ govHeld (cooled {}) = false ∧
    (cooled { badIn := 3 }).gov.inNoted = false ∧ (cooled { badOut := 3 }).gov.outNoted = false ∧
    (let s := cooledBy 0 { flow := .lost }
     govHeld s = false ∧ s.gov.flowNs + 10 ^ 8 ≤ s.localNs ∧ nfld s.gov.cool.toNat 32 16 = 0 ∧ s.gov.flow = .lost) ∧
    (let s := cooledBy 0 { flow := .ok }
     govHeld s = false ∧ s.gov.flowNs + 10 ^ 8 ≤ s.localNs ∧ nfld s.gov.cool.toNat 32 16 = 0 ∧ s.gov.flow ≠ .lost) := by decide +kernel

def markS (a : Nat) : State := setQueue s5 0 { state := .running, flight := [{ cmd := cmd [(0, 0xC), (0x40, a)], descs := [0x0504030201] }] }
/-- The ticks before and at a multiple of 10 µs; a mark with and without a place for its snapshot. -/
theorem witness_HeartIntervals :
    (0 / 10000 < (10000 : Word64).toNat / 10000 ∧ (9999 : Word64).toNat / 10000 ≤ 0 / 10000) ∧
    inWork (markS 0) 0xC (fun f => decide (f.descs = [0x0504030201] ∧ cmdWord f.cmd 0x40 = 0)) = true ∧
    inWork (markS 0x8000) 0xC (fun f => decide (f.descs = [0x0504030201] ∧ cmdWord f.cmd 0x40 = 0x8000)) = true ∧
    (hdWrite (markS 0x8000) (ptrHost 0x8000) (ptrAddr 0x8000 6) (leBytes 64 0x0504030201)).2 = none := by decide +kernel

theorem witness_HeartIntervals_tick : govHeld s5 = false ∧ s5.gov.lastEnd / 10000 < ({ s5 with time := { now := 10000 } } : State).time.now.toNat / 10000 := by
  decide +kernel


/-- Line 0x210, whole, and line 0x40 of an absent stack; an entry to take back and a full set of the snoop filter. -/
theorem witness_HostMemory :
    (hosted.host.mode = 1 ∧ hostLine hosted 0x100008400 = some 0x210 ∧ ideAdmits hosted = true ∧ reaches hosted 4 0 kindMem = true ∧ devStack (64 * 0x210) / 8 = 0 ∧
     devStack (64 * 0x40) / 8 = 0 ∧ hosted.devErrs = [] ∧ hosted.host.snoop.contains 0x210 = false ∧
     (setLines hosted (snoopSet 0x210)).length < 16) ∧
    (∀ w ∈ [0x420, 0x421], devPoisoned hosted w = false ∧ devParked hosted (32 * w) = false ∧ slotAt hosted (32 * w) = none ∧ hostWordFault hosted false w = none ∧ hostWordFault hosted true w = none) ∧
    (hostLine hosted 0x100001000 = some 0x40 ∧ (hostWordFault hosted false 0x80).isSome = true ∧ (hostWordFault hosted true 0x80).isSome = true ∧
     ((hostWordFault hosted false 0x80).map (·.status)) ≠ some .memUncorrectable ∧ ((hostWordFault hosted true 0x80).map (·.status)) ≠ some .memUncorrectable) ∧
    (let s := { hosted with host := { hosted.host with snoop := (List.range 16).map fun i => 0x210 + 65536 * i } }
     s.host.snoop.contains (0x210 : BitVec 35).toNat = true ∧ s.host.sfWait = [] ∧ 16 ≤ (setLines s (snoopSet 0x10210)).length ∧
     lineReached s 0x210 = true) ∧
    (let s := { hosted with host := { hosted.host with snoop := (List.range 16).map fun i => 0x210 + 65536 * (i + 1), sfWait := [0x210] } }
     (setLines s 0x210).length = 16 ∧ s.host.sfWait.find? (fun l => decide (snoopSet l = 0x210)) = some 0x210 ∧
     ideAdmits s = true ∧ lineReached s 0x210 = true ∧ s.devErrs = [] ∧
     ∀ w ∈ [0x420, 0x421], devPoisoned s w = false ∧ devParked s (32 * w) = false ∧ slotAt s (32 * w) = none ∧ hostWordFault s false w = none) := by decide +kernel

def cmdHost : State := { fly [(0, 1), (0x40, 0x8000000000008000), (0x48, 0x8080)] hosted with host := hosted.host }
def loadHost : State := { setCore hosted 0 { prog 0 0 0 with phase := .loading, argAddr := 0x8000000000008000, argLen := 8 } with host := hosted.host }
def moveHost : State := setQueue hosted 0 { state := .running, flight := [{ cmd := cmd [(0, 1), (0x40, 0x8000), (0x48, 0x8080)], descs := [vec 1 3 0 2, vec 1 2 0x8480 2] }] }
/-- The link down and up, with a queue in host memory, with a copy from it, and with streams that are active; a command, a load and an engine that wait for the host. -/
theorem witness_HostLink :
    (s5.pkg.fatal = none ∧ s5.pkg.powered = true ∧ s5.pkg.inReset = false ∧ s5.pkg.stage = 5 ∧ s5.host.mode = 0 ∧ s5.host.pba = [] ∧
     State.reset.pkg.fatal = none ∧ State.reset.pkg.powered = true ∧ State.reset.pkg.inReset = false ∧ State.reset.pkg.stage = 0 ∧
     linkGood true 4 1 false hosted.host.decoders = true ∧ hosted.host.mode = (if true then 1 else 2) ∧ hosted.host.pba = [] ∧
     (let s := { hosted with host := { hosted.host with pba := [3], msix := [(3, { addr := 64, masked := false })] } }
      s.host.pba = [3] ∧ (msixOf s 3).masked = false)) ∧
    (hq.host.mode ≠ 0 ∧ qOnHost hq 0 = true ∧ (queueOf hq 0).state ≠ .disabled ∧ (queueOf hq 0).flight = [] ∧ (hq.queues.map (·.1)).Nodup) ∧
    ((∀ x ∈ hq.queues, ∀ g ∈ x.2.flight, moveOnHost g = false) ∧ ∀ x ∈ hq.cores, coreOnHost x.2 = false) ∧
    (moveHost.host.mode ≠ 0 ∧ moveHost.cores = [] ∧ (flightOf moveHost 0 9).map moveOnHost = some true) ∧
    (hosted.host.mode ≠ 0 ∧ hosted.queues = []) ∧
    (let h := { hosted.host with ideMem := true, ideIo := true }
     h.ideMem = true ∧ h.ideIo = true) ∧
    (hostServes cmdHost = true ∧ (flightOf cmdHost 0 9).map (fun f => (f.started, f.done, cmdOnHost cmdHost f)) = some (true, false, true)) ∧
    (hostServes loadHost = true ∧ physOf loadHost 0 = some 0 ∧ coreOnHost (coreOf loadHost 0) = true ∧ (coreOf loadHost 0).lq = []) ∧
    (hostServes hq = true ∧ (queueOf hq 0).state = .running) := by decide +kernel

/-- BAR0 reached and not, a register with RW and one with RC access, a reserved offset, the reset control. -/
theorem witness_Bar0 :
    barReachable s5 true = false ∧ barReachable hosted true = true ∧
    (barServes hosted true 0x90040 = true ∧ regAt 0x90040 = some (.cqCfg 1) ∧ (regInfo (.cqCfg 1)).rc = false) ∧
    (let x := regOffset (.errOverflow 3)
     barServes hosted true x = true ∧ x % 8 = 0 ∧ regAt x = some (.errOverflow 3) ∧ (regInfo (.errOverflow 3)).rc = true ∧ outOfReach hosted x = false) ∧
    (regAt 0xFF00 = none ∧ 0xFF00 < 0x600000 ∧ barServes hosted true 0xFF00 = true) ∧ 0x90044 % 8 ≠ 0 ∧
    (barServes hosted true (regOffset .cfgPeekData) = true ∧ barServes hosted true (regOffset .glbResetCtrl) = true) ∧
    (let s := { hosted with pkg := { stage := 6 } }
     barReachable s true = true ∧ barServes s true 0x90040 = false) ∧
    (msixOf hosted 3).masked = true ∧ 3 ∉ hosted.host.pba := by decide +kernel

/-- Before RUNNING and in it; each step, a session, a free slot for one and none. -/
theorem witness_SpdmMessages :
    inRunning { spdm openSpdm with pkg := {} } = false ∧ inRunning (spdm openSpdm) = true ∧ spdmOpen (spdm openSpdm) none = true ∧
    spdmOpen (spdm openSpdm) (some 1) = true ∧ spdmOpen (spdm openSpdm) (some 2) = false ∧ spdmOpen (spdm {}) none = false ∧
    sessionsUsed (spdm { step := 3 }) = [] ∧ (∀ i ∈ [0, 1, 2, 3], i ∈ sessionsUsed (spdm { step := 3, handshake := [0, 1], sessions := [2, 3] })) ∧
    (2 : BitVec 2).toNat ∈ ({ step := 3, handshake := [2] } : Spdm).handshake ∧ (1 : BitVec 2).toNat ∉ ({ step := 3, handshake := [2] } : Spdm).handshake ∧
    (1 : BitVec 2).toNat ∈ openSpdm.sessions ∧ (3 : BitVec 2).toNat ∉ openSpdm.sessions ∧ openSpdm.signed = none ∧
    ({ openSpdm with signed := some [(0x83, [])] } : Spdm).signed = some [(0x83, [])] := by decide +kernel

def grant : ImgHdr := { hdr 6 0 0 with scopes := 3, bind := 8, bindOk := true }
/-- A session, the record's last bytes, a grant that is accepted and others, an image that is accepted and one that is not, a bank to write. -/
theorem witness_SecurityEngine :
    (let s := { hosted with sec := { spdm := openSpdm } }
     inRunning s = true ∧ spdmOpen s (some 1) = true ∧ s.host.mode = 1) ∧
    (1 ≤ (4 : Word32).toNat ∧ (0x1FFFC : Word32).toNat + (4 : Word32).toNat ≤ 0x20000) ∧
    (imageRefused (secure {}).sec.fuses 6 grant okVerdict = none ∧ grant.bind ≠ 0 ∧ grant.len = 0 ∧ grant.nonce = (secure {}).sec.nonce) ∧
    ({ grant with nonce := 5 } : ImgHdr).nonce ≠ (secure {}).sec.nonce ∧
    (let s := imaged 3
     rbit s .secUpdateCtrl 0 = true ∧ s.sec.toWrite = none ∧ rfld s .secUpdateCtrl 1 3 = 1 ∧
     (match secRead s ((rget s .secUpdateAddr).toNat / 4096 * 4096) (rfld s .secUpdateCtrl 32 32) with
      | .ok bs => decide (imageBytes (parseHdr bs true).len.toNat ≤ rfld s .secUpdateCtrl 32 32) && decide (imageRefused s.sec.fuses 1 (parseHdr bs true) okVerdict = none)
          && decide (imageRefused s.sec.fuses 1 (parseHdr bs true) { okVerdict with payload := 1 } = some .secImageBad)
      | .error _ => false) = true) := by decide +kernel

def bank1 : FlashBank := { seq := 1, hdr := hdr 1 0 0, list := [] }
/-- Reset, reset with one firmware bank, and a package whose clearing has ended. -/
theorem witness_BootStages :
    (State.reset.pkg.powered = true ∧ State.reset.pkg.inReset = false ∧ State.reset.pkg.fatal = none ∧ State.reset.pkg.stage = 0 ∧
     State.reset.pkg.warm = false ∧ ∀ b ∈ [0, 1, 2, 3, 6, 7], flashBank State.reset b = none) ∧
    (let s := { State.reset with sec := { flash := [(0, some bank1)] }, pkg := { stage := 1 } }
     flashBank s 0 = some bank1 ∧ flashBank s 1 = none ∧ s.pkg.warm = false ∧ imageRefused s.sec.fuses 1 bank1.hdr okVerdict = none) ∧
    (let s := { State.reset with sec := { flash := [(0, some bank1), (1, some { bank1 with seq := 2 })] }, pkg := { stage := 1 } }
     (flashBank s 0).isSome = true ∧ (flashBank s 1).isSome = true ∧ seqWinner s 0 = some 1 ∧
     imageRefused s.sec.fuses 1 bank1.hdr { okVerdict with rsa := false } = some .secImageBad) ∧
    bootDone { State.reset with pkg := { stage := 4 } } = false ∧
    (let s := { State.reset with pkg := { stage := 4 }, clusters := (List.range 64).map fun c => (c, { clearing := false }) }
     s.pkg.stage = 4 ∧ bootDone s = true) := by decide +kernel

/-- Pulses of 99 and 100 µs; power absent and present; VBUS at and beyond its bounds; a first and a second fatal; a stop. -/
theorem witness_ResetsAndStops :
    (warmed.pkg.powered = true ∧ warmed.pkg.inReset = false ∧ warmed.pkg.fatal = none ∧ (99 : BitVec 32).toNat < 100 ∧ 100 ≤ (100 : BitVec 32).toNat) ∧
    (5399 : BitVec 16).toNat < 5400 ∧ 6600 < (6601 : BitVec 16).toNat ∧ 5400 ≤ (6600 : BitVec 16).toNat ∧ (6600 : BitVec 16).toNat ≤ 6600 ∧
    (let s := { warmed with err := { due := [.welkinFatal] } }
     Due.welkinFatal ∈ s.err.due ∧ s.pkg.fatalBefore = false) ∧
    (let s := { warmed with err := { due := [.welkinFatal] }, pkg := { stage := 4, fatalBefore := true } }
     s.pkg.fatalBefore = true ∧ s.pkg.stage ≠ 5 ∧ s.pkg.powered = true ∧ s.pkg.inReset = false ∧ s.pkg.fatal = none) ∧
    fatalDue { warmed with err := { due := [.packageFatal .vbusFault] } } = some .vbusFault := by decide +kernel

/-- A slot that is due, a write that may begin after exactly 300 s, one under way, none; a second that is over. -/
theorem witness_FieldRecord :
    (let s := { fielded {} with time := { now := 900000000000 } }
     slotDue s = true ∧ s.fld.writing = none ∧ s.fld.pend = none) ∧
    (let s := fielded { pend := some 2, lastStart := some (s5.localNs - 300000000000) }
     slotDue s = false ∧ s.fld.writing = none ∧ s.fld.pend = some 2 ∧ s5.localNs - 300000000000 + 300 * 10 ^ 9 ≤ s.localNs) ∧
    (fielded { writing := some { cause := 2, startNs := 0, bank := 1 } }).fld.writing = some { cause := 2, startNs := 0, bank := 1 } ∧
    (fielded {}).fld.tickNs + 10 ^ 9 ≤ (fielded {}).localNs := by decide +kernel
theorem witness_FieldRecord_ports : ∀ p, p < 24 → (portOf (fielded {}) p).st ≠ .active := fun _ _ h => by cases h

/-- A step, a memory, an offset and words that the whole-machine statements speak of. -/
theorem witness_WholeMachine :
    (match step { s1 with pending := [.evtFaultClear 7] } with | .next _ => true | _ => false) = true ∧ memWf [(3, 1), (9, 255)] = true ∧
    regAt 0x90040 = some (.cqCfg 1) ∧ encodeInsn (.sub 7 4 5 6) = some (word 0 0x02 [(50, 4), (45, 5), (40, 6)]) ∧
    decodeInsn 7 (word 0 0x02 [(50, 4), (45, 5), (40, 6)]) = some (.sub 7 4 5 6) := by decide +kernel

end Sys2Proof.Tests
end

section
/-! PROOFS. BAR0 accesses, MSI-X unmasking and the armed reset of the welkin die (R15, R283, R518 to R520, R614, R615). -/
namespace Sys2Proof.Machine

/-! ## Fields of registers -/

/-- A field of a number within 64 bits is the field of its word. -/
theorem nfld_ofNat (y : Nat) {lo n : Nat} (hn : lo + n ≤ 64) : nfld (BitVec.ofNat 64 y).toNat lo n = nfld y lo n := by
  have h64 : (2 : Nat) ^ 64 = 2 ^ lo * 2 ^ n * 2 ^ (64 - lo - n) := by rw [← pow_add, ← pow_add]; congr 1; omega
  rw [nfld, nfld, BitVec.toNat_ofNat, h64, Nat.mul_assoc, Nat.mod_mul_right_div_self, Nat.mod_mul_right_mod]

/-- A number as its bits above a field, the field and the bits below. -/
theorem nfld_split (a k b lo n : Nat) (hk : k < 2 ^ n) (hb : b < 2 ^ lo) : nfld ((a * 2 ^ n + k) * 2 ^ lo + b) lo n = k := by
  rw [nfld, Nat.mul_comm _ (2 ^ lo), Nat.mul_add_div (by positivity), Nat.div_eq_of_lt hb, Nat.add_zero, Nat.mul_comm,
    Nat.mul_add_mod, Nat.mod_eq_of_lt hk]

theorem rfld_rsetFld_same (s : State) (r : Reg) {lo n : Nat} (v : Nat) (hn : lo + n ≤ 64) :
    rfld (rsetFld s r lo n v) r lo n = v % 2 ^ n := by
  rw [rfld, rsetFld, rget_rset_same, nfld_ofNat _ hn]
  generalize (rget s r).toNat = w
  have hb : w % 2 ^ lo < 2 ^ lo := Nat.mod_lt _ (by positivity)
  have hv : v % 2 ^ n < 2 ^ n := Nat.mod_lt _ (by positivity)
  have hw : w = w / 2 ^ lo / 2 ^ n * 2 ^ n * 2 ^ lo + nfld w lo n * 2 ^ lo + w % 2 ^ lo := by
    rw [← Nat.add_mul, nfld, Nat.div_add_mod', Nat.div_add_mod']
  have hnew : w - nfld w lo n * 2 ^ lo + v % 2 ^ n * 2 ^ lo = (w / 2 ^ lo / 2 ^ n * 2 ^ n + v % 2 ^ n) * 2 ^ lo + w % 2 ^ lo := by
    rw [Nat.add_mul]; omega
  rw [hnew, nfld_split _ _ _ _ _ hv hb]

/-- A field that a write gives whole takes the written value. -/
theorem nfld_merged (old mask v : Word64) {lo n : Nat} (h : mask.extractLsb' lo n = BitVec.allOnes n) :
    nfld (merged old mask v).toNat lo n = nfld v.toNat lo n := by
  have he : (merged old mask v).extractLsb' lo n = v.extractLsb' lo n := by
    ext i hi
    have hm : mask.getLsbD (lo + i) = true := by simpa [hi] using congrArg (BitVec.getLsbD · i) h
    simp [merged, hm]
  simpa only [nfld, BitVec.extractLsb'_toNat, Nat.shiftRight_eq_div_pow] using congrArg BitVec.toNat he

/-! ## Reads (R15, R518) -/

theorem outOfReach_of_lt (s : State) {x : Nat} (h : x < 0x1000000) : outOfReach s x = false := by
  have hw : windowDie x = none := by simp [windowDie]; omega
  simp [outOfReach, pageCore, hw]

theorem barWord_reserved (s : State) {x : Nat} (hx : x % 8 = 0) (hr : regAt x = none) (hlt : x < 0x600000) : barWord s x = 0 := by
  have h8 : x / 8 * 8 = x := by omega
  have ho : outOfReach s x = false := outOfReach_of_lt s (by omega)
  have h1 : ¬ (0x600000 ≤ x ∧ x < 0x608000) := by omega
  have h2 : ¬ (0x608000 ≤ x ∧ x < 0x608100) := by omega
  simp only [barWord, h8, ho, hr, if_neg h1, if_neg h2, Bool.false_eq_true, if_false]

theorem barWord_cfgPeekData (s : State) : barWord s (regOffset .cfgPeekData) = peekData s := by
  have ho : outOfReach s 0x10018 = false := outOfReach_of_lt s (by decide)
  have hr : regAt 0x10018 = some .cfgPeekData := by decide
  simp [barWord, regOffset, ho, hr]

/-- The read of an aligned word clears nothing where its register has no RC access, or there is none. -/
theorem barRead8_keeps (s : State) {x : Nat} (h : ∀ r, regAt x = some r → (regInfo r).rc = false) :
    barRead8 s x = setBarData (tickFree s) (barWord s x) := by
  unfold barRead8
  split
  · next r hr => simp [h r hr]
  · rfl

/-- The read of an RC register starts it again. -/
theorem barRead8_rc (s : State) {x : Nat} {r : Reg} (hr : regAt x = some r) (hrc : (regInfo r).rc = true) (ho : outOfReach s x = false) :
    barRead8 s x = setBarData (rset (tickFree s) r (rcRestart s r)) (barWord s x) := by
  simp only [barRead8, hr, hrc, ho, Bool.not_false, Bool.and_self, if_true]
  rfl

/-! ## Accesses (R518, R519) -/

theorem barAccess_unreachable {s : State} {host : Bool} (h : barReachable s host = false) (x : Nat) (a : BarAccess) :
    barAccess s host x a = s := by
  simp [barAccess, h]

section
variable {s : State} {host : Bool} {x : Nat} (hr : barReachable s host = true)
include hr

theorem barAccess_oddRead : barAccess s host x .oddRead = setBarData (badMmio s) allOnes := by
  simp [barAccess, hr]

theorem barAccess_read8_unaligned (hx : x % 8 ≠ 0) : barAccess s host x .read8 = setBarData (badMmio s) allOnes := by
  simp [barAccess, hr, hx]

theorem barAccess_write8_unaligned (hx : x % 8 ≠ 0) (v : Word64) : barAccess s host x (.write8 v) = badMmio s := by
  simp [barAccess, hr, hx]

theorem barAccess_read8_served (hs : barServes s host x = true) (hx : x % 8 = 0) : barAccess s host x .read8 = barRead8 s x := by
  simp [barAccess, hr, hs, hx]

theorem barAccess_read8_unserved (hs : barServes s host x = false) (hx : x % 8 = 0) :
    barAccess s host x .read8 = setBarData s allOnes := by
  simp [barAccess, hr, hs, hx]

theorem barAccess_write8_unserved (hs : barServes s host x = false) (hx : x % 8 = 0) (v : Word64) :
    barAccess s host x (.write8 v) = s := by
  simp [barAccess, hr, hs, hx]

/-- The low half of an aligned word, with nothing cleared. -/
theorem barAccess_read4_low (hs : barServes s host x = true) (hx : x % 8 = 0) :
    barAccess s host x .read4 = setBarData (tickFree s) (barWord s x &&& lowHalf) := by
  have h4 : x % 4 = 0 := by omega
  simp [barAccess, barRead4, hr, hs, hx, h4]

end

theorem exec_bar0Access {s t : State} {host : Bool} {off : BitVec 28} {a : BarAccess} (h : barAccess s host off.toNat a = t) :
    exec (.bar0Access host off a) s = .next t := congrArg Host.Outcome.next h

theorem execRcRead_rc (s : State) {off : BitVec 28} {r : Reg} (hr : regAt off.toNat = some r) (hrc : (regInfo r).rc = true)
    (hx : off.toNat % 8 = 0) : execRcRead off s = .next (barAccess s true off.toNat .read8) := by
  simp [execRcRead, hr, hrc, hx]

/-! ## MSI-X (R520) -/

/-- Unmasking a vector without a pending message sends nothing. -/
theorem msixUnmask_notPending {s : State} {v : Nat} (hp : v ∉ s.host.pba) :
    msixUnmask s v = { s with host := { s.host with msix := tset (fun _ => {}) s.host.msix v { msixOf s v with masked := false } } } := by
  simp [msixUnmask, setHas, hp]

theorem exec_msixUnmask {s : State} {v : BitVec 11} (hm : s.host.mode ≠ 0) (hk : (msixOf s v.toNat).masked = true) :
    exec (.msixUnmask v) s = .next (msixUnmask s v.toNat) := by
  simp [exec, execMsixUnmask, hm, hk]

/-! ## Writes of the reset control (R614) -/

/-- A write of an aligned register outside of the MSI-X table. -/
theorem barWrite_register (s : State) {x : Nat} {r : Reg} (hx : x % 8 = 0) (ho : outOfReach s x = false) (hr : regAt x = some r)
    (ht : ¬ (0x600000 ≤ x ∧ x < 0x608000)) (mask v : Word64) : barWrite s x mask v = writeReg s r mask v := by
  have h8 : x / 8 * 8 = x := by omega
  simp only [barWrite, h8, ho, hr, if_neg ht, Bool.false_eq_true, if_false]

theorem directWrite_nothing (s : State) (off : Nat) (v : Word64) : directWrite s off 0 v = s := by
  unfold directWrite; split <;> simp

/-- The state in which a written reset control holds its KEY, before WELKIN_RESET acts. -/
def keyed (s : State) (v : Word64) : State := rset s .glbResetCtrl (merged (rget s .glbResetCtrl) 0xFFFF0000 v)

/-- A whole write of the reset control stores the KEY, and where it sets WELKIN_RESET that acts on it. -/
theorem writeReg_glbResetCtrl (s : State) {v : Word64} (hv : 1 &&& v ≠ 0) :
    writeReg s .glbResetCtrl allOnes v = welkinResetWrite (keyed s v) := by
  have hset (t : State) : writeSet t .glbResetCtrl (1 &&& v) = welkinResetWrite t := if_neg hv
  have hclear (t : State) : writeClear t .glbResetCtrl (0 &&& v) = t := if_pos (by simp)
  calc writeReg s .glbResetCtrl allOnes v
      = writeSet (writeClear (directWrite (writeRw s .glbResetCtrl 0xFFFF0000 v) 0x20 0 v) .glbResetCtrl (0 &&& v)) .glbResetCtrl
          (1 &&& v) := rfl
    _ = _ := by rw [directWrite_nothing, hclear, hset]; rfl

theorem welkinResetWrite_armed {s : State} (h : rfld s .glbResetCtrl 16 16 = 0xD1E5) :
    welkinResetWrite s = welkinReset (rsetFld s .glbResetCtrl 16 16 0) := if_pos h

theorem welkinResetWrite_unarmed {s : State} (h : rfld s .glbResetCtrl 16 16 ≠ 0xD1E5) :
    welkinResetWrite s = rbump (rsetFld s .glbResetCtrl 16 16 0) .glbRegRejects 1 := if_neg h

theorem rfld_keyed (s : State) (v : Word64) : rfld (keyed s v) .glbResetCtrl 16 16 = nfld v.toNat 16 16 := by
  rw [rfld, keyed, rget_rset_same, nfld_merged _ _ _ (by decide)]

/-- WELKIN_RESET of a value that sets it acts on the KEY written with it. -/
theorem exec_welkinReset {s : State} (hr : barReachable s true = true) (hs : barServes s true (regOffset .glbResetCtrl) = true)
    {v : Word64} (hv : 1 &&& v ≠ 0) : exec (.welkinReset (.whole v)) s = .next (welkinResetWrite (keyed s v)) := by
  have ho : outOfReach s (regOffset .glbResetCtrl) = false := outOfReach_of_lt s (by decide)
  have hw : hostWriteReg s .glbResetCtrl (.whole v) = barWrite s (regOffset .glbResetCtrl) allOnes v := by
    rw [hostWriteReg, hr, hs]; rfl
  calc exec (.welkinReset (.whole v)) s = .next (hostWriteReg s .glbResetCtrl (.whole v)) := rfl
    _ = .next (welkinResetWrite (keyed s v)) := by
      rw [hw, barWrite_register s (r := .glbResetCtrl) (by decide) ho (by decide) (by decide), writeReg_glbResetCtrl s hv]

/-- What the unarmed reset leaves: KEY is 0 again, the write is counted, every other register keeps its value. -/
theorem unarmed_regs (s : State) (v : Word64) :
    let t := rbump (rsetFld (keyed s v) .glbResetCtrl 16 16 0) .glbRegRejects 1
    rfld t .glbResetCtrl 16 16 = 0 ∧ rget t .glbRegRejects = rget s .glbRegRejects + 1 ∧
      RegsBut s t [.glbResetCtrl, .glbRegRejects] := by
  have hne : regOffset .glbResetCtrl ≠ regOffset .glbRegRejects := by decide
  have hother {r : Reg} (h : regOffset r ≠ regOffset .glbResetCtrl) : rget (rsetFld (keyed s v) .glbResetCtrl 16 16 0) r = rget s r := by
    rw [rsetFld, rget_rset_other _ _ _ _ h, keyed, rget_rset_other _ _ _ _ h]
  refine ⟨?_, ?_, fun r h => ?_⟩
  · rw [rfld, rbump, rget_rset_other _ _ _ _ hne]
    exact rfld_rsetFld_same _ _ 0 (by decide)
  · rw [rbump, rget_rset_same, hother hne.symm]; rfl
  · rw [rbump, rget_rset_other _ _ _ _ (h _ (by simp)), hother (h _ (by simp))]

/-! ## A reset of the welkin die (R469, R523) -/

/-- What lies outside of the units, the registers and the error records. -/
def outsideUnits (s : State) : List Host.Cell × SecUnit × CollUnit × Pkg × HostPort := (s.dev, s.sec, s.coll, s.pkg, s.host)

theorem outsideUnits_report (s : State) (st : Status) (res : Word32) (a d : Word64) (f : Bool) :
    outsideUnits (report s st res a d f) = outsideUnits s := by
  rw [report_frame]; rfl

theorem outsideUnits_rbump (s : State) (r : Reg) (n : Nat) : outsideUnits (rbump s r n) = outsideUnits s := rfl

theorem outsideUnits_foldl {α : Type} {f : State → α → State} (h : ∀ s x, outsideUnits (f s x) = outsideUnits s) (l : List α)
    (s : State) : outsideUnits (l.foldl f s) = outsideUnits s := by
  induction l generalizing s with
  | nil => rfl
  | cons x l ih => rw [List.foldl_cons, ih, h]

/-- What a reset of the welkin die leaves outside of the units (R469, R523). -/
theorem outsideUnits_welkinReset (s : State) :
    outsideUnits (welkinReset s) =
      (s.dev, { fuses := s.sec.fuses, flash := s.sec.flash, out := s.sec.out }, { State.reset.coll with retired := s.coll.retired },
       { fatal := s.pkg.fatal, thermTrip := s.pkg.thermTrip, warm := true, fatalBefore := s.pkg.fatalBefore, fwRun := s.pkg.fwRun },
       { sent := s.host.sent }) := by
  dsimp only [welkinReset]
  split
  case' isFalse => rw [outsideUnits_report, outsideUnits_rbump]
  all_goals
    iterate 3 refine (outsideUnits_foldl (fun _ _ => by rfl) _ _).trans ?_
    rfl

theorem welkinReset_kept (s : State) :
    (welkinReset s).dev = s.dev ∧ (welkinReset s).pkg.stage = 0 ∧ (welkinReset s).pkg.warm = true ∧ (welkinReset s).host.mode = 0 ∧
      (welkinReset s).sec.fuses = s.sec.fuses ∧ (welkinReset s).coll.retired = s.coll.retired := by
  have h := outsideUnits_welkinReset s
  simp only [outsideUnits, Prod.mk.injEq] at h
  obtain ⟨hdev, hsec, hcoll, hpkg, hhost⟩ := h
  simp [hdev, hsec, hcoll, hpkg, hhost]

/-! ## The statement -/

/-- Settles O49: each access follows the branch of its size, its alignment and whether its offset is served; the reset control acts on
the KEY that the write stores. -/
theorem bar0 : Obligations.Bar0 := by
  intro s off a v r d
  refine ⟨fun h => ?_, fun hr => ⟨fun hs hx => ⟨?_, ?_, ?_, ?_⟩, fun hx => ⟨?_, ?_⟩, ?_, fun hs hx => ⟨?_, ?_⟩⟩,
    fun hr hs => ?_, fun hm hmask hp => ?_, fun hr hs => ?_, fun hr hs => ?_⟩
  · exact exec_bar0Access (barAccess_unreachable h ..)
  · intro hreg hrc
    have hk : ∀ r', regAt off.toNat = some r' → (regInfo r').rc = false := by simpa [hreg] using hrc
    exact exec_bar0Access ((barAccess_read8_served hr hs hx).trans (barRead8_keeps s hk))
  · intro hreg hrc ho
    have hread := (barAccess_read8_served hr hs hx).trans (barRead8_rc s hreg hrc ho)
    exact ⟨exec_bar0Access hread, (execRcRead_rc s hreg hrc hx).trans (congrArg Host.Outcome.next hread)⟩
  · intro hreg hlt
    have hk : ∀ r', regAt off.toNat = some r' → (regInfo r').rc = false := by simp [hreg]
    have hread := (barAccess_read8_served hr hs hx).trans (barRead8_keeps s hk)
    rw [barWord_reserved s hx hreg hlt] at hread
    exact exec_bar0Access hread
  · exact exec_bar0Access (barAccess_read4_low hr hs hx)
  · exact exec_bar0Access (barAccess_read8_unaligned hr hx)
  · exact exec_bar0Access (barAccess_write8_unaligned hr hx d)
  · exact exec_bar0Access (barAccess_oddRead hr)
  · exact exec_bar0Access (barAccess_read8_unserved hr hs hx)
  · exact exec_bar0Access (barAccess_write8_unserved hr hs hx d)
  · have hread := (barAccess_read8_served hr hs (by decide)).trans (barRead8_keeps s (by decide))
    rw [barWord_cfgPeekData] at hread
    exact congrArg Host.Outcome.next hread
  · rw [exec_msixUnmask hm hmask, msixUnmask_notPending hp]
  · have hkey : rfld (keyed s 1) .glbResetCtrl 16 16 ≠ 0xD1E5 := by rw [rfld_keyed]; decide
    rw [exec_welkinReset hr hs (by decide), welkinResetWrite_unarmed hkey]
    exact ⟨_, rfl, rfl, unarmed_regs s 1⟩
  · have hkey : rfld (keyed s 0xD1E50001) .glbResetCtrl 16 16 = 0xD1E5 := by rw [rfld_keyed]; decide
    rw [exec_welkinReset hr hs (by decide), welkinResetWrite_armed hkey]
    exact ⟨_, rfl, welkinReset_kept _⟩

end Sys2Proof.Machine
end

section
/-! PROOFS. Every command answers a next state: each meaning is a tree of guards, and what stands at each leaf is a next state. -/
namespace Sys2Proof.Machine

/-- The outcome is a next state. -/
def Answers (o : Out) : Prop := ∃ t, o = .next t

theorem answers_next (t : State) : Answers (.next t) := ⟨t, rfl⟩

/-! ## The shared operations -/

/-- An instruction waits, ends its program or issues (R189), whatever its checks and its effect are. -/
theorem issue_answers (core : Fin 4096) (i : Instr) (reads : List (BitVec 5)) (full : Core → Bool)
    (fault : State → Core → Option Status) (eff : State → Nat → State) (s : State) :
    Answers (issue core i reads full fault eff s) := by
  fun_cases issue core i reads full fault eff s <;> exact answers_next _

theorem scalarOp_answers (core : Fin 4096) (i : Instr) (sd : BitVec 5) (reads : List (BitVec 5)) (val : Core → Word64) (s : State) :
    Answers (scalarOp core i sd reads val s) := issue_answers ..

theorem branchOp_answers (core : Fin 4096) (i : Instr) (reads : List (BitVec 5)) (imm : BitVec 40) (taken : Core → Bool) (s : State) :
    Answers (branchOp core i reads imm taken s) := issue_answers ..

theorem loadIssue_answers (core : Fin 4096) (i : Instr) (slots : List (BitVec 5)) (num : BitVec 5) (s : State) :
    Answers (loadIssue core i slots num s) := issue_answers ..

theorem atomIssue_answers (core : Fin 4096) (i : Instr) (op : AtomOp) (sd sa sb sc : BitVec 5) (width : BitVec 3) (s : State) :
    Answers (atomIssue core i op sd sa sb sc width s) := issue_answers ..

theorem vecIssue_answers (core : Fin 4096) (i : Instr) (op : VecOp) (d a b c num : BitVec 5) (cfmt : BitVec 4) (s : State) :
    Answers (vecIssue core i op d a b c num cfmt s) := by
  dsimp only [vecIssue]; exact issue_answers ..

theorem fabIssue_answers (core : Fin 4096) (i : Instr) (op : FabOp) (desc epreg auxreg : BitVec 5) (vc : BitVec 3) (mode : BitVec 2)
    (num : BitVec 5) (s : State) : Answers (fabIssue core i op desc epreg auxreg vc mode num s) := by
  dsimp only [fabIssue]; exact issue_answers ..

/-- The responder is silent, answers or answers with ERROR (R546). -/
theorem spdmReply_answers (s : State) (ok signed : Bool) (request : Nat) (body : List Byte) :
    Answers (spdmReply s ok signed request body) := by
  fun_cases spdmReply s ok signed request body <;> exact answers_next _

/-! ## All commands -/

/-- A command that does not go through a shared operation is taken apart at the guards of its own meaning; the leaves that are left are
next states or replies. -/
theorem exec_answers (c : Instr) (s : State) : Answers (exec c s) := by
  cases c <;> dsimp only [exec]
  -- tile instructions that one shared operation issues (R189)
  case nop | mul | lds | sts | rdreg | clrnum | rdtime | dset | dget | dbase | dpart | ewait | esignal | lwait | twait | drain |
      endp => exact issue_answers ..
  case add | sub | and | or | xor | shl | shr | sra | min | max | addi | andi | li | lui => exact scalarOp_answers ..
  case beq | bne | blt | bge | jmp => exact branchOp_answers ..
  case dload | dstore | dgather | dscatter => exact loadIssue_answers ..
  case aadd | afadd | aswap | acas | amax | amin => exact atomIssue_answers ..
  case vadd | vsub | vmul | vfma | vmax | vmin | vabs | vneg | vscl | vsel | vcopy | vexp2 | vlog2 | vrcp | vrsqrt | vsqrt | vrsum |
      vrmax => exact vecIssue_answers ..
  case fsend | frecv | fcsend | fcrecv | fput | fget | facc | fmsg => exact fabIssue_answers ..
  -- commands without a guard, and requests that the responder answers
  case resume | cancel | queueEnable | queueDisable | evtFaultClear | timeSet | stackRequest | flush | channelInterfaceFail |
      dieReset | govCapWrite | bar0Access | hostLinkDown | pendingApply | fieldWriteEnd | writeNow | welkinReset | cfgPeekData |
      perstN => exact answers_next _
  case getDigests | getCertificate | challenge | companionSignature => exact spdmReply_answers ..
  -- the engines, whose instructions a full deferral list holds first (R141)
  case' feWload => fun_cases execFeWload
  case' feStream => fun_cases execFeStream
  case' beWload => fun_cases execBeWload
  case' beDx => fun_cases execBeDx
  case' beDw => fun_cases execBeDw
  -- the units of a core (spec/03, spec/04, spec/06)
  case' waitRelease => fun_cases execWaitRelease
  case' esignalSend => fun_cases execEsignalSend
  case' insnRetire => fun_cases execInsnRetire
  case' feTileReady => fun_cases execFeTileReady
  case' feSwap => fun_cases execFeSwap
  case' gridClockStop => fun_cases execGridClockStop
  case' beTileReady => fun_cases execBeTileReady
  case' deferralDispatch => fun_cases execDeferralDispatch
  case' dwEntryDone => fun_cases execDwEntryDone
  case' programStart => fun_cases execProgramStart
  case' tpTimeout => fun_cases execTpTimeout
  case' programFault => fun_cases execProgramFault
  case' stagingGrant => fun_cases execStagingGrant
  -- queue commands (spec/10)
  case' copy => fun_cases execCopy
  case' gather => fun_cases execGather
  case' scatter => fun_cases execScatter
  case' tileProgram => fun_cases execTileProgram
  case' collective => fun_cases execCollective
  case' update => fun_cases execUpdate
  case' fence => fun_cases execFence
  case' waitEvent => fun_cases execWaitEvent
  case' evtTimeout => fun_cases execEvtTimeout
  case' signalEvent => fun_cases execSignalEvent
  case' timeWait => fun_cases execTimeWait
  case' collRefUnknown => fun_cases execCollRefUnknown
  -- configuration (spec/17)
  case' cfgTxnBegin => fun_cases execCfgTxnBegin
  case' cfgTxnWrite => fun_cases execCfgTxnWrite
  case' cfgTxnCommit => fun_cases execCfgTxnCommit
  case' cfgTxnAbort => fun_cases execCfgTxnAbort
  case' cfgCommitApply => fun_cases execCfgCommitApply
  case' cfgQuiesceTimeout => fun_cases execCfgQuiesceTimeout
  case' cfgIdleAbort => fun_cases execCfgIdleAbort
  case' cfgPersist => fun_cases execCfgPersist
  case' timedActionFire => fun_cases execTimedActionFire
  case' directWrite => fun_cases execDirectWrite
  -- the governor (spec/15)
  case' energyMark => fun_cases execEnergyMark
  case' droopDetect => fun_cases execDroopDetect
  case' stretchRecover => fun_cases execStretchRecover
  case' heartIntervalEnd => fun_cases execHeartIntervalEnd
  case' guardRecover => fun_cases execGuardRecover
  case' hardCapFastPath => fun_cases execHardCapFastPath
  case' graceExpiry => fun_cases execGraceExpiry
  case' thermalTrip => fun_cases execThermalTrip
  case' idleOff => fun_cases execIdleOff
  case' clusterWake => fun_cases execClusterWake
  case' stepHoldExpiry => fun_cases execStepHoldExpiry
  case' rampWindowEnd => fun_cases execRampWindowEnd
  case' valveUpdate => fun_cases execValveUpdate
  case' flowComputation => fun_cases execFlowComputation
  case' coolSensorFail => fun_cases execCoolSensorFail
  -- queues (spec/10)
  case' tailWake => fun_cases execTailWake
  case' tailPoll => fun_cases execTailPoll
  case' commandFetch => fun_cases execCommandFetch
  case' commandCheck => fun_cases execCommandCheck
  case' commandStart => fun_cases execCommandStart
  case' commandFinish => fun_cases execCommandFinish
  case' eventAdvance => fun_cases execEventAdvance
  -- edges of the time input (spec/10)
  case' timeppsEdge => fun_cases execTimeppsEdge
  -- time (spec/10)
  case' timeMessageSend => fun_cases execTimeMessageSend
  case' timeRefLost => fun_cases execTimeRefLost
  case' timeRefReturn => fun_cases execTimeRefReturn
  case' holdoverExpiry => fun_cases execHoldoverExpiry
  case' time => fun_cases execTime
  case' epochStale => fun_cases execEpochStale
  -- fabric ports (spec/11)
  case' portEnable => fun_cases execPortEnable
  case' retrain => fun_cases execRetrain
  case' trainingDone => fun_cases execTrainingDone
  case' trainingRestart => fun_cases execTrainingRestart
  case' laneFail => fun_cases execLaneFail
  case' laneSwap => fun_cases execLaneSwap
  case' flitReceive => fun_cases execFlitReceive
  case' flitReplay => fun_cases execFlitReplay
  case' recoveryTimeout => fun_cases execRecoveryTimeout
  -- packets and collectives (spec/11, spec/12)
  case' readReq => fun_cases execReadReq
  case' readResp => fun_cases execReadResp
  case' write => fun_cases execWrite
  case' accWrite => fun_cases execAccWrite
  case' resp => fun_cases execResp
  case' cts => fun_cases execCts
  case' sendData => fun_cases execSendData
  case' chunkData => fun_cases execChunkData
  case' withdraw => fun_cases execWithdraw
  case' msg => fun_cases execMsg
  case' taint => fun_cases execTaint
  case' mgmt => fun_cases execMgmt
  case' packetForward => fun_cases execPacketForward
  case' broadcastForward => fun_cases execBroadcastForward
  case' fabStall => fun_cases execFabStall
  case' fabTimeout => fun_cases execFabTimeout
  case' joinEmit => fun_cases execJoinEmit
  case' chunkCheck => fun_cases execChunkCheck
  case' confirmToken => fun_cases execConfirmToken
  case' sealToken => fun_cases execSealToken
  case' tokenResend => fun_cases execTokenResend
  case' collTimeout => fun_cases execCollTimeout
  case' cumUncorrectable => fun_cases execCumUncorrectable
  case' holdOverrun => fun_cases execHoldOverrun
  -- on-chip memories (spec/07)
  case' bankGrant => fun_cases execBankGrant
  case' eccWriteback => fun_cases execEccWriteback
  case' sramPatrol => fun_cases execSramPatrol
  case' cmemBankMigrate => fun_cases execCmemBankMigrate
  case' cmemBankMigrated => fun_cases execCmemBankMigrated
  case' stewardCmemAccess => fun_cases execStewardCmemAccess
  -- error records and recovery (spec/18)
  case' spadRetireCopy => fun_cases execSpadRetireCopy
  case' errRecordFree => fun_cases execErrRecordFree
  case' coreHwFault => fun_cases execCoreHwFault
  case' coreRetired => fun_cases execCoreRetired
  case' appCoreFault => fun_cases execAppCoreFault
  case' appCoreResume => fun_cases execAppCoreResume
  case' stewardPartnerAccess => fun_cases execStewardPartnerAccess
  case' debugHalt => fun_cases execDebugHalt
  case' debugResume => fun_cases execDebugResume
  -- clearing of clusters (spec/07)
  case' clusterClear => fun_cases execClusterClear
  case' clusterClearDone => fun_cases execClusterClearDone
  case' clear => fun_cases execClear
  -- memory stacks (spec/08)
  case' accumulatingWrite => fun_cases execAccumulatingWrite
  case' mergeWriteback => fun_cases execMergeWriteback
  case' stackPatrol => fun_cases execStackPatrol
  case' channelSpareCopy => fun_cases execChannelSpareCopy
  case' channelSpared => fun_cases execChannelSpared
  case' selfRefreshEntry => fun_cases execSelfRefreshEntry
  case' parkSlotFill => fun_cases execParkSlotFill
  case' parkQueueGrant => fun_cases execParkQueueGrant
  -- update units (spec/09)
  case' updBlockDispatch => fun_cases execUpdBlockDispatch
  case' updJournalWrite => fun_cases execUpdJournalWrite
  case' updCommit => fun_cases execUpdCommit
  case' updInPlace => fun_cases execUpdInPlace
  case' updRetire => fun_cases execUpdRetire
  case' journalRecovery => fun_cases execJournalRecovery
  case' journalInit => fun_cases execJournalInit
  case' slowReplay => fun_cases execSlowReplay
  case' slowFetch => fun_cases execSlowFetch
  case' slowFetchDone => fun_cases execSlowFetchDone
  case' slowFetchFail => fun_cases execSlowFetchFail
  case' releaseFailed => fun_cases execReleaseFailed
  -- die links (spec/14)
  case' linkBeatReceive => fun_cases execLinkBeatReceive
  case' linkReplay => fun_cases execLinkReplay
  case' laneDiagnosis => fun_cases execLaneDiagnosis
  case' wireRemap => fun_cases execWireRemap
  case' spareWireFail => fun_cases execSpareWireFail
  -- dies (spec/14)
  case' dieFence => fun_cases execDieFence
  case' dieReturn => fun_cases execDieReturn
  -- the host link (spec/16)
  case' cxlMemRead => fun_cases execCxlMemRead
  case' cxlMemWrite => fun_cases execCxlMemWrite
  case' bisnp => fun_cases execBisnp
  case' sfEviction => fun_cases execSfEviction
  case' hostAccessTimeout => fun_cases execHostAccessTimeout
  case' ideFailure => fun_cases execIdeFailure
  case' flr => fun_cases execFlr
  case' hostLinkUp => fun_cases execHostLinkUp
  -- BAR0 (spec/16)
  case' rcRead => fun_cases execRcRead
  case' msixUnmask => fun_cases execMsixUnmask
  -- boot, resets and images (spec/17, spec/18, spec/22)
  case' boot => fun_cases execBoot
  case' flashPairWrite => fun_cases execFlashPairWrite
  -- GO's failing leaves are a local definition, which `exact` unfolds
  case go => fun_cases execGo <;> exact answers_next _
  case' present => fun_cases execPresent
  case' welkinFatal => fun_cases execWelkinFatal
  case' packageFatal => fun_cases execPackageFatal
  case' pkgResetN => fun_cases execPkgResetN
  case' vbusFault => fun_cases execVbusFault
  case' sysclkLoss => fun_cases execSysclkLoss
  case' vbusRise => fun_cases execVbusRise
  case' vbusRemoved => fun_cases execVbusRemoved
  -- SPDM and sessions (spec/17)
  case' getVersion => fun_cases execGetVersion
  case' getCapabilities => fun_cases execGetCapabilities
  case' negotiateAlgorithms => fun_cases execNegotiateAlgorithms
  case' getMeasurements => fun_cases execGetMeasurements
  case' keyExchange => fun_cases execKeyExchange
  case' finish => fun_cases execFinish
  case' endSession => fun_cases execEndSession
  case' fieldRecordRead => fun_cases execFieldRecordRead
  case' ideKeyProgram => fun_cases execIdeKeyProgram
  -- the field record (spec/19)
  case' fieldWriteStart => fun_cases execFieldWriteStart
  case' histogramTick => fun_cases execHistogramTick
  all_goals simp only [answers_next, issue_answers, spdmReply_answers]

/-- Settles O56: by the cases of the command and the guards of its meaning. -/
theorem noCommandStops : Obligations.NoCommandStops := exec_answers

end Sys2Proof.Machine
end

section
/-! PROOFS. The frame of a unit's work: what the writes, records and flags of a job may change of the cores (R70, R244, R249, R571). -/
namespace Sys2Proof.Machine

/-- A core without what the work of its units writes: the scratchpad with its marks, the bank due for retirement (R249) and the numeric
flags with the cycles of the engines (R70, R135). -/
def besideWork (c : Core) : Core :=
  { c with spad := [], spadPoison := [], spadBad := [], retirePending := false, retireBank := 0, numProg := [], numCmd := []
           cycProg := [], cycCmd := [], engCyc := [], engClass := [] }

/-- From s to t every core changes by the work of units at most. -/
def WorkOnly (s t : State) : Prop := ∀ p, besideWork (coreOf t p) = besideWork (coreOf s p)

theorem WorkOnly.refl (s : State) : WorkOnly s s := fun _ => rfl

theorem WorkOnly.after {s t u : State} (h : WorkOnly t u) (g : WorkOnly s t) : WorkOnly s u := fun p => (h p).trans (g p)

theorem WorkOnly.of_cores {s t : State} (h : t.cores = s.cores) : WorkOnly s t := fun p => by unfold coreOf; rw [h]

theorem WorkOnly.setCore {s : State} {p : Nat} {c : Core} (h : besideWork c = besideWork (coreOf s p)) :
    WorkOnly s (Machine.setCore s p c) := by
  intro q
  rw [coreOf_setCore]
  split
  · next e => rw [e, h]
  · rfl

theorem WorkOnly.fold {α : Type} {f : State → α → State} (h : ∀ s x, WorkOnly s (f s x)) (l : List α) (s : State) :
    WorkOnly s (l.foldl f s) := by
  induction l generalizing s with
  | nil => exact .refl s
  | cons x l ih => exact (ih (f s x)).after (h s x)

theorem WorkOnly.run1 {s t : State} (h : WorkOnly s t) (p : Nat) : (coreOf t p).run1 = (coreOf s p).run1 :=
  (congrArg Core.run1 (h p) :)
theorem WorkOnly.defer {s t : State} (h : WorkOnly s t) (p : Nat) : (coreOf t p).defer = (coreOf s p).defer :=
  (congrArg Core.defer (h p) :)
theorem WorkOnly.dwc {s t : State} (h : WorkOnly s t) (p : Nat) : (coreOf t p).dwc = (coreOf s p).dwc :=
  (congrArg Core.dwc (h p) :)

/-! ### Error records and elements due for retirement (R246 to R249, R265, R571) -/

theorem addDue_workOnly (s : State) (d : Due) : WorkOnly s (addDue s d) := .of_cores (by rw [(addDue_frame s d).1])

theorem putRecord_workOnly (s : State) (r : ErrRec) : WorkOnly s (putRecord s r) := .of_cores (by rw [putRecord_frame])

theorem besideWork_coreBankDue (c : Core) (bank : Nat) : besideWork (coreBankDue c bank) = besideWork c := by
  unfold coreBankDue; split <;> rfl

theorem markRetire_workOnly (s : State) (r : Word32) : WorkOnly s (markRetire s r) := by
  unfold markRetire
  dsimp only
  split
  · exact .setCore (besideWork_coreBankDue _ _)
  · split <;> exact .of_cores rfl
  · split
    · split
      · exact (putRecord_workOnly _ _).after (.of_cores rfl)
      · exact .of_cores rfl
    · exact .refl s
  · exact addDue_workOnly _ _

theorem raisedAction_workOnly (s : State) (r : ErrRec) : WorkOnly s (raisedAction s r) := by
  unfold raisedAction
  split
  · exact .refl s
  · split
    · split
      · exact markRetire_workOnly _ _
      · exact .refl s
    · split <;> exact addDue_workOnly _ _
    · exact addDue_workOnly _ _
    · exact .refl s

theorem report_workOnly (s : State) (st : Status) (res : Word32) (a d : Word64) (f : Bool) : WorkOnly s (report s st res a d f) := by
  unfold report raiseRecord
  split
  · dsimp only
    split
    · exact putRecord_workOnly _ _
    · exact (raisedAction_workOnly _ _).after (putRecord_workOnly _ _)
  · exact .refl s

/-! ### Writes (R244, R263, R278) -/

theorem channelDue_workOnly (s : State) (n ch : Nat) (f : Bool) : WorkOnly s (channelDue s n ch f) := by
  unfold channelDue
  dsimp only
  split
  · exact (report_workOnly _ _ _ _ _ _).after (.of_cores rfl)
  · exact .of_cores rfl

theorem setSlots_cores (s : State) (n : Nat) (l : List HoldSlot) : (setSlots s n l).cores = s.cores := by
  unfold setSlots; dsimp only; split <;> rfl

theorem putRaw_cores (s : State) (a : Nat) (bs : List Byte) : (putRaw s a bs).cores = s.cores := by
  unfold putRaw
  split
  · exact setSlots_cores _ _ _
  · rfl

theorem devCorrected_workOnly (s : State) (h : Nat) : WorkOnly s (devCorrected s h) := by
  unfold devCorrected
  dsimp only
  split
  · exact (channelDue_workOnly _ _ _ _).after (.of_cores rfl)
  · exact .of_cores rfl

theorem devFix_workOnly (s : State) (h : Nat) : WorkOnly s (devFix s h) := by
  have stored (r : BitVec 288) (bs : List Byte) (b : Bool) :
      (if r = 0 then s else setDevPoison (putRaw s (32 * h) bs) h b).cores = s.cores := by
    split
    · rfl
    · exact putRaw_cores _ _ _
  unfold devFix
  dsimp only
  split
  · exact .refl s
  · split
    · exact .refl s
    · split
      · exact (devCorrected_workOnly _ _).after (.of_cores (stored _ _ _))
      · exact .of_cores (stored _ _ _)

theorem fillSlot_workOnly (s : State) (n tag : Nat) : WorkOnly s (fillSlot s n tag) := by
  unfold fillSlot
  refine (WorkOnly.fold (fun s h => .of_cores ?_) _ _).after (.of_cores (setSlots_cores _ _ _))
  dsimp only
  split <;> split <;> rfl

theorem parkReady_workOnly {s t : State} {w : Nat} (h : parkReady s w = some t) : WorkOnly s t := by
  unfold parkReady at h
  dsimp only at h
  split at h
  · cases h; exact .refl s
  · split at h
    · split at h
      · cases h
      · cases h; exact .refl s
    · split at h
      · cases h
      · injection h with h
        rw [← h]
        exact fillSlot_workOnly _ _ _

theorem putHome_workOnly (s : State) (h o : Nat) (bs : List Byte) : WorkOnly s (putHome s h o bs).1 := by
  unfold putHome
  split
  · exact .refl s
  · split
    · exact .of_cores (putRaw_cores s (32 * h) bs)
    · split
      · exact .refl s
      · exact (WorkOnly.of_cores (putRaw_cores _ _ _)).after (devFix_workOnly s h)

theorem putDev_workOnly (l : List (Nat × Nat × List Byte)) (s : State) : WorkOnly s (putDev l s).1 := by
  induction l generalizing s with
  | nil => exact .refl s
  | cons x l ih =>
    obtain ⟨w, o, bs⟩ := x
    rw [putDev]
    split
    · exact .refl s
    · next hp => exact (ih _).after ((putHome_workOnly _ _ _ _).after (parkReady_workOnly hp))

theorem memWrite_workOnly (s : State) (space unit off : Nat) (bs : List Byte) : WorkOnly s (memWrite s space unit off bs).1 := by
  unfold memWrite
  split
  · split
    · exact .refl s
    · next p _ =>
      obtain e | ⟨m, poison, bad, e, -⟩ := spadWrite_frame s p off bs
      · rw [e]; exact .refl s
      · rw [e]; exact .setCore rfl
  · obtain e | ⟨m, poison, bad, e, -⟩ := cmemWrite_frame s unit off bs
    · rw [e]; exact .refl s
    · rw [e]; exact .of_cores rfl
  · unfold devWrite
    split
    · exact .refl s
    · exact putDev_workOnly _ s
  · exact .of_cores (by rw [(hostWrite_frame s off bs).1])

theorem memPuts_workOnly (space unit : Nat) (l : Writes) (s : State) : WorkOnly s (memPuts space unit l s).1 := by
  induction l generalizing s with
  | nil => exact .refl s
  | cons x l ih => exact (ih _).after (memWrite_workOnly s space unit x.1 x.2)

/-- Writing at a tensor changes of the cores scratchpads alone, and marks a bank at most. -/
theorem tensorWrites_workOnly (mask : Option Nat) (t : Tensor) (gs : List Writes) (s : State) : WorkOnly s (tensorWrites mask t gs s).1 := by
  have ordered : WorkOnly s (orderWrites s gs).1 := by
    unfold orderWrites
    split <;> exact .of_cores rfl
  unfold tensorWrites tensorPut memWrites
  dsimp only
  split
  · exact ordered
  · exact (memPuts_workOnly _ _ _ _).after ordered

/-! ### The work of a BE_DW entry (R127 to R131, R135) -/

theorem writeRows_go_workOnly (o : Tensor) (rows : List GridRow) (s : State) : WorkOnly s (writeRows.go o rows s).1 := by
  induction rows generalizing s with
  | nil => exact .refl s
  | cons r rows ih =>
    rw [writeRows.go]
    dsimp only
    split
    · exact tensorWrites_workOnly none o r.writes s
    · exact (ih _).after (tensorWrites_workOnly none o r.writes s)

theorem writeRows_workOnly {o : Tensor} {rows : List GridRow} {s : State} {r : State × Nat × Option Err} (h : writeRows o rows s = r) :
    WorkOnly s r.1 := by
  rw [← h, writeRows]
  split
  · exact tensorWrites_workOnly none o _ s
  · exact writeRows_go_workOnly o rows s

theorem addRows_workOnly (s : State) (core p : Nat) (u : CUnit) (cls period : Nat) (rows : List GridRow) :
    WorkOnly s (addRows s core p u cls period rows) := by
  unfold addRows modCore
  refine (WorkOnly.setCore ?_).after (.of_cores (tickFree_cores s))
  rfl

/-- A BE_DW entry at work changes of its core the scratchpad and the numeric flags alone. -/
theorem dwRun_workOnly (s : State) (core p : Nat) (be0 : Bool) (j : Job) : WorkOnly s (dwRun s core p be0 j).1 := by
  have counted : WorkOnly s (if be0 then rbumpFree (rbumpFree (rbumpFree s (.coreBeCtr core 0)) (.coreBeCtr core 2)) (.coreBeCtr core 3)
      else rbumpFree (rbumpFree s (.coreBeCtr core 1)) (.coreBeCtr core 4)) := by
    split <;> exact .of_cores rfl
  fun_cases dwRun s core p be0 j
  · exact .refl s
  · exact (WorkOnly.of_cores rfl).after counted
  · next hw =>
    exact (addRows_workOnly _ _ _ _ _ _ _).after ((writeRows_workOnly hw).after ((WorkOnly.of_cores rfl).after counted))

end Sys2Proof.Machine
end

section
/-! PROOFS. The engines of a core (R80 to R84, R123): how the jobs of a queue go on, and what starting them leaves alone. -/
namespace Sys2Proof.Machine

/-! ## Queues of jobs -/

/-- A job of the list stays in it, or is the one that the function changes. -/
theorem mem_modFirst {t : Job → Bool} {f : Job → Job} {l : List Job} {j : Job} (h : j ∈ l) :
    j ∈ modFirst t f l ∨ (t j = true ∧ f j ∈ modFirst t f l) := by
  induction l with
  | nil => cases h
  | cons x l ih =>
    rw [modFirst]
    split
    · next hx =>
      obtain rfl | h := List.mem_cons.mp h
      · exact .inr ⟨hx, List.mem_cons_self⟩
      · exact .inl (List.mem_cons_of_mem _ h)
    · obtain rfl | h := List.mem_cons.mp h
      · exact .inl List.mem_cons_self
      · exact (ih h).imp (List.mem_cons_of_mem _) fun ⟨ht, hf⟩ => ⟨ht, List.mem_cons_of_mem _ hf⟩

/-- The job that the function changes is the first that the test accepts. -/
theorem modFirst_find {t : Job → Bool} {f : Job → Job} {l : List Job} {j : Job} (h : l.find? t = some j) : f j ∈ modFirst t f l := by
  induction l with
  | nil => cases h
  | cons x l ih =>
    rw [modFirst]
    cases hx : t x with
    | true =>
      rw [List.find?_cons_of_pos hx, Option.some.injEq] at h
      simp [h]
    | false =>
      rw [List.find?_cons_of_neg (by simp [hx])] at h
      simp [ih h]

/-- No job of the kind waits to start. -/
theorem queuedCount_eq_zero {t : Job → Bool} {q : List Job} : queuedCount t q = 0 ↔ ∀ j ∈ q, t j = true → j.st ≠ .queued := by
  simp [queuedCount]

/-- A queue in which the job of an order number has ended. -/
def markDone (n : Nat) (q : List Job) : List Job := q.map fun x => if x.order = n then { x with st := .done } else x

/-- A job that has ended leaves none waiting where none waited. -/
theorem queuedCount_markDone {t : Job → Bool} {n : Nat} {q : List Job}
    (h : queuedCount t q = 0) : queuedCount t (markDone n q) = 0 := by
  rw [queuedCount_eq_zero] at h ⊢
  intro j hj htj
  obtain ⟨x, hx, rfl⟩ := List.mem_map.mp hj
  split
  · simp
  · next hn =>
    rw [if_neg hn] at htj
    exact h x hx htj

/-! ## What starts -/

theorem find_queued_eq_none {t : Job → Bool} {q : List Job} (h : queuedCount t q = 0) :
    (q.find? fun j => t j && decide (j.st = .queued)) = none := by
  simpa using queuedCount_eq_zero.mp h

theorem startLoad_none {e : Engine} (h : queuedCount isLoad e.queue = 0) : startLoad e = e := by
  rw [startLoad, find_queued_eq_none h]
  simp

theorem waitingStream_none {e : Engine} (h : queuedCount isStream e.queue = 0) : waitingStream e = none := find_queued_eq_none h

theorem startStream_none {e : Engine} (h : queuedCount isStream e.queue = 0) (swaps : Bool) : startStream swaps e = e := by
  rw [startStream, waitingStream_none h]

/-- Without a swap of its own a stream that starts leaves the planes alone (R83). -/
theorem startStream_false_shadow (e : Engine) : (startStream false e).shadow = e.shadow := by
  fun_cases startStream false e
  case case3 h => simp at h
  all_goals rfl

/-- A job that has gone on is the one that was issued: only how far it is and its tile differ. -/
def SameIssue (j x : Job) : Prop := x = { j with st := x.st, tile := x.tile }

/-- An engine that starts jobs keeps all of its jobs as they were issued, and the formats that the order of issue gives (R84, R93). -/
structure Advances (e e' : Engine) : Prop where
  loaded  : e'.loaded = e.loaded
  queue   : ∀ j ∈ e.queue, ∃ x ∈ e'.queue, SameIssue j x

theorem Advances.refl (e : Engine) : Advances e e := ⟨rfl, fun j h => ⟨j, h, rfl⟩⟩

theorem Advances.after {e e' e'' : Engine} (h : Advances e' e'') (g : Advances e e') : Advances e e'' where
  loaded := h.loaded.trans g.loaded
  queue j hj := by
    obtain ⟨x, hx, hjx⟩ := g.queue j hj
    obtain ⟨y, hy, hxy⟩ := h.queue x hx
    exact ⟨y, hy, by unfold SameIssue at *; rw [hxy, hjx]⟩

theorem modFirst_sameIssue {t : Job → Bool} {f : Job → Job} (hf : ∀ j, SameIssue j (f j)) {l : List Job} {j : Job} (h : j ∈ l) :
    ∃ x ∈ modFirst t f l, SameIssue j x :=
  (mem_modFirst h).elim (fun hj => ⟨j, hj, rfl⟩) fun ⟨_, hj⟩ => ⟨f j, hj, hf j⟩

theorem startLoad_advances (e : Engine) : Advances e (startLoad e) := by
  fun_cases startLoad e
  case case4 => exact ⟨rfl, fun _ h => modFirst_sameIssue (f := fun x => { x with st := .started }) (fun _ => rfl) h⟩
  all_goals exact .refl e

theorem startOnActive_advances (e : Engine) : Advances e (startOnActive e) :=
  ⟨rfl, fun _ h => modFirst_sameIssue (f := fun x => { x with st := .started, tile := some e.active }) (fun _ => rfl) h⟩

theorem swapPlanes_advances (e : Engine) : Advances e (swapPlanes e) :=
  (startLoad_advances _).after ((startOnActive_advances { e with active := e.shadow, shadow := {} }).after ⟨rfl, fun j h => ⟨j, h, rfl⟩⟩)

theorem startStream_advances (swaps : Bool) (e : Engine) : Advances e (startStream swaps e) := by
  fun_cases startStream swaps e
  case case3 => exact swapPlanes_advances e
  case case5 => exact startOnActive_advances e
  all_goals exact .refl e

/-! ## A swap (R81, R82) -/

theorem startLoad_active (e : Engine) : (startLoad e).active = e.active := by
  fun_cases startLoad e <;> rfl

/-- A load that starts leaves a job alone that does not wait. -/
theorem mem_startLoad {e : Engine} {j : Job} (h : j ∈ e.queue) (hs : j.st ≠ .queued) : j ∈ (startLoad e).queue := by
  fun_cases startLoad e
  case case4 => exact (mem_modFirst h).elim id fun ⟨ht, _⟩ => absurd ht (by simp [hs])
  all_goals exact h

theorem swapPlanes_active (e : Engine) : (swapPlanes e).active = e.shadow := startLoad_active _

/-- The first waiting stream starts with the tile that has become active. -/
theorem mem_swapPlanes {e : Engine} {j : Job} (h : waitingStream e = some j) :
    { j with st := .started, tile := some e.shadow } ∈ (swapPlanes e).queue :=
  mem_startLoad (modFirst_find (f := fun j => { j with st := .started, tile := some e.shadow }) h) (by simp)

/-! ## Engines in their core -/

/-- What an engine starts: its next load, and its waiting stream where it takes streams. -/
def startJobs (streams swaps : Bool) (e : Engine) : Engine := if streams then startStream swaps (startLoad e) else startLoad e

theorem startJobs_advances (streams swaps : Bool) (e : Engine) : Advances e (startJobs streams swaps e) := by
  unfold startJobs
  split
  · exact (startStream_advances _ _).after (startLoad_advances _)
  · exact startLoad_advances _

theorem engineStart_fe (s : State) (p : Nat) (swaps : Bool) :
    engineStart s p false swaps = setCore s p { coreOf s p with fe := startJobs true swaps (coreOf s p).fe } := by
  simp [engineStart, modEngine, modCore, startJobs]

/-- BE0 takes no BE_DX while it runs an entry (R140). -/
theorem engineStart_be (s : State) (p : Nat) (swaps : Bool) :
    engineStart s p true swaps = setCore s p { coreOf s p with be0 := startJobs (coreOf s p).run0.isEmpty swaps (coreOf s p).be0 } := by
  cases h : (coreOf s p).run0.isEmpty <;> simp [engineStart, modEngine, modCore, startJobs, h]

theorem onlyCore_setCore (s : State) (p : Nat) (c : Core) : OnlyCore s (setCore s p c) p :=
  ⟨rfl, fun _ h => coreOf_setCore_other s _ _ _ h⟩

end Sys2Proof.Machine
end

section
/-! PROOFS. Issue of the engine instructions and of BE_DW (R80, R84, R93, R123, R137, R141, R188). -/
namespace Sys2Proof.Machine

/-! ## What an engine keeps of its jobs -/

/-- An engine with one job more. -/
def withJob (e : Engine) (j : Job) : Engine := { e with queue := e.queue ++ [j] }

theorem mem_withJob (e : Engine) (j : Job) : j ∈ (withJob e j).queue := by simp [withJob]

theorem mem_noteSwap {e : Engine} {swap : Bool} {j : Job} (h : j ∈ e.queue) : j ∈ (noteSwap e swap).queue := by
  unfold noteSwap; split <;> exact h

theorem noteSwap_loaded (e : Engine) (swap : Bool) : (noteSwap e swap).loaded = if swap then none else e.loaded := by
  unfold noteSwap; split <;> rfl

/-- A job of an engine's queue is there as it was issued, however much the engine has started since. -/
theorem Advances.queued {e e' : Engine} (h : Advances e e') {j : Job} (hj : j ∈ e.queue) :
    ∃ x ∈ e'.queue, x.insn = j.insn ∧ x.pc = j.pc ∧ x.order = j.order ∧ x.descs = j.descs ∧ x.num = j.num ∧ x.args = j.args := by
  obtain ⟨x, hx, hs⟩ := h.queue j hj
  unfold SameIssue at hs
  rw [hs] at hx
  exact ⟨_, hx, rfl, rfl, rfl, rfl, rfl, rfl⟩

/-! ## The effect of an engine instruction -/

section
variable {s : State} {core : Fin 4096} {p : Nat}

/-- A job that goes to FE: the engine takes it, notes what the order of issue gives, and starts what it can; the PC moves on. -/
theorem job_to_fe (j : Job) (note : Engine → Engine) (swaps : Bool) (hn : HasNext (coreOf s p)) :
    advance (engineStart (modEngine (enqueue (setCore s p { coreOf s p with wait := 0, stepping := false }) p .fe j) p false note)
      p false swaps) core.val p =
    setCore s p { issued (coreOf s p) with fe := startJobs true swaps (note (withJob (coreOf s p).fe j)), issued := (coreOf s p).issued + 1 } := by
  simp only [enqueue, modEngine, modCore, engineStart_fe, coreOf_setCore_same, setCore_setCore]
  rw [advance_next (by rw [coreOf_setCore_same]; exact hn)]
  simp only [coreOf_setCore_same, setCore_setCore]
  rfl

/-- A job that goes to BE0, which takes no BE_DX while it runs an entry (R140). -/
theorem job_to_be (j : Job) (note : Engine → Engine) (hold : Bool → Bool) (swaps : Bool) (hn : HasNext (coreOf s p)) :
    advance (engineStart (modCore (enqueue (setCore s p { coreOf s p with wait := 0, stepping := false }) p .dx j) p
      fun c => { c with dxHold := hold c.dxHold, be0 := note c.be0 }) p true swaps) core.val p =
    setCore s p { issued (coreOf s p) with
      be0 := startJobs (coreOf s p).run0.isEmpty swaps (note (withJob (coreOf s p).be0 j))
      dxHold := hold (coreOf s p).dxHold, issued := (coreOf s p).issued + 1 } := by
  simp only [enqueue, modCore, engineStart_be, coreOf_setCore_same, setCore_setCore]
  rw [advance_next (by rw [coreOf_setCore_same]; exact hn)]
  simp only [coreOf_setCore_same, setCore_setCore]
  rfl

/-! ## The instructions -/

/-- FE_WLOAD is queued on FE, which notes the formats of its tile (R84, R93). -/
theorem exec_feWload {d : BitVec 5} {wf af : BitVec 4} {kext : BitVec 9} {ncol : BitVec 6}
    (hn : HasNext (coreOf s p)) (hi : Issues s core (.feWload core d wf af kext ncol) p [])
    (hq : queuedCount isLoad (coreOf s p).fe.queue < 4)
    (hf : feLoadFault core.val (slotDesc (coreOf s p) d) wf af kext.toNat ncol.toNat = none) :
    exec (.feWload core d wf af kext ncol) s = .next (setCore s p { issued (coreOf s p) with
      fe := startJobs true false { withJob (coreOf s p).fe (queuedJob (coreOf s p) (.feWload core d wf af kext ncol) [d] (sreg (coreOf s p) 0) [])
        with loaded := some ((fmtOfCode af).getD .g16, (fmtOfCode wf).getD .g16) }
      issued := (coreOf s p).issued + 1 }) := by
  show execFeWload core d wf af kext ncol s = _
  unfold execFeWload
  rw [issue_eff hi (by simpa using hq) hf, coreOf_setCore_same]
  exact congrArg _ (job_to_fe _ _ _ hn)

/-- BE_WLOAD is queued on BE0, which notes the formats of its tile (R84, R93, R123). -/
theorem exec_beWload {d : BitVec 5} {wf : BitVec 4} {trn : Bool} {kext ncol : BitVec 6}
    (hn : HasNext (coreOf s p)) (hi : Issues s core (.beWload core d wf trn kext ncol) p [])
    (hq : queuedCount isLoad (coreOf s p).be0.queue < 4)
    (hf : beLoadFault core.val (slotDesc (coreOf s p) d) wf trn kext.toNat ncol.toNat = none) :
    exec (.beWload core d wf trn kext ncol) s = .next (setCore s p { issued (coreOf s p) with
      be0 := startJobs (coreOf s p).run0.isEmpty true
        { withJob (coreOf s p).be0 (queuedJob (coreOf s p) (.beWload core d wf trn kext ncol) [d] (sreg (coreOf s p) 0) [])
          with loaded := some (.g16, (fmtOfCode wf).getD .g16) }
      issued := (coreOf s p).issued + 1 }) := by
  show execBeWload core d wf trn kext ncol s = _
  unfold execBeWload
  rw [issue_eff hi (by simpa using hq) hf, coreOf_setCore_same]
  exact congrArg Host.Outcome.next (job_to_be _ (fun e => { e with loaded := some (.g16, (fmtOfCode wf).getD .g16) }) id true hn)

section
variable {d0 d1 d2 rows num : BitVec 5} {kext : BitVec 9} {ncol : BitVec 6} {ofmt : BitVec 4} {acc plane : Bool}

/-- FE_STREAM is queued on FE; with SWAP it takes the tile of the last load (R84, R93). -/
theorem exec_feStream (hn : HasNext (coreOf s p))
    (hi : Issues s core (.feStream core d0 d1 d2 rows kext ncol ofmt acc plane num) p [rows, num])
    (hq : queuedCount isStream (coreOf s p).fe.queue < 4)
    (hf : streamFault false core.val (tileOf (coreOf s p).fe plane) (slotDesc (coreOf s p) d0) (slotDesc (coreOf s p) d1) (slotDesc (coreOf s p) d2)
      (nfld (sreg (coreOf s p) rows).toNat 0 24 + 1) kext.toNat ncol.toNat ofmt acc (sreg (coreOf s p) num) = none) :
    exec (.feStream core d0 d1 d2 rows kext ncol ofmt acc plane num) s = .next (setCore s p { issued (coreOf s p) with
      fe := startJobs true true (noteSwap (withJob (coreOf s p).fe (queuedJob (coreOf s p)
        (.feStream core d0 d1 d2 rows kext ncol ofmt acc plane num) [d0, d1, d2] (sreg (coreOf s p) num) [sreg (coreOf s p) rows])) plane)
      issued := (coreOf s p).issued + 1 }) := by
  show execFeStream core d0 d1 d2 rows kext ncol ofmt acc plane num s = _
  unfold execFeStream
  rw [issue_eff hi (by simpa using hq) hf, coreOf_setCore_same]
  exact congrArg _ (job_to_fe _ _ _ hn)

/-- BE_DX is queued on BE0 where the deferral list does not hold it back (R141). -/
theorem exec_beDx (hn : HasNext (coreOf s p))
    (hi : Issues s core (.beDx core d0 d1 d2 rows kext ncol ofmt acc plane num) p [rows, num])
    (hq : queuedCount isStream (coreOf s p).be0.queue < 4) (hd : dxHeld (coreOf s p) = false)
    (hf : streamFault true core.val (tileOf (coreOf s p).be0 plane) (slotDesc (coreOf s p) d0) (slotDesc (coreOf s p) d1) (slotDesc (coreOf s p) d2)
      (nfld (sreg (coreOf s p) rows).toNat 0 24 + 1) kext.toNat ncol.toNat ofmt acc (sreg (coreOf s p) num) = none) :
    exec (.beDx core d0 d1 d2 rows kext ncol ofmt acc plane num) s = .next (setCore s p { issued (coreOf s p) with
      be0 := startJobs (coreOf s p).run0.isEmpty true (noteSwap (withJob (coreOf s p).be0 (queuedJob (coreOf s p)
        (.beDx core d0 d1 d2 rows kext ncol ofmt acc plane num) [d0, d1, d2] (sreg (coreOf s p) num) [sreg (coreOf s p) rows])) plane)
      dxHold := false, issued := (coreOf s p).issued + 1 }) := by
  show execBeDx core d0 d1 d2 rows kext ncol ofmt acc plane num s = _
  unfold execBeDx
  simp only [hi.1, hd, Bool.false_eq_true, if_false]
  rw [issue_eff hi (by simpa using hq) hf, coreOf_setCore_same]
  exact congrArg Host.Outcome.next (job_to_be _ (fun e => noteSwap e plane) (fun _ => false) true hn)

end

theorem dxHeld_eq_false {c : Core} (hl : c.defer.length < 64) (hh : c.dxHold = true → c.defer.length ≤ 48) : dxHeld c = false := by
  simp only [dxHeld, Bool.or_eq_false_iff, Bool.and_eq_false_iff, decide_eq_false_iff_not]
  refine ⟨by omega, ?_⟩
  cases h : c.dxHold with
  | false => exact .inl rfl
  | true => exact .inr (by have := hh h; omega)

section
variable {x g o pd rows num : BitVec 5} {xf ofmt dwc : BitVec 4} {xext ncol : BitVec 6} {acc : Bool}

/-- BE_DW is the last entry of a deferral list with room (R126, R137). -/
theorem exec_beDw (hi : Issues s core (.beDw core x xf g o pd rows xext ncol ofmt acc num dwc) p [rows, num])
    (hl : (coreOf s p).defer.length < 64) (hn : HasNext (coreOf s p))
    (hf : dwFault core.val (slotDesc (coreOf s p) x) (slotDesc (coreOf s p) g) (slotDesc (coreOf s p) o) (slotDesc (coreOf s p) pd) xf ofmt
      (nfld (sreg (coreOf s p) rows).toNat 0 24 + 1) xext.toNat ncol.toNat acc (sreg (coreOf s p) num) = none) :
    exec (.beDw core x xf g o pd rows xext ncol ofmt acc num dwc) s = .next (setCore s p { issued (coreOf s p) with
      defer := (coreOf s p).defer ++ [queuedJob (coreOf s p) (.beDw core x xf g o pd rows xext ncol ofmt acc num dwc) [x, g, o, pd]
        (sreg (coreOf s p) num) [sreg (coreOf s p) rows]]
      issued := (coreOf s p).issued + 1 }) := by
  show execBeDw core x xf g o pd rows xext ncol ofmt acc num dwc s = _
  unfold execBeDw
  simp only [hi.1, ge_iff_le, Nat.not_le.mpr hl, if_false]
  rw [issue_eff hi rfl hf]
  simp only [coreOf_setCore_same, setCore_setCore]
  rw [advance_next (by rw [coreOf_setCore_same]; exact hn)]
  simp only [coreOf_setCore_same, setCore_setCore]
  rfl

/-- With a full list BE_DW waits (R141). -/
theorem exec_beDw_full (hi : canIssue s core (.beDw core x xf g o pd rows xext ncol ofmt acc num dwc) = some p)
    (hl : 64 ≤ (coreOf s p).defer.length) :
    exec (.beDw core x xf g o pd rows xext ncol ofmt acc num dwc) s = .next (listWait s core.val p false) := by
  show execBeDw core x xf g o pd rows xext ncol ofmt acc num dwc s = _
  unfold execBeDw
  simp only [hi, ge_iff_le, hl, if_true]

end

/-- The cycle of the wait for the list (R141, R189) shows in the core's WAIT, and is counted in two registers. -/
theorem listWait_effect (s : State) (core p : Nat) :
    coreOf (listWait s core p false) p = { coreOf s p with wait := 4 } ∧
      rget (listWait s core p false) (.coreTpWait core) = rget s (.coreTpWait core) + 1 ∧
      rget (listWait s core p false) (.coreBeCtr core 5) = rget s (.coreBeCtr core 5) + 1 := by
  have hr : regOffset (.coreTpWait core) ≠ regOffset (.coreBeCtr core 5) := by simp only [regOffset]; omega
  refine ⟨by simp [listWait, waitCycle, modCore], ?_, ?_⟩
  · simp [listWait, waitCycle, modCore, rbump, rget_rset_other _ _ _ _ hr]
  · simp [listWait, waitCycle, modCore, rbump, rget_rset_other _ _ _ _ hr.symm]

end

/-- Settles O6: each instruction leaves its core with one engine changed, whose queue holds the job as it was issued. -/
theorem engineIssueAndDeferral : Obligations.EngineIssueAndDeferral := by
  unfold Obligations.EngineIssueAndDeferral
  constructor
  · intro s core d0 d1 d2 rows num wf af ofmt kext k6 ncol acc plane trn p c m queued hn
    refine ⟨fun hi hq hf => ?_, fun hi hq hf => ?_, fun hi hq hf => ?_, fun hi hq hl hh hf => ?_⟩
    · have h := startJobs_advances true false { withJob c.fe (queuedJob c (.feWload core d0 wf af kext ncol) [d0] (sreg c 0) [])
        with loaded := some ((fmtOfCode af).getD .g16, (fmtOfCode wf).getD .g16) }
      exact ⟨_, _, exec_feWload hn hi hq hf, onlyCore_setCore _ _ _, coreOf_setCore_same _ _ _, h.loaded, h.queued (mem_withJob _ _)⟩
    · have h := startJobs_advances c.run0.isEmpty true { withJob c.be0 (queuedJob c (.beWload core d0 wf trn k6 ncol) [d0] (sreg c 0) [])
        with loaded := some (.g16, (fmtOfCode wf).getD .g16) }
      refine ⟨_, _, exec_beWload hn hi hq hf, onlyCore_setCore _ _ _, ?_, h.loaded, h.queued (mem_withJob _ _)⟩
      rw [coreOf_setCore_same]
      rfl
    · have h := startJobs_advances true true (noteSwap (withJob c.fe (queuedJob c (.feStream core d0 d1 d2 rows kext ncol ofmt acc plane num)
        [d0, d1, d2] (sreg c num) [sreg c rows])) plane)
      exact ⟨_, _, exec_feStream hn hi hq hf, onlyCore_setCore _ _ _, coreOf_setCore_same _ _ _, h.loaded.trans (noteSwap_loaded _ _),
        h.queued (mem_noteSwap (mem_withJob _ _))⟩
    · have h := startJobs_advances c.run0.isEmpty true (noteSwap (withJob c.be0 (queuedJob c (.beDx core d0 d1 d2 rows kext ncol ofmt acc plane num)
        [d0, d1, d2] (sreg c num) [sreg c rows])) plane)
      refine ⟨_, _, exec_beDx hn hi hq (dxHeld_eq_false hl hh) hf, onlyCore_setCore _ _ _, ?_, h.loaded.trans (noteSwap_loaded _ _),
        h.queued (mem_noteSwap (mem_withJob _ _))⟩
      rw [coreOf_setCore_same]
      rfl
  · intro s core x xf g o pd rows num xext ncol ofmt acc dwc p i c hi
    exact ⟨exec_beDw hi, fun hl => ⟨_, exec_beDw_full hi.1 hl, listWait_effect s core p⟩⟩

end Sys2Proof.Machine
end

section
/-! PROOFS. What the engines and the deferral list do by themselves (R81, R82, R103, R108, R123, R136 to R143). -/
namespace Sys2Proof.Machine

/-! ## Weight loads (R82, R123) -/

/-- Advancing a counter by a free amount leaves the other registers alone. -/
theorem rbumpFree_other (s : State) (r x : Reg) (h : regOffset x ≠ regOffset r) : rget (rbumpFree s r) x = rget s x := by
  unfold rbumpFree
  rw [rget_rset_other _ _ _ _ h, rget_tickFree]

theorem loadCycles_frame (s : State) (core : Nat) (be : Bool) (e : Engine) :
    loadCycles s core be e = { s with regs := (loadCycles s core be e).regs, freeCtr := (loadCycles s core be e).freeCtr } := by
  fun_cases loadCycles s core be e <;> rfl

theorem loadCycles_fe_regs (s : State) (core : Nat) (e : Engine) :
    RegsBut s (loadCycles s core false e) [.coreFeCtr core 0, .coreFeCtr core 3, .coreFeCtr core 4] := by
  intro r hr
  have h0 := hr (.coreFeCtr core 0) (by simp)
  have h3 := hr (.coreFeCtr core 3) (by simp)
  have h4 := hr (.coreFeCtr core 4) (by simp)
  simp only [loadCycles, Bool.false_eq_true, if_false]
  split <;> simp [rbumpFree_other, h0, h3, h4]

/-- With no stream waiting, nothing has waited for the tile. -/
theorem loadCycles_be_none (s : State) (core : Nat) {e : Engine} (h : waitingStream e = none) :
    loadCycles s core true e = rbumpFree (rbumpFree s (.coreBeCtr core 0)) (.coreBeCtr core 3) := by
  simp [loadCycles, h]

/-- The engine once the weights of a load are in: the tile is READY and the load has ended. -/
def tileIn (e : Engine) (n : Nat) (ws : List Val) : Engine :=
  { e with shadow := { e.shadow with st := .ready, elems := ws }, queue := markDone n e.queue }

/-- The last step of a weight load whose source can be read (R82). -/
theorem tileLoaded_ok {s : State} {core p : Nat} {be : Bool} {e : Engine} {j : Job} {ws : List Val}
    (he : (if be then (coreOf s p).be0 else (coreOf s p).fe) = e) (hs : e.shadow.st = .loading)
    (hj : (e.queue.find? fun j => isLoad j && decide (j.st = .started)) = some j) (hw : loadWaits e.queue j = false)
    (hv : loadWeights s core j = .ok ws) :
    tileLoaded s core p be = engineStart (modEngine (loadCycles s core be e) p be fun e => tileIn e j.order ws) p be be := by
  unfold tileLoaded
  simp only [he, hs, hj, hw, hv]
  rfl

theorem queuedCount_tileIn {e : Engine} {n : Nat} {ws : List Val} {t : Job → Bool} (h : queuedCount t e.queue = 0) :
    queuedCount t (tileIn e n ws).queue = 0 := queuedCount_markDone h

section
variable {s : State} {core : Fin 4096} {p : Nat} {j : Job} {ws : List Val}

/-- FE takes the tile; what starts then is a stream on the active plane, if any (R83). -/
theorem exec_feTileReady (hp : liveCore s core = some p) (hs : (coreOf s p).fe.shadow.st = .loading)
    (hj : ((coreOf s p).fe.queue.find? fun j => isLoad j && decide (j.st = .started)) = some j) (hw : loadWaits (coreOf s p).fe.queue j = false)
    (hq : queuedCount isLoad (coreOf s p).fe.queue = 0) (hv : loadWeights s core j = .ok ws) :
    exec (.feTileReady core) s = .next (setCore (loadCycles s core.val false (coreOf s p).fe) p
      { coreOf s p with fe := startStream false (tileIn (coreOf s p).fe j.order ws) }) := by
  have hc : coreOf (loadCycles s core.val false (coreOf s p).fe) p = coreOf s p := by rw [loadCycles_frame]; rfl
  show execFeTileReady core s = _
  simp only [execFeTileReady, hp]
  rw [tileLoaded_ok (be := false) (e := (coreOf s p).fe) rfl hs hj hw hv, engineStart_fe]
  simp only [modEngine, modCore, coreOf_setCore_same, setCore_setCore, hc, Bool.false_eq_true, if_false, startJobs, if_true,
    startLoad_none (queuedCount_tileIn hq)]

/-- BE0 takes the tile; with no stream waiting none starts. -/
theorem exec_beTileReady (hp : liveCore s core = some p) (hs : (coreOf s p).be0.shadow.st = .loading)
    (hj : ((coreOf s p).be0.queue.find? fun j => isLoad j && decide (j.st = .started)) = some j)
    (hw : loadWaits (coreOf s p).be0.queue j = false) (hq : queuedCount isLoad (coreOf s p).be0.queue = 0)
    (hr : queuedCount isStream (coreOf s p).be0.queue = 0) (hv : loadWeights s core j = .ok ws) :
    exec (.beTileReady core) s = .next (setCore (rbumpFree (rbumpFree s (.coreBeCtr core 0)) (.coreBeCtr core 3)) p
      { coreOf s p with be0 := tileIn (coreOf s p).be0 j.order ws }) := by
  have hc : coreOf (rbumpFree (rbumpFree s (.coreBeCtr core 0)) (.coreBeCtr core 3)) p = coreOf s p := rfl
  have idle (b : Bool) : startJobs b true (tileIn (coreOf s p).be0 j.order ws) = tileIn (coreOf s p).be0 j.order ws := by
    rw [startJobs, startLoad_none (queuedCount_tileIn hq), startStream_none (queuedCount_tileIn hr), ite_self]
  show execBeTileReady core s = _
  simp only [execBeTileReady, hp]
  rw [tileLoaded_ok (be := true) (e := (coreOf s p).be0) rfl hs hj hw hv, engineStart_be]
  simp only [if_true, loadCycles_be_none _ _ (waitingStream_none hr), modEngine, modCore, coreOf_setCore_same, setCore_setCore, hc, idle]

/-! ## Swaps (R81, R82, R103) -/

theorem exec_feSwap (hp : liveCore s core = some p) (hj : waitingStream (coreOf s p).fe = some j) (hs : streamSwap j.insn = some true)
    (ht : tileReady (coreOf s p).fe = true) :
    exec (.feSwap core) s =
      if streaming (coreOf s p).fe = true ∧ planeClass (coreOf s p).fe.active ≠ planeClass (coreOf s p).fe.shadow then .next s
      else .next (setCore s p { coreOf s p with fe := swapPlanes (coreOf s p).fe }) := by
  show execFeSwap core s = _
  simp only [execFeSwap, hp, hj, hs, ht, true_and, modEngine, modCore, Bool.false_eq_true, if_false]
  cases streaming (coreOf s p).fe <;> simp [ite_not]

/-! ## Clocks (R108, R136) -/

theorem exec_gridClockStop_fe (hp : physOf s core.val = some p) (hq : (coreOf s p).fe.queue = []) (hs : (coreOf s p).fe.shadow.st ≠ .loading) :
    exec (.gridClockStop core 0) s = .next (setCore s p { coreOf s p with fe := { (coreOf s p).fe with clocked := false } }) := by
  show execGridClockStop core 0 s = _
  simp [execGridClockStop, hp, hq, hs]

theorem exec_gridClockStop_be0 (hp : physOf s core.val = some p) (hq : (coreOf s p).be0.queue = []) (hr : (coreOf s p).run0 = [])
    (hs : (coreOf s p).be0.shadow.st ≠ .loading) :
    exec (.gridClockStop core 1) s = .next (setCore s p { coreOf s p with be0 := { (coreOf s p).be0 with clocked := false } }) := by
  show execGridClockStop core 1 s = _
  simp [execGridClockStop, hp, hq, hr, hs]

theorem exec_gridClockStop_be1 (hp : physOf s core.val = some p) (hr : (coreOf s p).run1 = []) :
    exec (.gridClockStop core 2) s = .next (setCore s p { coreOf s p with be1Clocked := false }) := by
  show execGridClockStop core 2 s = _
  simp [execGridClockStop, hp, hr]

/-! ## The deferral list (R138, R139, R143) -/

variable {e : Job} {rest : List Job}

/-- The only entry of the list goes to an idle BE1 where no entry of BE0 holds it. -/
theorem exec_deferralDispatch_be1 (hp : liveCore s core = some p) (hd : (coreOf s p).defer = [e]) (h1 : (coreOf s p).run1 = [])
    (hh : dwHeld e (coreOf s p).run0 = false) :
    exec (.deferralDispatch core false false) s =
      .next (setCore s p { coreOf s p with defer := [], run1 := [{ e with st := .started }], be1Clocked := true }) := by
  show execDeferralDispatch core false false s = _
  simp [execDeferralDispatch, hp, hd, h1, hh]

/-- Where BE1 is at work it goes to an idle BE0 that runs no BE_DX, where no entry of BE1 holds it. -/
theorem exec_deferralDispatch_be0 (hp : liveCore s core = some p) (hd : (coreOf s p).defer = [e]) (h1 : (coreOf s p).run1 ≠ [])
    (h0 : (coreOf s p).run0 = []) (hx : (coreOf s p).be0.queue.any isStream = false) (ha : (coreOf s p).adapterOnly = false)
    (hh : dwHeld e (coreOf s p).run1 = false) :
    exec (.deferralDispatch core false false) s =
      .next (setCore s p { coreOf s p with defer := [], run0 := [{ e with st := .started }], be0 := { (coreOf s p).be0 with clocked := true } }) := by
  have h1 : (coreOf s p).run1.isEmpty = false := by simpa using h1
  show execDeferralDispatch core false false s = _
  simp only [execDeferralDispatch, hp, hd, h1, h0, hx, ha, hh, List.isEmpty_nil, List.nil_append, Bool.or_false, Bool.false_and, Bool.not_false,
    Bool.and_true, Bool.false_eq_true, if_false, if_true]

/-- An entry of BE1 whose work ends: what its writes leave, its counter advanced, and BE0 starting what it can. -/
theorem exec_dwEntryDone_be1 (hp : liveCore s core = some p) (hr : (coreOf s p).run1 = e :: rest) (hw : (dwRun s core p false e).2 = none) :
    exec (.dwEntryDone core true) s = .next (engineStart (modCore (parkForget (dwRun s core p false e).1 fun o => decide (o = (core.val, e.order))) p
      fun c => { bumpDwc c e with run1 := c.run1.tail }) p true true) := by
  show execDwEntryDone core true s = _
  simp only [execDwEntryDone, hp, hr, if_true, jobEnd, Bool.not_true, hw]
  rfl

/-- The counter that an entry names advances by one (R138, R143). -/
theorem tget_bumpDwc (c : Core) (j : Job) (k : Nat) :
    tget (fun _ => 0) (bumpDwc c j).dwc k = tget (fun _ => 0) c.dwc k + if k = (dwParams j.insn).2.2.2 then (1 : Word32) else 0 := by
  unfold bumpDwc
  dsimp only
  rw [tget_tset]
  split
  · next hk => rw [hk]
  · simp

end

/-- Settles O11: an engine takes its tile, swaps, stops its clock or ends an entry, and what it then starts is its own work; the writes of
an entry leave the lists and counters of its core alone. -/
theorem engineEvents : Obligations.EngineEvents := by
  unfold Obligations.EngineEvents
  refine ⟨?_, ?_, ?_⟩
  · intro s core p j ws hp c
    refine ⟨fun hs hj hw hq hv => ?_, fun hs hj hw hq hr hv => ?_, fun hj hs ht hx hc => ?_, fun hj hs ht hc => ?_⟩
    · refine ⟨_, exec_feTileReady hp hs hj hw hq hv, ?_, ?_, ?_, ?_⟩
      · rw [coreOf_setCore_same]
        exact startStream_false_shadow _
      · rw [coreOf_setCore_same]
      · rw [loadCycles_frame]
        rfl
      · exact loadCycles_fe_regs s core.val c.fe
    · refine ⟨_, exec_beTileReady hp hs hj hw hq hr hv, ?_, ?_, rfl, fun r hr => ?_⟩
      · rw [coreOf_setCore_same]
        rfl
      · rw [coreOf_setCore_same]
      · rw [rget_setCore, rbumpFree_other _ _ _ (hr _ (by simp)), rbumpFree_other _ _ _ (hr _ (by simp))]
    · rw [exec_feSwap hp hj hs ht, if_pos ⟨hx, hc⟩]
    · refine ⟨_, (exec_feSwap hp hj hs ht).trans (if_neg fun h => h.2 (hc h.1)), ?_, ⟨_, ?_, rfl⟩, ?_, onlyCore_setCore _ _ _⟩
      · rw [coreOf_setCore_same]
        exact swapPlanes_active _
      · rw [coreOf_setCore_same]
        exact mem_swapPlanes hj
      · rw [coreOf_setCore_same]
  · intro s core p hp c
    exact ⟨exec_gridClockStop_fe hp, exec_gridClockStop_be0 hp, exec_gridClockStop_be1 hp⟩
  · intro s core p e rest hp c
    refine ⟨exec_deferralDispatch_be1 hp, exec_deferralDispatch_be0 hp, fun hr hw => ?_⟩
    have kept := dwRun_workOnly s core p false e
    refine ⟨_, exec_dwEntryDone_be1 hp hr hw, ?_, ?_, fun k => ?_⟩
    all_goals simp only [engineStart_be, modCore, coreOf_setCore_same, coreOf_parkForget]
    · rw [kept.run1, hr]
      rfl
    · exact kept.defer p
    · exact (tget_bumpDwc _ e k).trans (by rw [kept.dwc])

end Sys2Proof.Machine
end

section
/-! PROOFS. How a program starts, waits and ends (R29, R145, R212, R217, R219, R342, R343). -/
namespace Sys2Proof.Machine

/-! ## An action that fires (R343) -/

theorem fireFlags_frame (s : State) (x : Nat) : (fireFlags s x).1 = { s with regs := (fireFlags s x).1.regs } := by
  unfold fireFlags
  dsimp only
  split <;> rfl

theorem coreOf_fireFlags (s : State) (x p : Nat) : coreOf (fireFlags s x).1 p = coreOf s p := by
  rw [fireFlags_frame]; rfl

/-- Firing changes no register but the count of what fires in FREE or UNSYNC. -/
theorem rget_fireFlags_other (s : State) (x : Nat) {r : Reg} (h : regOffset r ≠ regOffset (.timeCtr 1)) :
    rget (fireFlags s x).1 r = rget s r := by
  unfold fireFlags
  dsimp only
  split
  · exact rget_rset_other _ _ _ _ h
  · rfl

/-- What firing makes of that count depends on the count and on cluster time alone. -/
theorem rget_fireFlags_congr {s u : State} (ht : u.time = s.time) (hc : rget u (.timeCtr 1) = rget s (.timeCtr 1)) (x : Nat) :
    rget (fireFlags u x).1 (.timeCtr 1) = rget (fireFlags s x).1 (.timeCtr 1) := by
  unfold fireFlags
  dsimp only
  rw [ht]
  split
  · simp only [rbump, rget_rset_same, hc]
  · exact hc

/-! ## Stalls that are over (R212, R219) -/

/-- END's stall is over once all scopes have retired and every signal is sent. -/
theorem stallOver_endp {s : State} {c : Core} : stallOver s c .endp = true ↔ scopesClear c 0xFF c.issued = true ∧ c.evq = [] := by
  simp [stallOver]

/-- The state in which the action of a stall that is over has fired: that of a TWAIT (R342). -/
def stallFired (s : State) : Stall → State
  | .twait t => (fireFlags s t.toNat).1
  | _ => s

theorem stallFired_frame (s : State) (st : Stall) : stallFired s st = { s with regs := (stallFired s st).regs } := by
  cases st with
  | twait t => exact fireFlags_frame s t.toNat
  | _ => rfl

theorem coreOf_stallFired (s : State) (st : Stall) (p : Nat) : coreOf (stallFired s st) p = coreOf s p := by
  rw [stallFired_frame]; rfl

theorem rget_stallFired_other (s : State) (st : Stall) {r : Reg} (h : regOffset r ≠ regOffset (.timeCtr 1)) :
    rget (stallFired s st) r = rget s r := by
  cases st with
  | twait t => exact rget_fireFlags_other s t.toNat h
  | _ => rfl

/-- A stall other than END's that is over lets the next instruction issue. -/
theorem stallDone_next {s : State} {core p : Nat} {st : Stall} (he : st ≠ .endp) (hn : HasNext (coreOf s p)) :
    stallDone s core p st =
      setCore (stallFired s st) p { coreOf s p with stall := none, wait := 0, pc := (coreOf s p).pc + 1 } := by
  have hdone : stallDone s core p st = advance (modCore (stallFired s st) p fun c => { c with stall := none, wait := 0 }) core p := by
    cases st with
    | endp => exact absurd rfl he
    | _ => rfl
  rw [hdone, modCore, advance_next (by rw [coreOf_setCore_same, coreOf_stallFired]; exact hn)]
  simp only [coreOf_setCore_same, setCore_setCore, coreOf_stallFired]

/-! ## END (R145, R212, R219) -/

/-- A program that has reported its end no longer runs. -/
theorem endReport_ended (s : State) (core p : Nat) (st : Status) (pc : BitVec 12) : (coreOf (endReport s core p st pc) p).ended = true := by
  simp [endReport, modFlight]

section
variable {s : State} {core : Fin 4096} {p : Nat}

/-- The core of a program that END has reached: entries of the deferral list make the drain an implicit one (R145). -/
def endingCore (c : Core) : Core :=
  { c with wait := 0, stepping := false, phase := .ending, implicitDrain := c.implicitDrain || !(c.defer ++ c.run0 ++ c.run1).isEmpty }

/-- END issues as a stall of an ending program. -/
theorem exec_endp (hi : Issues s core (.endp core) p []) :
    exec (.endp core) s = .next (stallOn (setCore s p (endingCore (coreOf s p))) core.val p .endp) := by
  show execEndp core s = _
  rw [execEndp, issue_eff hi rfl rfl]
  simp only [modCore, coreOf_setCore_same, setCore_setCore]
  rfl

/-- Where nothing is left, the program ends with SUCCESS at the PC of its END. -/
theorem exec_endp_clear (hi : Issues s core (.endp core) p [])
    (hc : scopesClear (coreOf s p) 0xFF (coreOf s p).issued = true ∧ (coreOf s p).evq = []) :
    exec (.endp core) s =
      .next (endReport (setCore s p { endingCore (coreOf s p) with stall := none }) core.val p .success (coreOf s p).pc) := by
  have hover : stallOver (setCore s p (endingCore (coreOf s p))) (endingCore (coreOf s p)) .endp = true := stallOver_endp.mpr hc
  rw [exec_endp hi, stallOn, coreOf_setCore_same, if_pos hover, stallDone, modCore, coreOf_setCore_same, setCore_setCore]
  rfl

/-- Where something is left, the program stalls. -/
theorem exec_endp_stalls (hi : Issues s core (.endp core) p [])
    (hc : ¬ (scopesClear (coreOf s p) 0xFF (coreOf s p).issued = true ∧ (coreOf s p).evq = [])) :
    exec (.endp core) s = .next (setCore s p { endingCore (coreOf s p) with stall := some .endp, wait := 3 }) := by
  have hover : ¬ stallOver (setCore s p (endingCore (coreOf s p))) (endingCore (coreOf s p)) .endp = true := mt stallOver_endp.mp hc
  rw [exec_endp hi, stallOn, coreOf_setCore_same, if_neg hover]
  simp only [stallMark, modCore, coreOf_setCore_same, setCore_setCore, stallWait]

/-! ## WAIT_RELEASE (R189, R212, R219) -/

/-- WAIT_RELEASE of a stall that is over counts the cycles waited and does what follows the stall. -/
theorem exec_waitRelease {st : Stall} (hl : liveCore s core = some p) (hst : (coreOf s p).stall = some st)
    (hh : (coreOf s p).halted = false) (ho : stallOver s (coreOf s p) st = true) :
    exec (.waitRelease core) s = .next (stallDone (rbumpFree s (.coreTpWait core.val)) core.val p st) := by
  show execWaitRelease core s = _
  simp only [execWaitRelease, hl, hst, hh, ho, Bool.false_eq_true, if_false, if_true]

/-- The state in which the stall of END is over, its cycles counted: it stalls no more. -/
def endReleased (s : State) (core : Fin 4096) (p : Nat) : State :=
  setCore (rbumpFree s (.coreTpWait core.val)) p { coreOf s p with stall := none }

/-- WAIT_RELEASE of END ends the program with SUCCESS at the PC of its END. -/
theorem exec_waitRelease_endp (hl : liveCore s core = some p) (hst : (coreOf s p).stall = some .endp)
    (hh : (coreOf s p).halted = false) (ho : stallOver s (coreOf s p) .endp = true) :
    exec (.waitRelease core) s = .next (endReport (endReleased s core p) core.val p .success (coreOf s p).pc) :=
  exec_waitRelease hl hst hh ho

theorem coreTpWait_ne_timeCtr (core : Nat) : regOffset (.coreTpWait core) ≠ regOffset (.timeCtr 1) := by
  simp only [regOffset]; omega

/-- The registers after a wait: its cycles are counted, and what the stall has fired. -/
theorem rget_released (s : State) (core : Nat) (st : Stall) :
    let t := stallFired (rbumpFree s (.coreTpWait core)) st
    rget t (.coreTpWait core) = rget s (.coreTpWait core) + Config.freeWord s.freeCtr ∧
      (∀ r, regOffset r ≠ regOffset (.coreTpWait core) → regOffset r ≠ regOffset (.timeCtr 1) → rget t r = rget s r) ∧
      rget t (.timeCtr 1) = rget (stallFired s st) (.timeCtr 1) := by
  have hcount : rget (rbumpFree s (.coreTpWait core)) (.timeCtr 1) = rget s (.timeCtr 1) :=
    rbumpFree_other _ _ _ (coreTpWait_ne_timeCtr core).symm
  refine ⟨?_, fun r hw ht => ?_, ?_⟩
  · rw [rget_stallFired_other _ _ (coreTpWait_ne_timeCtr core)]
    exact rget_rset_same _ _ _
  · rw [rget_stallFired_other _ _ ht, rbumpFree_other _ _ _ hw]
  · cases st with
    | twait t => exact rget_fireFlags_congr (s := s) (u := rbumpFree s (.coreTpWait core)) rfl hcount t.toNat
    | _ => exact hcount

/-! ## PROGRAM_START (R29, R217) -/

/-- Nothing is corrected as it is read where no bit is wrong (R263). -/
theorem launchSettle_noBitErrors (h : NoBitErrors s) (a : Word64) (n : Nat) : launchSettle s a n = s := by
  have hs : s.devErrs = [] := h
  simp [launchSettle, settle, devSettle, hs]

/-- A program whose words can be read and whose argument block can be written starts. -/
theorem exec_programStart {code args : List Byte} (hp : physOf s core.val = some p) (hl : (coreOf s p).phase = .loading)
    (hr : clusterRuns s (core.val / 64) = true) (hb : NoBitErrors s)
    (hc : launchReaches s (clusterDie (core.val / 64)) (coreOf s p).codeAddr (8 * (coreOf s p).codeLen) = true)
    (ha : (coreOf s p).argLen ≠ 0 → launchReaches s (clusterDie (core.val / 64)) (coreOf s p).argAddr (coreOf s p).argLen = true)
    (hcode : launchRead s (coreOf s p).codeAddr (8 * (coreOf s p).codeLen) = .ok code)
    (hargs : (if (coreOf s p).argLen = 0 then .ok [] else launchRead s (coreOf s p).argAddr (coreOf s p).argLen) = .ok args)
    (hw : (spadWrite s p (coreOf s p).argOffset args).2 = none) :
    exec (.programStart core) s =
      let u := (spadWrite s p (coreOf s p).argOffset args).1
      .next (setCore u p (startState (coreOf u p) core.val code s.localNs)) := by
  have hgo : ¬ ((coreOf s p).phase ≠ .loading ∨ (!clusterRuns s (core.val / 64)) = true
      ∨ (!launchReaches s (clusterDie (core.val / 64)) (coreOf s p).codeAddr (8 * (coreOf s p).codeLen)) = true
      ∨ ((coreOf s p).argLen ≠ 0 ∧ (!launchReaches s (clusterDie (core.val / 64)) (coreOf s p).argAddr (coreOf s p).argLen) = true)) := by
    simpa [hl, hr, hc] using ha
  show execProgramStart core s = _
  simp only [execProgramStart, hp, if_neg hgo, launchSettle_noBitErrors hb, hcode, hargs, hw]

end

theorem sreg_of_sregs_nil {c : Core} (h : c.sregs = []) (r : BitVec 5) : sreg c r = 0 := by
  simp [sreg, h, tget]

/-- The scalar registers of a program that starts: four hold what R217 gives them, and the others are zero. -/
theorem sreg_startState (c : Core) (core : Nat) (code : List Byte) (now : Nat) (r : BitVec 5) :
    sreg (startState c core code now) r = if r = 1 then BitVec.ofNat 64 c.argOffset else if r = 2 then BitVec.ofNat 64 c.rank
      else if r = 3 then BitVec.ofNat 64 c.setSize else if r = 4 then BitVec.ofNat 64 core else 0 := by
  simp only [startState, sreg_setSreg]
  by_cases h1 : r = 1
  · simp [h1]
  by_cases h2 : r = 2
  · simp [h2]
  by_cases h3 : r = 3
  · simp [h3]
  by_cases h4 : r = 4
  · simp [h4]
  simp only [h1, h2, h3, h4, false_and, if_false]
  exact sreg_of_sregs_nil rfl r

/-- Beside its scalar registers, a program that starts has the state of R217: all of it new but for the scratchpad. -/
theorem startState_fresh (c : Core) (core : Nat) (code : List Byte) (now : Nat) :
    let k := startState c core code now
    k.phase = .running ∧ k.pc = 0 ∧ k.stall = none ∧ k.busy = [] ∧ k.slots = [] ∧ k.rets = [] ∧ k.dwc = [] ∧ k.numProg = [] ∧
      k.numCmd = [] ∧ k.cts = [] ∧ k.fe = {} ∧ k.be0 = {} ∧ k.defer = [] ∧ k.startNs = now ∧ k.spad = c.spad := by
  simp [startState, setSreg]

/-- Writing a scratchpad changes of its core the scratchpad and its marks alone (R244). -/
theorem spadWrite_onlyCore (s : State) (p off : Nat) (bs : List Byte) :
    OnlyCore s (spadWrite s p off bs).1 p ∧ ∃ m poison bad,
      coreOf (spadWrite s p off bs).1 p = { coreOf s p with spad := m, spadPoison := poison, spadBad := bad } := by
  obtain e | ⟨m, poison, bad, e, -⟩ := spadWrite_frame s p off bs
  · rw [e]
    exact ⟨⟨rfl, fun _ _ => rfl⟩, _, _, _, rfl⟩
  · rw [e]
    exact ⟨onlyCore_setCore _ _ _, m, poison, bad, coreOf_setCore_same _ _ _⟩

theorem OnlyCore.setCore {s u : State} {p : Nat} (h : OnlyCore s u p) (c : Core) : OnlyCore s (Machine.setCore u p c) p := by
  obtain ⟨hs, hq⟩ := h
  refine ⟨?_, fun q hne => (coreOf_setCore_other u p q c hne).trans (hq q hne)⟩
  rw [hs]
  rfl

/-! ## The statement -/

/-- Settles O10: END and WAIT_RELEASE go through the stall of the program, PROGRAM_START through the state of R217. -/
theorem programStartAndRelease : Obligations.ProgramStartAndRelease := by
  unfold Obligations.ProgramStartAndRelease
  refine ⟨fun s core p => ⟨fun hi => ⟨fun hc => ?_, exec_endp_stalls hi⟩, fun st hl hst hh ho => ⟨fun he hn => ?_, fun he => ?_⟩⟩, ?_⟩
  · obtain ⟨frame, idle, status, pc, -, -, gone⟩ :=
      endReport_frame (setCore s p { endingCore (coreOf s p) with stall := none }) core.val p .success (coreOf s p).pc
    exact ⟨_, exec_endp_clear hi hc, idle, status, pc, endReport_ended _ _ _ _ _, frame, gone⟩
  · obtain ⟨waited, other, fired⟩ := rget_released s core.val st
    refine ⟨_, (exec_waitRelease hl hst hh ho).trans (congrArg Host.Outcome.next (stallDone_next he hn)), ?_, ?_, waited, other, ?_⟩
    · rw [coreOf_setCore_same]
      rfl
    · rw [stallFired_frame]
      rfl
    · refine Eq.trans fired ?_
      cases st <;> rfl
  · obtain ⟨frame, idle, status, -, -, -, gone⟩ :=
      endReport_frame (endReleased s core p) core.val p .success (coreOf s p).pc
    subst he
    refine ⟨_, exec_waitRelease_endp hl hst hh ho, idle, status, ?_, gone⟩
    rw [frame]
    rfl
  · intro s core p code args c die hp hl hr hb hc ha hcode hargs hw
    obtain ⟨only, m, poison, bad, hu⟩ := spadWrite_onlyCore s p c.argOffset args
    refine ⟨_, exec_programStart hp hl hr hb hc ha hcode hargs hw, only.setCore _, ?_⟩
    rw [coreOf_setCore_same]
    obtain ⟨running, hpc, stall, busy, slots, rets, dwc, numProg, numCmd, cts, fe, be0, defer, startNs, spad⟩ :=
      startState_fresh (coreOf (spadWrite s p c.argOffset args).1 p) core.val code s.localNs
    refine ⟨running, hpc, stall, busy, slots, rets, dwc, numProg, numCmd, cts, fe, be0, defer, startNs, spad, fun r => ?_⟩
    rw [sreg_startState, hu]

end Sys2Proof.Machine
end

section
/-! PROOFS. Issue of the load-unit and vector instructions (R182, R183, R188, R190, R200, R203, R205). -/
namespace Sys2Proof.Machine

/-! ## The staging area (R183) -/

/-- From s to t only the staging area of a cluster changes: who holds it and who waits for it. -/
def StagingOnly (s t : State) (cl : Nat) : Prop :=
  t = { s with clusters := t.clusters } ∧
    (∀ k, clusterOf t k = { clusterOf s k with stageHold := (clusterOf t k).stageHold, stageWait := (clusterOf t k).stageWait }) ∧
    ∀ k, k ≠ cl → clusterOf t k = clusterOf s k

theorem StagingOnly.refl (s : State) (cl : Nat) : StagingOnly s s cl := ⟨rfl, fun _ => rfl, fun _ _ => rfl⟩

theorem StagingOnly.coreOf {s t : State} {cl : Nat} (h : StagingOnly s t cl) (q : Nat) : coreOf t q = Machine.coreOf s q := by
  rw [h.1]; rfl

theorem setCluster_stagingOnly (s : State) (cl : Nat) (hold : Option Stager) (wait : List Stager) :
    StagingOnly s (setCluster s cl { clusterOf s cl with stageHold := hold, stageWait := wait }) cl := by
  refine ⟨rfl, fun k => ?_, fun k hk => clusterOf_setCluster_other _ _ _ _ hk⟩
  rw [clusterOf_setCluster]
  split
  · next e => rw [e]
  · rfl

theorem stageRequest_stagingOnly (s : State) (cl : Nat) (x : Stager) : StagingOnly s (stageRequest s cl x) cl := by
  fun_cases stageRequest s cl x
  · exact .refl s cl
  · exact setCluster_stagingOnly s cl (some x) _
  · exact setCluster_stagingOnly s cl _ _

/-- The head of the load unit's queue asks for the staging area of its cluster where its method needs it, and for nothing else. -/
theorem loadHeadRequest_stagingOnly (s : State) (core p : Nat) : StagingOnly s (loadHeadRequest s core p) (core / 64) := by
  fun_cases loadHeadRequest s core p
  case case2 => exact stageRequest_stagingOnly _ _ _
  all_goals exact .refl _ _

section
variable {s : State} {core : Fin 4096} {p : Nat} {i : Instr} {num : BitVec 5}

/-! ## The load unit -/

/-- The state in which a load-unit instruction is queued, before the head of the queue asks for what it needs and the PC moves on. -/
def loadQueued (s : State) (p : Nat) (j : Job) : State :=
  setCore s p { coreOf s p with lq := (coreOf s p).lq ++ [j], issued := (coreOf s p).issued + 1, wait := 0, stepping := false }

/-- A load-unit instruction whose operands pass their checks is queued, and the head of the queue asks for the staging area. -/
theorem loadIssue_queues {kind : MoveKind} {own : Nat → Bool} {slots : List (BitVec 5)} (hm : moveOf i = some (kind, own))
    (hi : Issues s core i p [num]) (hq : (coreOf s p).lq.length < 9) (hn : HasNext (coreOf s p))
    (hf : moveFault (some core.val) kind own (sreg (coreOf s p) num) (slots.map (slotDesc (coreOf s p))) = none) :
    let c := coreOf s p
    let u := loadHeadRequest (loadQueued s p (queuedJob c i slots (sreg c num) [])) core.val p
    loadIssue core i slots num s = .next (setCore u p
      { issued c with lq := c.lq ++ [queuedJob c i slots (sreg c num) []], issued := c.issued + 1 }) := by
  intro c u
  have hu : coreOf u p = { c with lq := c.lq ++ [queuedJob c i slots (sreg c num) []], issued := c.issued + 1, wait := 0, stepping := false } := by
    rw [(loadHeadRequest_stagingOnly ..).coreOf, loadQueued, coreOf_setCore_same]
  have hadv : advance u core.val p = setCore u p
      { issued c with lq := c.lq ++ [queuedJob c i slots (sreg c num) []], issued := c.issued + 1 } := by
    rw [advance_next (by rw [hu]; exact hn), hu]
    rfl
  rw [loadIssue, issue_eff hi (by simpa [luFull] using hq) (by simp only [hm]; exact hf), ← hadv]
  simp only [enqueue, modCore, coreOf_setCore_same, setCore_setCore]
  rfl

/-- A load-unit instruction whose operands fail their checks ends its program. -/
theorem loadIssue_faults {kind : MoveKind} {own : Nat → Bool} {slots : List (BitVec 5)} {st : Status} (hm : moveOf i = some (kind, own))
    (hi : Issues s core i p [num]) (hq : (coreOf s p).lq.length < 9)
    (hf : moveFault (some core.val) kind own (sreg (coreOf s p) num) (slots.map (slotDesc (coreOf s p))) = some st) :
    loadIssue core i slots num s = .next (programFault s core.val p st (coreOf s p).pc) :=
  issue_fault hi (by simpa [luFull] using hq) (by simp only [hm]; exact hf)

/-! ## The vector unit -/

variable {op : VecOp} {d a b k : BitVec 5} {cfmt : BitVec 4}

/-- A vector instruction whose operands pass their checks is queued with its scalar. -/
theorem vecIssue_queues (hi : Issues s core i p (num :: if op = .scl then [k] else [])) (hq : (coreOf s p).vq.length < 9)
    (hn : HasNext (coreOf s p))
    (hf : vecFault core.val op (slotDesc (coreOf s p) d) (([a, b, k].take (vecSources op)).map (slotDesc (coreOf s p))) cfmt
      (sreg (coreOf s p) num) = none) :
    let c := coreOf s p
    vecIssue core i op d a b k num cfmt s = .next (setCore s p { issued c with
      vq := c.vq ++ [queuedJob c i (d :: [a, b, k].take (vecSources op)) (sreg c num) [if op = .scl then sreg c k else 0]]
      issued := c.issued + 1 }) := by
  intro c
  rw [vecIssue, issue_eff hi (by simpa [vuFull] using hq) hf]
  simp only [enqueue, modCore, coreOf_setCore_same, setCore_setCore]
  rw [advance_next (by rw [coreOf_setCore_same]; exact hn)]
  simp only [coreOf_setCore_same, setCore_setCore]
  rfl

/-- A vector instruction whose operands fail their checks ends its program. -/
theorem vecIssue_faults {st : Status} (hi : Issues s core i p (num :: if op = .scl then [k] else [])) (hq : (coreOf s p).vq.length < 9)
    (hf : vecFault core.val op (slotDesc (coreOf s p) d) (([a, b, k].take (vecSources op)).map (slotDesc (coreOf s p))) cfmt
      (sreg (coreOf s p) num) = some st) :
    vecIssue core i op d a b k num cfmt s = .next (programFault s core.val p st (coreOf s p).pc) := by
  rw [vecIssue, issue_fault hi (by simpa [vuFull] using hq) hf]

end

/-- A vector instruction with its operation and the number of its sources, as R205 lists them. -/
def VecRow (insn : Fin 4096 → BitVec 5 → BitVec 5 → BitVec 5 → BitVec 5 → BitVec 5 → BitVec 4 → Instr) (op : VecOp) (n : Nat) : Prop :=
  n = vecSources op ∧ ∀ core d a b k num cfmt s,
    exec (insn core d a b k num cfmt) s = vecIssue core (insn core d a b k num cfmt) op d a b k num cfmt s

/-! ## The statement -/

/-- Settles O5: the shared operation of each unit queues the instruction, and the head of the load unit's queue changes the staging area of
its cluster alone. -/
theorem loadAndVectorIssue : Obligations.LoadAndVectorIssue := by
  unfold Obligations.LoadAndVectorIssue
  constructor
  · intro s core d0 d1 d2 num dim mode acc p x hx kind own hm c hi hq hn
    have row : exec x.1 s = loadIssue core x.1 x.2 num s := by
      fin_cases hx <;> rfl
    rw [row]
    refine ⟨fun hf => ?_, fun st hf => loadIssue_faults hm hi hq hf⟩
    have staged := loadHeadRequest_stagingOnly (loadQueued s p (queuedJob c x.1 x.2 (sreg c num) [])) core.val p
    have cores := staged.coreOf
    obtain ⟨frame, staging, others⟩ := staged
    refine ⟨_, loadIssue_queues hm hi hq hn hf, ?_, coreOf_setCore_same _ _ _, fun q hne => ?_, staging, others⟩
    · rw [frame]; rfl
    · rw [coreOf_setCore_other _ _ _ _ hne, cores]
      exact coreOf_setCore_other _ _ _ _ hne
  · intro x hx s core d a b k num cfmt p i c srcs hi hq
    obtain ⟨sources, row⟩ : VecRow x.1 x.2.1 x.2.2 := by
      fin_cases hx <;> exact ⟨rfl, fun _ _ _ _ _ _ _ _ => rfl⟩
    have hexec : exec i s = vecIssue core i x.2.1 d a b k num cfmt s := row ..
    have hsrcs : srcs = [a, b, k].take (vecSources x.2.1) := congrArg ([a, b, k].take ·) sources
    rw [hexec, hsrcs]
    exact ⟨fun hf hn => vecIssue_queues hi hq hn hf, fun st hf => vecIssue_faults hi hq hf⟩

end Sys2Proof.Machine
end

section
/-! PROOFS. What commands hold while memories are read and written (R183, R244, R263, R278, R324): an access changes memories, their
marks, error records and counters, and neither the records of commands in flight nor who holds a staging area. -/
namespace Sys2Proof.Machine

/-- From s to t what commands hold stays: the records of commands in flight, and the staging area of every cluster. -/
structure CommandsKept (s t : State) : Prop where
  queues    : t.queues = s.queues
  stageHold : ∀ c, (clusterOf t c).stageHold = (clusterOf s c).stageHold

theorem CommandsKept.refl (s : State) : CommandsKept s s := ⟨rfl, fun _ => rfl⟩

theorem CommandsKept.after {s t u : State} (h : CommandsKept t u) (g : CommandsKept s t) : CommandsKept s u :=
  ⟨h.queues.trans g.queues, fun c => (h.stageHold c).trans (g.stageHold c)⟩

/-- A state with the same queues and clusters. -/
theorem CommandsKept.same {s t : State} (hq : t.queues = s.queues) (hc : t.clusters = s.clusters) : CommandsKept s t :=
  ⟨hq, fun c => by unfold clusterOf; rw [hc]⟩

theorem CommandsKept.setCluster {s : State} {n : Nat} {k : Cluster} (h : k.stageHold = (clusterOf s n).stageHold) :
    CommandsKept s (Machine.setCluster s n k) := by
  refine ⟨rfl, fun c => ?_⟩
  rw [clusterOf_setCluster]
  split
  · next e => rw [e, h]
  · rfl

theorem CommandsKept.fold {α : Type} {f : State → α → State} (h : ∀ s x, CommandsKept s (f s x)) (l : List α) (s : State) :
    CommandsKept s (l.foldl f s) := by
  induction l generalizing s with
  | nil => exact .refl s
  | cons x l ih => exact (ih (f s x)).after (h s x)

/-! ## Error records (R571) -/

theorem addDue_commandsKept (s : State) (d : Due) : CommandsKept s (addDue s d) :=
  .same (by rw [(addDue_frame s d).1]) (by rw [(addDue_frame s d).1])

theorem putRecord_commandsKept (s : State) (r : ErrRec) : CommandsKept s (putRecord s r) :=
  .same (by rw [putRecord_frame]) (by rw [putRecord_frame])

theorem markRetire_commandsKept (s : State) (r : Word32) : CommandsKept s (markRetire s r) := by
  have due (k : Cluster) (bank : Nat) (b : Bool) : (bankDue k bank b).stageHold = k.stageHold := by
    unfold bankDue; split <;> rfl
  unfold markRetire
  dsimp only
  split
  · exact .same rfl rfl
  · split
    · exact .setCluster (due _ _ _)
    · exact .refl s
  · split
    · split
      · exact (putRecord_commandsKept _ _).after (.same rfl rfl)
      · exact .same rfl rfl
    · exact .refl s
  · exact addDue_commandsKept _ _

theorem raisedAction_commandsKept (s : State) (r : ErrRec) : CommandsKept s (raisedAction s r) := by
  unfold raisedAction
  split
  · exact .refl s
  · split
    · split
      · exact markRetire_commandsKept _ _
      · exact .refl s
    · split <;> exact addDue_commandsKept _ _
    · exact addDue_commandsKept _ _
    · exact .refl s

theorem report_commandsKept (s : State) (st : Status) (res : Word32) (a d : Word64) (f : Bool) :
    CommandsKept s (report s st res a d f) := by
  unfold report raiseRecord
  split
  · dsimp only
    split
    · exact putRecord_commandsKept _ _
    · exact (raisedAction_commandsKept _ _).after (putRecord_commandsKept _ _)
  · exact .refl s

/-! ## Words of device memory (R262 to R265, R278) -/

theorem channelDue_commandsKept (s : State) (n ch : Nat) (f : Bool) : CommandsKept s (channelDue s n ch f) := by
  unfold channelDue
  dsimp only
  split
  · exact (report_commandsKept _ _ _ _ _ _).after (.same rfl rfl)
  · exact .same rfl rfl

theorem setSlots_commandsKept (s : State) (n : Nat) (l : List HoldSlot) : CommandsKept s (setSlots s n l) := by
  unfold setSlots
  dsimp only
  split <;> exact .same rfl rfl

theorem putRaw_commandsKept (s : State) (a : Nat) (bs : List Byte) : CommandsKept s (putRaw s a bs) := by
  unfold putRaw
  split
  · exact setSlots_commandsKept _ _ _
  · exact .same rfl rfl

theorem devCorrected_commandsKept (s : State) (h : Nat) : CommandsKept s (devCorrected s h) := by
  have counted (k : Stack) (n : Nat) (r r' : Reg) (f : FldImage → FldImage) :
      CommandsKept s (modLive (rbump (rbump (setStack s n k) r 1) r' 1) f) := .same rfl rfl
  unfold devCorrected
  dsimp only
  split
  · exact (channelDue_commandsKept _ _ _ _).after (counted _ _ _ _ _)
  · exact counted _ _ _ _ _

theorem setDevPoison_commandsKept (s : State) (w : Nat) (b : Bool) : CommandsKept s (setDevPoison s w b) := .same rfl rfl

theorem setErrs_commandsKept (s : State) (e : Table (BitVec 288)) : CommandsKept s { s with devErrs := e } := .same rfl rfl

theorem devFix_commandsKept (s : State) (h : Nat) : CommandsKept s (devFix s h) := by
  have stored (r : BitVec 288) (bs : List Byte) (b : Bool) :
      CommandsKept s (if r = 0 then s else setDevPoison (putRaw s (32 * h) bs) h b) := by
    split
    · exact .refl s
    · exact (setDevPoison_commandsKept _ _ _).after (putRaw_commandsKept _ _ _)
  unfold devFix
  dsimp only
  split
  · exact .refl s
  · split
    · exact .refl s
    · split
      · exact (devCorrected_commandsKept _ _).after ((setErrs_commandsKept _ _).after (stored _ _ _))
      · exact (setErrs_commandsKept _ _).after (stored _ _ _)

theorem devSettle_commandsKept (s : State) (a n : Nat) : CommandsKept s (devSettle s a n) := by
  unfold devSettle
  split
  · exact .refl s
  · refine .fold (fun s w => ?_) _ _
    split
    · exact .refl s
    · split
      · exact devFix_commandsKept _ _
      · exact .refl s

theorem fillSlot_commandsKept (s : State) (n tag : Nat) : CommandsKept s (fillSlot s n tag) := by
  unfold fillSlot
  refine (CommandsKept.fold (fun s h => .same ?_ ?_) _ _).after ((setSlots_commandsKept (tickFree s) _ _).after (.same rfl rfl))
  all_goals
    dsimp only
    split <;> split <;> rfl

theorem parkReady_commandsKept {s t : State} {w : Nat} (h : parkReady s w = some t) : CommandsKept s t := by
  unfold parkReady at h
  dsimp only at h
  split at h
  · cases h; exact .refl s
  · split at h
    · split at h
      · cases h
      · cases h; exact .refl s
    · split at h
      · cases h
      · injection h with h
        rw [← h]
        exact fillSlot_commandsKept _ _ _

theorem putHome_commandsKept (s : State) (h o : Nat) (bs : List Byte) : CommandsKept s (putHome s h o bs).1 := by
  unfold putHome
  split
  · exact .refl s
  · split
    · exact (setErrs_commandsKept _ _).after ((setDevPoison_commandsKept _ _ _).after (putRaw_commandsKept s (32 * h) bs))
    · split
      · exact .refl s
      · exact (putRaw_commandsKept _ _ _).after (devFix_commandsKept s h)

theorem putDev_commandsKept (l : List (Nat × Nat × List Byte)) (s : State) : CommandsKept s (putDev l s).1 := by
  induction l generalizing s with
  | nil => exact .refl s
  | cons x l ih =>
    obtain ⟨w, o, bs⟩ := x
    rw [putDev]
    split
    · exact .refl s
    · next hp => exact (ih _).after ((putHome_commandsKept _ _ _ _).after (parkReady_commandsKept hp))

/-! ## Writes of any space (R244) -/

theorem memWrite_commandsKept (s : State) (space unit off : Nat) (bs : List Byte) : CommandsKept s (memWrite s space unit off bs).1 := by
  unfold memWrite
  split
  · split
    · exact .refl s
    · next p _ =>
      obtain e | ⟨m, poison, bad, e, -⟩ := spadWrite_frame s p off bs
      · rw [e]; exact .refl s
      · rw [e]; exact .same rfl rfl
  · obtain e | ⟨m, poison, bad, e, -⟩ := cmemWrite_frame s unit off bs
    · rw [e]; exact .refl s
    · rw [e]; exact .setCluster rfl
  · unfold devWrite
    split
    · exact .refl s
    · exact putDev_commandsKept _ s
  · exact .same (by rw [(hostWrite_frame s off bs).1]) (by rw [(hostWrite_frame s off bs).1])

theorem memPuts_commandsKept (space unit : Nat) (l : Writes) (s : State) : CommandsKept s (memPuts space unit l s).1 := by
  induction l generalizing s with
  | nil => exact .refl s
  | cons x l ih => exact (ih _).after (memWrite_commandsKept s space unit x.1 x.2)

theorem tensorPut_commandsKept (mask : Option Nat) (t : Tensor) (gs : List Writes) (s : State) :
    CommandsKept s (tensorPut mask t gs s).1.1 := by
  have ordered : CommandsKept s (orderWrites s gs).1 := by
    unfold orderWrites
    split <;> exact .same rfl rfl
  unfold tensorPut memWrites
  dsimp only
  split
  · exact ordered
  · exact (memPuts_commandsKept _ _ _ _).after ordered

/-! ## Reads and adds of a movement (R168, R176, R270) -/

theorem settleElems_commandsKept (s : State) (t : Tensor) (ix : List (List Nat)) : CommandsKept s (settleElems s t ix) := by
  unfold settleElems
  split
  · exact .refl s
  · refine .fold (fun s i => ?_) _ _
    dsimp only
    split
    · split
      · exact (devSettle_commandsKept _ _ _).after ((devSettle_commandsKept _ _ _).after (devSettle_commandsKept _ _ _))
      · exact (devSettle_commandsKept _ _ _).after (devSettle_commandsKept _ _ _)
    · exact devSettle_commandsKept _ _ _

theorem mergeTouch_commandsKept (s : State) (w : Nat) : CommandsKept s (mergeTouch s w) := by
  unfold mergeTouch
  dsimp only
  split <;> exact .same rfl rfl

theorem accWord_commandsKept (s : State) (mode : RoundMode) (f : Fmt) (w : Nat) (vals : List (Option Val)) :
    CommandsKept s (accWord s mode f w vals).st := by
  have put {l : List (Nat × Nat × List Byte)} {u : State} {r : Acc} (h : putDev l u = r) : CommandsKept u r.1 :=
    h ▸ putDev_commandsKept l u
  fun_cases accWord s mode f w vals
  case case1 | case2 => exact .refl s
  case case3 hp _ _ _ => exact (devFix_commandsKept _ _).after (parkReady_commandsKept hp)
  case case4 hp _ _ _ _ _ _ hw => exact (put hw).after ((devFix_commandsKept _ _).after (parkReady_commandsKept hp))
  case case5 hp _ _ _ _ _ hw =>
    exact (mergeTouch_commandsKept _ _).after ((put hw).after ((devFix_commandsKept _ _).after (parkReady_commandsKept hp)))

theorem accAll_commandsKept (mode : RoundMode) (f : Fmt) (l : List (Nat × List (Option Val))) (s : State) :
    CommandsKept s (accAll mode f l s).st := by
  induction l generalizing s with
  | nil => exact .refl s
  | cons x l ih => exact (ih _).after (accWord_commandsKept s mode f x.1 x.2)

theorem addElem_commandsKept (s : State) (mode : RoundMode) (f : Fmt) (space unit a : Nat) (v : Val) :
    CommandsKept s (addElem s mode f space unit a v).1 := by
  unfold addElem
  dsimp only
  split
  · exact .refl s
  · exact memWrite_commandsKept _ _ _ _ _

theorem addElems_commandsKept (mode : RoundMode) (f : Fmt) (space unit : Nat) (l : List (Nat × Val × Output)) (s : State) :
    CommandsKept s (addElems mode f space unit l s).1 := by
  induction l generalizing s with
  | nil => exact .refl s
  | cons x l ih =>
    rw [addElems]
    dsimp only
    split <;> exact (ih _).after (addElem_commandsKept _ _ _ _ _ _ _)

theorem addAll_commandsKept (mode : RoundMode) (coreIdx : Nat) (t : Tensor) (adds : List (Nat × Val × Output)) (bad : Bool) (s : State) :
    CommandsKept s (addAll mode coreIdx t adds bad s).1 := by
  have single : CommandsKept s (addsOf mode t.fmt t.d.space t.unit adds s).1 := by
    unfold addsOf
    split
    · exact .refl s
    · exact addElems_commandsKept _ _ _ _ _ _
  unfold addAll
  split
  · exact accAll_commandsKept _ _ _ _
  · exact single

theorem orderAdds_commandsKept (s : State) (l : List (Nat × Val × Output)) : CommandsKept s (orderAdds s l).1 := by
  unfold orderAdds
  split <;> exact .same rfl rfl

/-! ## Movements (R167, R172, R176) -/

theorem copyTensor_commandsKept (mask : Option Nat) (s : State) (u : Converter) (nc : NumCtrl) (src dst : Tensor) :
    CommandsKept s (copyTensor mask s u nc src dst).st := by
  unfold copyTensor
  dsimp only
  split
  · exact settleElems_commandsKept _ _ _
  · exact (tensorPut_commandsKept _ _ _ _).after (settleElems_commandsKept _ _ _)

/-- What a failed gather or scatter reports does not change what it leaves (R602). -/
theorem metBefore_st (table dense : Tensor) (dim n : Nat) (bad : List (Nat × Word32)) (els : List (List Nat × Option (List Nat)))
    (m : MoveResult) : (metBefore table dense dim n bad els m).st = m.st := by
  unfold metBefore
  split <;> rfl

theorem gatherTensor_commandsKept (mask : Option Nat) (s : State) (u : Converter) (nc : NumCtrl) (table dense : Tensor) (dim : Nat)
    (mode : IdxMode) (ix : List Word32) : CommandsKept s (gatherTensor mask s u nc table dense dim mode ix).st := by
  unfold gatherTensor
  dsimp only
  split
  · exact .refl s
  · rw [metBefore_st]
    split
    · exact settleElems_commandsKept _ _ _
    · exact (tensorPut_commandsKept _ _ _ _).after (settleElems_commandsKept _ _ _)

theorem scatterTensor_commandsKept (mask : Option Nat) (s : State) (u : Converter) (nc : NumCtrl) (table dense : Tensor) (dim : Nat)
    (mode : IdxMode) (accum : Bool) (ix : List Word32) : CommandsKept s (scatterTensor mask s u nc table dense dim mode accum ix).st := by
  have ticked (b : Prop) [Decidable b] (t : State) : CommandsKept t (if b then tickFree t else t) := by
    split <;> exact .same rfl rfl
  unfold scatterTensor
  dsimp only
  split
  · exact .refl s
  · rw [metBefore_st]
    split
    · exact settleElems_commandsKept _ _ _
    · split
      · exact (addAll_commandsKept _ _ _ _ _ _).after ((orderAdds_commandsKept _ _).after (settleElems_commandsKept _ _ _))
      · split
        · exact settleElems_commandsKept _ _ _
        · exact (tensorPut_commandsKept _ _ _ _).after ((ticked _ _).after (settleElems_commandsKept _ _ _))

theorem moveRun_commandsKept (mask : Option Nat) (s : State) (u : Converter) (nc : NumCtrl) (kind : MoveKind) (ts : List Tensor) :
    CommandsKept s (moveRun mask s u nc kind ts).st := by
  fun_cases moveRun mask s u nc kind ts
  case case1 => exact .refl s
  case case2 => exact copyTensor_commandsKept _ _ _ _ _ _
  case case3 | case5 => exact settleElems_commandsKept _ _ _
  case case4 => exact (gatherTensor_commandsKept _ _ _ _ _ _ _ _ _).after (settleElems_commandsKept _ _ _)
  case case6 => exact (scatterTensor_commandsKept _ _ _ _ _ _ _ _ _ _).after (settleElems_commandsKept _ _ _)
  case case7 v _ _ _ =>
    subst v
    dsimp only
    split
    · exact .refl s
    · exact settleElems_commandsKept _ _ _
    · exact .refl s

end Sys2Proof.Machine
end

section
/-! PROOFS. The queue commands COPY, GATHER and SCATTER (R166, R167, R171, R172, R176, R183, R263). -/
namespace Sys2Proof.Machine

/-! ## Records of commands in flight -/

/-- A command that is found at work is the one of its sequence number. -/
theorem workOf_seq {s : State} {q : Nat} {seq : Word32} {kind : Nat} {f : Flight} (h : workOf s q seq kind = some f) : f.cmd.seq = seq := by
  unfold workOf at h
  split at h
  · next g hg =>
    split at h
    · cases h
      simpa using List.find?_some hg
    · cases h
  · cases h

/-- A change of a record is the same one from any state with the same queues. -/
theorem FlightIs.of_queues {s s' t : State} {q : Nat} {seq : Word32} {f : Flight → Flight} (h : FlightIs s' t q seq f)
    (hs : s'.queues = s.queues) : FlightIs s t q seq f := by
  have hq : ∀ k, queueOf s' k = queueOf s k := fun k => by unfold queueOf; rw [hs]
  obtain ⟨same, other⟩ := h
  exact ⟨by rw [same, hq], fun k hk => (other k hk).trans (hq k)⟩

/-- Two changes of the record of one command make one. -/
theorem FlightIs.after {s t u : State} {q : Nat} {seq : Word32} {f g : Flight → Flight} (h : FlightIs t u q seq g)
    (k : FlightIs s t q seq f) (hf : ∀ x, (f x).cmd = x.cmd) : FlightIs s u q seq (g ∘ f) := by
  have both : ((fun x => if x.cmd.seq = seq then g x else x) ∘ fun x => if x.cmd.seq = seq then f x else x) =
      fun x => if x.cmd.seq = seq then (g ∘ f) x else x := by
    funext x
    by_cases hx : x.cmd.seq = seq <;> simp [hx, hf]
  obtain ⟨same, other⟩ := h
  obtain ⟨same', other'⟩ := k
  refine ⟨?_, fun n hn => (other n hn).trans (other' n hn)⟩
  rw [same, same', List.map_map, both]

/-! ## Before the data moves (R20, R263, R318) -/

theorem dieServes_of_clusterRuns {s : State} {c : Nat} (h : clusterRuns s c = true) : dieServes s (clusterDie c) = true := by
  simp only [clusterRuns, Bool.and_eq_true] at h
  obtain ⟨⟨serves, -⟩, -⟩ := h
  exact serves

theorem ptrSettle_commandsKept (s : State) (ps : List Word64) : CommandsKept s (ptrSettle s ps) := by
  refine .fold (fun s p => ?_) ps s
  unfold hdSettle
  split
  · exact .refl s
  · exact devSettle_commandsKept _ _ _

/-- What a command keeps of its descriptors once they have passed their checks. -/
def withDescs (raws : List (BitVec 1024)) (x : Flight) : Flight := { x with begun := true, descs := raws }

/-- The state in which the descriptors of a command have passed their checks. -/
def descsTaken (s : State) (q : Nat) (seq : Word32) (ptrs : List Word64) (raws : List (BitVec 1024)) : State :=
  modFlight (ptrSettle s ptrs) q seq (withDescs raws)

theorem descsTaken_flightIs (s : State) (q : Nat) (seq : Word32) (ptrs : List Word64) (raws : List (BitVec 1024)) :
    FlightIs s (descsTaken s q seq ptrs raws) q seq (withDescs raws) :=
  (modFlight_is (ptrSettle s ptrs) q seq _).1.of_queues (ptrSettle_commandsKept s ptrs).queues

/-- Reading its descriptors neither gives a command the staging area nor takes it away. -/
theorem stageHeld_descsTaken (s : State) (q : Nat) (seq : Word32) (ptrs : List Word64) (raws : List (BitVec 1024)) (cl : Nat) (x : Stager) :
    stageHeld (descsTaken s q seq ptrs raws) cl x = stageHeld s cl x := by
  have hold : (clusterOf (descsTaken s q seq ptrs raws) cl).stageHold = (clusterOf s cl).stageHold := (ptrSettle_commandsKept s ptrs).stageHold cl
  rw [stageHeld, hold, stageHeld]

section
variable {s : State} {q : Nat} {f : Flight} {cl : Nat} {kind : MoveKind} {ptrs : List Word64} {num : Word64} {raws : List (BitVec 1024)}
  (hb : f.begun = false) (hu : f.copyUnit = some cl) (hc : clusterRuns s cl = true) (hd : ptrDescs (ptrSettle s ptrs) ptrs = .ok raws)
include hb hu hc hd

/-- A command whose descriptors are read and fail the checks is done with their status. -/
theorem moveCommand_faults {st : Status} (hf : moveFault none kind (fun _ => false) num (raws.map parseDesc) = some st) :
    moveCommand s q f kind ptrs num = flightDone (ptrSettle s ptrs) q f.cmd.seq st := by
  simp only [moveCommand, hb, hu, hc, hd, hf, dieServes_of_clusterRuns hc, Option.getD_some, Bool.not_true, Bool.false_eq_true, if_false]

/-- What a command does whose descriptors pass the checks: unless it moves no element (R166) it waits until it reaches what it moves, and
asks for the staging area where it needs it and does not hold it. -/
theorem moveCommand_checked (hf : moveFault none kind (fun _ => false) num (raws.map parseDesc) = none) :
    let ts := raws.map fun r => tensorOf none (parseDesc r)
    let s1 := descsTaken s q f.cmd.seq ptrs raws
    moveCommand s q f kind ptrs num =
      if moveEmpty kind ts then moveWork s1 q f cl kind num ts
      else if !reachesAll s1 (clusterDie cl) kindCopy ts then s1
      else if moveOvl kind ts = .staged then
        if stageHeld s1 cl (.copyUnit q f.cmd.seq) then moveWork s1 q f cl kind num ts else stageRequest s1 cl (.copyUnit q f.cmd.seq)
      else moveWork s1 q f cl kind num ts := by
  simp only [moveCommand, hb, hu, hc, hd, hf, dieServes_of_clusterRuns hc, Option.getD_some, Bool.not_true, Bool.false_eq_true, if_false]
  rfl

/-- It moves its data where it reaches what it moves and holds the staging area if it needs it. -/
theorem moveCommand_moves (hf : moveFault none kind (fun _ => false) num (raws.map parseDesc) = none) :
    let ts := raws.map fun r => tensorOf none (parseDesc r)
    let s1 := descsTaken s q f.cmd.seq ptrs raws
    (moveEmpty kind ts = false → reachesAll s1 (clusterDie cl) kindCopy ts = true ∧
      (moveOvl kind ts = .staged → stageHeld s cl (.copyUnit q f.cmd.seq) = true)) →
    moveCommand s q f kind ptrs num = moveWork s1 q f cl kind num ts := by
  intro ts s1 hm
  rw [moveCommand_checked hb hu hc hd hf, stageHeld_descsTaken]
  cases hempty : moveEmpty kind ts with
  | true => exact if_pos rfl
  | false =>
    obtain ⟨reaches, holds⟩ := hm hempty
    rw [if_neg Bool.false_ne_true, if_neg (by rw [Bool.not_eq_true', Bool.not_eq_false]; exact reaches)]
    by_cases hstaged : moveOvl kind ts = .staged
    · exact (if_pos hstaged).trans (if_pos (holds hstaged))
    · exact if_neg hstaged

end

/-! ## The movement and its end (R184, R324) -/

/-- From s to t registers and the free counter change at most. -/
def CountsOnly (s t : State) : Prop := t = { s with regs := t.regs, freeCtr := t.freeCtr }

theorem CountsOnly.after {s t u : State} (h : CountsOnly t u) (g : CountsOnly s t) : CountsOnly s u := by
  unfold CountsOnly at *
  rw [h, g]

theorem CountsOnly.rbump {s t : State} (h : CountsOnly s t) (r : Reg) (n : Nat) : CountsOnly s (Machine.rbump t r n) :=
  .after (t := t) rfl h

theorem CountsOnly.rbumpFree {s t : State} (h : CountsOnly s t) (r : Reg) : CountsOnly s (Machine.rbumpFree t r) :=
  .after (t := t) rfl h

theorem countOvl_countsOnly (s : State) (cl : Nat) (m : OvlMethod) : CountsOnly s (countOvl s cl m) := by
  cases m <;> rfl

/-- What a movement that meets no error leaves in the record of its command. -/
def withResult (kind : MoveKind) (r : MoveResult) (x : Flight) : Flight :=
  { x with num := r.num, kindBlk := if kind = .copy then 0 else BitVec.ofNat 128 (idxBlockBits r.idx) }

/-- A movement that meets no error is counted, and its command is done with SUCCESS. -/
theorem moveWork_done {s : State} {q : Nat} {f : Flight} {cl : Nat} {kind : MoveKind} {num : Word64} {ts : List Tensor} {r : MoveResult}
    (hr : moveRun none s (copyUnit cl) ((numCtrl num).getD ⟨0, .nearest, 1⟩) kind ts = r) (he : r.err = none) :
    ∃ u, CountsOnly r.st u ∧
      moveWork s q f cl kind num ts = flightDone (modFlight u q f.cmd.seq (withResult kind r)) q f.cmd.seq .success := by
  have counted : CountsOnly r.st
      (rbump (rbump (countOvl r.st cl (moveOvl kind ts)) (.cluCopyCtr cl 0) r.bytes) (.cluCopyCtr cl 6) r.oor) :=
    ((countOvl_countsOnly r.st cl (moveOvl kind ts)).rbump _ _).rbump _ _
  unfold moveWork
  simp only [hr, he]
  refine ⟨_, ?_, rfl⟩
  split
  · exact counted.rbumpFree _
  · exact counted

/-- Counting changes no memory, and the end of a command changes the records of commands and the stacks alone. -/
theorem flightDone_counted_frame {s u : State} (h : CountsOnly s u) (q : Nat) (seq : Word32) (g : Flight → Flight) (st : Status) :
    let t := flightDone (modFlight u q seq g) q seq st
    t = { s with regs := t.regs, freeCtr := t.freeCtr, queues := t.queues, stks := t.stks } := by
  intro t
  have frame : t = { u with queues := t.queues, stks := t.stks } := (flightDone_is (modFlight u q seq g) q seq st).2
  unfold CountsOnly at h
  rw [frame, h]

/-! ## The statement -/

/-- Settles O13: the descriptors are taken, the movement leaves the queues alone, and the end of the command writes its record. -/
theorem moveCommands : Obligations.MoveCommands := by
  unfold Obligations.MoveCommands
  intro s q seq f x hx raws cl hw hb hu hc hd
  have row : exec x.2.1 s = .next (moveCommand s q.val f x.2.2.1 x.2.2.2.1 x.2.2.2.2) := by
    fin_cases hx
    · show execCopy q seq s = _
      rw [execCopy, hw]
    · show execGather q seq s = _
      rw [execGather, hw]
    · show execScatter q seq s = _
      rw [execScatter, hw]
  obtain rfl := workOf_seq hw
  rw [row]
  constructor
  · intro ts s1 r hf hm hr
    obtain ⟨u, counts, done⟩ := moveWork_done (s := descsTaken s q.val f.cmd.seq x.2.2.2.1 raws) (q := q.val) (f := f) (r := r) (num := x.2.2.2.2) rfl hr
    have frame := flightDone_counted_frame counts q.val f.cmd.seq (withResult x.2.2.1 r) .success
    have moves := (moveCommand_moves hb hu hc hd hf hm).trans done
    rw [moves]
    refine ⟨_, rfl, (congrArg State.dev frame :), (congrArg State.devPoison frame :), (congrArg State.hostMem frame :), (congrArg State.cores frame :),
      (congrArg State.clusters frame :), ?_⟩
    have taken := descsTaken_flightIs s q.val f.cmd.seq x.2.2.2.1 raws
    have unmoved : u.queues = s1.queues := (congrArg State.queues counts).trans (moveRun_commandsKept _ _ _ _ _ _).queues
    have result : FlightIs s1 (modFlight u q.val f.cmd.seq (withResult x.2.2.1 r)) q.val f.cmd.seq (withResult x.2.2.1 r) :=
      (modFlight_is u q.val f.cmd.seq _).1.of_queues unmoved
    exact ((flightDone_is _ q.val f.cmd.seq .success).1.1.after result fun _ => rfl).after taken fun _ => rfl
  · intro st hf
    obtain ⟨⟨record, gone⟩, frame⟩ := flightDone_is (ptrSettle s x.2.2.2.1) q.val f.cmd.seq st
    rw [moveCommand_faults hb hu hc hd hf]
    exact ⟨_, rfl, record.of_queues (ptrSettle_commandsKept s _).queues, frame, gone⟩

end Sys2Proof.Machine
end

section
/-! PROOFS. Writes of bytes to a memory (R231), and through the words of a memory without marks (R244). -/
namespace Sys2Proof.Machine

/-- Read after a write of bytes. -/
theorem mget_mwrite (m : List Host.Cell) (a : Nat) (bs : List Byte) (b : Nat) :
    mget (mwrite m a bs) b = if a ≤ b ∧ b < a + bs.length then bs.getD (b - a) 0 else mget m b := by
  induction bs generalizing m a with
  | nil => simp [mwrite]
  | cons x t ih =>
    rw [mwrite, ih, mget_mset, List.length_cons]
    obtain hlt | rfl | hgt := Nat.lt_trichotomy b a
    · have hne : b ≠ a := by omega
      simp [Nat.not_le.mpr hlt, Nat.not_le.mpr (Nat.lt_succ_of_lt hlt), hne]
    · simp
    · have hsub : b - a = b - (a + 1) + 1 := by omega
      have hrange : (a + 1 ≤ b ∧ b < a + 1 + t.length) ↔ (a ≤ b ∧ b < a + (t.length + 1)) := by omega
      rw [if_neg (by omega : b ≠ a), hsub, List.getD_cons_succ]
      simp only [hrange]

/-- The first of the words that bytes from an address are grouped in begins at the address. -/
theorem wordChunks_head {size a w o : Nat} {l bs : List Byte} {rest : List (Nat × Nat × List Byte)}
    (h : wordChunks size a l = (w, o, bs) :: rest) : size * w + o = a := by
  cases l with
  | nil => cases h
  | cons x t =>
    have split : size * (a / size) + a % size = a := Nat.div_add_mod a size
    rw [wordChunks] at h
    split at h
    · split at h
      · next _ heq hm =>
        obtain ⟨hw, -⟩ := hm
        cases h
        rw [← hw, split]
      · cases h; exact split
    · cases h; exact split

theorem zipWith_windowByte_plain {old new : List Byte} (h : old.length = new.length) : List.zipWith (windowByte 0) old new = new :=
  List.ext_getElem (by simp [h]) fun i _ _ => by simp [windowByte]

theorem mread_length (m : List Host.Cell) (a n : Nat) : (mread m a n).length = n := by
  induction n generalizing a with
  | zero => rfl
  | succ n ih => rw [mread, List.length_cons, ih]

/-- A plain write of a word's bytes into a memory without marks writes them, and no mark is met. -/
theorem putWords_cons_clean (w o : Nat) (bs : List Byte) (t : List (Nat × Nat × List Byte)) (m : List Host.Cell) :
    putWords 0 ((w, o, bs) :: t) (m, []) = putWords 0 t (mwrite m (8 * w + o) bs, []) := by
  simp [putWords, setHas, setDel, zipWith_windowByte_plain (mread_length ..)]

/-- A plain write of bytes into a memory without marks is the write of the bytes. -/
theorem putWords_wordChunks_clean (a : Nat) (bs : List Byte) (m : List Host.Cell) :
    putWords 0 (wordChunks 8 a bs) (m, []) = ((mwrite m a bs, []), []) := by
  induction bs generalizing a m with
  | nil => rfl
  | cons b t ih =>
    have ih := ih (a + 1) (mset m a b)
    rw [wordChunks]
    split
    · next w o bs rest heq =>
      have head := wordChunks_head heq
      rw [heq, putWords_cons_clean, head] at ih
      split
      · next hm =>
        obtain ⟨rfl, -⟩ := hm
        rw [putWords_cons_clean, Nat.div_add_mod]
        exact ih
      · rw [putWords_cons_clean, putWords_cons_clean, Nat.div_add_mod, head]
        exact ih
    · next heq =>
      rw [heq] at ih
      rw [putWords_cons_clean, Nat.div_add_mod]
      exact ih

/-- Settles O58: by induction on the bytes, each of which is a write of one. -/
theorem memoryWrites : Obligations.MemoryWrites :=
  fun m a bs => ⟨mget_mwrite m a bs, memWf_mwrite m a bs⟩

end Sys2Proof.Machine
end

section
/-! PROOFS. Marks of words and banks of cluster memories (R243, R246, R247): what an uncorrectable word and its record leave of a
cluster, beside the banks that become due. -/
namespace Sys2Proof.Machine

/-! ## Sets and ranges of numbers -/

theorem mem_setAdd {k x : Nat} {l : List Nat} : x ∈ setAdd k l ↔ x = k ∨ x ∈ l := by
  induction l with
  | nil => simp [setAdd]
  | cons a t ih =>
    rw [setAdd]
    split
    · simp
    · split
      · next h => simp [h]
      · simp only [List.mem_cons, ih]
        tauto

theorem mem_setDel {k x : Nat} {l : List Nat} : x ∈ setDel k l ↔ x ∈ l ∧ x ≠ k := by simp [setDel]

theorem setHas_eq_false {k : Nat} {l : List Nat} : setHas k l = false ↔ k ∉ l := by simp [setHas]

theorem mem_upto {x lo n : Nat} : x ∈ upto lo n ↔ lo ≤ x ∧ x < lo + n := by
  induction n generalizing lo with
  | zero => simp [upto]
  | succ n ih => rw [upto, List.mem_cons, ih]; omega

/-! ## What is left of a cluster beside the banks that are due -/

/-- What a cluster holds beside the banks that are due for retirement. -/
def besideDues (k : Cluster) : Cluster := { k with dues := [] }

/-- From s to t clusters change at most in the banks that are due. -/
def DuesOnly (s t : State) : Prop := ∀ n, besideDues (clusterOf t n) = besideDues (clusterOf s n)

theorem DuesOnly.refl (s : State) : DuesOnly s s := fun _ => rfl

theorem DuesOnly.after {s t u : State} (h : DuesOnly t u) (g : DuesOnly s t) : DuesOnly s u := fun n => (h n).trans (g n)

theorem DuesOnly.of_clusters {s t : State} (h : t.clusters = s.clusters) : DuesOnly s t := fun n => by unfold clusterOf; rw [h]

theorem besideDues_bankDue (k : Cluster) (b : Nat) (follow : Bool) : besideDues (bankDue k b follow) = besideDues k := by
  unfold bankDue; split <;> rfl

theorem addDue_duesOnly (s : State) (d : Due) : DuesOnly s (addDue s d) := .of_clusters (by rw [(addDue_frame s d).1])

theorem putRecord_duesOnly (s : State) (r : ErrRec) : DuesOnly s (putRecord s r) := .of_clusters (by rw [putRecord_frame])

theorem markRetire_duesOnly (s : State) (r : Word32) : DuesOnly s (markRetire s r) := by
  unfold markRetire
  dsimp only
  split
  · exact .of_clusters rfl
  · split
    · intro n
      rw [clusterOf_setCluster]
      split
      · next e => rw [besideDues_bankDue, e]
      · rfl
    · exact .refl s
  · split
    · split
      · exact (putRecord_duesOnly _ _).after (.of_clusters rfl)
      · exact .of_clusters rfl
    · exact .refl s
  · exact addDue_duesOnly _ _

theorem raisedAction_duesOnly (s : State) (r : ErrRec) : DuesOnly s (raisedAction s r) := by
  unfold raisedAction
  split
  · exact .refl s
  · split
    · split
      · exact markRetire_duesOnly _ _
      · exact .refl s
    · split <;> exact addDue_duesOnly _ _
    · exact addDue_duesOnly _ _
    · exact .refl s

theorem report_duesOnly (s : State) (st : Status) (res : Word32) (a d : Word64) (f : Bool) : DuesOnly s (report s st res a d f) := by
  unfold report raiseRecord
  split
  · dsimp only
    split
    · exact putRecord_duesOnly _ _
    · exact (raisedAction_duesOnly _ _).after (putRecord_duesOnly _ _)
  · exact .refl s

/-! ## Uncorrectable words of a cluster memory (R243) -/

/-- A cluster memory one of whose words is poisoned. -/
def poisonWord (k : Cluster) (w : Nat) : Cluster := { k with cmemPoison := setAdd w k.cmemPoison, cmemBad := setDel w k.cmemBad }

theorem foldl_poisonWord_frame (ws : List Nat) (k : Cluster) :
    ws.foldl poisonWord k = { k with cmemPoison := (ws.foldl poisonWord k).cmemPoison, cmemBad := (ws.foldl poisonWord k).cmemBad } := by
  induction ws generalizing k with
  | nil => rfl
  | cons w ws ih => rw [List.foldl_cons, ih]; rfl

theorem mem_foldl_poisonWord {ws : List Nat} {k : Cluster} {x : Nat} :
    x ∈ (ws.foldl poisonWord k).cmemPoison ↔ x ∈ k.cmemPoison ∨ x ∈ ws := by
  induction ws generalizing k with
  | nil => simp
  | cons w ws ih =>
    have first : x ∈ (poisonWord k w).cmemPoison ↔ x = w ∨ x ∈ k.cmemPoison := mem_setAdd
    rw [List.foldl_cons, ih, first, List.mem_cons]
    tauto

theorem noteUe_frame (s : State) (e : Err) : noteUe s e = { s with regs := (noteUe s e).regs } := by
  unfold noteUe
  split
  · rfl
  · split <;> rfl

theorem noteUe_duesOnly (s : State) (e : Err) : DuesOnly s (noteUe s e) := .of_clusters (by rw [noteUe_frame])

theorem foundUncorr_cmem (s : State) (c w : Nat) :
    ∃ k, foundUncorr s (.cmem c w) = setCluster s c k ∧ besideDues k = poisonWord (besideDues (clusterOf s c)) w := by
  refine ⟨_, rfl, ?_⟩
  split
  · rw [besideDues_bankDue]; rfl
  · rfl

/-- An uncorrectable word of a cluster memory that is reported is poisoned. -/
theorem reportErr_cmemErr_cluster (s : State) (c w : Nat) :
    besideDues (clusterOf (reportErr s (cmemErr s c w)) c) = poisonWord (besideDues (clusterOf s c)) w := by
  obtain ⟨u, hu, kept⟩ : ∃ u, reportErr s (cmemErr s c w) = foundUncorr u (.cmem c w) ∧ DuesOnly s u := by
    refine ⟨_, rfl, (noteUe_duesOnly _ _).after ?_⟩
    split
    · exact .refl s
    · exact report_duesOnly _ _ _ _ _ _
  obtain ⟨k, hk, poisoned⟩ := foundUncorr_cmem u c w
  rw [hu, hk, clusterOf_setCluster_same, poisoned, kept c]

theorem reportErr_cmemErrs_cluster (c : Nat) (ws : List Nat) (s : State) :
    besideDues (clusterOf (ws.foldl (fun s w => reportErr s (cmemErr s c w)) s) c) = ws.foldl poisonWord (besideDues (clusterOf s c)) := by
  induction ws generalizing s with
  | nil => rfl
  | cons w ws ih => rw [List.foldl_cons, ih, reportErr_cmemErr_cluster, List.foldl_cons]

end Sys2Proof.Machine
end

section
/-! PROOFS. Bank migration, the clearing of a cluster and the accesses of its steward (R247, R250 to R253). -/
namespace Sys2Proof.Machine

/-! ## Bank migration (R247) -/

theorem exec_cmemBankMigrate {s : State} {cl : BitVec 6} {b sp : Nat} {follow : Bool} {later : List (Nat × Bool)} {rest : List Nat}
    (hd : (clusterOf s cl.toNat).dues = (b, follow) :: later) (hh : (clusterOf s cl.toNat).half = false)
    (hm : (clusterOf s cl.toNat).migrating = none) (hsp : cmemSpares (clusterOf s cl.toNat) = sp :: rest)
    (hs : sramServes s false cl.toNat = true) :
    exec (.cmemBankMigrate cl) s = .next (setCluster s cl.toNat { clusterOf s cl.toNat with migrating := some (b, sp) }) := by
  show execCmemBankMigrate cl s = _
  unfold execCmemBankMigrate
  simp only [hd, hm, hsp, hs, hh, Bool.not_false, Bool.and_self, if_true]

/-- The words that the copy of a bank finds uncorrectable (R243, R247). -/
def badOfBank (k : Cluster) (b : Nat) : List Nat := k.cmemBad.filter fun w => decide (cmemBank k.half w = b)

/-- The state once a bank has been copied, before its spare serves its number. -/
def bankCopied (s : State) (c b : Nat) : State :=
  (badOfBank (clusterOf s c) b).foldl (fun s w => reportErr s (cmemErr s c w)) s

/-- The cluster once a spare serves the number of a bank. -/
def migratedCluster (k : Cluster) (b sp : Nat) : Cluster :=
  { k with bankMap := tset (fun x => x) k.bankMap b sp, retired := setAdd (physBank k b) k.retired
           migrating := none, dues := k.dues.filter fun x => decide (x.1 ≠ b) }

theorem exec_cmemBankMigrated {s : State} {cl : BitVec 6} {b sp : Nat} (hm : (clusterOf s cl.toNat).migrating = some (b, sp))
    (hs : sramServes s false cl.toNat = true) :
    let u := bankCopied s cl.toNat b
    let k := clusterOf u cl.toNat
    exec (.cmemBankMigrated cl) s = .next (report (setCluster u cl.toNat (migratedCluster k b sp)) .cmemBankRetired
      (resource 0x03 (66 * cl.toNat + physBank k b)) 0 (BitVec.ofNat 64 b) (k.dues.any fun x => decide (x.1 = b) && x.2)) := by
  show execCmemBankMigrated cl s = _
  unfold execCmemBankMigrated
  simp only [hm, hs, Bool.not_true, Bool.false_eq_true, if_false]
  rfl

/-- Once a bank is migrated, the cluster beside the banks that are due: the spare serves the bank's number, and the words that the copy found
uncorrectable are poisoned. -/
theorem exec_cmemBankMigrated_cluster {s : State} {cl : BitVec 6} {b sp : Nat} (hm : (clusterOf s cl.toNat).migrating = some (b, sp))
    (hs : sramServes s false cl.toNat = true) :
    let k := besideDues (clusterOf s cl.toNat)
    ∃ t, exec (.cmemBankMigrated cl) s = .next t ∧
      besideDues (clusterOf t cl.toNat) = migratedCluster ((badOfBank k b).foldl poisonWord k) b sp := by
  intro k
  refine ⟨_, exec_cmemBankMigrated hm hs, ?_⟩
  have copied := reportErr_cmemErrs_cluster cl.toNat (badOfBank k b) s
  rw [report_duesOnly, clusterOf_setCluster_same]
  exact congrArg (migratedCluster · b sp) copied

/-! ## Clearing (R250 to R252) -/

/-- A core with its scratchpad and its code buffer cleared, and their marks. -/
def clearedCore (c : Core) : Core := { c with spad := [], spadPoison := [], spadBad := [], code := [] }

theorem foldl_clear_frame (l : List Nat) (s : State) :
    l.foldl (fun s p => modCore s p clearedCore) s = { s with cores := (l.foldl (fun s p => modCore s p clearedCore) s).cores } := by
  induction l generalizing s with
  | nil => rfl
  | cons p l ih => rw [List.foldl_cons, ih]; rfl

theorem coreOf_foldl_clear (l : List Nat) (s : State) (p : Nat) :
    coreOf (l.foldl (fun s p => modCore s p clearedCore) s) p = if p ∈ l then clearedCore (coreOf s p) else coreOf s p := by
  induction l generalizing s with
  | nil => simp
  | cons q l ih =>
    rw [List.foldl_cons, ih, modCore, coreOf_setCore]
    by_cases hq : p = q
    · subst hq
      simp [clearedCore]
    · simp [hq]

/-- The cluster as its clearing begins. -/
def clearingCluster (k : Cluster) : Cluster :=
  { k with clearing := true, cmem := [], cmemPoison := [], cmemBad := [], stageHold := none, stageWait := [], migrating := none }

theorem startClear_eq (s : State) (c : Nat) :
    startClear s c = (upto (66 * c) 66).foldl (fun s p => modCore s p clearedCore) (setCluster s c (clearingCluster (clusterOf s c))) := rfl

theorem startClear_frame (s : State) (c : Nat) :
    startClear s c = { setCluster s c (clearingCluster (clusterOf s c)) with cores := (startClear s c).cores } := by
  have h := foldl_clear_frame (upto (66 * c) 66) (setCluster s c (clearingCluster (clusterOf s c)))
  rwa [← startClear_eq] at h

theorem startClear_clusters (s : State) (c : Nat) :
    (startClear s c).clusters = (setCluster s c (clearingCluster (clusterOf s c))).clusters := by
  rw [startClear_eq, foldl_clear_frame]

theorem clusterOf_startClear (s : State) (c n : Nat) :
    clusterOf (startClear s c) n = if n = c then clearingCluster (clusterOf s c) else clusterOf s n := by
  rw [← clusterOf_setCluster, clusterOf, startClear_clusters, ← clusterOf]

theorem coreOf_startClear (s : State) (c p : Nat) :
    coreOf (startClear s c) p = if 66 * c ≤ p ∧ p < 66 * c + 66 then clearedCore (coreOf s p) else coreOf s p := by
  rw [startClear_eq, coreOf_foldl_clear]
  simp only [mem_upto, coreOf_setCluster]

/-- From s to t the memories of cluster c are cleared with every mark (R250), and no other cluster's. -/
def MemoriesCleared (s t : State) (c : Nat) : Prop :=
  (clusterOf t c).cmem = [] ∧ (clusterOf t c).cmemPoison = [] ∧ (clusterOf t c).cmemBad = [] ∧
    (∀ p, 66 * c ≤ p → p < 66 * c + 66 → (coreOf t p).spad = [] ∧ (coreOf t p).spadPoison = [] ∧ (coreOf t p).spadBad = [] ∧
      (coreOf t p).code = [] ∧ (coreOf t p).sregs = (coreOf s p).sregs) ∧
    (∀ p, p < 66 * c ∨ 66 * c + 66 ≤ p → coreOf t p = coreOf s p) ∧ (∀ n, n ≠ c → clusterOf t n = clusterOf s n) ∧
    t = { s with cores := t.cores, clusters := t.clusters }

theorem startClear_clears (s : State) (c : Nat) : MemoriesCleared s (startClear s c) c := by
  have own : clusterOf (startClear s c) c = clearingCluster (clusterOf s c) := by rw [clusterOf_startClear, if_pos rfl]
  refine ⟨by rw [own]; rfl, by rw [own]; rfl, by rw [own]; rfl, fun p h1 h2 => ?_, fun p h => ?_, fun n h => ?_, ?_⟩
  · rw [coreOf_startClear, if_pos ⟨h1, h2⟩]
    exact ⟨rfl, rfl, rfl, rfl, rfl⟩
  · rw [coreOf_startClear, if_neg (by omega)]
  · rw [clusterOf_startClear, if_neg h]
  · rw [startClear_clusters]
    exact startClear_frame s c

/-- What the cluster held before does not matter. -/
theorem MemoriesCleared.of_setCluster {s t : State} {c : Nat} {k : Cluster} (h : MemoriesCleared (Machine.setCluster s c k) t c) :
    MemoriesCleared s t c := by
  obtain ⟨cmem, poison, bad, cores, others, clusters, frame⟩ := h
  exact ⟨cmem, poison, bad, cores, others, fun n hn => (clusters n hn).trans (clusterOf_setCluster_other s c n k hn), frame⟩

/-- The cluster may change beside its memory. -/
theorem MemoriesCleared.setCluster {s t : State} {c : Nat} (h : MemoriesCleared s t c) {k : Cluster} (hm : k.cmem = (clusterOf t c).cmem)
    (hp : k.cmemPoison = (clusterOf t c).cmemPoison) (hb : k.cmemBad = (clusterOf t c).cmemBad) :
    MemoriesCleared s (Machine.setCluster t c k) c := by
  obtain ⟨cmem, poison, bad, cores, others, clusters, frame⟩ := h
  refine ⟨?_, ?_, ?_, cores, others, fun n hn => (clusterOf_setCluster_other t c n k hn).trans (clusters n hn), ?_⟩
  · rw [clusterOf_setCluster_same, hm, cmem]
  · rw [clusterOf_setCluster_same, hp, poison]
  · rw [clusterOf_setCluster_same, hb, bad]
  · rw [frame]
    rfl

theorem exec_clusterClear {s : State} {cl : BitVec 6} (h : (clusterOf s cl.toNat).clearing = true) :
    exec (.clusterClear cl) s = .next (startClear s cl.toNat) := by
  show execClusterClear cl s = _
  simp [execClusterClear, h]

theorem exec_clusterClearDone {s : State} {cl : BitVec 6} (h : (clusterOf s cl.toNat).clearing = true) (ho : cluOff s cl.toNat = false)
    (hf : s.gov.flow ≠ .lost) :
    exec (.clusterClearDone cl) s = .next (setCluster (startClear s cl.toNat) cl.toNat
      { clusterOf (startClear s cl.toNat) cl.toNat with clearing := false, clearReq := false }) := by
  show execClusterClearDone cl s = _
  simp [execClusterClearDone, h, ho, hf]

/-- A request to clear does not make a cluster busy. -/
theorem clusterIdle_clearReq (s : State) (c : Nat) :
    clusterIdle (setCluster s c { clusterOf s c with clearReq := true }) c = clusterIdle s c := by
  simp only [clusterIdle, clusterOf_setCluster_same, coreOf_setCluster]
  rfl

theorem exec_clear {s : State} {cl : BitVec 6} (h : dieServes s (clusterDie cl.toNat) = true) :
    let u := setCluster s cl.toNat { clusterOf s cl.toNat with clearReq := true }
    exec (.clear cl) s = .next (if clusterIdle s cl.toNat then startClear u cl.toNat else u) := by
  show execClear cl s = _
  simp only [execClear, h, Bool.not_true, Bool.false_eq_true, if_false, clusterIdle_clearReq]

/-! ## Accesses of the steward (R253) -/

/-- The whole memory of cluster c serves, with no word marked. -/
structure CmemServes (s : State) (c : Nat) : Prop where
  runs        : clusterRuns s c = true
  notClearing : (clusterOf s c).clearing = false
  whole       : (clusterOf s c).half = false
  poison      : (clusterOf s c).cmemPoison = []
  bad         : (clusterOf s c).cmemBad = []

section
variable {s : State} {c a : Nat} (h : CmemServes s c)
include h

theorem CmemServes.noFault (n : Nat) : cmemFault s c a n = none := by
  simp [cmemFault, dieServes_of_clusterRuns h.runs, h.runs, h.notClearing, h.whole]

theorem CmemServes.read (ha : a < 0x800000) (n : Nat) : cmemRead s c a n = .ok (mread (clusterOf s c).cmem a n) := by
  simp [cmemRead, h.noFault, h.poison, h.bad, badWords, wordsErr, Nat.mod_eq_of_lt ha]

theorem CmemServes.write (ha : a < 0x800000) (bs : List Byte) :
    cmemWrite s c a bs = (setCluster s c { clusterOf s c with cmem := mwrite (clusterOf s c).cmem a bs }, none) := by
  have marks : bothMarks (clusterOf s c).cmemPoison (clusterOf s c).cmemBad = [] := by rw [h.poison, h.bad]; rfl
  have poison : marksLeft [] (clusterOf s c).cmemPoison = (clusterOf s c).cmemPoison := by rw [h.poison]; rfl
  have bad : marksLeft [] (clusterOf s c).cmemBad = (clusterOf s c).cmemBad := by rw [h.bad]; rfl
  simp only [cmemWrite, h.noFault, Nat.mod_eq_of_lt ha, Nat.div_eq_of_lt ha, marks, putWords_wordChunks_clean, poison, bad]
  rfl

theorem CmemServes.stewardLoad {n : BitVec 2} (ha : a % 2 ^ n.toNat = 0) (hn : a + 2 ^ n.toNat ≤ 0x800000) :
    stewardAccess s c c a (.load n) = setCluster s c { clusterOf s c with
      stewardData := BitVec.ofNat 64 (leNat (mread (clusterOf s c).cmem a (2 ^ n.toNat))), lastFault := none } := by
  have hpos : 0 < 2 ^ n.toNat := Nat.two_pow_pos _
  have hlt : a < 0x800000 := by omega
  have hend : a + 2 ^ n.toNat ≤ 3 * 0x800000 := by omega
  simp [stewardAccess, ha, hend, h.read hlt]

theorem CmemServes.stewardStore {n : BitVec 2} (ha : a % 2 ^ n.toNat = 0) (hn : a + 2 ^ n.toNat ≤ 0x800000) (v : Word64) :
    stewardAccess s c c a (.store n v) = setCluster s c { clusterOf s c with
      cmem := mwrite (clusterOf s c).cmem a (leBytes (2 ^ n.toNat) v.toNat), lastFault := none } := by
  have hpos : 0 < 2 ^ n.toNat := Nat.two_pow_pos _
  have hlt : a < 0x800000 := by omega
  have hend : a + 2 ^ n.toNat ≤ 3 * 0x800000 := by omega
  simp [stewardAccess, ha, hend, h.write hlt]

theorem CmemServes.stewardAmo {wide : Bool} {w : Nat} (hw : w = if wide then 8 else 4) (ha : a % w = 0) (hn : a + w ≤ 0x800000)
    (fn : AmoFn) (v : Word64) :
    stewardAccess s c c a (.amo fn wide v) = setCluster s c { clusterOf s c with
      cmem := mwrite (clusterOf s c).cmem a (leBytes w (amoNew fn (8 * w) (leNat (mread (clusterOf s c).cmem a w)) v.toNat))
      stewardData := BitVec.ofNat 64 (leNat (mread (clusterOf s c).cmem a w)), lastFault := none } := by
  have hpos : 0 < w := by rw [hw]; split <;> omega
  have hlt : a < 0x800000 := by omega
  have hend : a + w ≤ 3 * 0x800000 := by omega
  simp [stewardAccess, ← hw, ha, hend, hlt, h.read hlt, h.write hlt]

end

theorem exec_stewardCmemAccess {s : State} {cl : BitVec 6} (ho : (clusterOf s cl.toNat).stewardOut = false)
    (hr : clusterRuns s cl.toNat = true) (off : BitVec 25) (a : StewardAcc) :
    exec (.stewardCmemAccess cl off a) s = .next (stewardAccess s cl.toNat cl.toNat off.toNat a) := by
  show execStewardCmemAccess cl off a s = _
  simp [execStewardCmemAccess, ho, dieServes_of_clusterRuns hr]

/-! ## The statement -/

/-- Settles O23: the migration from the fold of the words that its copy found bad, the clearing from what its start clears, the accesses
from a read and a write of a memory without marks. -/
theorem clearingAndStewards : Obligations.ClearingAndStewards := by
  unfold Obligations.ClearingAndStewards
  constructor
  · intro s cl b sp rest c k cleared
    refine ⟨fun follow later => exec_cmemBankMigrate, fun hm hs => ?_, fun hk => ⟨?_, fun ho hf => ?_⟩,
      fun hd => ⟨fun hi => ?_, fun hi => ?_⟩⟩
    · obtain ⟨t, row, migrated⟩ := exec_cmemBankMigrated_cluster hm hs
      have bankMap : (clusterOf t c).bankMap = tset (fun x => x) k.bankMap b sp := by
        refine (congrArg Cluster.bankMap migrated).trans ?_
        rw [foldl_poisonWord_frame]
        rfl
      refine ⟨t, row, by rw [bankMap, tget_tset_same], fun x hx => by rw [bankMap, tget_tset_other _ _ _ _ _ hx], ?_, fun w => ?_,
        (congrArg Cluster.migrating migrated :)⟩
      · refine (congrArg Cluster.cmem migrated).trans ?_
        rw [foldl_poisonWord_frame]
        rfl
      · have poison := mem_foldl_poisonWord (ws := badOfBank k b) (k := besideDues k) (x := w)
        have marks : (clusterOf t c).cmemPoison = ((badOfBank k b).foldl poisonWord (besideDues k)).cmemPoison :=
          (congrArg Cluster.cmemPoison migrated :)
        rw [marks, poison]
        simp [badOfBank, besideDues]
    · exact ⟨_, exec_clusterClear hk, startClear_clears s c, by rw [clusterOf_startClear, if_pos rfl]; rfl⟩
    · exact ⟨_, exec_clusterClearDone hk ho hf, (startClear_clears s c).setCluster rfl rfl rfl, by rw [clusterOf_setCluster_same]⟩
    · have own := clusterOf_startClear (setCluster s c { k with clearReq := true }) c c
      rw [if_pos rfl, clusterOf_setCluster_same] at own
      exact ⟨_, (exec_clear hd).trans (by rw [if_pos hi]), (startClear_clears _ c).of_setCluster, by rw [own]; rfl, by rw [own]; rfl⟩
    · exact (exec_clear hd).trans (by rw [hi]; rfl)
  · intro s cl off n v fn wide c k a len w ho hr hk hh hp hb
    have serves : CmemServes s c := ⟨hr, hk, hh, hp, hb⟩
    have row := exec_stewardCmemAccess ho hr off
    exact ⟨fun ha hn => ⟨(row _).trans (by rw [serves.stewardLoad ha hn]), (row _).trans (by rw [serves.stewardStore ha hn])⟩,
      fun ha hn => (row _).trans (by rw [serves.stewardAmo rfl ha hn]), row _, row _⟩

end Sys2Proof.Machine
end

section
/-! PROOFS. Grants of the banks of on-chip memories (R232 to R237, R250, R256): the outcome of a cycle, and what it counts. -/
namespace Sys2Proof.Machine

/-! ## The order of grants (R232, R234) -/

/-- A request that comes last by rank is granted last. -/
theorem putRanked_last {rank : BankReq → Nat} {r : BankReq} {l : List BankReq} (h : ∀ x ∈ l, rank x ≤ rank r) :
    putRanked rank r l = l ++ [r] := by
  induction l with
  | nil => rfl
  | cons x l ih =>
    obtain ⟨hx, hl⟩ := List.forall_mem_cons.mp h
    rw [putRanked, if_pos hx, ih hl, List.cons_append]

theorem foldl_putRanked_sorted {rank : BankReq → Nat} {rs l : List BankReq} (h : (l ++ rs).Pairwise fun x y => rank x ≤ rank y) :
    rs.foldl (fun l r => putRanked rank r l) l = l ++ rs := by
  induction rs generalizing l with
  | nil => simp
  | cons r rs ih =>
    obtain ⟨-, -, before⟩ := List.pairwise_append.mp h
    have last : ∀ x ∈ l, rank x ≤ rank r := fun x hx => before x hx r List.mem_cons_self
    rw [List.foldl_cons, putRanked_last last, ih (by simpa using h), List.append_assoc, List.singleton_append]

/-- The rank of a request at a bank. -/
def rankOf (spad : Bool) (last : Nat) (r : BankReq) : Nat := (grantRank spad last r.unit).getD 0

/-- Requests that come in the order of their ranks are granted in it. -/
theorem grantOrder_sorted {spad : Bool} {last : Nat} {rs : List BankReq} (hr : ∀ r ∈ rs, (grantRank spad last r.unit).isSome)
    (h : rs.Pairwise fun x y => rankOf spad last x ≤ rankOf spad last y) : grantOrder spad last rs = rs := by
  rw [grantOrder, List.filter_eq_self.mpr hr]
  exact foldl_putRanked_sorted (l := []) h

/-- Of two requests the one of the lower rank is granted first, whichever is asked first. -/
theorem grantOrder_pair {spad : Bool} {last i j : Nat} {x y : BankReq} (hx : grantRank spad last x.unit = some i)
    (hy : grantRank spad last y.unit = some j) (hij : i < j) :
    ∀ rs ∈ [[x, y], [y, x]], grantOrder spad last rs = [x, y] := by
  have hji : ¬ j ≤ i := by omega
  simp [grantOrder, putRanked, hx, hy, hij.le, hji]

/-- The units of a scratchpad's core class, in the order of their grants. -/
def coreUnits : List BankUnit := [.sequencer, .atomicPort, .fe, .be0, .be1, .vector, .loadUnit, .fabric]

theorem grantRank_coreUnits {i : Nat} {x : BankUnit} (h : coreUnits[i]? = some x) (last : Nat) :
    grantRank true last x = some i ∧ i < 1000 := by
  obtain ⟨hi, rfl⟩ := List.getElem?_eq_some_iff.mp h
  change i < 8 at hi
  refine ⟨?_, by omega⟩
  interval_cases i <;> rfl

theorem grantRank_mem_coreUnits {x : BankUnit} (h : x ∈ coreUnits) (last : Nat) : ∃ i, grantRank true last x = some i ∧ i < 1000 := by
  obtain ⟨i, hi⟩ := List.mem_iff_getElem?.mp h
  exact ⟨i, grantRank_coreUnits hi last⟩

/-- A rank below that of the DMA class is one of the core class. -/
theorem coreClass_of_rank {spad : Bool} {last i : Nat} {r : BankReq} (h : grantRank spad last r.unit = some i) (hi : i < 1000) :
    coreClass r = true := by
  obtain ⟨unit, line, write⟩ := r
  cases unit
  case dma | patrol => cases h; omega
  all_goals rfl

/-! ## The outcome of a cycle (R231, R237, R250) -/

/-- What a cycle grants and refuses at one bank. -/
def bankAnswers (spad : Bool) (k : Cluster) (banks : Nat) (reqs : List BankReq) (b : Nat) : List (BankReq × Bool) :=
  let rs := grantOrder spad (tget (fun _ => 64) k.rr b) (reqs.filter fun r => decide (r.line % banks = b))
  if k.clearing then rs.map fun r => (r, false) else bankCycle rs

/-- The banks that are asked in a cycle. -/
def askedBanks (banks : Nat) (reqs : List BankReq) : List Nat := (reqs.map fun r => r.line % banks).eraseDups

/-- What a cycle grants and refuses at all banks. -/
def cycleAnswers (spad : Bool) (k : Cluster) (banks : Nat) (reqs : List BankReq) : List (BankReq × Bool) :=
  (askedBanks banks reqs).flatMap (bankAnswers spad k banks reqs)

/-- Whether a request of a kind is refused. -/
def refusedIn (o : List (BankReq × Bool)) (t : BankReq → Bool) : Bool := o.any fun x => !x.2 && t x.1

/-- Of two requests at a bank for different lines the second is refused. -/
theorem bankCycle_pair {x y : BankReq} (h : x.line ≠ y.line) : bankCycle [x, y] = [(x, true), (y, false)] := by
  cases hw : x.write <;> simp [bankCycle, h.symm, hw]

section
variable {spad : Bool} {k : Cluster} {banks i j : Nat} {x y : BankReq}

theorem askedBanks_pair (hb : x.line % banks = y.line % banks) :
    ∀ reqs ∈ [[x, y], [y, x]], askedBanks banks reqs = [x.line % banks] := by
  simp [askedBanks, hb, List.eraseDups_cons]

/-- Of two requests for different lines of a bank the one of the lower rank is granted, whichever is asked first. -/
theorem bankAnswers_pair (hc : k.clearing = false) (hb : x.line % banks = y.line % banks) (hl : x.line ≠ y.line)
    (hx : grantRank spad (tget (fun _ => 64) k.rr (x.line % banks)) x.unit = some i)
    (hy : grantRank spad (tget (fun _ => 64) k.rr (x.line % banks)) y.unit = some j) (hij : i < j) :
    ∀ reqs ∈ [[x, y], [y, x]], bankAnswers spad k banks reqs (x.line % banks) = [(x, true), (y, false)] := by
  intro reqs hreqs
  have all : (reqs.filter fun r => decide (r.line % banks = x.line % banks)) = reqs := by
    obtain rfl | rfl : reqs = [x, y] ∨ reqs = [y, x] := by simpa using hreqs
    all_goals simp [hb]
  rw [bankAnswers, all, grantOrder_pair hx hy hij reqs hreqs]
  simp [hc, bankCycle_pair hl]

theorem cycleAnswers_pair (hc : k.clearing = false) (hb : x.line % banks = y.line % banks) (hl : x.line ≠ y.line)
    (hx : grantRank spad (tget (fun _ => 64) k.rr (x.line % banks)) x.unit = some i)
    (hy : grantRank spad (tget (fun _ => 64) k.rr (x.line % banks)) y.unit = some j) (hij : i < j) :
    ∀ reqs ∈ [[x, y], [y, x]], cycleAnswers spad k banks reqs = [(x, true), (y, false)] := by
  intro reqs hreqs
  rw [cycleAnswers, askedBanks_pair hb reqs hreqs, List.flatMap_singleton, bankAnswers_pair hc hb hl hx hy hij reqs hreqs]

end

/-- A read and a write of a line by one unit, and a read of it by another, are granted together (R237). -/
theorem cycleAnswers_sameLine {k : Cluster} {banks a : Nat} {x : BankUnit} (hc : k.clearing = false) (hx : x ∈ coreUnits) (id : Nat) :
    ∀ r ∈ cycleAnswers true k banks [⟨x, a, false⟩, ⟨x, a, true⟩, ⟨.dma id, a, false⟩], r.2 = true := by
  obtain ⟨i, hi, hlt⟩ := grantRank_mem_coreUnits hx (tget (fun _ => 64) k.rr (a % banks))
  have last : grantRank true (tget (fun _ => 64) k.rr (a % banks)) (.dma id) = some 1000 := rfl
  have sorted : grantOrder true (tget (fun _ => 64) k.rr (a % banks)) [⟨x, a, false⟩, ⟨x, a, true⟩, ⟨.dma id, a, false⟩] =
      [⟨x, a, false⟩, ⟨x, a, true⟩, ⟨.dma id, a, false⟩] :=
    grantOrder_sorted (by simp [hi, last]) (by simp [rankOf, hi, last, hlt.le])
  simp [cycleAnswers, askedBanks, List.eraseDups_cons, bankAnswers, sorted, hc, bankCycle]

theorem grantOrder_single {spad : Bool} {last i : Nat} {x : BankReq} (h : grantRank spad last x.unit = some i) :
    grantOrder spad last [x] = [x] :=
  grantOrder_sorted (by simp [h]) (List.pairwise_singleton _ _)

/-- Requests to different banks do not meet. -/
theorem cycleAnswers_apart {k : Cluster} {banks : Nat} {x y : BankReq} (hc : k.clearing = false) (hx : x.unit ∈ coreUnits)
    (hy : y.unit ∈ coreUnits) (hb : x.line % banks ≠ y.line % banks) : ∀ r ∈ cycleAnswers true k banks [x, y], r.2 = true := by
  obtain ⟨i, hi, -⟩ := grantRank_mem_coreUnits hx (tget (fun _ => 64) k.rr (x.line % banks))
  obtain ⟨j, hj, -⟩ := grantRank_mem_coreUnits hy (tget (fun _ => 64) k.rr (y.line % banks))
  have alone (r : BankReq) : bankCycle [r] = [(r, true)] := by cases hw : r.write <;> simp [bankCycle, hw]
  simp [cycleAnswers, askedBanks, List.eraseDups_cons, bankAnswers, hc, hb, hb.symm, grantOrder_single hi, grantOrder_single hj, alone]

/-- While its cluster is cleared a request is refused (R250). -/
theorem cycleAnswers_clearing {k : Cluster} {banks : Nat} {x : BankReq} (hc : k.clearing = true) (hx : x.unit ∈ coreUnits) :
    cycleAnswers true k banks [x] = [(x, false)] := by
  obtain ⟨i, hi, -⟩ := grantRank_mem_coreUnits hx (tget (fun _ => 64) k.rr (x.line % banks))
  simp [cycleAnswers, askedBanks, List.eraseDups_cons, bankAnswers, hc, grantOrder_single hi]

/-! ## Waits of the DMA class (R256) -/

theorem dmaWaitsNext_core {n : Nat} {r : BankReq} (h : coreClass r = true) (g : Bool) (o : List (BankReq × Bool)) (w : Table Nat) :
    dmaWaitsNext n ((r, g) :: o) w = dmaWaitsNext n o w := by
  obtain ⟨unit, line, write⟩ := r
  cases unit
  case dma | patrol => cases h
  all_goals rfl

/-- Where nothing waits and nothing is refused, nothing waits. -/
theorem dmaWaitsNext_granted (n : Nat) {o : List (BankReq × Bool)} (h : ∀ x ∈ o, x.2 = true) : dmaWaitsNext n o [] = [] := by
  induction o with
  | nil => rfl
  | cons x o ih =>
    obtain ⟨⟨unit, line, write⟩, g⟩ := x
    obtain ⟨rfl, ho⟩ := List.forall_mem_cons.mp h
    cases unit <;> exact ih ho

theorem refusedIn_pair (x y : BankReq) (t : BankReq → Bool) : refusedIn [(x, true), (y, false)] t = t y := by simp [refusedIn]

theorem refusedIn_granted {o : List (BankReq × Bool)} (h : ∀ x ∈ o, x.2 = true) (t : BankReq → Bool) : refusedIn o t = false := by
  simp only [refusedIn, List.any_eq_false]
  intro x hx
  simp [h x hx]

/-! ## The registers of a wait -/

theorem noteMax_frame (s : State) (r : Reg) (n : Nat) : noteMax s r n = { s with regs := (noteMax s r n).regs } := by
  unfold noteMax; split <;> rfl

@[simp] theorem noteMax_zero (s : State) (r : Reg) : noteMax s r 0 = s := by simp [noteMax]

theorem coreOf_noteMax (s : State) (r : Reg) (n p : Nat) : coreOf (noteMax s r n) p = coreOf s p := by
  rw [noteMax_frame]; rfl

theorem clusterOf_noteMax (s : State) (r : Reg) (n c : Nat) : clusterOf (noteMax s r n) c = clusterOf s c := by
  rw [noteMax_frame]; rfl

theorem rget_noteMax_same (s : State) (r : Reg) (n : Nat) :
    (rget (noteMax s r n) r).toNat = if (rget s r).toNat < n then n % 2 ^ 64 else (rget s r).toNat := by
  unfold noteMax; split <;> simp

theorem rget_noteMax_other (s : State) {r x : Reg} (n : Nat) (h : regOffset x ≠ regOffset r) : rget (noteMax s r n) x = rget s x := by
  unfold noteMax
  split
  · exact rget_rset_other _ _ _ _ h
  · rfl

theorem rget_rbump_same (s : State) (r : Reg) (n : Nat) : rget (rbump s r n) r = rget s r + BitVec.ofNat 64 n := rget_rset_same _ _ _

theorem rget_rbump_other (s : State) {r x : Reg} (n : Nat) (h : regOffset x ≠ regOffset r) : rget (rbump s r n) x = rget s x :=
  rget_rset_other _ _ _ _ h

/-- A register that counts an event where it happens. -/
def countIf (b : Bool) (r : Reg) (s : State) : State := if b then rbump s r 1 else s

theorem countIf_frame (b : Bool) (r : Reg) (s : State) : countIf b r s = { s with regs := (countIf b r s).regs } := by
  unfold countIf; split <;> rfl

theorem rget_countIf_same (b : Bool) (r : Reg) (s : State) : rget (countIf b r s) r = rget s r + if b then 1 else 0 := by
  cases b <;> simp [countIf, rget_rbump_same]

theorem rget_countIf_other (b : Bool) {r x : Reg} (s : State) (h : regOffset x ≠ regOffset r) : rget (countIf b r s) x = rget s x := by
  cases b <;> simp [countIf, rget_rbump_other, h]

/-! ## A cycle of a scratchpad (R232, R233, R235) -/

/-- A request of the DMA class by a number of its own, which is not the patrol's. -/
def isDma (r : BankReq) : Bool := match r.unit with | .dma _ => true | _ => false

theorem isDma_of_coreClass {r : BankReq} (h : coreClass r = true) : isDma r = false := by
  obtain ⟨unit, line, write⟩ := r
  cases unit
  case dma => cases h
  all_goals rfl

/-- A core after a cycle of its scratchpad. -/
def coreAfterCycle (c : Core) (o : List (BankReq × Bool)) : Core :=
  { c with dmaWaits := dmaWaitsNext 1 o c.dmaWaits, dmaWaiting := refusedIn o fun r => !coreClass r }

/-- What a cycle of a scratchpad counts of refusals of the core class. -/
def countCore (s : State) (l : Nat) (o : List (BankReq × Bool)) : State :=
  countIf (refusedIn o fun r => decide (r.unit = .be1)) (.coreBeCtr l 4) <|
    countIf (refusedIn o fun r => decide (r.unit = .be0)) (.coreBeCtr l 3) <|
      countIf (refusedIn o fun r => decide (r.unit = .fe)) (.coreFeCtr l 3) <|
        countIf (refusedIn o coreClass) (.coreSpadConflict l) s

/-- The longest of the waits. -/
def longestWait (waits : Table Nat) : Nat := (waits.map (·.2)).foldl max 0

theorem logicalOf_setCore (s : State) (p : Nat) (c : Core) (q : Nat) : logicalOf (setCore s p c) q = logicalOf s q := rfl

theorem exec_bankGrant_spad {s : State} {unit : BitVec 13} {l : Nat} (hl : logicalOf s unit.toNat = some l) (hc : unit.toNat / 66 < 64)
    (hr : clusterRuns s (unit.toNat / 66) = true) (core dma : List BankReq) :
    let o := cycleAnswers true (clusterOf s (unit.toNat / 66)) 16 (core ++ dma)
    let c := coreAfterCycle (coreOf s unit.toNat) o
    exec (.bankGrant true unit core dma) s = .next (noteMax
      (countIf (refusedIn o isDma) (.coreSpadDmaWait l) (countCore (setCore s unit.toNat c) l o)) (.coreSpadDmaMax l) (longestWait c.dmaWaits)) := by
  intro o c
  have inside : ¬ unit.toNat / 66 ≥ 64 := by omega
  show execBankGrant true unit core dma s = _
  unfold execBankGrant
  simp only [if_true, inside, hr, decide_false, Bool.not_true, Bool.or_self, Bool.false_eq_true, if_false]
  simp only [logicalOf_setCore, hl]
  rfl

section
variable {s : State} {unit : BitVec 13} {l a b : Nat} (hl : logicalOf s unit.toNat = some l) (hc : unit.toNat / 66 < 64)
  (hr : clusterRuns s (unit.toNat / 66) = true)
include hl hc hr

/-- A cycle that grants everything, while nothing waits, changes and counts nothing. -/
theorem exec_bankGrant_granted {core dma : List BankReq} (hw : (coreOf s unit.toNat).dmaWaits = [])
    (ho : ∀ x ∈ cycleAnswers true (clusterOf s (unit.toNat / 66)) 16 (core ++ dma), x.2 = true) :
    exec (.bankGrant true unit core dma) s = .next (setCore s unit.toNat { coreOf s unit.toNat with dmaWaiting := false }) := by
  have waits := dmaWaitsNext_granted 1 ho
  rw [exec_bankGrant_spad hl hc hr]
  simp only [countCore, coreAfterCycle, countIf, refusedIn_granted ho, hw, waits, longestWait, List.map_nil, List.foldl_nil, noteMax_zero,
    Bool.false_eq_true, if_false]

/-- A core-class request is granted before a DMA-class one for another line of its bank, which is refused and waits. -/
theorem exec_bankGrant_dmaRefused (ho : (clusterOf s (unit.toNat / 66)).clearing = false) (hb : a % 16 = b % 16) (hab : a ≠ b) {x : BankUnit}
    (hx : x ∈ coreUnits) (id : Nat) {core dma : List BankReq}
    (hreqs : core ++ dma ∈ [[⟨x, a, false⟩, ⟨.dma id, b, false⟩], [⟨.dma id, b, false⟩, ⟨x, a, false⟩]]) :
    let waits := tmod (fun _ => 0) (coreOf s unit.toNat).dmaWaits id (· + 1)
    exec (.bankGrant true unit core dma) s = .next (noteMax
      (rbump (setCore s unit.toNat { coreOf s unit.toNat with dmaWaits := waits, dmaWaiting := true }) (.coreSpadDmaWait l) 1)
      (.coreSpadDmaMax l) (longestWait waits)) := by
  intro waits
  obtain ⟨i, hi, hlt⟩ := grantRank_mem_coreUnits hx (tget (fun _ => 64) (clusterOf s (unit.toNat / 66)).rr (a % 16))
  have answers := cycleAnswers_pair (spad := true) (x := ⟨x, a, false⟩) (y := ⟨.dma id, b, false⟩) ho hb hab hi rfl hlt _ hreqs
  have asked : coreClass ⟨x, a, false⟩ = true := coreClass_of_rank (r := ⟨x, a, false⟩) hi hlt
  have next : dmaWaitsNext 1 [(⟨x, a, false⟩, true), (⟨.dma id, b, false⟩, false)] (coreOf s unit.toNat).dmaWaits = waits :=
    dmaWaitsNext_core asked true _ _
  rw [exec_bankGrant_spad hl hc hr, answers]
  simp [countCore, coreAfterCycle, refusedIn_pair, next, countIf, isDma, coreClass]

/-- Of two core-class requests for different lines of a bank the later in the fixed order is refused. -/
theorem exec_bankGrant_coreRefused (ho : (clusterOf s (unit.toNat / 66)).clearing = false) (hb : a % 16 = b % 16) (hab : a ≠ b)
    {i j : Nat} {x y : BankUnit} (hij : i < j) (hx : coreUnits[i]? = some x) (hy : coreUnits[j]? = some y)
    (hw : (coreOf s unit.toNat).dmaWaits = []) {core dma : List BankReq}
    (hreqs : core ++ dma ∈ [[⟨x, a, false⟩, ⟨y, b, true⟩], [⟨y, b, true⟩, ⟨x, a, false⟩]]) :
    exec (.bankGrant true unit core dma) s = .next (countIf (decide (y = .be1)) (.coreBeCtr l 4) <| countIf (decide (y = .be0)) (.coreBeCtr l 3) <|
      countIf (decide (y = .fe)) (.coreFeCtr l 3) <|
        rbump (setCore s unit.toNat { coreOf s unit.toNat with dmaWaiting := false }) (.coreSpadConflict l) 1) := by
  obtain ⟨hi, ilt⟩ := grantRank_coreUnits hx (tget (fun _ => 64) (clusterOf s (unit.toNat / 66)).rr (a % 16))
  obtain ⟨hj, jlt⟩ := grantRank_coreUnits hy (tget (fun _ => 64) (clusterOf s (unit.toNat / 66)).rr (a % 16))
  have answers := cycleAnswers_pair (spad := true) (x := ⟨x, a, false⟩) (y := ⟨y, b, true⟩) ho hb hab hi hj hij _ hreqs
  have first : coreClass ⟨x, a, false⟩ = true := coreClass_of_rank (r := ⟨x, a, false⟩) hi ilt
  have second : coreClass ⟨y, b, true⟩ = true := coreClass_of_rank (r := ⟨y, b, true⟩) hj jlt
  have dma : isDma ⟨y, b, true⟩ = false := isDma_of_coreClass second
  have next : dmaWaitsNext 1 [(⟨x, a, false⟩, true), (⟨y, b, true⟩, false)] [] = [] := by
    rw [dmaWaitsNext_core first, dmaWaitsNext_core second]
    rfl
  rw [exec_bankGrant_spad hl hc hr, answers]
  simp only [countCore, coreAfterCycle, refusedIn_pair, hw, next, longestWait, second, dma]
  simp [countIf]

/-- While its cluster is cleared a request of the sequencer is refused. -/
theorem exec_bankGrant_clearing (ho : (clusterOf s (unit.toNat / 66)).clearing = true) (hw : (coreOf s unit.toNat).dmaWaits = []) :
    exec (.bankGrant true unit [⟨.sequencer, a, false⟩] []) s =
      .next (rbump (setCore s unit.toNat { coreOf s unit.toNat with dmaWaiting := false }) (.coreSpadConflict l) 1) := by
  have answers := cycleAnswers_clearing (banks := 16) (x := ⟨.sequencer, a, false⟩) ho (by simp [coreUnits])
  rw [exec_bankGrant_spad hl hc hr, List.append_nil, answers]
  simp [countCore, coreAfterCycle, refusedIn, dmaWaitsNext, hw, longestWait, countIf, isDma, coreClass]

end

theorem tget_tmod_add (t : Table Nat) (k n j : Nat) :
    tget (fun _ => 0) (tmod (fun _ => 0) t k (· + n)) j = tget (fun _ => 0) t j + if j = k then n else 0 := by
  rw [tmod, tget_tset]
  split
  · next h => rw [h]
  · rfl

/-- What a refused request of the DMA class leaves (R256). -/
theorem dmaRefused_effect (s : State) (p l n : Nat) (c : Core) :
    let t := noteMax (rbump (setCore s p c) (.coreSpadDmaWait l) 1) (.coreSpadDmaMax l) n
    coreOf t p = c ∧ (∀ q, q ≠ p → coreOf t q = coreOf s q) ∧ rget t (.coreSpadDmaWait l) = rget s (.coreSpadDmaWait l) + 1 ∧
      (rget t (.coreSpadDmaMax l)).toNat =
        (if (rget s (.coreSpadDmaMax l)).toNat < n then n % 2 ^ 64 else (rget s (.coreSpadDmaMax l)).toNat) ∧
      RegsBut s t [.coreSpadDmaWait l, .coreSpadDmaMax l] ∧ t = { s with cores := t.cores, regs := t.regs } := by
  have apart : regOffset (.coreSpadDmaWait l) ≠ regOffset (.coreSpadDmaMax l) := by simp only [regOffset]; omega
  refine ⟨?_, fun q hq => ?_, ?_, ?_, fun r hr => ?_, ?_⟩
  · rw [coreOf_noteMax]
    exact coreOf_setCore_same _ _ _
  · rw [coreOf_noteMax]
    exact coreOf_setCore_other _ _ _ _ hq
  · rw [rget_noteMax_other _ _ apart, rget_rbump_same]
    rfl
  · rw [rget_noteMax_same, rget_rbump_other _ _ apart.symm]
    rfl
  · rw [rget_noteMax_other _ _ (hr _ (by simp)), rget_rbump_other _ _ (hr _ (by simp))]
    rfl
  · rw [noteMax_frame]
    rfl

/-- What a refused request of the core class counts (R110, R235): for an engine, its stall too. -/
theorem coreRefused_effect (s : State) (p l : Nat) (c : Core) (fe be0 be1 : Bool) :
    let t := countIf be1 (.coreBeCtr l 4) (countIf be0 (.coreBeCtr l 3) (countIf fe (.coreFeCtr l 3) (rbump (setCore s p c) (.coreSpadConflict l) 1)))
    coreOf t p = c ∧ rget t (.coreSpadConflict l) = rget s (.coreSpadConflict l) + 1 ∧
      rget t (.coreFeCtr l 3) = rget s (.coreFeCtr l 3) + (if fe then 1 else 0) ∧
      rget t (.coreBeCtr l 3) = rget s (.coreBeCtr l 3) + (if be0 then 1 else 0) ∧
      rget t (.coreBeCtr l 4) = rget s (.coreBeCtr l 4) + (if be1 then 1 else 0) ∧
      RegsBut s t [.coreSpadConflict l, .coreFeCtr l 3, .coreBeCtr l 3, .coreBeCtr l 4] ∧ t = { s with cores := t.cores, regs := t.regs } := by
  have conflictFe : regOffset (.coreSpadConflict l) ≠ regOffset (.coreFeCtr l 3) := by simp only [regOffset]; omega
  have conflictBe0 : regOffset (.coreSpadConflict l) ≠ regOffset (.coreBeCtr l 3) := by simp only [regOffset]; omega
  have conflictBe1 : regOffset (.coreSpadConflict l) ≠ regOffset (.coreBeCtr l 4) := by simp only [regOffset]; omega
  have feBe0 : regOffset (.coreFeCtr l 3) ≠ regOffset (.coreBeCtr l 3) := by simp only [regOffset]; omega
  have feBe1 : regOffset (.coreFeCtr l 3) ≠ regOffset (.coreBeCtr l 4) := by simp only [regOffset]; omega
  have be0Be1 : regOffset (.coreBeCtr l 3) ≠ regOffset (.coreBeCtr l 4) := by simp only [regOffset]; omega
  refine ⟨?_, ?_, ?_, ?_, ?_, fun r hr => ?_, ?_⟩
  · rw [countIf_frame, countIf_frame be0, countIf_frame fe]
    exact coreOf_setCore_same _ _ _
  · rw [rget_countIf_other _ _ conflictBe1, rget_countIf_other _ _ conflictBe0, rget_countIf_other _ _ conflictFe, rget_rbump_same]
    rfl
  · rw [rget_countIf_other _ _ feBe1, rget_countIf_other _ _ feBe0, rget_countIf_same, rget_rbump_other _ _ conflictFe.symm]
    rfl
  · rw [rget_countIf_other _ _ be0Be1, rget_countIf_same, rget_countIf_other _ _ feBe0.symm, rget_rbump_other _ _ conflictBe0.symm]
    rfl
  · rw [rget_countIf_same, rget_countIf_other _ _ be0Be1.symm, rget_countIf_other _ _ feBe1.symm, rget_rbump_other _ _ conflictBe1.symm]
    rfl
  · rw [rget_countIf_other _ _ (hr _ (by simp)), rget_countIf_other _ _ (hr _ (by simp)), rget_countIf_other _ _ (hr _ (by simp)),
      rget_rbump_other _ _ (hr _ (by simp))]
    rfl
  · rw [countIf_frame, countIf_frame be0, countIf_frame fe]
    rfl

/-! ## A cycle of a cluster memory (R234) -/

/-- The banks of a cluster memory (R230, R248). -/
def banksOf (k : Cluster) : Nat := if k.half then 32 else 64

/-- The unit that each bank granted last, after a cycle. -/
def lastGranted (k : Cluster) (reqs : List BankReq) : Table Nat :=
  (askedBanks (banksOf k) reqs).foldl (fun t b =>
    tset (fun _ => 64) t b (rrNext (tget (fun _ => 64) k.rr b) (bankAnswers false k (banksOf k) reqs b))) k.rr

/-- A cluster after a cycle of its memory. -/
def clusterAfterCycle (k : Cluster) (reqs : List BankReq) : Cluster :=
  { k with dmaWaits := dmaWaitsNext 2 (cycleAnswers false k (banksOf k) reqs) k.dmaWaits, rr := lastGranted k reqs }

theorem exec_bankGrant_cmem {s : State} {unit : BitVec 13} (hc : unit.toNat < 64) (hr : clusterRuns s unit.toNat = true)
    (core dma : List BankReq) :
    let k := clusterOf s unit.toNat
    let u := setCluster s unit.toNat (clusterAfterCycle k (core ++ dma))
    exec (.bankGrant false unit core dma) s = .next (noteMax
      (if refusedIn (cycleAnswers false k (banksOf k) (core ++ dma)) isDma then rbump u (.cluCmemDmaWait unit.toNat) 2 else u)
      (.cluCmemDmaMax unit.toNat) (longestWait (clusterAfterCycle k (core ++ dma)).dmaWaits)) := by
  have inside : ¬ unit.toNat ≥ 64 := by omega
  show execBankGrant false unit core dma s = _
  unfold execBankGrant
  simp only [inside, hr, decide_false, Bool.not_true, Bool.or_self, Bool.false_eq_true, if_false]
  rfl

/-- A cycle of a cluster memory changes its cluster, and the registers of the waits. -/
theorem exec_bankGrant_cmem_cluster {s : State} {unit : BitVec 13} (hc : unit.toNat < 64) (hr : clusterRuns s unit.toNat = true)
    (core dma : List BankReq) :
    ∃ t, exec (.bankGrant false unit core dma) s = .next t ∧
      clusterOf t unit.toNat = clusterAfterCycle (clusterOf s unit.toNat) (core ++ dma) ∧
      t = { s with clusters := t.clusters, regs := t.regs } := by
  refine ⟨_, exec_bankGrant_cmem hc hr core dma, ?_, ?_⟩
  · rw [clusterOf_noteMax]
    split <;> exact clusterOf_setCluster_same _ _ _
  · rw [noteMax_frame]
    split <;> rfl

/-- Of two units that ask for different lines of a bank the one whose turn is nearer is granted. -/
theorem lastGranted_pair {k : Cluster} {a b : Nat} {i j : Fin 64} (hc : k.clearing = false) (hb : a % banksOf k = b % banksOf k) (hab : a ≠ b)
    (turn : (i.val + 64 - tget (fun _ => 64) k.rr (a % banksOf k)) % 65 < (j.val + 64 - tget (fun _ => 64) k.rr (a % banksOf k)) % 65) :
    ∀ reqs ∈ [[BankReq.mk (.core i) a false, ⟨.core j, b, false⟩], [⟨.core j, b, false⟩, ⟨.core i, a, false⟩]],
      lastGranted k reqs = tset (fun _ => 64) k.rr (a % banksOf k) i := by
  intro reqs hreqs
  have asked := askedBanks_pair (x := ⟨.core i, a, false⟩) (y := ⟨.core j, b, false⟩) hb reqs hreqs
  have answers := bankAnswers_pair (spad := false) (x := ⟨.core i, a, false⟩) (y := ⟨.core j, b, false⟩) hc hb hab rfl rfl turn reqs hreqs
  simp only at asked answers
  simp [lastGranted, asked, answers, rrNext, coreClass]

end Sys2Proof.Machine
end

section
/-! PROOFS. Corrected and uncorrectable words of a cluster memory: write-back and patrol (R242, R243, R245), and the statement about banks. -/
namespace Sys2Proof.Machine

/-! ## Corrected words (R242) -/

/-- From s to t words of the memory of cluster c were corrected, n of them: they are counted, and its contents and its poison stay. -/
structure CmemCorrected (s t : State) (c n : Nat) : Prop where
  frame  : t = { s with clusters := t.clusters, regs := t.regs }
  ecc    : rget t (.cluCmemEcc c) = rget s (.cluCmemEcc c) + BitVec.ofNat 64 n
  regs   : RegsBut s t [.cluCmemEcc c]
  cmem   : (clusterOf t c).cmem = (clusterOf s c).cmem
  poison : (clusterOf t c).cmemPoison = (clusterOf s c).cmemPoison
  bad    : (clusterOf t c).cmemBad = (clusterOf s c).cmemBad

theorem CmemCorrected.after {s t u : State} {c m n : Nat} (h : CmemCorrected t u c n) (g : CmemCorrected s t c m) :
    CmemCorrected s u c (m + n) where
  frame := by rw [h.frame, g.frame]
  ecc := by rw [h.ecc, g.ecc, BitVec.ofNat_add, BitVec.add_assoc]
  regs r hr := (h.regs r hr).trans (g.regs r hr)
  cmem := h.cmem.trans g.cmem
  poison := h.poison.trans g.poison
  bad := h.bad.trans g.bad

/-- The cluster as it is, put again. -/
theorem CmemCorrected.put (s : State) (c : Nat) : CmemCorrected s (setCluster s c (clusterOf s c)) c 0 :=
  ⟨rfl, by simp, fun _ _ => rfl, by simp, by simp, by simp⟩

theorem CmemCorrected.refl (s : State) (c : Nat) : CmemCorrected s s c 0 := ⟨rfl, by simp, fun _ _ => rfl, rfl, rfl, rfl⟩

theorem sramCorrected_cmem (s : State) (c w : Nat) : CmemCorrected s (sramCorrected s false c w) c 1 := by
  obtain ⟨k, eq, beside⟩ : ∃ k, sramCorrected s false c w = rbump (setCluster s c k) (.cluCmemEcc c) 1 ∧
      { besideDues k with corr := [] } = { besideDues (clusterOf s c) with corr := [] } := by
    refine ⟨_, rfl, ?_⟩
    split
    · rw [besideDues_bankDue]; rfl
    · rfl
  have own : clusterOf (sramCorrected s false c w) c = k := by rw [eq]; exact clusterOf_setCluster_same _ _ _
  refine ⟨by rw [eq]; rfl, by rw [eq, rget_rbump_same]; rfl, fun r hr => ?_, ?_, ?_, ?_⟩
  · rw [eq, rget_rbump_other _ _ (hr _ (by simp))]; rfl
  · rw [own]; exact (congrArg Cluster.cmem beside :)
  · rw [own]; exact (congrArg Cluster.cmemPoison beside :)
  · rw [own]; exact (congrArg Cluster.cmemBad beside :)

/-- A word that bears no mark. -/
def CleanWord (k : Cluster) (w : Nat) : Prop := w ∉ k.cmemPoison ∧ w ∉ k.cmemBad

theorem CmemCorrected.clean {s t : State} {c n w : Nat} (h : CmemCorrected s t c n) (hw : CleanWord (clusterOf s c) w) :
    CleanWord (clusterOf t c) w := by
  unfold CleanWord
  rw [h.poison, h.bad]
  exact hw

theorem exec_eccWriteback_cmem {s : State} {c : BitVec 13} {w : BitVec 20} (hs : sramServes s false c.toNat = true)
    (hl : w.toNat * 8 < 0x800000) (hw : CleanWord (clusterOf s c.toNat) w.toNat) :
    exec (.eccWriteback false c w) s = .next (sramCorrected s false c.toNat w.toNat) := by
  obtain ⟨poison, bad⟩ := hw
  have inside : ¬ w.toNat * 8 ≥ sramSize false := Nat.not_le.mpr hl
  show execEccWriteback false c w s = _
  simp [execEccWriteback, hs, sramPoison, sramBad, setHas_eq_false.mpr poison, setHas_eq_false.mpr bad, inside]

/-! ## Patrol (R245) -/

section
variable {s : State} {c w : Nat} (hw : CleanWord (clusterOf s c) w)
include hw

theorem patrolWord_good : patrolWord s false c w none = s := by
  obtain ⟨poison, bad⟩ := hw
  simp [patrolWord, sramPoison, sramBad, setHas_eq_false.mpr poison, setHas_eq_false.mpr bad]

theorem patrolWord_corrected : patrolWord s false c w (some false) = sramCorrected s false c w := by
  obtain ⟨poison, bad⟩ := hw
  simp [patrolWord, sramPoison, sramBad, setHas_eq_false.mpr poison, setHas_eq_false.mpr bad]

theorem patrolWord_uncorrectable : patrolWord s false c w (some true) = reportErr s (cmemErr s c w) := by
  obtain ⟨poison, -⟩ := hw
  simp [patrolWord, sramPoison, sramErr, setHas_eq_false.mpr poison]

end

/-- What a patrol found at a word of a line. -/
def foundAt (found : PatrolFound) (k : Nat) : Option Bool := (found.bad.find? fun x => decide (x.1.toNat = k)).map (·.2)

/-- The patrol of words of a line. -/
def patrolWords (s : State) (c line : Nat) (found : PatrolFound) (ks : List Nat) : State :=
  ks.foldl (fun s k => patrolWord s false c (8 * line + k) (foundAt found k)) s

theorem exec_sramPatrol_cmem {s : State} {c : BitVec 13} {line : BitVec 17} {bad : List (BitVec 3 × Bool)}
    (hs : sramServes s false c.toNat = true) (hl : line.toNat * 64 < 0x800000) :
    exec (.sramPatrol false c line { bad := bad }) s = .next (patrolWords (setCluster s c.toNat (clusterOf s c.toNat)) c.toNat line.toNat
      { bad := bad } (upto 0 8)) := by
  have inside : ¬ line.toNat * 64 ≥ sramSize false := Nat.not_le.mpr hl
  show execSramPatrol false c line { bad := bad } s = _
  unfold execSramPatrol
  simp only [hs, inside, Bool.not_true, decide_false, Bool.or_self, Bool.false_eq_true, if_false]
  rfl

theorem patrolWords_append (s : State) (c line : Nat) (found : PatrolFound) (ks ls : List Nat) :
    patrolWords s c line found (ks ++ ls) = patrolWords (patrolWords s c line found ks) c line found ls := List.foldl_append

/-- A patrolled word that is not uncorrectable is counted where it is corrected. -/
theorem patrolWord_counts {s : State} {c w : Nat} (hw : CleanWord (clusterOf s c) w) {b : Option Bool} (hb : b ≠ some true) :
    CmemCorrected s (patrolWord s false c w b) c (if b = some false then 1 else 0) := by
  match b with
  | none =>
    rw [patrolWord_good hw]
    exact .refl s c
  | some false =>
    rw [patrolWord_corrected hw]
    exact sramCorrected_cmem s c w
  | some true => exact absurd rfl hb

/-- A patrol that finds no word uncorrectable counts every word that it corrects. -/
theorem patrolWords_counts {c line : Nat} {found : PatrolFound} {ks : List Nat} (hf : ∀ k, foundAt found k ≠ some true) (s : State)
    (hk : ∀ k ∈ ks, CleanWord (clusterOf s c) (8 * line + k)) :
    CmemCorrected s (patrolWords s c line found ks) c (ks.countP fun k => foundAt found k = some false) := by
  induction ks generalizing s with
  | nil => exact .refl s c
  | cons k ks ih =>
    obtain ⟨first, rest⟩ := List.forall_mem_cons.mp hk
    have one := patrolWord_counts first (hf k)
    have both := (ih _ fun k hk => one.clean (rest k hk)).after one
    rw [List.countP_cons, Nat.add_comm]
    simp only [decide_eq_true_eq]
    exact both

/-- Of a line with two corrected words no word is found uncorrectable. -/
theorem foundAt_corrected (a b : BitVec 3) (k : Nat) : foundAt { bad := [(a, false), (b, false)] } k ≠ some true := by
  intro h
  obtain ⟨x, hx, hbad⟩ := Option.map_eq_some_iff.mp h
  obtain rfl | rfl : x = (a, false) ∨ x = (b, false) := by simpa using List.mem_of_find?_eq_some hx
  all_goals cases hbad

/-- Two words of a line that are found corrected. -/
theorem countP_foundAt {a b : BitVec 3} (h : a ≠ b) :
    ((upto 0 8).countP fun k => foundAt { bad := [(a, false), (b, false)] } k = some false) = 2 := by
  revert a b
  decide

/-- A patrol that finds nothing changes nothing. -/
theorem patrolWords_good {s : State} {c line : Nat} {found : PatrolFound} {ks : List Nat}
    (hk : ∀ k ∈ ks, foundAt found k = none ∧ CleanWord (clusterOf s c) (8 * line + k)) : patrolWords s c line found ks = s := by
  induction ks with
  | nil => rfl
  | cons k ks ih =>
    obtain ⟨⟨good, clean⟩, rest⟩ := List.forall_mem_cons.mp hk
    rw [patrolWords, List.foldl_cons, good, patrolWord_good clean]
    exact ih rest

section
variable (s : State) (c w : Nat)

theorem cmemPoison_reportErr : (clusterOf (reportErr s (cmemErr s c w)) c).cmemPoison = setAdd w (clusterOf s c).cmemPoison :=
  (congrArg Cluster.cmemPoison (reportErr_cmemErr_cluster s c w) :)

theorem cmemBad_reportErr : (clusterOf (reportErr s (cmemErr s c w)) c).cmemBad = setDel w (clusterOf s c).cmemBad :=
  (congrArg Cluster.cmemBad (reportErr_cmemErr_cluster s c w) :)

theorem cmem_reportErr : (clusterOf (reportErr s (cmemErr s c w)) c).cmem = (clusterOf s c).cmem :=
  (congrArg Cluster.cmem (reportErr_cmemErr_cluster s c w) :)

end

/-- A word without a mark bears none after another was reported. -/
theorem CleanWord.reportErr {s : State} {c v w : Nat} (h : CleanWord (clusterOf s c) v) (hne : v ≠ w) :
    CleanWord (clusterOf (Machine.reportErr s (cmemErr s c w)) c) v := by
  obtain ⟨poison, bad⟩ := h
  constructor
  · rw [cmemPoison_reportErr, mem_setAdd]
    tauto
  · rw [cmemBad_reportErr, mem_setDel]
    tauto

theorem foundAt_single_other {a : BitVec 3} {b : Bool} {k : Nat} (h : k ≠ a.toNat) : foundAt { bad := [(a, b)] } k = none := by
  simp [foundAt, h.symm]

theorem upto_append (lo m n : Nat) : upto lo (m + n) = upto lo m ++ upto (lo + m) n := by
  induction m generalizing lo with
  | zero => simp [upto]
  | succ m ih => rw [Nat.add_right_comm, upto, upto, ih, List.cons_append, Nat.add_assoc lo 1 m, Nat.add_comm 1 m]

/-- A patrol that finds one word uncorrectable reports it, and changes nothing else. -/
theorem patrolWords_uncorrectable {s : State} {c line : Nat} (a : BitVec 3) (hk : ∀ i, i < 8 → CleanWord (clusterOf s c) (8 * line + i)) :
    patrolWords s c line { bad := [(a, true)] } (upto 0 8) = reportErr s (cmemErr s c (8 * line + a.toNat)) := by
  have ha : a.toNat < 8 := a.isLt
  have split : upto 0 8 = upto 0 a.toNat ++ a.toNat :: upto (a.toNat + 1) (7 - a.toNat) := by
    have h : upto 0 (a.toNat + (7 - a.toNat + 1)) = upto 0 a.toNat ++ (0 + a.toNat) :: upto (0 + a.toNat + 1) (7 - a.toNat) :=
      upto_append 0 _ _
    rwa [show a.toNat + (7 - a.toNat + 1) = 8 by omega, Nat.zero_add] at h
  have found : foundAt { bad := [(a, true)] } a.toNat = some true := by simp [foundAt]
  have before : patrolWords s c line { bad := [(a, true)] } (upto 0 a.toNat) = s := by
    refine patrolWords_good fun k h => ?_
    have hlt := mem_upto.mp h
    exact ⟨foundAt_single_other (by omega), hk k (by omega)⟩
  rw [split, patrolWords_append, before, patrolWords, List.foldl_cons, found, patrolWord_uncorrectable (hk _ ha)]
  refine patrolWords_good fun k h => ?_
  have hlt := mem_upto.mp h
  exact ⟨foundAt_single_other (by omega), (hk k (by omega)).reportErr (by omega)⟩

/-! ## Uncorrectable words (R243) -/

theorem rbit_noteUe {s : State} {e : Err} {r : Reg} (h : e.ue = some r) : rbit (noteUe s e) r 63 = true := by
  simp only [noteUe, h]
  split
  · next hb => exact hb
  · rw [rbit, rget_rset_same, nbit, nfld_ofNat _ (by decide)]
    refine decide_eq_true ?_
    rw [nfld]
    omega

theorem resource_ne_zero {kind : Nat} (index : Nat) (h0 : 0 < kind) (h : kind < 256) : resource kind index ≠ 0 := by
  intro zero
  have value : (resource kind index).toNat = 0 := by rw [zero]; rfl
  rw [resource, BitVec.toNat_ofNat] at value
  omega

/-- An uncorrectable word of a cluster memory that is reported is recorded, and noted in the register of its memory. -/
theorem reportErr_cmemErr_records (s : State) (c w : Nat) :
    let t := reportErr s (cmemErr s c w)
    rbit t (.cluCmemUe c) 63 = true ∧
      Recorded s t .cmemUncorrectable (resource 0x03 (66 * c + physBank (clusterOf s c) (cmemBank (clusterOf s c).half w))) 0 := by
  intro t
  let e := cmemErr s c w
  have recorded := report_recorded s .cmemUncorrectable e.resource e.addr 0 false rfl
  have named : e.resource ≠ 0 := resource_ne_zero _ (by decide) (by decide)
  obtain ⟨k, eq, -⟩ := foundUncorr_cmem (noteUe (report s .cmemUncorrectable e.resource e.addr 0 false) e) c w
  have ht : t = setCluster (noteUe (report s .cmemUncorrectable e.resource e.addr 0 false) e) c k := by
    rw [← eq]
    show noteErr (if e.resource = 0 then s else _) e = _
    rw [if_neg named]
    rfl
  rw [ht]
  refine ⟨rbit_noteUe (e := e) rfl, ?_⟩
  have queues (n : Nat) : errQ (setCluster (noteUe (report s .cmemUncorrectable e.resource e.addr 0 false) e) c k) n =
      errQ (report s .cmemUncorrectable e.resource e.addr 0 false) n := by
    rw [errQ_setCluster, noteUe_frame]
    rfl
  unfold Recorded
  rw [queues]
  exact recorded

/-! ## The statement -/

/-- Settles O22: the grants from the outcome of a cycle, the patrol from what it does at each word of a line. -/
theorem onChipBanks : Obligations.OnChipBanks := by
  unfold Obligations.OnChipBanks
  refine ⟨?_, ?_, ?_⟩
  · intro s unit a b l hl hc hr hab u c order quiet
    refine ⟨fun ho hb => ⟨fun x hx id reqs hreqs core dma heq => ?_, fun i j x y hij hx hy hw reqs hreqs core dma heq => ?_⟩,
      fun ho hw x hx y hy id => ⟨?_, fun hb => ?_⟩, fun ho hw => ?_⟩
    · subst heq
      obtain ⟨own, others, wait, longest, regs, frame⟩ := dmaRefused_effect s u l _ _
      refine ⟨_, exec_bankGrant_dmaRefused hl hc hr ho hb hab hx id hreqs, own.trans ?_, others, fun k => ?_, wait, ?_, regs, frame⟩
      · rw [own]
      · rw [own]
        exact tget_tmod_add c.dmaWaits id 1 k
      · rw [own]
        exact longest
    · subst heq
      obtain ⟨own, conflict, fe, be0, be1, regs, frame⟩ :=
        coreRefused_effect s u l { c with dmaWaiting := false } (decide (y = .fe)) (decide (y = .be0)) (decide (y = .be1))
      simp only [decide_eq_true_eq] at fe be0 be1
      exact ⟨_, exec_bankGrant_coreRefused hl hc hr ho hb hab hij hx hy hw hreqs, own, conflict, fe, be0, be1, regs, frame⟩
    · exact exec_bankGrant_granted hl hc hr hw (cycleAnswers_sameLine ho hx id)
    · exact exec_bankGrant_granted hl hc hr hw (cycleAnswers_apart ho hx hy hb)
    · exact exec_bankGrant_clearing hl hc hr ho hw
  · intro s unit a b i j hc hr hab k bank last turn ho hb ht reqs hreqs core dma heq
    subst heq
    obtain ⟨t, row, own, frame⟩ := exec_bankGrant_cmem_cluster hc hr core dma
    have granted : (clusterOf t unit.toNat).rr = tset (fun _ => 64) k.rr (bank a) i := by
      rw [own]
      exact lastGranted_pair ho hb hab ht _ hreqs
    refine ⟨t, row, by rw [granted, tget_tset_same], fun x hx => by rw [granted, tget_tset_other _ _ _ _ _ hx], by rw [own]; rfl, frame⟩
  · intro s c w line hc hs k clean
    refine ⟨fun hl hw => ?_, fun a b hl hk => ⟨fun hab => ?_, ?_⟩⟩
    · have corrected := sramCorrected_cmem s c.toNat w.toNat
      exact ⟨_, exec_eccWriteback_cmem hs hl hw, corrected.ecc, corrected.regs, corrected.cmem, corrected.poison, corrected.frame⟩
    · have put := CmemCorrected.put s c.toNat
      have corrected := (patrolWords_counts (ks := upto 0 8) (foundAt_corrected a b) _ fun i hi =>
        put.clean (hk i (by simpa using mem_upto.mp hi))).after put
      rw [countP_foundAt hab] at corrected
      exact ⟨_, exec_sramPatrol_cmem hs hl, corrected.ecc, corrected.regs, corrected.cmem, corrected.frame⟩
    · intro w
      have put := CmemCorrected.put s c.toNat
      have row := exec_sramPatrol_cmem (bad := [(a, true)]) hs hl
      rw [patrolWords_uncorrectable a fun i hi => put.clean (hk i hi)] at row
      obtain ⟨noted, recorded⟩ := reportErr_cmemErr_records (setCluster s c.toNat k) c.toNat w
      rw [clusterOf_setCluster_same] at recorded
      refine ⟨_, row, fun x => ?_, ?_, noted, recorded⟩
      · rw [cmemPoison_reportErr, mem_setAdd, put.poison]
      · rw [cmem_reportErr, put.cmem]

end Sys2Proof.Machine
end

section
/-! PROOFS. Words of the memory stacks as they are read (R258, R263), and a read whose correction makes its die fatal (R265, R571). -/
namespace Sys2Proof.Machine

/-! ## One word -/

/-- The 32 bytes of a word lie in it alone. -/
theorem wordsOf_word (w : Nat) : wordsOf 32 (32 * w) 32 = [w] := by
  have first : 32 * w / 32 = w := by omega
  have last : (32 * w + 32 - 1) / 32 - 32 * w / 32 + 1 = 1 := by omega
  rw [wordsOf, if_neg (by decide), last, first]
  rfl

theorem firstErr_single (f : Nat → Option Err) (w : Nat) : firstErr f [w] = f w := by
  rw [firstErr, firstErr]
  cases f w <;> rfl

theorem devRead_word (s : State) (w : Nat) :
    devRead s (32 * w) 32 = (devWordErr s w).elim (.ok (devBytes s (32 * w) 32)) .error := by
  rw [devRead, wordsOf_word, firstErr_single]
  cases devWordErr s w <;> rfl

theorem devWordErr_of_devFault {s : State} {w : Nat} {e : Err} (h : devFault s false w = some e) : devWordErr s w = some e := by
  rw [devWordErr, h]

/-- A read of a word that cannot be accessed, once it is settled, returns no data. -/
theorem exec_stackRequest_read_faults {s : State} {word : BitVec 36} {st : Status}
    (h : devFault (devSettle s (32 * word.toNat) 32) false word.toNat = some { status := st }) :
    exec (.stackRequest word .read) s = .next (devSettle s (32 * word.toNat) 32) := by
  show Host.Outcome.next (stackServe s word.toNat .read) = _
  simp only [stackServe, devRead_word, devWordErr_of_devFault h]
  rfl

/-! ## A correction that is the last of its die -/

/-- Word 0 of stack 0, which holds 1, with a bad symbol: the 1,024th correction of channel 0 in a day. The spare channel serves
another one, and die 0 has a record of channel 0 in its queue. -/
def spareSpent : State :=
  { dev := [(0, 1)], devErrs := [(0, 1)]
    stks := [(0, { ready := true, spareUsed := true, spareFor := 31, corr := List.replicate 1023 (0, 0) })]
    err := { queues := [(0, { recs := [{ status := .memUncorrectable, cls := 2, source := 0, resource := resource 0x04 0 }] })] } }

/-- The hypotheses under which the word is to be corrected and returned. -/
theorem spareSpent_readable :
    devParked spareSpent 0 = false ∧ devPoisoned spareSpent 0 = false ∧ devFault spareSpent false 0 = none ∧ slotAt spareSpent 0 = none ∧
      devPattern spareSpent 0 ≠ 0 ∧ rsFound (devPattern spareSpent 0) = .corrected ∧ rsLeft (devPattern spareSpent 0) = 0 := by
  decide +kernel

/-- The record of the channel that is due is raised to class 4, so the die is being fenced when the word is to be returned. -/
theorem spareSpent_settled :
    let t := devSettle spareSpent 0 32
    t.err.due = [.dieFatal 0 causeReset] ∧ devFault t false 0 = some { status := .dieLost } ∧ (stackOf t 0).lastRead = 0 := by
  decide +kernel

/-- Refutes O24: a read whose correction is the 1,024th of its channel in 24 hours, with the spare channel in use, writes
MEM_RETIRE_PENDING (R268); where the queue of the die holds a record of the channel, that one is raised from class 3 to 4 (R571), the die
leaves service, and the read ends with DIE_LOST (R464) without the corrected bytes. -/
theorem not_stackWords : ¬ Obligations.StackWords := by
  unfold Obligations.StackWords
  intro h
  obtain ⟨parked, poisoned, fault, slot, pattern, found, left⟩ := spareSpent_readable
  obtain ⟨-, fault', unread⟩ := spareSpent_settled
  obtain ⟨-, corrected, -⟩ := h spareSpent 0 0 0 parked poisoned
  obtain ⟨t, row, returned, -⟩ := corrected fault slot pattern found left
  have fails := exec_stackRequest_read_faults (s := spareSpent) (word := 0) fault'
  have answer : t = devSettle spareSpent 0 32 := Host.Outcome.next.inj (row.symm.trans fails)
  rw [answer] at returned
  have zero : (0 : BitVec 256) = BitVec.ofNat 256 (leNat (mread spareSpent.dev 0 32)) := unread.symm.trans returned
  exact absurd zero (by decide)

end Sys2Proof.Machine
end

section
/-! PROOFS. Marks of the channels of a stack that are due (R265, R268): what a record leaves of the stacks, and which registers. -/
namespace Sys2Proof.Machine

/-! ## What is left of a stack beside the channels that are due -/

/-- What a stack holds beside the channel that is due and the one that set RETIRE_PENDING. -/
def besideChanDue (k : Stack) : Stack :=
  { k with due := none, dueFollow := false, retirePending := false, pendingCh := 0, pendingPhys := 0 }

/-- From s to t stacks change at most in the channels that are due. -/
def ChanDueOnly (s t : State) : Prop := ∀ n, besideChanDue (stackOf t n) = besideChanDue (stackOf s n)

theorem ChanDueOnly.refl (s : State) : ChanDueOnly s s := fun _ => rfl

theorem ChanDueOnly.after {s t u : State} (h : ChanDueOnly t u) (g : ChanDueOnly s t) : ChanDueOnly s u := fun n => (h n).trans (g n)

theorem ChanDueOnly.of_stks {s t : State} (h : t.stks = s.stks) : ChanDueOnly s t := fun n => by unfold stackOf; rw [h]

theorem ChanDueOnly.setStack {s : State} {n : Nat} {k : Stack} (h : besideChanDue k = besideChanDue (stackOf s n)) :
    ChanDueOnly s (Machine.setStack s n k) := by
  intro m
  rw [stackOf_setStack]
  split
  · next e => rw [h, e]
  · rfl

theorem besideChanDue_chanPending (k : Stack) (ch : Nat) : besideChanDue (chanPending k ch).1 = besideChanDue k := by
  unfold chanPending; split <;> rfl

theorem besideChanDue_chanDue (k : Stack) (ch : Nat) (follow : Bool) : besideChanDue (chanDue k ch follow).1 = besideChanDue k := by
  unfold chanDue
  split
  · rfl
  · split
    · rfl
    · exact besideChanDue_chanPending k ch

theorem addDue_chanDueOnly (s : State) (d : Due) : ChanDueOnly s (addDue s d) := .of_stks (by rw [(addDue_frame s d).1])

theorem putRecord_chanDueOnly (s : State) (r : ErrRec) : ChanDueOnly s (putRecord s r) := .of_stks (by rw [putRecord_frame])

theorem markRetire_chanDueOnly (s : State) (r : Word32) : ChanDueOnly s (markRetire s r) := by
  unfold markRetire
  dsimp only
  split
  · exact .of_stks rfl
  · split <;> exact .of_stks rfl
  · split
    · next ch _ =>
      have marked : ChanDueOnly s (setStack s (r.toNat % 2 ^ 24 / 33) (chanDue (stackOf s (r.toNat % 2 ^ 24 / 33)) ch true).1) :=
        .setStack (besideChanDue_chanDue _ _ _)
      split
      · exact (putRecord_chanDueOnly _ _).after marked
      · exact marked
    · exact .refl s
  · exact addDue_chanDueOnly _ _

theorem raisedAction_chanDueOnly (s : State) (r : ErrRec) : ChanDueOnly s (raisedAction s r) := by
  unfold raisedAction
  split
  · exact .refl s
  · split
    · split
      · exact markRetire_chanDueOnly _ _
      · exact .refl s
    · split <;> exact addDue_chanDueOnly _ _
    · exact addDue_chanDueOnly _ _
    · exact .refl s

theorem report_chanDueOnly (s : State) (st : Status) (res : Word32) (a d : Word64) (f : Bool) :
    ChanDueOnly s (report s st res a d f) := by
  unfold report raiseRecord
  split
  · dsimp only
    split
    · exact putRecord_chanDueOnly _ _
    · exact (raisedAction_chanDueOnly _ _).after (putRecord_chanDueOnly _ _)
  · exact .refl s

theorem channelDue_chanDueOnly (s : State) (n ch : Nat) (f : Bool) : ChanDueOnly s (channelDue s n ch f) := by
  have marked : ChanDueOnly s (setStack s n (chanDue (stackOf s n) ch f).1) := .setStack (besideChanDue_chanDue _ _ _)
  unfold channelDue
  dsimp only
  split
  · exact (report_chanDueOnly _ _ _ _ _ _).after marked
  · exact marked

section
variable {s t : State} (h : ChanDueOnly s t) (n : Nat)
include h

theorem ChanDueOnly.half : (stackOf t n).half = (stackOf s n).half := (congrArg Stack.half (h n) :)

theorem ChanDueOnly.poisonCh : (stackOf t n).poisonCh = (stackOf s n).poisonCh := (congrArg Stack.poisonCh (h n) :)

theorem ChanDueOnly.spareUsed : (stackOf t n).spareUsed = (stackOf s n).spareUsed := (congrArg Stack.spareUsed (h n) :)

theorem ChanDueOnly.spareFor : (stackOf t n).spareFor = (stackOf s n).spareFor := (congrArg Stack.spareFor (h n) :)

theorem ChanDueOnly.migrating : (stackOf t n).migrating = (stackOf s n).migrating := (congrArg Stack.migrating (h n) :)

theorem ChanDueOnly.failedCh : (stackOf t n).failedCh = (stackOf s n).failedCh := (congrArg Stack.failedCh (h n) :)

/-- Words are poisoned as before where the lists of words are the same. -/
theorem ChanDueOnly.devPoisoned (hp : t.devPoison = s.devPoison) (w : Nat) : Machine.devPoisoned t w = Machine.devPoisoned s w := by
  unfold Machine.devPoisoned
  dsimp only
  rw [h.half, h.poisonCh, hp]

end

/-! ## Frames and registers -/

/-- From s to t at most marks of units, records, registers and the field record change: no memory, queue or other unit does. -/
def RecordsOnly (s t : State) : Prop :=
  t = { s with cores := t.cores, clusters := t.clusters, stks := t.stks, err := t.err, regs := t.regs, fld := t.fld }

theorem RecordsOnly.refl (s : State) : RecordsOnly s s := rfl

theorem RecordsOnly.after {s t u : State} (h : RecordsOnly t u) (g : RecordsOnly s t) : RecordsOnly s u := by
  unfold RecordsOnly at *
  rw [h, g]

theorem RecordsOnly.setStack {s t : State} (h : RecordsOnly s t) (n : Nat) (k : Stack) : RecordsOnly s (Machine.setStack t n k) :=
  .after (t := t) rfl h

theorem RecordsOnly.rbump {s t : State} (h : RecordsOnly s t) (r : Reg) (n : Nat) : RecordsOnly s (Machine.rbump t r n) :=
  .after (t := t) rfl h

theorem RecordsOnly.modLive {s t : State} (h : RecordsOnly s t) (f : FldImage → FldImage) : RecordsOnly s (Machine.modLive t f) :=
  .after (t := t) rfl h

theorem report_recordsOnly (s : State) (st : Status) (res : Word32) (a d : Word64) (f : Bool) : RecordsOnly s (report s st res a d f) := by
  unfold RecordsOnly
  rw [report_frame]

theorem channelDue_recordsOnly (s : State) (n ch : Nat) (f : Bool) : RecordsOnly s (channelDue s n ch f) := by
  unfold channelDue
  dsimp only
  split
  · exact (report_recordsOnly _ _ _ _ _ _).after ((RecordsOnly.refl s).setStack _ _)
  · exact (RecordsOnly.refl s).setStack _ _

section
variable {s t : State} (h : RecordsOnly s t)
include h

theorem RecordsOnly.dev : t.dev = s.dev := by rw [h]

theorem RecordsOnly.devPoison : t.devPoison = s.devPoison := by rw [h]

theorem RecordsOnly.devErrs : t.devErrs = s.devErrs := by rw [h]

end

/-- The counters of records lie in the first 32 bytes of their pages (R573). -/
theorem recordRegs_low {d : Nat} {x : Reg} (h : x ∈ recordRegs d) : regOffset x % 0x1000 < 0x20 := by
  simp only [recordRegs, List.mem_cons, List.not_mem_nil, or_false] at h
  rcases h with rfl | rfl | rfl | rfl | rfl | rfl <;> simp only [regOffset] <;> omega

/-- A record changes no register that lies beyond the first 32 bytes of its page. -/
theorem rget_report_high (s : State) (st : Status) (res : Word32) (a d : Word64) (f : Bool) {r : Reg} (hr : 0x20 ≤ regOffset r % 0x1000) :
    rget (report s st res a d f) r = rget s r :=
  report_regs s st res a d f r fun x hx he => by
    have low := recordRegs_low hx
    omega

theorem rget_channelDue_high (s : State) (n ch : Nat) (f : Bool) {r : Reg} (hr : 0x20 ≤ regOffset r % 0x1000) :
    rget (channelDue s n ch f) r = rget s r := by
  unfold channelDue
  dsimp only
  split
  · rw [rget_report_high _ _ _ _ _ _ hr]; rfl
  · rfl

/-! ## A correction (R263, R265, R283) -/

theorem devCorrected_recordsOnly (s : State) (h : Nat) : RecordsOnly s (devCorrected s h) := by
  have counted (n : Nat) (k : Stack) (r r' : Reg) (f : FldImage → FldImage) :
      RecordsOnly s (modLive (rbump (rbump (setStack s n k) r 1) r' 1) f) :=
    ((((RecordsOnly.refl s).setStack n k).rbump r 1).rbump r' 1).modLive f
  unfold devCorrected
  dsimp only
  split
  · exact (channelDue_recordsOnly _ _ _ _).after (counted _ _ _ _ _)
  · exact counted _ _ _ _ _

/-- The physical channel that serves a word of storage. -/
def wordChan (s : State) (h : Nat) : Nat :=
  physChan (stackOf s (devStack (32 * h))) (devChan (stackOf s (devStack (32 * h))).half (32 * h))

theorem rbump_setStack (s : State) (n m : Nat) (k : Stack) (r : Reg) : rbump (setStack s n k) r m = setStack (rbump s r m) n k := rfl

/-- A correction is counted for the stack and the channel, and what its channel that becomes due changes lies low in its page. -/
theorem rget_devCorrected (s : State) (h : Nat) {r : Reg} (hr : 0x20 ≤ regOffset r % 0x1000) :
    rget (devCorrected s h) r =
      rget (rbump (rbump s (.memEcc (devStack (32 * h))) 1) (.memChCorr (devStack (32 * h)) (wordChan s h)) 1) r := by
  unfold devCorrected wordChan
  dsimp only
  split
  · simp only [rget_channelDue_high _ _ _ _ hr, rget_modLive, rbump_setStack, rget_setStack]
  · simp only [rget_modLive, rbump_setStack, rget_setStack]

theorem memEcc_ne_memChCorr (n c : Nat) : regOffset (.memEcc n) ≠ regOffset (.memChCorr n c) := by
  simp only [regOffset]; omega

theorem rget_devCorrected_memEcc (s : State) (h : Nat) :
    rget (devCorrected s h) (.memEcc (devStack (32 * h))) = rget s (.memEcc (devStack (32 * h))) + 1 := by
  rw [rget_devCorrected _ _ (by simp only [regOffset]; omega), rget_rbump_other _ _ (memEcc_ne_memChCorr _ _), rget_rbump_same]
  rfl

theorem rget_devCorrected_memChCorr (s : State) (h : Nat) (hc : wordChan s h ≤ 32) :
    rget (devCorrected s h) (.memChCorr (devStack (32 * h)) (wordChan s h)) =
      rget s (.memChCorr (devStack (32 * h)) (wordChan s h)) + 1 := by
  rw [rget_devCorrected _ _ (by simp only [regOffset]; omega), rget_rbump_same,
    rget_rbump_other _ _ (memEcc_ne_memChCorr _ _).symm]
  rfl

end Sys2Proof.Machine
end

section
/-! PROOFS. Words of device memory that can be accessed and are stored as they were written (R261, R263, R271), and writes of whole
words (R244). -/
namespace Sys2Proof.Machine

/-! ## Words that can be accessed (R261, R267) -/

/-- What an access to a word that can be accessed may rely on. -/
structure WordServes (s : State) (write : Bool) (w : Nat) : Prop where
  halved : (stackOf s (devStack (32 * w))).half = true → devLocal (32 * w) < 2 ^ 35
  notReserved : write = true → devReserved s (32 * w) = false
  alive : ∀ h, devHome s w = some h → devDead s h = false

theorem wordServes_of_devFault {s : State} {write : Bool} {w : Nat} (h : devFault s write w = none) : WordServes s write w := by
  simp only [devFault] at h
  split at h; · cases h
  split at h; · cases h
  split at h; · cases h
  split at h; · cases h
  split at h; · cases h
  next halved reserved =>
  split at h; · cases h
  next alive =>
  refine ⟨fun hh => ?_, fun hw => ?_, fun x hx => ?_⟩
  · simpa [hh] using halved
  · simpa [hw] using reserved
  · simpa [hx] using alive

/-! ## Blocks (R277, R278) -/

theorem devStack_block (a : Nat) : devStack (4096 * (a / 4096)) = devStack a := by
  simp only [devStack, nfld]
  omega

theorem devParked_block (s : State) (a : Nat) : devParked s (4096 * (a / 4096)) = devParked s a := by
  simp only [devParked, devStack_block, Nat.mul_div_cancel_left (a / 4096) (show 0 < 4096 by decide)]

theorem devHome_unparked {s : State} {w : Nat} (h : devParked s (32 * w) = false) : devHome s w = some w := by
  rw [devHome, h]
  rfl

theorem parkReady_unparked {s : State} {w : Nat} (h : devParked s (32 * w) = false) : parkReady s w = some s := by
  simp [parkReady, h]

theorem devLocal_lt (a : Nat) : devLocal a < 2 ^ 36 := by
  simp only [devLocal, nfld]
  omega

/-- An address below the holding region of its stack lies in no slot. -/
theorem slotAt_below {s : State} {a : Nat} (h : devLocal a < holdBase (stackOf s (devStack a)).half) : slotAt s a = none := by
  simp [slotAt, h]

/-- What may be written lies below the holding region (R261). -/
theorem WordServes.belowHold {s : State} {w : Nat} (h : WordServes s true w) :
    devLocal (32 * w) < holdBase (stackOf s (devStack (32 * w))).half := by
  have reserved := h.notReserved rfl
  have bound := devLocal_lt (32 * w)
  have halved := h.halved
  rw [devReserved] at reserved
  cases hh : (stackOf s (devStack (32 * w))).half <;>
    simp only [hh, journalBase, holdBase, reservedEnd, Bool.and_eq_false_iff, decide_eq_false_iff_not, if_true, Bool.false_eq_true, if_false,
      true_implies] at * <;> omega

/-- A block's first byte lies below the holding region where one of its bytes does. -/
theorem belowHold_block {s : State} {a : Nat} (h : devLocal a < holdBase (stackOf s (devStack a)).half) :
    devLocal (4096 * (a / 4096)) < holdBase (stackOf s (devStack (4096 * (a / 4096)))).half := by
  rw [devStack_block]
  refine Nat.lt_of_le_of_lt ?_ h
  simp only [devLocal, nfld]
  omega

/-! ## Words without bit errors (R262) -/

theorem devPattern_noBitErrors {s : State} (h : NoBitErrors s) (w : Nat) : devPattern s w = 0 := by
  rw [devPattern, show s.devErrs = [] from h]
  rfl

theorem devBad_noPattern {s : State} {w : Nat} (h : devPattern s w = 0) : devBad s w = devPoisoned s w := by
  simp [devBad, h]

theorem devFix_noPattern {s : State} {w : Nat} (h : devPattern s w = 0) : devFix s w = s := by
  simp [devFix, h]

theorem wordsOf_block_word (w : Nat) : wordsOf 4096 (32 * w) 32 = [32 * w / 4096] := by
  have last : (32 * w + 32 - 1) / 4096 - 32 * w / 4096 + 1 = 1 := by omega
  rw [wordsOf, if_neg (by decide), last]
  rfl

/-- A word of a block that is not parked, below the holding region, reads as its bytes of device memory. -/
theorem devBytes_word {s : State} {w : Nat} (hb : NoBitErrors s) (hp : devParked s (32 * w) = false)
    (hl : devLocal (32 * w) < holdBase (stackOf s (devStack (32 * w))).half) : devBytes s (32 * w) 32 = mread s.dev (32 * w) 32 := by
  have plain : devPlain s (32 * w) 32 = true := by
    simp [devPlain, show s.devErrs = [] from hb, wordsOf_block_word, devParked_block, hp, slotAt_below (belowHold_block hl)]
  rw [devBytes, if_pos plain]

/-! ## Writes of whole words (R244) -/

/-- A word of storage that is written whole: its poison and its bit errors are gone. -/
def putWhole (s : State) (h : Nat) (bs : List Byte) : State :=
  let t := setDevPoison (putRaw s (32 * h) bs) h false
  { t with devErrs := tset (fun _ => 0) t.devErrs h 0 }

/-- A whole word is written to the word of storage that serves it, unless its channel is dead. -/
theorem putDev_whole {s s1 : State} {w h : Nat} {bs : List Byte} (hr : parkReady s w = some s1) (hh : devHome s1 w = some h)
    (hd : devDead s1 h = false) (hl : bs.length = 32) : putDev [(w, 0, bs)] s = (putWhole s1 h bs, none) := by
  simp [putDev, hr, hh, putHome, hd, hl, orErr, putWhole]

theorem putRaw_dev {s : State} {a : Nat} (h : slotAt s a = none) (bs : List Byte) : putRaw s a bs = { s with dev := mwrite s.dev a bs } := by
  rw [putRaw, h]

/-- Where a word of storage is in no slot, its bytes stand in device memory. -/
theorem putWhole_dev {s : State} {h : Nat} (hs : slotAt s (32 * h) = none) (hb : NoBitErrors s) (bs : List Byte) :
    putWhole s h bs = { s with dev := mwrite s.dev (32 * h) bs, devPoison := (putWhole s h bs).devPoison } := by
  simp [putWhole, putRaw_dev hs, setDevPoison, show s.devErrs = [] from hb, tset, tdrop]

end Sys2Proof.Machine
end

section
/-! PROOFS. Accumulating writes and the merge buffer (R270 to R273, R283). -/
namespace Sys2Proof.Machine

/-! ## Bytes and elements -/

theorem leBytes_length (n v : Nat) : (leBytes n v).length = n := by
  induction n generalizing v with
  | zero => rfl
  | succ n ih => rw [leBytes, List.length_cons, ih]

theorem mread_eq_of_mget {m : List Host.Cell} {a : Nat} {bs : List Byte} (h : ∀ i, i < bs.length → mget m (a + i) = bs.getD i 0) :
    mread m a bs.length = bs := by
  induction bs generalizing a with
  | nil => rfl
  | cons b t ih =>
    rw [List.length_cons, mread, ih fun i hi => ?_]
    · rw [← Nat.add_zero a, h 0 (by simp)]
      rfl
    · rw [Nat.add_assoc, Nat.add_comm 1 i, h (i + 1) (by simpa using hi), List.getD_cons_succ]

/-- Bytes just written are read back. -/
theorem mread_mwrite (m : List Host.Cell) (a : Nat) (bs : List Byte) : mread (mwrite m a bs) a bs.length = bs :=
  mread_eq_of_mget fun i hi => by rw [mget_mwrite, if_pos (by omega), Nat.add_sub_cancel_left]

theorem chunks_length_congr {α β : Type} (n fuel : Nat) {l : List α} {m : List β} (h : l.length = m.length) :
    (chunks n fuel l).length = (chunks n fuel m).length := by
  induction fuel generalizing l m with
  | zero => rfl
  | succ fuel ih =>
    have empty : l.isEmpty = m.isEmpty := by rw [Bool.eq_iff_iff, List.isEmpty_iff_length_eq_zero, List.isEmpty_iff_length_eq_zero, h]
    rw [chunks, chunks, empty]
    split
    · rfl
    · rw [List.length_cons, List.length_cons, ih (show (l.drop n).length = (m.drop n).length by simp [h])]

/-- Pieces of a list of whole chunks, each replaced by one of its length, have the length of the list. -/
theorem zipWith_chunks_length {α β γ : Type} {n : Nat} (hn : 0 < n) {g : List α → β → γ} {bytes : γ → List α}
    (hg : ∀ o v, o.length = n → (bytes (g o v)).length = n) {fuel : Nat} {l : List α} {vs : List β} (hf : l.length ≤ fuel) (hd : n ∣ l.length)
    (hv : vs.length = (chunks n fuel l).length) : ((List.zipWith g (chunks n fuel l) vs).flatMap bytes).length = l.length := by
  induction fuel generalizing l vs with
  | zero => rw [List.length_eq_zero_iff.mp (Nat.le_zero.mp hf)]; rfl
  | succ fuel ih =>
    rw [chunks] at hv ⊢
    split at hv
    · next h => simp [List.isEmpty_iff.mp h]
    · next h =>
      have pos : 0 < l.length := List.length_pos_iff.mpr (by simpa using h)
      have whole : n ≤ l.length := Nat.le_of_dvd pos hd
      obtain ⟨v, vs, rfl⟩ : ∃ v t, vs = v :: t := List.exists_cons_of_length_pos (by rw [hv]; simp)
      rw [if_neg h, List.zipWith_cons_cons, List.flatMap_cons, List.length_append, hg _ _ (by simp [whole]),
        ih (by simp only [List.length_drop]; omega) (by rw [List.length_drop]; exact Nat.dvd_sub hd (dvd_refl n)) (by simpa using hv),
        List.length_drop]
      omega

theorem maskVals_length (f : Fmt) (m : Nat) (data : List Byte) :
    (maskVals f m data).length = (chunks (fmtBits f / 8) data.length data).length := by
  simp [maskVals]

/-- The elements of a word after an add take its 32 bytes. -/
theorem accVals_length {mode : RoundMode} {f : Fmt} (hf : f = .f32 ∨ f = .g16) {m : Nat} {old data : List Byte} (ho : old.length = 32)
    (hd : data.length = 32) : ((accVals mode f (maskVals f m data) old).flatMap (·.1)).length = 32 := by
  have size : 0 < fmtBits f / 8 ∧ fmtBits f / 8 ∣ 32 := by rcases hf with rfl | rfl <;> decide
  rw [← ho]
  refine zipWith_chunks_length (bytes := Prod.fst) size.1 (fun o v hl => ?_) (Nat.le_refl _) (by rw [ho]; exact size.2) ?_
  · cases v with
    | none => exact hl
    | some y => exact leBytes_length _ _
  · rw [maskVals_length, hd, ← ho]
    exact chunks_length_congr _ _ (hd.trans ho.symm)

/-! ## The merge buffer (R272, R283) -/

theorem memAccWords_ne_memMergeHits (n : Nat) : regOffset (.memAccWords n) ≠ regOffset (.memMergeHits n) := by
  simp only [regOffset]; omega

/-- Whether an add finds its word in the merge buffer, and the stack it leaves. -/
theorem mergeTouch_eq (s : State) (w : Nat) :
    ∃ hit k, mergeTouch s w = countIf hit (.memMergeHits (devStack (32 * w))) (rbump (setStack s (devStack (32 * w)) k) (.memAccWords (devStack (32 * w))) 1) ∧
      k.merge.getLast? = some { word := w, chan := devChan (stackOf s (devStack (32 * w))).half (32 * w), lastNs := s.localNs } :=
  ⟨_, _, rfl, List.getLast?_concat⟩

/-- An add leaves its entry the newest and is counted, and beside the stack and the counters nothing changes. -/
theorem mergeTouch_effect (s : State) (w : Nat) :
    let n := devStack (32 * w)
    let t := mergeTouch s w
    (stackOf t n).merge.getLast? = some { word := w, chan := devChan (stackOf s n).half (32 * w), lastNs := s.localNs } ∧
      rget t (.memAccWords n) = rget s (.memAccWords n) + 1 ∧ RegsBut s t [.memAccWords n, .memMergeHits n] ∧
      t = { s with stks := t.stks, regs := t.regs } := by
  intro n t
  obtain ⟨hit, k, eq, newest⟩ := mergeTouch_eq s w
  have ht : t = countIf hit (.memMergeHits n) (rbump (setStack s n k) (.memAccWords n) 1) := eq
  refine ⟨?_, ?_, fun r hr => ?_, ?_⟩
  · rw [ht, countIf_frame]
    exact (congrArg (fun k => k.merge.getLast?) (stackOf_setStack_same s n k)).trans newest
  · rw [ht, rget_countIf_other _ _ (memAccWords_ne_memMergeHits n), rget_rbump_same]
    rfl
  · rw [ht, rget_countIf_other _ _ (hr _ (by simp)), rget_rbump_other _ _ (hr _ (by simp))]
    rfl
  · rw [ht, countIf_frame]
    rfl

/-! ## An accumulating write (R270, R271) -/

/-- The word after an add, and its stack with the entry. -/
theorem accWord_serves {s : State} {mode : RoundMode} {f : Fmt} {w m : Nat} {data : List Byte} (hf : f = .f32 ∨ f = .g16)
    (hl : data.length = 32) (hp : devParked s (32 * w) = false) (hc : devPoisoned s w = false) (hd : devFault s true w = none)
    (hb : NoBitErrors s) :
    let r := accWord s mode f w (maskVals f m data)
    r.err = none ∧ r.st = mergeTouch (putWhole s w ((accBytes mode f m (mread s.dev (32 * w) 32) data).flatMap (·.1))) w := by
  have serves := wordServes_of_devFault hd
  have alive := serves.alive w (devHome_unparked hp)
  have pattern := devPattern_noBitErrors hb w
  have put := putDev_whole (parkReady_unparked hp) (devHome_unparked hp) alive
    (accVals_length (mode := mode) (m := m) hf (mread_length s.dev (32 * w) 32) hl)
  simp only [accWord, hd, parkReady_unparked hp, devHome_unparked hp, Option.getD_some, devFix_noPattern pattern, alive,
    devBad_noPattern pattern, hc, devBytes_word hb hp serves.belowHold, put, Bool.or_self, Bool.false_eq_true, if_false]
  exact ⟨trivial, rfl⟩

end Sys2Proof.Machine
end

section
/-! PROOFS. The patrol of a stack (R263, R264, R510). -/
namespace Sys2Proof.Machine

/-! ## Poison marks -/

/-- A word whose poison bit is set is poisoned. -/
theorem devPoisoned_setDevPoison_same (s : State) (w : Nat) : devPoisoned (setDevPoison s w true) w = true := by
  have marks : stackOf (setDevPoison s w true) = stackOf s := rfl
  simp only [devPoisoned, marks]
  split
  · next h =>
    simp only [setDevPoison, h]
    simp [setHas, mem_setDel]
  · next h =>
    simp only [setDevPoison, h]
    simp [setHas, mem_setAdd]

/-- A state with other bit errors in device memory. -/
def withErrs (s : State) (e : Table (BitVec 288)) : State := { s with devErrs := e }

/-- A word that a read finds uncorrectable in a channel with fewer than 16 poisoned words is poisoned, and no channel becomes due. -/
theorem foundUncorr_dev {s : State} {w : Nat} (hp : devPoisoned s w = false)
    (hf : chanPoison s (devStack (32 * w)) (devChan (stackOf s (devStack (32 * w))).half (32 * w)) < 16) :
    ∃ f e, foundUncorr s (.dev w) = withErrs (modLive (setDevPoison s w true) f) e := by
  refine ⟨fun l => { l with uncorr := tmod (fun _ => 0) l.uncorr (33 * devStack (32 * w) + wordChan s w) fun x => fldAdd 32 x 1 },
    tset (fun _ => 0) s.devErrs w 0, ?_⟩
  simp only [foundUncorr, hp, Nat.not_le.mpr hf, decide_false, Bool.false_and, Bool.false_eq_true, if_false]
  rfl

theorem ChanDueOnly.chanPoison {s t : State} (h : ChanDueOnly s t) (hp : t.devPoison = s.devPoison) (n ch : Nat) :
    Machine.chanPoison t n ch = Machine.chanPoison s n ch := by
  unfold Machine.chanPoison
  dsimp only
  rw [h.half, h.poisonCh, hp]

theorem RecordsOnly.devPattern {s t : State} (h : RecordsOnly s t) (w : Nat) : Machine.devPattern t w = Machine.devPattern s w := by
  unfold Machine.devPattern
  rw [h.devErrs]

/-! ## A word that is uncorrectable (R263, R569) -/

/-- What the report of an uncorrectable word of storage leaves. -/
structure WordPoisoned (s t : State) (w : Nat) : Prop where
  poisoned : devPoisoned t w = true
  dev : t.dev = s.dev
  noted : rbit t (.memUe (devStack (32 * w))) 63 = true
  recorded : Recorded s t .memUncorrectable (resource 0x04 (33 * devStack (32 * w) + wordChan s w)) 0

/-- The word's poison bit is set last. -/
theorem WordPoisoned.of_found {s v : State} {w : Nat} {f : FldImage → FldImage} {e : Table (BitVec 288)} (hd : v.dev = s.dev)
    (hn : rbit v (.memUe (devStack (32 * w))) 63 = true)
    (hr : Recorded s v .memUncorrectable (resource 0x04 (33 * devStack (32 * w) + wordChan s w)) 0) :
    WordPoisoned s (withErrs (modLive (setDevPoison v w true) f) e) w :=
  ⟨devPoisoned_setDevPoison_same v w, hd, hn, hr⟩

theorem reportErr_devErr {s : State} {w : Nat} (hp : devPoisoned s w = false)
    (hf : chanPoison s (devStack (32 * w)) (devChan (stackOf s (devStack (32 * w))).half (32 * w)) < 16) :
    WordPoisoned s (reportErr s (devErr s w)) w := by
  let e := devErr s w
  let u := report s .memUncorrectable e.resource e.addr 0 false
  have named : e.resource ≠ 0 := resource_ne_zero _ (by decide) (by decide)
  have reported : reportErr s e = foundUncorr (noteUe u e) (.dev w) := by
    rw [reportErr, if_neg named]
    rfl
  have marks : ChanDueOnly s (noteUe u e) := .after (.of_stks (by rw [noteUe_frame])) (report_chanDueOnly _ _ _ _ _ _)
  have memory : RecordsOnly s (noteUe u e) := .after (by unfold RecordsOnly; rw [noteUe_frame]) (report_recordsOnly _ _ _ _ _ _)
  have noted : rbit (noteUe u e) (.memUe (devStack (32 * w))) 63 = true := rbit_noteUe rfl
  have recorded : Recorded s (noteUe u e) .memUncorrectable e.resource 0 := by
    have queues (n : Nat) : errQ (noteUe u e) n = errQ u n := by
      rw [noteUe_frame]
      rfl
    unfold Recorded
    rw [queues]
    exact report_recorded s .memUncorrectable e.resource e.addr 0 false rfl
  obtain ⟨f, errs, found⟩ := foundUncorr_dev ((marks.devPoisoned memory.devPoison w).trans hp)
    (by rwa [marks.chanPoison memory.devPoison, marks.half])
  rw [reported, found]
  exact .of_found memory.dev noted recorded

/-! ## A patrol read -/

/-- A patrol that finds its word good changes nothing. -/
theorem patrolRead_good {s : State} {h : Nat} (hp : devPoisoned s h = false) (he : devPattern s h = 0) : patrolRead s h = s := by
  simp [patrolRead, hp, devBad_noPattern he, devFix_noPattern he]

/-- What a patrol does at a word that it reads and that is not poisoned. -/
theorem patrolRead_reads {s : State} {h : Nat} (hm : inMerge s h = false) (hk : devParked s (32 * h) = false) (hd : devDead s h = false)
    (hp : devPoisoned s h = false) : patrolRead s h = if devBad s h then reportErr s (devErr s h) else devFix s h := by
  simp [patrolRead, hm, hk, hd, hp]

/-- A read that corrects the bad symbol of a word writes back what was written, and counts it. -/
theorem devFix_corrected {s : State} {h : Nat} (hp : devPoisoned s h = false) (hn : devPattern s h ≠ 0) (hf : rsFound (devPattern s h) = .corrected)
    (hl : rsLeft (devPattern s h) = 0) : devFix s h = devCorrected (withErrs s (tset (fun _ => 0) s.devErrs h 0)) h := by
  have read : ¬ (devPattern s h = 0 ∨ devPoisoned s h = true) := not_or.mpr ⟨hn, by rw [hp]; decide⟩
  simp only [devFix, read, hf, hl, if_true, if_false]
  rfl

theorem devBad_found {s : State} {h : Nat} (hp : devPoisoned s h = false) (hn : devPattern s h ≠ 0) :
    devBad s h = decide (rsFound (devPattern s h) = .uncorrectable) := by
  rw [devBad, hp, decide_eq_true hn, Bool.false_or, Bool.true_and]

theorem devPattern_cleared (s : State) (w : Nat) : devPattern (withErrs s (tset (fun _ => 0) s.devErrs w 0)) w = 0 := by
  simp only [devPattern, withErrs, tget_tset_same]

/-- What a patrol of a word with one bad symbol leaves. -/
structure WordCorrected (s t : State) (w : Nat) : Prop where
  ecc : rget t (.memEcc (devStack (32 * w))) = rget s (.memEcc (devStack (32 * w))) + 1
  channel : wordChan s w ≤ 32 → rget t (.memChCorr (devStack (32 * w)) (wordChan s w)) = rget s (.memChCorr (devStack (32 * w)) (wordChan s w)) + 1
  dev : t.dev = s.dev
  devPoison : t.devPoison = s.devPoison
  good : devPattern t w = 0

theorem devFix_counts {s : State} {w : Nat} (hp : devPoisoned s w = false) (hn : devPattern s w ≠ 0) (hf : rsFound (devPattern s w) = .corrected)
    (hl : rsLeft (devPattern s w) = 0) : WordCorrected s (devFix s w) w := by
  rw [devFix_corrected hp hn hf hl]
  let u := withErrs s (tset (fun _ => 0) s.devErrs w 0)
  have memory : RecordsOnly u (devCorrected u w) := devCorrected_recordsOnly u w
  refine ⟨rget_devCorrected_memEcc u w, rget_devCorrected_memChCorr u w, memory.dev, memory.devPoison, ?_⟩
  rw [memory.devPattern]
  exact devPattern_cleared s w

/-! ## The patrol of a channel (R264, R510) -/

/-- A stack whose patrol goes on to a place of a channel. -/
def patrolTo (s : State) (n ch i : Nat) : State :=
  setStack s n { stackOf s n with patrolPos := tset (fun _ => 0) (stackOf s n).patrolPos ch i }

section
variable (s : State) (n ch i : Nat)

/-- Of a stack only the place of its patrol changes. -/
theorem stackOf_patrolTo (m : Nat) : ∃ pos, stackOf (patrolTo s n ch i) m = { stackOf s m with patrolPos := pos } := by
  rw [patrolTo, stackOf_setStack]
  split
  · next e => exact ⟨_, by rw [e]⟩
  · exact ⟨_, rfl⟩

theorem half_patrolTo (m : Nat) : (stackOf (patrolTo s n ch i) m).half = (stackOf s m).half := by
  obtain ⟨pos, eq⟩ := stackOf_patrolTo s n ch i m
  rw [eq]

theorem inMerge_patrolTo (h : Nat) : inMerge (patrolTo s n ch i) h = inMerge s h := by
  obtain ⟨pos, eq⟩ := stackOf_patrolTo s n ch i (devStack (32 * h))
  rw [inMerge, eq]
  rfl

theorem devPoisoned_patrolTo (h : Nat) : devPoisoned (patrolTo s n ch i) h = devPoisoned s h := by
  obtain ⟨pos, eq⟩ := stackOf_patrolTo s n ch i (devStack (32 * h))
  rw [devPoisoned, eq]
  rfl

theorem devDead_patrolTo (h : Nat) : devDead (patrolTo s n ch i) h = devDead s h := by
  obtain ⟨pos, eq⟩ := stackOf_patrolTo s n ch i (devStack (32 * h))
  rw [devDead, eq]
  rfl

theorem wordChan_patrolTo (h : Nat) : wordChan (patrolTo s n ch i) h = wordChan s h := by
  obtain ⟨pos, eq⟩ := stackOf_patrolTo s n ch i (devStack (32 * h))
  rw [wordChan, eq]
  rfl

theorem chanPoison_patrolTo (m c : Nat) : chanPoison (patrolTo s n ch i) m c = chanPoison s m c := by
  obtain ⟨pos, eq⟩ := stackOf_patrolTo s n ch i m
  rw [chanPoison, eq]
  rfl

end

/-- The place of a channel that its patrol reads next. -/
def patrolPlace (s : State) (n ch : Nat) : Nat := tget (fun _ => 0) (stackOf s n).patrolPos ch

/-- Bits of a word of a stack that goes bad outside the merge buffer: no bit error stood there. -/
theorem devUpset_word {s : State} {n : Nat} {w : BitVec 36} (p : BitVec 288) (hb : NoBitErrors s) (hs : devStack (32 * w.toNat) = n)
    (hm : (stackOf s n).merge = []) : devUpset s n [(w, p)] = withErrs s (tset (fun _ => 0) s.devErrs w.toNat p) := by
  have stood : tget (fun _ => (0 : BitVec 288)) s.devErrs w.toNat = 0 := devPattern_noBitErrors hb w.toNat
  have outside : inMerge s w.toNat = false := by rw [inMerge, hs, hm]; rfl
  have flipped : (0 : BitVec 288) ^^^ p = p := BitVec.zero_xor
  simp only [devUpset, List.foldl_cons, List.foldl_nil, hs, outside, tmod, stood, flipped, ne_eq, not_true_eq_false, Bool.false_eq_true,
    or_self, if_false]
  rfl

section
variable {s : State} {stack ch : BitVec 5} {upsets : List (BitVec 36 × BitVec 288)} {u : State}
  (hr : (stackOf s stack.toNat).ready = true) (hd : dieServes s (stack.toNat / 8) = true) (hi : rfld s (.memPatrol stack.toNat) 0 20 ≠ 0)
  (hh : (stackOf s stack.toNat).half = false) (hu : devUpset s stack.toNat upsets = u)
include hr hd hi hh hu

theorem exec_stackPatrol_held
    (hs : u.host.snoop.contains (chanWord stack.toNat false ch.toNat (patrolPlace s stack.toNat ch.toNat) / 2) = true) :
    exec (.stackPatrol stack ch upsets) s = .next u := by
  rw [patrolPlace] at hs
  show execStackPatrol stack ch upsets s = _
  simp only [execStackPatrol, hr, hd, hi, hh, hu, hs, Bool.not_true, decide_false, Bool.false_and, Bool.or_self, Bool.false_eq_true, if_false, if_true]

variable (hk : u.stks = s.stks)
  (hs : u.host.snoop.contains (chanWord stack.toNat false ch.toNat (patrolPlace s stack.toNat ch.toNat) / 2) = false)
include hk hs

theorem exec_stackPatrol_next (hl : patrolPlace s stack.toNat ch.toNat + 1 < 67108864) :
    exec (.stackPatrol stack ch upsets) s = .next (patrolRead (patrolTo u stack.toNat ch.toNat (patrolPlace s stack.toNat ch.toNat + 1))
      (chanWord stack.toNat false ch.toNat (patrolPlace s stack.toNat ch.toNat))) := by
  have same : stackOf u stack.toNat = stackOf s stack.toNat := by rw [stackOf, stackOf, hk]
  rw [patrolPlace] at hs hl
  have inside := Nat.not_le.mpr hl
  show execStackPatrol stack ch upsets s = _
  simp only [execStackPatrol, hr, hd, hi, hh, hu, hs, ge_iff_le, inside, Bool.not_true, decide_false, Bool.false_and, Bool.or_self, Bool.false_eq_true,
    if_false]
  rw [patrolTo, same]
  rfl

theorem exec_stackPatrol_last (hl : 67108864 ≤ patrolPlace s stack.toNat ch.toNat + 1) :
    exec (.stackPatrol stack ch upsets) s =
      .next (patrolRead (rbump (patrolTo u stack.toNat ch.toNat 0) (.memPatrolPasses stack.toNat) 1)
        (chanWord stack.toNat false ch.toNat (patrolPlace s stack.toNat ch.toNat))) := by
  have same : stackOf u stack.toNat = stackOf s stack.toNat := by rw [stackOf, stackOf, hk]
  rw [patrolPlace] at hs hl
  show execStackPatrol stack ch upsets s = _
  simp only [execStackPatrol, hr, hd, hi, hh, hu, hs, ge_iff_le, hl, Bool.not_true, decide_false, decide_true, Bool.false_and, Bool.or_self,
    Bool.false_eq_true, if_false, if_true]
  rw [patrolTo, same]
  rfl

end

end Sys2Proof.Machine
end

section
/-! PROOFS. Accumulating writes, the merge buffer and the patrol: the statement O25. -/
namespace Sys2Proof.Machine

/-! ## Accumulating writes -/

/-- An accumulating write to a word that can be accessed: its elements, its merge-buffer entry and its count. -/
theorem exec_accumulatingWrite {s : State} {word : BitVec 36} {f32 : Bool} {mask : BitVec 16} {data : BitVec 256} {mode : RoundMode}
    (hp : devParked s (32 * word.toNat) = false) (hc : devPoisoned s word.toNat = false) (hd : devFault s true word.toNat = none)
    (hb : NoBitErrors s) :
    let w := word.toNat
    let f := if f32 then Fmt.f32 else .g16
    let m := if f32 then mask.toNat % 256 else mask.toNat
    exec (.accumulatingWrite word f32 mask data mode) s =
      .next (mergeTouch (putWhole s w ((accBytes mode f m (mread s.dev (32 * w) 32) (leBytes 32 data.toNat)).flatMap (·.1))) w) := by
  intro w f m
  have format : f = .f32 ∨ f = .g16 := by cases f32 <;> simp [f]
  obtain ⟨err, st⟩ := accWord_serves (mode := mode) (m := m) format (leBytes_length 32 data.toNat) hp hc hd hb
  show execAccumulatingWrite word f32 mask data mode s = _
  rw [← st]
  show Host.Outcome.next (requestEnd _ _ _ _ (accWord s mode f w (maskVals f m (leBytes 32 data.toNat))).err) = _
  rw [err]
  rfl

/-- The only entry of a stack's merge buffer is written back 2 µs after its last add. -/
theorem exec_mergeWriteback {s : State} {stack : BitVec 5} {e : MergeEntry} (hm : (stackOf s stack.toNat).merge = [e])
    (ht : e.lastNs + 2000 ≤ s.localNs) :
    exec (.mergeWriteback stack) s = .next (setStack s stack.toNat { stackOf s stack.toNat with merge := [] }) := by
  have older : e.lastNs < s.localNs := by omega
  have due : ¬ s.localNs < e.lastNs + 2000 := by omega
  show execMergeWriteback stack s = _
  simp [execMergeWriteback, hm, older, due, dropFirst]

/-! ## Patrols that find a word bad -/

theorem rsFound_zero : rsFound 0 = .good := by decide +kernel

theorem physChan_le {k : Stack} (hh : k.half = false) {ch : Nat} (hc : ch < 32) : physChan k ch ≤ 32 := by
  rw [physChan, hh]
  simp only [Bool.false_eq_true, if_false]
  split <;> omega

section
variable {s : State} {n ch i h : Nat} {p : BitVec 288}

/-- The state in which a patrol reads a word whose bits have gone bad. -/
def patrolAtBad (s : State) (n ch i h : Nat) (p : BitVec 288) : State :=
  patrolTo (withErrs s (tset (fun _ => 0) s.devErrs h p)) n ch i

theorem devPattern_patrolAtBad : devPattern (patrolAtBad s n ch i h p) h = p := by
  simp only [devPattern, patrolAtBad, patrolTo, withErrs, setStack_devErrs, tget_tset_same]

theorem patrolRead_patrolAtBad (hs : devStack (32 * h) = n) (hm : (stackOf s n).merge = []) (hk : devParked s (32 * h) = false)
    (hd : devDead s h = false) (hp : devPoisoned s h = false) (hn : p ≠ 0) :
    let u := patrolAtBad s n ch i h p
    devPoisoned u h = false ∧ patrolRead u h = if rsFound p = .uncorrectable then reportErr u (devErr u h) else devFix u h := by
  intro u
  have pattern : devPattern u h = p := devPattern_patrolAtBad
  have merge : inMerge s h = false := by rw [inMerge, hs, hm]; rfl
  have merge : inMerge u h = false := (inMerge_patrolTo _ n ch i h).trans merge
  have alive : devDead u h = false := (devDead_patrolTo _ n ch i h).trans hd
  have poisoned : devPoisoned u h = false := (devPoisoned_patrolTo _ n ch i h).trans hp
  refine ⟨poisoned, ?_⟩
  rw [patrolRead_reads merge hk alive poisoned, devBad_found poisoned (pattern.symm ▸ hn), pattern]
  simp only [decide_eq_true_eq]

end

/-! ## The statement -/

/-- Settles O25: an add by the state it leaves, a patrol by what it does at the word that it reads. -/
theorem accumulationAndPatrol : Obligations.AccumulationAndPatrol := by
  unfold Obligations.AccumulationAndPatrol
  refine ⟨fun s word f32 mask data mode stack e => ⟨?_, rfl, exec_mergeWriteback⟩, ?_⟩
  · intro w n f m hp hc hd hb
    let bs := (accBytes mode f m (mread s.dev (32 * w) 32) (leBytes 32 data.toNat)).flatMap (·.1)
    have length : bs.length = 32 :=
      accVals_length (by cases f32 <;> simp [f]) (mread_length _ _ _) (leBytes_length _ _)
    have put : putWhole s w bs = { s with dev := mwrite s.dev (32 * w) bs, devPoison := (putWhole s w bs).devPoison } :=
      putWhole_dev (slotAt_below (wordServes_of_devFault hd).belowHold) hb bs
    obtain ⟨newest, counted, regs, frame⟩ := mergeTouch_effect (putWhole s w bs) w
    have dev : (mergeTouch (putWhole s w bs) w).dev = mwrite s.dev (32 * w) bs := by rw [frame, put]
    refine ⟨mergeTouch (putWhole s w bs) w, exec_accumulatingWrite hp hc hd hb, ?_, fun a ha => ?_, ?_, ?_, ?_⟩
    · rw [dev]
      have back := mread_mwrite s.dev (32 * w) bs
      rwa [length] at back
    · rw [dev, mget_mwrite, if_neg (by omega)]
    · rw [newest, put]
      rfl
    · rw [counted, put]
      rfl
    · intro r hr
      rw [regs r hr, put]
      rfl
  · intro s stack ch n k i h c hr hd hi hh hb hp
    have good : devPattern s h = 0 := devPattern_noBitErrors hb h
    refine ⟨fun hs => ?_, fun hs hl => ?_, fun hs hl => ?_, fun w p hs hw hl hm hn hc hk hdead _ => ?_⟩
    · exact exec_stackPatrol_held hr hd hi hh rfl hs
    · have row := exec_stackPatrol_next hr hd hi hh (upsets := []) rfl rfl hs hl
      have read : patrolRead (patrolTo s n ch.toNat (i + 1)) h = patrolTo s n ch.toNat (i + 1) :=
        patrolRead_good ((devPoisoned_patrolTo _ _ _ _ _).trans hp) good
      exact row.trans (congrArg _ read)
    · have row := exec_stackPatrol_last hr hd hi hh (upsets := []) rfl rfl hs hl
      have read : patrolRead (rbump (patrolTo s n ch.toNat 0) (.memPatrolPasses n) 1) h = rbump (patrolTo s n ch.toNat 0) (.memPatrolPasses n) 1 :=
        patrolRead_good ((devPoisoned_patrolTo _ _ _ _ _).trans hp) good
      refine ⟨_, row.trans (congrArg _ read), ?_, rget_rbump_same _ _ _, fun r hr => rget_rbump_other _ _ (hr _ (by simp)), rfl⟩
      rw [stackOf_rbump, patrolTo, stackOf_setStack_same]
      exact tget_tset_same _ (stackOf s n).patrolPos ch.toNat 0
    · have upset := devUpset_word p hb (hw.symm ▸ hn) hm
      rw [hw] at upset
      have row := exec_stackPatrol_next hr hd hi hh upset rfl hs hl
      let u := patrolAtBad s n ch.toNat (i + 1) h p
      have served : wordChan u h = c := by
        rw [show wordChan u h = wordChan s h from wordChan_patrolTo _ _ _ _ _, wordChan, hn, hh, hc]
      refine ⟨fun hf hz => ?_, fun hf hless => ?_⟩
      · have bad : p ≠ 0 := by rintro rfl; rw [rsFound_zero] at hf; cases hf
        obtain ⟨poisoned, read⟩ := patrolRead_patrolAtBad (ch := ch.toNat) (i := i + 1) hn hm hk hdead hp bad
        have pattern : devPattern u h = p := devPattern_patrolAtBad
        obtain ⟨ecc, channel, dev, devPoison, good⟩ :=
          devFix_counts poisoned (pattern.symm ▸ bad) (pattern.symm ▸ hf) (pattern.symm ▸ hz)
        rw [if_neg (by rw [hf]; decide)] at read
        rw [served, hn] at channel
        rw [hn] at ecc
        exact ⟨_, row.trans (congrArg _ read), ecc, channel (physChan_le hh ch.isLt), dev, devPoison, good⟩
      · have bad : p ≠ 0 := by rintro rfl; rw [rsFound_zero] at hf; cases hf
        obtain ⟨poisoned, read⟩ := patrolRead_patrolAtBad (ch := ch.toNat) (i := i + 1) hn hm hk hdead hp bad
        have few : chanPoison u (devStack (32 * h)) (devChan (stackOf u (devStack (32 * h))).half (32 * h)) < 16 := by
          have half : (stackOf u n).half = false := (half_patrolTo _ _ _ _ _).trans hh
          rw [hn, half, hc]
          exact (chanPoison_patrolTo _ _ _ _ _ _).trans_lt hless
        obtain ⟨marked, dev, noted, recorded⟩ := reportErr_devErr poisoned few
        rw [if_pos hf] at read
        rw [served, hn] at recorded
        rw [hn] at noted
        exact ⟨_, row.trans (congrArg _ read), marked, dev, noted, recorded⟩

end Sys2Proof.Machine
end

section
/-! PROOFS. Holding slots (R278): the slot that a parked block takes, the word of it that is written, and what both leave. -/
namespace Sys2Proof.Machine

/-! ## A free number (log entry 5) -/

theorem pairwise_setAdd {k : Nat} {l : List Nat} (h : l.Pairwise (· < ·)) : (setAdd k l).Pairwise (· < ·) := by
  induction l with
  | nil => simp [setAdd]
  | cons a t ih =>
    obtain ⟨first, rest⟩ := List.pairwise_cons.mp h
    rw [setAdd]
    split
    · next hlt =>
      refine List.pairwise_cons.mpr ⟨fun x hx => ?_, h⟩
      rcases List.mem_cons.mp hx with rfl | hx
      · exact hlt
      · exact hlt.trans (first x hx)
    · split
      · exact h
      · refine List.pairwise_cons.mpr ⟨fun x hx => ?_, ih rest⟩
        rcases mem_setAdd.mp hx with rfl | hx
        · omega
        · exact first x hx

theorem length_setAdd_le (k : Nat) (l : List Nat) : (setAdd k l).length ≤ l.length + 1 := by
  induction l with
  | nil => rfl
  | cons a t ih =>
    rw [setAdd]
    split
    · rfl
    · split
      · exact Nat.le_succ _
      · exact Nat.succ_le_succ ih

/-- Numbers put into a set one after another: the set rises, has them all, and is no longer than the list of them. -/
theorem foldl_setAdd (l m : List Nat) (h : m.Pairwise (· < ·)) :
    let r := l.foldl (fun m u => setAdd u m) m
    r.Pairwise (· < ·) ∧ (∀ x, x ∈ r ↔ x ∈ l ∨ x ∈ m) ∧ r.length ≤ l.length + m.length := by
  induction l generalizing m with
  | nil => exact ⟨h, by simp, by simp⟩
  | cons a t ih =>
    obtain ⟨rising, has, length⟩ := ih (setAdd a m) (pairwise_setAdd h)
    have one := length_setAdd_le a m
    refine ⟨rising, fun x => ?_, by rw [List.foldl_cons, List.length_cons]; omega⟩
    rw [List.foldl_cons, has x, mem_setAdd, List.mem_cons]
    tauto

/-- A number that passes the members of a rising set that it meets. -/
def passed (l : List Nat) (k : Nat) : Nat := l.foldl (fun k u => if u ≤ k then k + 1 else k) k

theorem passed_above {l : List Nat} {k : Nat} (h : ∀ u ∈ l, k < u) : passed l k = k := by
  induction l with
  | nil => rfl
  | cons u t ih =>
    obtain ⟨first, rest⟩ := List.forall_mem_cons.mp h
    rw [passed, List.foldl_cons, if_neg (Nat.not_le.mpr first)]
    exact ih rest

theorem passed_bounds (l : List Nat) (k : Nat) : k ≤ passed l k ∧ passed l k ≤ k + l.length := by
  induction l generalizing k with
  | nil => exact ⟨Nat.le_refl k, Nat.le_refl k⟩
  | cons u t ih =>
    have rest := ih (if u ≤ k then k + 1 else k)
    rw [passed, List.foldl_cons, List.length_cons]
    rw [passed] at rest
    split at rest <;> split <;> omega

theorem passed_not_mem {l : List Nat} (h : l.Pairwise (· < ·)) (k : Nat) : passed l k ∉ l := by
  induction l generalizing k with
  | nil => simp
  | cons u t ih =>
    obtain ⟨first, rest⟩ := List.pairwise_cons.mp h
    by_cases hu : u ≤ k
    · have step : passed (u :: t) k = passed t (k + 1) := by rw [passed, List.foldl_cons, if_pos hu]; rfl
      have low := (passed_bounds t (k + 1)).1
      rw [step, List.mem_cons, not_or]
      exact ⟨by omega, ih rest (k + 1)⟩
    · have above : ∀ x ∈ u :: t, k < x := by
        intro x hx
        rcases List.mem_cons.mp hx with rfl | hx
        · omega
        · have up := first x hx
          omega
      rw [passed_above above]
      exact fun hk => absurd (above k hk) (Nat.lt_irrefl k)

/-- The k-th number that a list does not hold is not in it, and at most k and the length of the list. -/
theorem nthFree_free (used : List Nat) (k : Nat) : nthFree used k ∉ used ∧ nthFree used k ≤ k + used.length := by
  obtain ⟨rising, has, length⟩ := foldl_setAdd used [] List.Pairwise.nil
  have eq : nthFree used k = passed (used.foldl (fun l u => setAdd u l) []) k := rfl
  have bound := (passed_bounds (used.foldl (fun l u => setAdd u l) []) k).2
  have absent := passed_not_mem rising k
  rw [← eq, has] at absent
  rw [← eq] at bound
  exact ⟨fun h => absent (.inl h), by rw [List.length_nil] at length; omega⟩

/-! ## The slots of a stack (R283) -/

theorem setSlots_frame (s : State) (n : Nat) (l : List HoldSlot) :
    setSlots s n l = { setStack s n { stackOf s n with slots := l } with regs := (setSlots s n l).regs } := by
  unfold setSlots
  dsimp only
  split <;> rfl

theorem stackOf_setSlots (s : State) (n m : Nat) (l : List HoldSlot) :
    stackOf (setSlots s n l) m = if m = n then { stackOf s n with slots := l } else stackOf s m := by
  rw [setSlots_frame]
  exact stackOf_setStack _ _ _ _

theorem setSlots_regs (s : State) (n : Nat) (l : List HoldSlot) : RegsBut s (setSlots s n l) [.memParkPeak n] := by
  intro r hr
  unfold setSlots
  dsimp only
  split
  · exact rget_rset_other _ _ _ _ (hr _ (by simp))
  · rfl

/-! ## A slot that is taken -/

/-- From s to t a FREE slot of stack n, number i, is taken for a block and set to +0, and the marks of its words are cleared. -/
structure SlotFilled (s t : State) (n tag i : Nat) : Prop where
  free : i < 65536
  fresh : ∀ x ∈ (stackOf s n).slots, x.idx ≠ i
  stack : stackOf t n = { stackOf s n with slots := (stackOf s n).slots ++ [{ tag := tag, idx := i }] }
  others : ∀ m, m ≠ n → stackOf t m = stackOf s m
  regs : RegsBut s t [.memParkPeak n]
  frame : t = { s with stks := t.stks, regs := t.regs, devPoison := t.devPoison, devErrs := t.devErrs, freeCtr := s.freeCtr + 1 }
  errs : NoBitErrors s → NoBitErrors t

/-- A word of storage whose marks are cleared. -/
def clearMarks (s : State) (h : Nat) : State :=
  let s := if devPoisoned s h then setDevPoison s h false else s
  if s.devErrs.isEmpty then s else { s with devErrs := tset (fun _ => 0) s.devErrs h 0 }

/-- From s to t the marks of words of device memory change at most, and no bit error comes. -/
def MarksCleared (s t : State) : Prop :=
  t = { s with devPoison := t.devPoison, devErrs := t.devErrs } ∧ (NoBitErrors s → NoBitErrors t)

theorem clearMarks_cleared (s : State) (h : Nat) : MarksCleared s (clearMarks s h) := by
  have poison (u : State) (hu : MarksCleared s u) : MarksCleared s (if u.devErrs.isEmpty then u else { u with devErrs := tset (fun _ => 0) u.devErrs h 0 }) := by
    obtain ⟨frame, errs⟩ := hu
    split
    · exact ⟨frame, errs⟩
    · next some =>
      exact ⟨by rw [frame], fun hb => absurd (show u.devErrs.isEmpty = true by rw [show u.devErrs = [] from errs hb]; rfl) some⟩
  refine poison _ ?_
  split <;> exact ⟨rfl, id⟩

theorem foldl_clearMarks_cleared (l : List Nat) (s : State) : MarksCleared s (l.foldl clearMarks s) := by
  induction l generalizing s with
  | nil => exact ⟨rfl, id⟩
  | cons h t ih =>
    obtain ⟨frame, errs⟩ := ih (clearMarks s h)
    obtain ⟨frame', errs'⟩ := clearMarks_cleared s h
    exact ⟨by rw [List.foldl_cons, frame, frame'], errs ∘ errs'⟩

/-- The place in the holding region that the next block takes: any FREE one (log entry 5). -/
def nextSlot (s : State) (n : Nat) : Nat := nthFree ((stackOf s n).slots.map (·.idx)) (freeNat s % (65536 - (stackOf s n).slots.length))

/-- The words of storage of a slot. -/
def slotWords (s : State) (n i : Nat) : List Nat := upto (devAddr n (holdBase (stackOf s n).half + 4096 * i) / 32) 128

theorem fillSlot_eq (s : State) (n tag : Nat) :
    fillSlot s n tag = (slotWords s n (nextSlot s n)).foldl clearMarks
      (setSlots (tickFree s) n ((stackOf s n).slots ++ [{ tag := tag, idx := nextSlot s n }])) := by
  unfold fillSlot slotWords nextSlot clearMarks
  dsimp only

theorem nextSlot_free {s : State} {n : Nat} (hl : (stackOf s n).slots.length < 65536) :
    nextSlot s n < 65536 ∧ ∀ x ∈ (stackOf s n).slots, x.idx ≠ nextSlot s n := by
  obtain ⟨absent, bound⟩ := nthFree_free ((stackOf s n).slots.map (·.idx)) (freeNat s % (65536 - (stackOf s n).slots.length))
  have small := Nat.mod_lt (freeNat s) (show 0 < 65536 - (stackOf s n).slots.length by omega)
  rw [List.length_map, ← nextSlot] at bound
  rw [← nextSlot] at absent
  exact ⟨by omega, fun x hx he => absent (List.mem_map.mpr ⟨x, hx, he⟩)⟩

/-- A slot that is listed as taken. -/
theorem setSlots_fills {s : State} {n i : Nat} (free : i < 65536) (fresh : ∀ x ∈ (stackOf s n).slots, x.idx ≠ i) (tag : Nat) :
    SlotFilled s (setSlots (tickFree s) n ((stackOf s n).slots ++ [{ tag := tag, idx := i }])) n tag i := by
  refine ⟨free, fresh, ?_, fun m hm => ?_, setSlots_regs (tickFree s) n _, ?_, fun hb => ?_⟩
  · rw [stackOf_setSlots, if_pos rfl]
    rfl
  · rw [stackOf_setSlots, if_neg hm]
    rfl
  · rw [setSlots_frame]
    rfl
  · rw [NoBitErrors, setSlots_frame]
    exact hb

/-- The slot is taken as well once marks of words are cleared. -/
theorem SlotFilled.marks {s u t : State} {n tag i : Nat} (h : SlotFilled s u n tag i) (g : MarksCleared u t) : SlotFilled s t n tag i := by
  obtain ⟨frame, errs⟩ := g
  have kept (m : Nat) : stackOf t m = stackOf u m := by rw [frame]; rfl
  refine ⟨h.free, h.fresh, (kept n).trans h.stack, fun m hm => (kept m).trans (h.others m hm), fun r hr => ?_, ?_, errs ∘ h.errs⟩
  · rw [← h.regs r hr, frame]
    rfl
  · rw [frame, h.frame]

/-- A block takes a FREE slot (R278). -/
theorem fillSlot_fills {s : State} {n : Nat} (hl : (stackOf s n).slots.length < 65536) (tag : Nat) : ∃ i, SlotFilled s (fillSlot s n tag) n tag i := by
  obtain ⟨free, fresh⟩ := nextSlot_free hl
  rw [fillSlot_eq]
  exact ⟨_, (setSlots_fills free fresh tag).marks (foldl_clearMarks_cleared _ _)⟩

/-! ## Addresses of the holding region (R259, R260) -/

theorem devStack_lt (a : Nat) : devStack a < 32 := by
  simp only [devStack, nfld]
  omega

theorem devStack_devAddr {n loc : Nat} (hn : n < 32) (hl : loc < 2 ^ 36) : devStack (devAddr n loc) = n := by
  have block : devAddr n loc / 2 ^ 12 = n / 8 * 2 ^ 27 + loc / 2 ^ 12 * 2 ^ 3 + n % 8 := by
    simp only [devAddr]
    omega
  have die : devAddr n loc / 2 ^ 39 = n / 8 := by
    simp only [devAddr]
    omega
  simp only [devStack, nfld, block, die]
  omega

theorem devLocal_devAddr (n : Nat) {loc : Nat} (hl : loc < 2 ^ 36) : devLocal (devAddr n loc) = loc := by
  simp only [devLocal, devAddr, nfld]
  omega

theorem devAddr_mod (n loc : Nat) : devAddr n loc % 4096 = loc % 4096 := by
  simp only [devAddr]
  omega

/-- A word of the holding region below its end. -/
theorem holdBase_lt (half : Bool) {i o : Nat} (hi : i < 65536) (ho : o < 4096) : holdBase half + 4096 * i + o < 2 ^ 36 := by
  cases half <;> simp only [holdBase, journalBase, if_true, Bool.false_eq_true, if_false] <;> omega

theorem slotWord_addr (s : State) (x : HoldSlot) (w : Nat) :
    32 * slotWord s x w = devAddr (devStack (32 * w)) (holdBase (stackOf s (devStack (32 * w))).half + 4096 * x.idx + 32 * w % 4096) := by
  have base : holdBase (stackOf s (devStack (32 * w))).half % 32 = 0 := by
    cases (stackOf s (devStack (32 * w))).half <;> rfl
  rw [slotWord]
  simp only [devAddr]
  omega

/-! ## A block in its slot -/

/-- Which blocks are parked does not depend on the most slots in use (R277). -/
theorem devParked_congr {s t : State} {m : Nat} (h : RegsBut s t [.memParkPeak m]) (a : Nat) : devParked t a = devParked s a := by
  have base (n i : Nat) (hi : i < 16) : rget t (.memParkBase n i) = rget s (.memParkBase n i) := by
    refine h _ fun x hx => ?_
    rw [List.mem_singleton.mp hx]
    simp only [regOffset]
    omega
  have limit (n i : Nat) (hi : i < 16) : rget t (.memParkLimit n i) = rget s (.memParkLimit n i) := by
    refine h _ fun x hx => ?_
    rw [List.mem_singleton.mp hx]
    simp only [regOffset]
    omega
  rw [devParked, devParked, Bool.eq_iff_iff, List.any_eq_true, List.any_eq_true]
  refine exists_congr fun i => and_congr_right fun hi => ?_
  have hi : i < 16 := by simpa using mem_upto.mp hi
  simp only [rbit, rfld, base _ i hi, limit _ i hi]
  exact Iff.rfl

section
variable {s t : State} {w i : Nat} (h : SlotFilled s t (devStack (32 * w)) (32 * w / 4096) i)
include h

/-- The word of storage that serves a word of a block which has just taken a slot. -/
theorem SlotFilled.devHome (hp : devParked s (32 * w) = true) (hn : slotOf s (32 * w) = none) :
    devHome t w = some (slotWord t { tag := 32 * w / 4096, idx := i } w) := by
  have parked : devParked t (32 * w) = true := (devParked_congr h.regs _).trans hp
  have slot : slotOf t (32 * w) = some { tag := 32 * w / 4096, idx := i } := by
    rw [slotOf] at hn ⊢
    rw [h.stack, List.find?_append, hn]
    simp
  rw [Machine.devHome, if_pos parked, slot]
  rfl

theorem SlotFilled.slotWord_stack :
    devStack (32 * slotWord t { tag := 32 * w / 4096, idx := i } w) = devStack (32 * w) := by
  rw [slotWord_addr]
  exact devStack_devAddr (devStack_lt _) (holdBase_lt _ h.free (Nat.mod_lt _ (by decide)))

theorem SlotFilled.slotAt :
    slotAt t (32 * slotWord t { tag := 32 * w / 4096, idx := i } w) = some { tag := 32 * w / 4096, idx := i } := by
  have low : 32 * w % 4096 < 4096 := Nat.mod_lt _ (by decide)
  have loc := devLocal_devAddr (devStack (32 * w)) (holdBase_lt (stackOf t (devStack (32 * w))).half h.free low)
  have place : (holdBase (stackOf t (devStack (32 * w))).half + 4096 * i + 32 * w % 4096 - holdBase (stackOf t (devStack (32 * w))).half) / 4096 = i := by
    omega
  have above : ¬ holdBase (stackOf t (devStack (32 * w))).half + 4096 * i + 32 * w % 4096 < holdBase (stackOf t (devStack (32 * w))).half := by
    omega
  have others : (stackOf s (devStack (32 * w))).slots.find? (fun x => decide (x.idx = i)) = none :=
    List.find?_eq_none.mpr fun x hx => by simpa using h.fresh x hx
  rw [Machine.slotAt, h.slotWord_stack, slotWord_addr, loc]
  simp only [place, above, decide_false, Bool.or_false]
  rw [h.stack]
  simp [List.find?_append, others]

end

/-! ## A word written into a slot (R278) -/

/-- A whole word that is written into a slot changes that slot, and beside it the most slots in use and marks of words. -/
theorem putWhole_slot {s : State} {h : Nat} {x : HoldSlot} (hs : slotAt s (32 * h) = some x) (hb : NoBitErrors s) (bs : List Byte) :
    let n := devStack (32 * h)
    let t := putWhole s h bs
    stackOf t n = { stackOf s n with slots := (stackOf s n).slots.map fun y => if y.idx = x.idx then { y with data := mwrite y.data (32 * h % 4096) bs } else y } ∧
      RegsBut s t [.memParkPeak n] ∧ t = { s with stks := t.stks, regs := t.regs, devPoison := t.devPoison } := by
  intro n t
  let l := (stackOf s n).slots.map fun y => if y.idx = x.idx then { y with data := mwrite y.data (32 * h % 4096) bs } else y
  let u := setSlots s n l
  have raw : putRaw s (32 * h) bs = u := by rw [putRaw, hs]
  have none : u.devErrs = [] := by rw [show u = _ from setSlots_frame _ _ _]; exact hb
  have eq : t = { u with devPoison := t.devPoison } := by
    simp only [t, putWhole, raw, setDevPoison, none, tset, tdrop, if_true]
  refine ⟨?_, ?_, ?_⟩
  · rw [eq]
    exact (stackOf_setSlots s n n l).trans (if_pos rfl)
  · rw [eq]
    exact setSlots_regs s n l
  · rw [eq, show u = _ from setSlots_frame _ _ _]
    rfl

end Sys2Proof.Machine
end

section
/-! PROOFS. Channel sparing (R266, R267), parked blocks and the park queue (R278, R279, R281): the statement O26. -/
namespace Sys2Proof.Machine

/-! ## Whole words in one request -/

theorem joinRuns_upto (a : Nat) {bs : List Byte} (h : bs ≠ []) : joinRuns ((upto a bs.length).zip bs) = [(a, bs)] := by
  induction bs generalizing a with
  | nil => exact absurd rfl h
  | cons b t ih =>
    rw [List.length_cons, upto, List.zip_cons_cons, joinRuns]
    cases t with
    | nil => rfl
    | cons c t => rw [ih (a + 1) (by simp)]; simp

theorem wordChunks_within (w o : Nat) {bs : List Byte} (h : bs ≠ []) (hl : o + bs.length ≤ 32) : wordChunks 32 (32 * w + o) bs = [(w, o, bs)] := by
  have place (o : Nat) (ho : o < 32) : (32 * w + o) / 32 = w ∧ (32 * w + o) % 32 = o := by omega
  induction bs generalizing o with
  | nil => exact absurd rfl h
  | cons b t ih =>
    rw [List.length_cons] at hl
    obtain ⟨word, offset⟩ := place o (by omega)
    rw [wordChunks]
    cases t with
    | nil => rw [wordChunks, word, offset]
    | cons c t =>
      rw [Nat.add_assoc, ih (o + 1) (by simp) (by omega)]
      simp [word, offset]

/-- A write of the 32 bytes of a word that can be accessed. -/
theorem memWrites_word {s : State} {w : Nat} {bs : List Byte} (hf : devFault s true w = none) (hl : bs.length = 32) :
    memWrites 2 0 [(32 * w, bs)] s = putDev [(w, 0, bs)] s := by
  have some : bs ≠ [] := by rintro rfl; cases hl
  have chunk := wordChunks_within w 0 some (by omega)
  rw [Nat.add_zero] at chunk
  have reach : firstErr (devFault s true) (wordsOf 32 (32 * w) bs.length) = none := by rw [hl, wordsOf_word, firstErr_single, hf]
  simp only [memWrites, List.findSome?_cons, List.findSome?_nil, spaceFault, reach, memPuts, memWrite, devWrite, chunk]
  generalize putDev [(w, 0, bs)] s = r
  obtain ⟨t, e⟩ := r
  cases e <;> rfl

/-- A write of all bytes of a word is one of its 32 bytes. -/
theorem stackServe_writeAll {s : State} {w : Nat} (data : BitVec 256) (hf : devFault s true w = none) :
    let bs := leBytes 32 data.toNat
    let r := putDev [(w, 0, bs)] s
    stackServe s w (.write 0xFFFFFFFF data) =
      requestEnd s r.1 w { addr := w, accFmt := none, mask := 0xFFFFFFFF, data := bs, sinceNs := s.localNs } r.2 := by
  intro bs r
  have length : bs.length = 32 := leBytes_length _ _
  have enabled (i : Nat) (hi : i < 32) : (0xFFFFFFFF : BitVec 32).getLsbD i = true := by
    revert i
    decide
  have all : (((upto (32 * w) 32).zip bs).filter fun x => (0xFFFFFFFF : BitVec 32).getLsbD (x.1 - 32 * w)) = (upto (32 * w) 32).zip bs := by
    refine List.filter_eq_self.mpr fun x hx => enabled _ ?_
    have inWord := mem_upto.mp (List.of_mem_zip hx).1
    omega
  have run : joinRuns ((upto (32 * w) 32).zip bs) = [(32 * w, bs)] := by
    have joined := joinRuns_upto (32 * w) (bs := bs) (by intro h; rw [h] at length; cases length)
    rwa [length] at joined
  simp only [stackServe]
  rw [all, run, memWrites_word hf length]
  rfl

/-! ## Requests to parked blocks (R278, R279) -/

theorem parkReady_slot {s : State} {w : Nat} {x : HoldSlot} (hp : devParked s (32 * w) = true) (hx : slotOf s (32 * w) = some x) :
    parkReady s w = if x.updating then none else some s := by
  simp [parkReady, hp, hx]

theorem parkReady_fills {s : State} {w : Nat} (hp : devParked s (32 * w) = true) (hn : slotOf s (32 * w) = none)
    (hl : (stackOf s (devStack (32 * w))).slots.length < 65536) (hq : (stackOf s (devStack (32 * w))).parkQ = [])
    (hh : parkHeld s (devStack (32 * w)) = false) : parkReady s w = some (fillSlot s (devStack (32 * w)) (32 * w / 4096)) := by
  simp [parkReady, hp, hn, Nat.not_le.mpr hl, hq, hh]

theorem parkReady_queues {s : State} {w : Nat} (hp : devParked s (32 * w) = true) (hn : slotOf s (32 * w) = none)
    (hq : (stackOf s (devStack (32 * w))).parkQ ≠ []) : parkReady s w = none := by
  simp [parkReady, hp, hn, hq]

theorem exec_parkSlotFill {s : State} {word : BitVec 36} (data : BitVec 256) (hp : devParked s (32 * word.toNat) = true)
    (hn : slotOf s (32 * word.toNat) = none) (hl : (stackOf s (devStack (32 * word.toNat))).slots.length < 65536)
    (hf : devFault s true word.toNat = none) :
    exec (.parkSlotFill word 0xFFFFFFFF data) s = .next (stackServe s word.toNat (.write 0xFFFFFFFF data)) := by
  show execParkSlotFill word 0xFFFFFFFF data s = _
  simp only [execParkSlotFill, hp, hn, hl, hf, Option.isNone_none, decide_true, Bool.and_self, if_true]

/-- A write to a parked block without a slot waits behind the requests that wait already. -/
theorem exec_parkSlotFill_queues {s : State} {word : BitVec 36} (data : BitVec 256) (hp : devParked s (32 * word.toNat) = true)
    (hn : slotOf s (32 * word.toNat) = none) (hl : (stackOf s (devStack (32 * word.toNat))).slots.length < 65536)
    (hf : devFault s true word.toNat = none) (hq : (stackOf s (devStack (32 * word.toNat))).parkQ ≠ [])
    (hr : (stackOf s (devStack (32 * word.toNat))).parkQ.length < 64) :
    let m := devStack (32 * word.toNat)
    exec (.parkSlotFill word 0xFFFFFFFF data) s = .next (setStack s m { stackOf s m with parkQ := (stackOf s m).parkQ ++
      [{ addr := word.toNat, accFmt := none, mask := 0xFFFFFFFF, data := leBytes 32 data.toNat, sinceNs := s.localNs }] }) := by
  intro m
  rw [exec_parkSlotFill data hp hn hl hf, stackServe_writeAll data hf]
  simp only [putDev, parkReady_queues hp hn hq, requestEnd, waitErr, Option.isSome_some, if_true, parkPut, hr, m]

/-- From s to t a block takes a FREE slot, number i, and a word of it is written. -/
structure SlotWritten (s t : State) (w i : Nat) (bs : List Byte) : Prop where
  free : i < 65536
  fresh : ∀ x ∈ (stackOf s (devStack (32 * w))).slots, x.idx ≠ i
  slots : (stackOf t (devStack (32 * w))).slots =
    (stackOf s (devStack (32 * w))).slots ++ [{ tag := 32 * w / 4096, idx := i, data := mwrite [] (32 * w % 4096) bs }]
  regs : RegsBut s t [.memParkPeak (devStack (32 * w))]
  frame : t = { s with stks := t.stks, regs := t.regs, devPoison := t.devPoison, freeCtr := s.freeCtr + 1 }

/-- The slot of a word's block, just taken, is written (R278). -/
theorem SlotFilled.putWhole {s u : State} {w i : Nat} (h : SlotFilled s u (devStack (32 * w)) (32 * w / 4096) i) (hb : NoBitErrors s) (bs : List Byte) :
    SlotWritten s (putWhole u (slotWord u { tag := 32 * w / 4096, idx := i } w) bs) w i bs := by
  obtain ⟨stack, regs, frame⟩ := putWhole_slot h.slotAt (h.errs hb) bs
  have offset : 32 * slotWord u { tag := 32 * w / 4096, idx := i } w % 4096 = 32 * w % 4096 := by
    rw [slotWord_addr, devAddr_mod]
    have base : holdBase (stackOf u (devStack (32 * w))).half % 4096 = 0 := by
      cases (stackOf u (devStack (32 * w))).half <;> rfl
    omega
  rw [h.slotWord_stack, offset] at stack
  rw [h.slotWord_stack] at regs
  generalize Machine.putWhole u (slotWord u { tag := 32 * w / 4096, idx := i } w) bs = t at stack regs frame
  refine ⟨h.free, h.fresh, ?_, fun r hr => (regs r hr).trans (h.regs r hr), ?_⟩
  · have others : (stackOf s (devStack (32 * w))).slots.map (fun y => if y.idx = i then { y with data := mwrite y.data (32 * w % 4096) bs } else y) =
        (stackOf s (devStack (32 * w))).slots :=
      List.map_congr_left (fun y hy => if_neg (h.fresh y hy)) |>.trans (List.map_id _)
    rw [stack, h.stack]
    show List.map _ (_ ++ _) = _
    rw [List.map_append, others]
    simp
  · have errs : u.devErrs = s.devErrs := (h.errs hb).trans hb.symm
    rw [frame, h.frame, errs]

/-- A write to a parked block without a slot takes a FREE one where no request waits. -/
theorem exec_parkSlotFill_takes {s : State} {word : BitVec 36} (data : BitVec 256) (hp : devParked s (32 * word.toNat) = true)
    (hn : slotOf s (32 * word.toNat) = none) (hl : (stackOf s (devStack (32 * word.toNat))).slots.length < 65536)
    (hf : devFault s true word.toNat = none) (hq : (stackOf s (devStack (32 * word.toNat))).parkQ = [])
    (hh : parkHeld s (devStack (32 * word.toNat)) = false) (hd : (stackOf s (devStack (32 * word.toNat))).deadCh = []) (hb : NoBitErrors s) :
    ∃ t i, exec (.parkSlotFill word 0xFFFFFFFF data) s = .next t ∧ SlotWritten s t word.toNat i (leBytes 32 data.toNat) := by
  obtain ⟨i, filled⟩ := fillSlot_fills hl (32 * word.toNat / 4096)
  have alive : devDead (fillSlot s (devStack (32 * word.toNat)) (32 * word.toNat / 4096))
      (slotWord (fillSlot s (devStack (32 * word.toNat)) (32 * word.toNat / 4096)) { tag := 32 * word.toNat / 4096, idx := i } word.toNat) = false := by
    rw [devDead, filled.slotWord_stack, filled.stack]
    simp [hd, setHas]
  have put := putDev_whole (parkReady_fills hp hn hl hq hh) (filled.devHome hp hn) alive (leBytes_length 32 data.toNat)
  refine ⟨_, i, ?_, filled.putWhole hb (leBytes 32 data.toNat)⟩
  rw [exec_parkSlotFill data hp hn hl hf, stackServe_writeAll data hf, put]
  rfl

/-! ## The head of the park queue (R279, R281) -/

/-- The state in which the head of a park queue asks: nothing is before it. -/
def queueAside (s : State) (n : Nat) : State := setStack s n { stackOf s n with parkQ := [] }

section
variable {s : State} {stack : BitVec 5} {r : ParkReq} {rest : List ParkReq} {o : Nat × Nat}

section
variable (hq : (stackOf s stack.toNat).parkQ = r :: rest) (ho : r.origin = some o)
include hq ho

theorem exec_parkQueueGrant_ready {u : State} (hr : parkReady (queueAside s stack.toNat) r.addr = some u) :
    exec (.parkQueueGrant stack) s = .next (setStack u stack.toNat { stackOf u stack.toNat with parkQ := rest }) := by
  rw [queueAside] at hr
  show execParkQueueGrant stack s = _
  simp only [execParkQueueGrant, hq, ho, hr]

theorem exec_parkQueueGrant_waits (hr : parkReady (queueAside s stack.toNat) r.addr = none) :
    exec (.parkQueueGrant stack) s = .next s := by
  rw [queueAside] at hr
  show execParkQueueGrant stack s = _
  simp only [execParkQueueGrant, hq, ho, hr]

end

theorem slotOf_queueAside (s : State) (n a : Nat) : slotOf (queueAside s n) a = slotOf s a := by
  rw [slotOf, slotOf, queueAside, stackOf_setStack]
  split
  · next e => rw [e]
  · rfl

/-- A request whose block is not parked, or has a slot that is not being updated, may be served. -/
theorem parkReady_queueAside {s : State} {n w : Nat}
    (h : devParked s (32 * w) = false ∨ ∃ x, slotOf s (32 * w) = some x ∧ x.updating = false) :
    parkReady (queueAside s n) w = some (queueAside s n) := by
  by_cases hp : devParked s (32 * w) = true
  · obtain hnot | ⟨x, hx, hu⟩ := h
    · rw [hnot] at hp
      cases hp
    · rw [parkReady_slot (s := queueAside s n) hp ((slotOf_queueAside s n _).trans hx), hu]
      rfl
  · exact parkReady_unparked (Bool.eq_false_iff.mpr hp)

/-- The request of a command at the head of the park queue has waited for TIMEOUT. -/
theorem exec_holdOverrun_command {core order : Nat} (hq : (stackOf s stack.toNat).parkQ = r :: rest) (ho : r.origin = some (core, order))
    (hc : cmdOrigin ≤ core) (hm : core < collOrigin) (hl : rfld s (.memPark stack.toNat) 0 32 ≠ 0)
    (ht : r.sinceNs + 1000 * rfld s (.memPark stack.toNat) 0 32 < s.localNs) :
    exec (.holdOverrun stack) s = .next (modFlight (parkForget (setStack s stack.toNat { stackOf s stack.toNat with parkQ := rest })
      fun o => decide (o = (core, order))) (core - cmdOrigin) (BitVec.ofNat 32 order) (ended .holdOverrun)) := by
  have overdue : ¬ (rfld s (.memPark stack.toNat) 0 32 = 0 ∨ s.localNs ≤ r.sinceNs + 1000 * rfld s (.memPark stack.toNat) 0 32) :=
    not_or.mpr ⟨hl, Nat.not_le.mpr ht⟩
  show execHoldOverrun stack s = _
  simp only [execHoldOverrun, hq, overdue, if_false, ho, ge_iff_le, Nat.not_le.mpr hm, hc, if_true]
  rfl

end

/-- A stack whose park queue loses its head. -/
theorem parkGone_head {s : State} {n : Nat} {r : ParkReq} {rest : List ParkReq} (hq : (stackOf s n).parkQ = r :: rest) :
    ParkGone s (setStack s n { stackOf s n with parkQ := rest }) := by
  intro m
  rw [stackOf_setStack]
  split
  · next e =>
    rw [e, hq]
    exact ⟨rfl, List.sublist_cons_self r rest⟩
  · exact ⟨rfl, List.Sublist.refl _⟩

/-- A request at the head of a park queue whose block took a FREE slot leaves the queue. -/
theorem SlotFilled.granted {s u : State} {n tag i : Nat} (h : SlotFilled (queueAside s n) u n tag i) (rest : List ParkReq) :
    let k := stackOf s n
    let t := Machine.setStack u n { stackOf u n with parkQ := rest }
    i < 65536 ∧ (∀ x ∈ k.slots, x.idx ≠ i) ∧ stackOf t n = { k with parkQ := rest, slots := k.slots ++ [{ tag := tag, idx := i }] } ∧
      (∀ m, m ≠ n → stackOf t m = stackOf s m) ∧ RegsBut s t [.memParkPeak n] ∧
      t = { s with stks := t.stks, regs := t.regs, devPoison := t.devPoison, devErrs := t.devErrs, freeCtr := s.freeCtr + 1 } := by
  intro k t
  have own : stackOf (queueAside s n) n = { k with parkQ := [] } := stackOf_setStack_same _ _ _
  have stack := h.stack
  have fresh := h.fresh
  rw [own] at stack fresh
  refine ⟨h.free, fresh, ?_, fun m hm => ?_, fun x hx => (rget_setStack _ _ _ _).trans (h.regs x hx), ?_⟩
  · rw [stackOf_setStack_same, stack]
  · rw [stackOf_setStack_other _ _ _ _ hm, h.others m hm, queueAside, stackOf_setStack_other _ _ _ _ hm]
  · show Machine.setStack u n _ = _
    rw [h.frame]
    rfl

/-- The command whose request waited too long fails with HOLD_OVERRUN, and its requests leave the park queues. -/
theorem holdOverrun_ends {s : State} {n core order : Nat} {r : ParkReq} {rest : List ParkReq} (hq : (stackOf s n).parkQ = r :: rest) :
    let t := modFlight (parkForget (setStack s n { stackOf s n with parkQ := rest }) fun o => decide (o = (core, order)))
      (core - cmdOrigin) (BitVec.ofNat 32 order) (ended .holdOverrun)
    (stackOf t n).parkQ.Sublist rest ∧ FlightEnds s t (core - cmdOrigin) (BitVec.ofNat 32 order) (ended .holdOverrun) ∧
      t = { s with stks := t.stks, queues := t.queues } := by
  intro t
  let u := setStack s n { stackOf s n with parkQ := rest }
  let v := parkForget u fun o => decide (o = (core, order))
  have gone : ParkGone u v := parkForget_gone u _
  have frame : v = { u with stks := v.stks } := parkForget_frame u _
  obtain ⟨flight, only⟩ := modFlight_is v (core - cmdOrigin) (BitVec.ofNat 32 order) (ended .holdOverrun)
  have own : (stackOf u n).parkQ = rest := by rw [show stackOf u n = _ from stackOf_setStack_same _ _ _]
  refine ⟨own ▸ (gone n).2, ⟨flight.of_queues ?_, (parkGone_head hq).trans gone⟩, ?_⟩
  · rw [frame]
    rfl
  · rw [show t = _ from only, frame]
    rfl

/-! ## Sparing (R266, R267) -/

/-- The words of a channel with bit errors as its copy reads them. -/
def channelCopied (s : State) (n ch : Nat) : State :=
  (s.devErrs.filter fun x => decide (devStack (32 * x.1) = n) && decide (devChan (stackOf s n).half (32 * x.1) = ch)).foldl
    (fun s x => copyRead s x.1) s

theorem channelCopied_noBitErrors {s : State} (hb : NoBitErrors s) (n ch : Nat) : channelCopied s n ch = s := by
  rw [channelCopied, show s.devErrs = [] from hb]
  rfl

/-- A stack whose spare channel serves a channel since its copy. -/
def sparedStack (k : Stack) (ch : Nat) (failed : List Nat) : Stack :=
  { k with migrating := none, due := none, spareUsed := true, spareFor := ch, failedCh := setAdd ch failed }

theorem exec_channelSpared {s : State} {stack : BitVec 5} {ch : Nat} (hm : (stackOf s stack.toNat).migrating = some ch)
    (hr : (stackOf s stack.toNat).ready = true) :
    let n := stack.toNat
    let u := channelCopied s n ch
    exec (.channelSpared stack) s =
      .next (report (setStack u n (sparedStack (stackOf u n) ch (stackOf s n).failedCh)) .memChannelSpared (resource 0x04 (33 * n + ch)) 0
        (BitVec.ofNat 64 ch) (stackOf s n).dueFollow) := by
  show execChannelSpared stack s = _
  simp only [execChannelSpared, hm, hr, Bool.not_true, Bool.false_eq_true, if_false]
  rfl

/-- What the copy of a channel leaves of its stack, and of the contents where no bit error stands. -/
theorem exec_channelSpared_effect {s : State} {stack : BitVec 5} {ch : Nat} (hm : (stackOf s stack.toNat).migrating = some ch)
    (hr : (stackOf s stack.toNat).ready = true) :
    let n := stack.toNat
    ∃ t, exec (.channelSpared stack) s = .next t ∧ (stackOf t n).spareUsed = true ∧ (stackOf t n).spareFor = ch ∧
      (stackOf t n).migrating = none ∧ ch ∈ (stackOf t n).failedCh ∧ (NoBitErrors s → t.dev = s.dev ∧ t.devPoison = s.devPoison) := by
  intro n
  let u := channelCopied s n ch
  let k := sparedStack (stackOf u n) ch (stackOf s n).failedCh
  have own : stackOf (setStack u n k) n = k := stackOf_setStack_same _ _ _
  have row := exec_channelSpared hm hr
  have marks := report_chanDueOnly (setStack u n k) .memChannelSpared (resource 0x04 (33 * n + ch)) 0 (BitVec.ofNat 64 ch) (stackOf s n).dueFollow
  have memory := report_recordsOnly (setStack u n k) .memChannelSpared (resource 0x04 (33 * n + ch)) 0 (BitVec.ofNat 64 ch) (stackOf s n).dueFollow
  refine ⟨_, row, ?_, ?_, ?_, ?_, fun hb => ?_⟩
  · rw [marks.spareUsed, own]; rfl
  · rw [marks.spareFor, own]; rfl
  · rw [marks.migrating, own]; rfl
  · rw [marks.failedCh, own]
    exact mem_setAdd.mpr (.inl rfl)
  · have same : u = s := channelCopied_noBitErrors hb n ch
    rw [memory.dev, memory.devPoison, setStack_dev, setStack_devPoison, same]
    exact ⟨rfl, rfl⟩

/-- Stack m serves its channels in t by the physical ones of s, and the same channels are poisoned whole. -/
structure ServedAlike (s t : State) (m : Nat) : Prop where
  half : (stackOf t m).half = (stackOf s m).half
  spareUsed : (stackOf t m).spareUsed = (stackOf s m).spareUsed
  spareFor : (stackOf t m).spareFor = (stackOf s m).spareFor
  poisonCh : (stackOf t m).poisonCh = (stackOf s m).poisonCh

theorem ServedAlike.after {s t u : State} {m : Nat} (h : ServedAlike t u m) (g : ServedAlike s t m) : ServedAlike s u m :=
  ⟨h.half.trans g.half, h.spareUsed.trans g.spareUsed, h.spareFor.trans g.spareFor, h.poisonCh.trans g.poisonCh⟩

theorem ChanDueOnly.servedAlike {s t : State} (h : ChanDueOnly s t) (m : Nat) : ServedAlike s t m :=
  ⟨h.half m, h.spareUsed m, h.spareFor m, h.poisonCh m⟩

/-- A channel that was due when CH32 came into service for another one is served as before. -/
theorem dueDisplaced_servedAlike (s : State) (n m : Nat) : ServedAlike s (dueDisplaced s n) m := by
  have dropped : ServedAlike s (setStack s n { stackOf s n with due := none, migrating := none }) m := by
    by_cases e : m = n
    · subst e
      constructor <;> rw [stackOf_setStack_same]
    · constructor <;> rw [stackOf_setStack_other _ _ _ _ e]
  unfold dueDisplaced
  dsimp only
  split
  · exact (ChanDueOnly.refl s).servedAlike m
  · exact ((channelDue_chanDueOnly _ _ _ _).servedAlike m).after dropped

theorem dueDisplaced_recordsOnly (s : State) (n : Nat) : RecordsOnly s (dueDisplaced s n) := by
  unfold dueDisplaced
  dsimp only
  split
  · exact .refl s
  · exact (channelDue_recordsOnly _ _ _ _).after ((RecordsOnly.refl s).setStack _ _)

/-- While CH32 is free every channel is served by the one of its number. -/
theorem logicalChan_spareFree {k : Stack} (hh : k.half = false) (hs : spareFree k = true) {c : Nat} (hc : c < 32) : logicalChan k c = some c := by
  have unused : k.spareUsed = false := by
    simp only [spareFree, Bool.and_eq_true, Bool.not_eq_true'] at hs
    exact hs.1.1
  have own (l : Nat) : physChan k l = l := by simp [physChan, hh, unused]
  simp only [logicalChan, own, hh, Bool.false_eq_true, if_false]
  have parts : upto 0 32 = upto 0 c ++ c :: upto (c + 1) (31 - c) := by
    have cut := upto_append 0 c (31 - c + 1)
    rw [show c + (31 - c + 1) = 32 by omega, Nat.zero_add] at cut
    exact cut
  have before : (upto 0 c).find? (fun l => decide (l = c)) = none :=
    List.find?_eq_none.mpr fun l hl => by
      have low := mem_upto.mp hl
      simp only [decide_eq_true_eq]
      omega
  rw [parts, List.find?_append, before]
  simp

/-- Whether a word lies in a logical channel of a stack. -/
def inChannel (s : State) (n c w : Nat) : Bool := decide (devStack (32 * w) = n) && decide (devChan (stackOf s n).half (32 * w) = c)

/-- CH32 takes the number of a channel whose interface fails, every word of which is poisoned (R267). -/
def interfaceSpared (s : State) (n c : Nat) : State :=
  let k := stackOf s n
  setStack { s with devPoison := s.devPoison.filter fun w => !inChannel s n c w, devErrs := s.devErrs.filter fun x => !inChannel s n c x.1 } n
    { k with spareUsed := true, spareFor := c, failedCh := setAdd c k.failedCh, migrating := none,
             due := (if k.due = some c then none else k.due), poisonCh := setAdd c k.poisonCh }

/-- The state after the failure of a channel's interface with the spare unused. -/
def interfaceFailed (s : State) (n c : Nat) : State :=
  dueDisplaced (report (interfaceSpared s n c) .memChannelSpared (resource 0x04 (33 * n + c)) 0 (BitVec.ofNat 64 c) false) n

theorem exec_channelInterfaceFail {s : State} {stack : BitVec 5} {chan : BitVec 6} (hc : chan.toNat < 32) (hh : (stackOf s stack.toNat).half = false)
    (hs : spareFree (stackOf s stack.toNat) = true) (hf : chan.toNat ∉ (stackOf s stack.toNat).failedCh) :
    exec (.channelInterfaceFail stack chan) s = .next (interfaceFailed s stack.toNat chan.toNat) := by
  have works : ¬ (chan.toNat > 32 ∨ setHas chan.toNat (stackOf s stack.toNat).failedCh = true) := by
    rw [setHas_eq_false.mpr hf]
    simp
    omega
  show Host.Outcome.next (chanFail s stack.toNat chan.toNat) = _
  simp only [chanFail, works, logicalChan_spareFree hh hs hc, hs, if_true, if_false]
  rfl

theorem interfaceFailed_servedAlike (s : State) (n c m : Nat) : ServedAlike (interfaceSpared s n c) (interfaceFailed s n c) m :=
  (dueDisplaced_servedAlike _ _ _).after ((report_chanDueOnly _ _ _ _ _ _).servedAlike m)

theorem interfaceFailed_recordsOnly (s : State) (n c : Nat) : RecordsOnly (interfaceSpared s n c) (interfaceFailed s n c) :=
  (dueDisplaced_recordsOnly _ _).after (report_recordsOnly _ _ _ _ _ _)

/-- CH32 serves the number of the channel. -/
theorem interfaceFailed_serves {s : State} {n c : Nat} (hh : (stackOf s n).half = false) :
    let k := stackOf (interfaceFailed s n c) n
    k.spareUsed = true ∧ k.spareFor = c ∧ physChan k c = 32 := by
  intro k
  have alike := interfaceFailed_servedAlike s n c n
  have used : k.spareUsed = true := by rw [alike.spareUsed, interfaceSpared, stackOf_setStack_same]
  have number : k.spareFor = c := by rw [alike.spareFor, interfaceSpared, stackOf_setStack_same]
  have half : k.half = false := by rw [alike.half, interfaceSpared, stackOf_setStack_same, hh]
  exact ⟨used, number, by simp [physChan, used, number, half]⟩

/-- Every word of the channel is poisoned. -/
theorem devPoisoned_interfaceFailed_own {s : State} {n c w : Nat} (hh : (stackOf s n).half = false) (hs : devStack (32 * w) = n)
    (hc : devChan false (32 * w) = c) : devPoisoned (interfaceFailed s n c) w = true := by
  have alike := interfaceFailed_servedAlike s n c n
  have own : inChannel s n c w = true := by simp [inChannel, hs, hh, hc]
  have half : (stackOf (interfaceFailed s n c) n).half = false := by rw [alike.half, interfaceSpared, stackOf_setStack_same, hh]
  have poisoned : (stackOf (interfaceFailed s n c) n).poisonCh = setAdd c (stackOf s n).poisonCh := by
    rw [alike.poisonCh, interfaceSpared, stackOf_setStack_same]
  have listed : (interfaceFailed s n c).devPoison = s.devPoison.filter fun w => !inChannel s n c w :=
    (interfaceFailed_recordsOnly s n c).devPoison
  simp [devPoisoned, hs, half, hc, poisoned, listed, setHas, mem_setAdd, own]

/-- Words of other stacks are poisoned as before. -/
theorem devPoisoned_interfaceFailed_other {s : State} {n c w : Nat} (hs : devStack (32 * w) ≠ n) :
    devPoisoned (interfaceFailed s n c) w = devPoisoned s w := by
  have alike := interfaceFailed_servedAlike s n c (devStack (32 * w))
  have before : stackOf (interfaceSpared s n c) (devStack (32 * w)) = stackOf s (devStack (32 * w)) := stackOf_setStack_other _ _ _ _ hs
  have other : inChannel s n c w = false := by simp [inChannel, hs]
  have listed : (interfaceFailed s n c).devPoison = s.devPoison.filter fun w => !inChannel s n c w :=
    (interfaceFailed_recordsOnly s n c).devPoison
  simp [devPoisoned, alike.half, alike.poisonCh, before, listed, setHas, other]

/-! ## Self-refresh (R275) -/

theorem exec_selfRefreshEntry {s : State} {stack : BitVec 5} (hr : (stackOf s stack.toNat).ready = true)
    (hd : (dieOf s (stack.toNat / 8)).st = .out) : exec (.selfRefreshEntry stack) s = .next (enterSelfRefresh s stack.toNat) := by
  show execSelfRefreshEntry stack s = _
  simp only [execSelfRefreshEntry, hr, hd, decide_true, Bool.and_self, if_true]

/-! ## The statement -/

/-- Settles O26: sparing by what CH32 then serves, a parked block by the slot that it takes, the head of the park queue by whether its
block is ready. -/
theorem sparingAndParking : Obligations.SparingAndParking := by
  unfold Obligations.SparingAndParking
  refine ⟨fun s stack chan ch => ?_, fun s stack word data r rest core order => ?_⟩
  · intro n k
    refine ⟨fun hd hr hs hm => ?_, exec_channelSpared_effect, fun hc hh hs hf => ?_⟩
    · show execChannelSpareCopy stack s = _
      simp [execChannelSpareCopy, n, k, hd, hr, hs, hm]
    · obtain ⟨used, number, serves⟩ := interfaceFailed_serves (s := s) (n := n) (c := chan.toNat) hh
      exact ⟨_, exec_channelInterfaceFail hc hh hs hf, used, number, serves, (interfaceFailed_recordsOnly s n chan.toNat).dev,
        fun w hw hch => devPoisoned_interfaceFailed_own hh hw hch, fun w hw => devPoisoned_interfaceFailed_other hw⟩
  · intro n k
    refine ⟨exec_selfRefreshEntry, ?_, fun hq ho => ⟨fun hready => ?_, fun hp hs hn hl hh => ?_, fun hx hp => ?_, fun hc hm hl ht => ?_⟩⟩
    · intro a m hp hn hl hf hh hd hb
      refine ⟨exec_parkSlotFill_queues data hp hn hl hf, fun hq => ?_⟩
      obtain ⟨t, i, row, written⟩ := exec_parkSlotFill_takes data hp hn hl hf hq hh hd hb
      exact ⟨t, i, row, written.free, written.fresh, written.slots, by rw [written.frame], written.regs, written.frame⟩
    · refine ⟨_, exec_parkQueueGrant_ready hq ho (parkReady_queueAside hready), ?_, fun m hm => ?_, rfl⟩
      · rw [stackOf_setStack_same, queueAside, stackOf_setStack_same]
      · rw [stackOf_setStack_other _ _ _ _ hm, queueAside, stackOf_setStack_other _ _ _ _ hm]
    · have own : stackOf (queueAside s n) n = { k with parkQ := [] } := stackOf_setStack_same _ _ _
      obtain ⟨i, filled⟩ := fillSlot_fills (s := queueAside s n) (n := n) (by rw [own]; exact hl) (32 * r.addr / 4096)
      have ready := parkReady_fills (s := queueAside s n) (w := r.addr) hp ((slotOf_queueAside s n _).trans hn)
      rw [hs, own] at ready
      exact ⟨_, i, exec_parkQueueGrant_ready hq ho (ready hl rfl hh), filled.granted rest⟩
    · obtain ⟨x, hslot, hu⟩ := hx
      refine exec_parkQueueGrant_waits hq ho ?_
      rw [parkReady_slot (s := queueAside s n) hp ((slotOf_queueAside s n _).trans hslot), hu]
      rfl
    · exact ⟨_, exec_holdOverrun_command hq ho hc hm hl ht, holdOverrun_ends hq⟩

end Sys2Proof.Machine
end

section
/-! PROOFS. Blocks that their stamp skips (R294, R307), and a correction of a word that such a block writes (R263): the statement O27. -/
namespace Sys2Proof.Machine

/-! ## A skipped block that leaves its unit -/

theorem rget_modFlight (s : State) (q : Nat) (seq : Word32) (f : Flight → Flight) (r : Reg) : rget (modFlight s q seq f) r = rget s r := rfl

/-- A skipped block that leaves is counted as one (R294, R307). -/
theorem rget_blockDone_skipped (s : State) (n : Nat) {b : UpdBlock} (hk : b.skip = true) :
    rget (blockDone s n b) (.updCtr n 1) = rget s (.updCtr n 1) + 1 := by
  have apart : regOffset (.updCtr n 1) ≠ regOffset (.updCtr n 7) := by simp only [regOffset]; omega
  simp only [blockDone, updDone, updReport, rget_modFlight, hk, if_true]
  rw [rget_rbump_other _ _ apart, rget_rbump_same]
  rfl

/-- The oldest block of a unit, which its stamp skips, leaves once its writes are acknowledged (R294, R299 step 4). -/
theorem exec_updInPlace_skipped {s : State} {stack : BitVec 5} {b : UpdBlock} {bs : List UpdBlock}
    (hs : unitServes s stack.toNat = true) (hb : (updOf s stack.toNat).blocks = b :: bs) (hc : b.step = .committed)
    (hl : b.slow = false) (hk : b.skip = true) (hw : (inPlace s b).2 = none) :
    let t := (inPlace s b).1
    let left := dropFirst (fun x => decide (x.step = .committed)) (updOf t stack.toNat).blocks
    exec (.updInPlace stack) s = .next (blockDone (setUpd t stack.toNat { updOf t stack.toNat with blocks := left }) stack.toNat b) := by
  intro t left
  have oldest : blockAt (updOf s stack.toNat) .committed = some b := by simp [blockAt, hb, hc]
  show execUpdInPlace stack s = _
  simp [execUpdInPlace, oldest, hs, hl, hk, hw, t, left]

/-! ## A correction that is counted at the unit's register -/

/-- A block that its stamp skips, with one write, of a part of word 0. -/
def partSkipped : UpdBlock := { q := 0, seq := 0, index := 0, step := .committed, gAddr := 0, skip := true, writes := [(0, [1])] }

/-- Word 0 of stack 0 with a bad symbol. The stack is in half mode, and its map names for channel 0 the physical channel 16,321,
where R268 has channels 0 to 32: the counter of its corrections would stand where the unit has its count of skipped blocks. -/
def strayChannel : State :=
  { devErrs := [(0, 1)]
    stks := [(0, { ready := true, half := true, halfMap := [16321] })]
    upds := [(0, { ready := true, blocks := [partSkipped] })] }

theorem strayChannel_serves : unitServes strayChannel 0 = true := by decide +kernel

/-- The write is applied, and the correction of its word has advanced the unit's count of skipped blocks. -/
theorem strayChannel_written :
    (inPlace strayChannel partSkipped).2 = none ∧
      rget (inPlace strayChannel partSkipped).1 (.updCtr 0 1) = rget strayChannel (.updCtr 0 1) + 1 := by
  decide +kernel

/-! ## The statement -/

/-- Refutes O27: its clause for skipped blocks holds of every state and every list of writes, also of a write of a part of a word that is
corrected first (R263), on a stack whose half-mode map names a channel beyond 32. The correction is then counted at the register
that counts skipped blocks, which advances by two and not by one. -/
theorem not_updateBlocks : ¬ Obligations.UpdateBlocks := by
  unfold Obligations.UpdateBlocks
  intro h
  obtain ⟨written, corrected⟩ := strayChannel_written
  obtain ⟨-, -, -, -, skipped, -⟩ := h.2 strayChannel 0 partSkipped [] strayChannel_serves
  obtain ⟨t, row, -, counted, -⟩ := skipped rfl rfl rfl rfl written
  have leaves := exec_updInPlace_skipped (stack := 0) strayChannel_serves rfl rfl rfl rfl written
  rw [Host.Outcome.next.inj (row.symm.trans leaves)] at counted
  have twice : rget strayChannel (.updCtr 0 1) + 1 + 1 = rget strayChannel (.updCtr 0 1) + 1 := by
    rw [← corrected]
    exact (rget_blockDone_skipped _ 0 rfl).symm.trans counted
  exact absurd twice (by decide)

end Sys2Proof.Machine
end

section
/-! PROOFS. A stack that serves again, with its contents or without them (R300, R301). -/
namespace Sys2Proof.Machine

/-! ## With its contents (R300) -/

theorem journalFix_noBitErrors {s : State} (h : NoBitErrors s) (n : Nat) : journalFix s n = s := by
  rw [journalFix, show s.devErrs = [] from h]
  rfl

theorem recoveryOrder_setUpd (s : State) (n : Nat) (u : UpdUnit) : recoveryOrder (setUpd s n u) n = recoveryOrder s n := rfl

/-- Recovery that finds no record leaves the next record number above all that the journal holds, and the stack serves. -/
theorem recoverStack_noRecord {s : State} {n : Nat} (hb : NoBitErrors s) (ho : recoveryOrder s n = []) :
    recoverStack s n = stackBack (setUpd s n { updOf s n with nextSeq := seqAfter s n }) n := by
  simp only [recoverStack, journalFix_noBitErrors hb, recoveryOrder_setUpd, ho, recoverAll, List.foldl_nil, Bool.false_eq_true, if_false]

theorem exec_journalRecovery {s : State} {stack : BitVec 5} (hr : (updOf s stack.toNat).recovering = true)
    (hc : dieCalled s (stack.toNat / 8) = false) (hh : recoveryHeld s stack.toNat = false) :
    exec (.journalRecovery stack) s = .next (recoverStack s stack.toNat) := by
  show execJournalRecovery stack s = _
  simp [execJournalRecovery, hr, hc, hh]

/-! ## Without its contents (R301) -/

/-- A memory of which the bytes at some addresses are dropped reads zero there and as before elsewhere (log entry 4). -/
theorem mget_filter (p : Nat → Bool) (m : List Host.Cell) (a : Nat) :
    mget (m.filter fun c => p c.1) a = if p a then mget m a else 0 := by
  induction m with
  | nil => simp [mget, tget, memZero]
  | cons c t ih =>
    obtain ⟨k, v⟩ := c
    simp only [mget] at ih ⊢
    by_cases hk : a = k
    · subst hk
      by_cases hp : p a <;> simp [hp, tget, ih]
    · by_cases hp : p k <;> simp [hp, hk, tget, ih]

/-- Device memory without what a stack stored, its marks and its bit errors. -/
def storageGone (s : State) (n : Nat) : State :=
  { s with dev := s.dev.filter fun c => decide (devStack c.1 ≠ n)
           devPoison := s.devPoison.filter fun w => decide (devStack (32 * w) ≠ n)
           devErrs := s.devErrs.filter fun x => decide (devStack (32 * x.1) ≠ n) }

/-- A stack that serves with nothing stored, held or waiting, before its start is recorded. -/
def startedEmpty (s : State) (n : Nat) : State :=
  let s := setStack (storageGone s n) n { stackOf s n with poisonCh := [], slots := [], parkQ := [], merge := [] }
  stackBack (setUpd s n { updOf s n with slowReplay := [] }) n

theorem initJournal_eq (s : State) (n : Nat) :
    initJournal s n = report (startedEmpty s n) .stackContentsLost (resource 0x05 n) 0 0 false := rfl

theorem stackOf_startedEmpty (s : State) (n : Nat) :
    stackOf (startedEmpty s n) n =
      { stackOf s n with ready := true, selfRefresh := false, kept := false, poisonCh := [], slots := [], parkQ := [], merge := [] } := by
  simp [startedEmpty, stackBack]

theorem updOf_startedEmpty (s : State) (n : Nat) :
    updOf (startedEmpty s n) n = { updOf s n with slowReplay := [], ready := true, recovering := false, journalInit := false } := by
  have kept : updOf (storageGone s n) n = updOf s n := rfl
  simp [startedEmpty, stackBack, kept]

theorem mget_startedEmpty (s : State) (n a : Nat) : mget (startedEmpty s n).dev a = if devStack a ≠ n then mget s.dev a else 0 :=
  (mget_filter (fun a => decide (devStack a ≠ n)) s.dev a).trans (by simp)

/-- From s to t the contents of stack n are gone, and the stack and its unit serve. -/
structure ContentsGone (s t : State) (n : Nat) : Prop where
  ready : (stackOf t n).ready = true
  slots : (stackOf t n).slots = []
  merge : (stackOf t n).merge = []
  parkQ : (stackOf t n).parkQ = []
  unit : (updOf t n).ready = true
  started : (updOf t n).journalInit = false
  own : ∀ a, devStack a = n → mget t.dev a = 0
  others : ∀ a, devStack a ≠ n → mget t.dev a = mget s.dev a

theorem initJournal_contentsGone (s : State) (n : Nat) : ContentsGone s (initJournal s n) n := by
  rw [initJournal_eq]
  have alike := report_chanDueOnly (startedEmpty s n) .stackContentsLost (resource 0x05 n) 0 0 false n
  have records := report_recordsOnly (startedEmpty s n) .stackContentsLost (resource 0x05 n) 0 0 false
  revert alike records
  generalize report (startedEmpty s n) .stackContentsLost (resource 0x05 n) 0 0 false = t
  intro alike records
  rw [stackOf_startedEmpty] at alike
  have unit : updOf t n = _ := (congrArg (fun s => updOf s n) records :).trans (updOf_startedEmpty s n)
  have byte (a : Nat) : mget t.dev a = _ := (congrArg (mget · a) records.dev).trans (mget_startedEmpty s n a)
  exact {
    ready := congrArg Stack.ready alike
    slots := congrArg Stack.slots alike
    merge := congrArg Stack.merge alike
    parkQ := congrArg Stack.parkQ alike
    unit := congrArg UpdUnit.ready unit
    started := congrArg UpdUnit.journalInit unit
    own := fun a ha => (byte a).trans (if_neg (not_not.mpr ha))
    others := fun a ha => (byte a).trans (if_pos ha) }

theorem exec_journalInit {s : State} {stack : BitVec 5} (h : (updOf s stack.toNat).journalInit = true) :
    exec (.journalInit stack) s = .next (initJournal s stack.toNat) := by
  show execJournalInit stack s = _
  rw [execJournalInit, if_pos h]

end Sys2Proof.Machine
end

section
/-! PROOFS. The replay of a slow-tier record (R302): its writes to host memory, and the registers that its release leaves alone. -/
namespace Sys2Proof.Machine

/-! ## Writes of host memory (R512, R514) -/

/-- From s to t host memory changes at most. -/
def HostMemOnly (s t : State) : Prop := t = { s with hostMem := t.hostMem }

theorem HostMemOnly.rget {s t : State} (h : HostMemOnly s t) (r : Reg) : Machine.rget t r = Machine.rget s r := by
  rw [Machine.rget, Machine.rget, show t.regs = s.regs by rw [h]]

theorem memPuts_host {s : State} (hh : hostServes s = true) (ws : List (Nat × List Byte)) :
    HostMemOnly s (memPuts 3 0 ws s).1 ∧ (memPuts 3 0 ws s).2 = none := by
  induction ws generalizing s with
  | nil => exact ⟨rfl, rfl⟩
  | cons w ws ih =>
    obtain ⟨a, bs⟩ := w
    have up : hostErr s = none := Option.isNone_iff_eq_none.mp hh
    have put : memWrite s 3 0 a bs = ({ s with hostMem := mwrite s.hostMem a bs }, none) := by simp [memWrite, hostWrite, up]
    obtain ⟨frame, all⟩ := ih (s := { s with hostMem := mwrite s.hostMem a bs }) hh
    rw [memPuts, put]
    exact ⟨by rw [HostMemOnly, frame], by simp only [all, orErr]⟩

theorem memWrites_host {s : State} (hh : hostServes s = true) (ws : List (Nat × List Byte)) :
    HostMemOnly s (memWrites 3 0 ws s).1 ∧ (memWrites 3 0 ws s).2 = none := by
  have up : hostErr s = none := Option.isNone_iff_eq_none.mp hh
  have reach : (ws.findSome? fun w => spaceFault s 3 0 w.1 w.2.length) = none := by simp [List.findSome?_eq_none_iff, spaceFault, up]
  rw [memWrites, reach]
  exact memPuts_host hh ws

/-! ## Registers that a write of a whole word leaves alone (R278, R283) -/

/-- The registers of the most slots in use. -/
def parkPeaks : List Reg := (upto 0 32).map .memParkPeak

theorem memParkPeak_mem_parkPeaks {n : Nat} (hn : n < 32) : Reg.memParkPeak n ∈ parkPeaks :=
  List.mem_map_of_mem (mem_upto.mpr ⟨Nat.zero_le n, by omega⟩)

/-- From s to t no register changes but those of the most slots in use. -/
def PeaksOnly (s t : State) : Prop := RegsBut s t parkPeaks

theorem PeaksOnly.refl (s : State) : PeaksOnly s s := fun _ _ => rfl

theorem PeaksOnly.after {s t u : State} (h : PeaksOnly t u) (g : PeaksOnly s t) : PeaksOnly s u := fun r hr => (h r hr).trans (g r hr)

theorem PeaksOnly.of_peak {s t : State} {n : Nat} (hn : n < 32) (h : RegsBut s t [.memParkPeak n]) : PeaksOnly s t :=
  fun r hr => h r fun x hx => by
    rw [List.mem_singleton.mp hx]
    exact hr _ (memParkPeak_mem_parkPeaks hn)

theorem PeaksOnly.updCtr {s t : State} (h : PeaksOnly s t) (n : Nat) {i : Nat} (hi : i < 8) : rget t (.updCtr n i) = rget s (.updCtr n i) := by
  refine h _ fun x hx => ?_
  obtain ⟨m, -, rfl⟩ := List.mem_map.mp hx
  simp only [regOffset]
  omega

theorem putRaw_peaksOnly (s : State) (a : Nat) (bs : List Byte) : PeaksOnly s (putRaw s a bs) := by
  unfold putRaw
  split
  · exact .of_peak (devStack_lt a) (setSlots_regs _ _ _)
  · exact .refl s

theorem parkReady_peaksOnly {s t : State} {w : Nat} (h : parkReady s w = some t) : PeaksOnly s t := by
  unfold parkReady at h
  dsimp only at h
  split at h
  · cases h; exact .refl s
  · split at h
    · split at h
      · cases h
      · cases h; exact .refl s
    · split at h
      · cases h
      · next room =>
        injection h with h
        rw [← h]
        obtain ⟨i, filled⟩ := fillSlot_fills (s := s) (n := devStack (32 * w)) (by simp at room; omega) (32 * w / 4096)
        exact .of_peak (devStack_lt _) filled.regs

theorem putHome_word_peaksOnly (s : State) (h : Nat) {bs : List Byte} (hl : bs.length = 32) : PeaksOnly s (putHome s h 0 bs).1 := by
  rw [putHome, if_pos hl]
  split
  · exact .refl s
  · exact putRaw_peaksOnly s (32 * h) bs

theorem putDev_word_peaksOnly (s : State) (w : Nat) {bs : List Byte} (hl : bs.length = 32) : PeaksOnly s (putDev [(w, 0, bs)] s).1 := by
  rw [putDev]
  split
  · exact .refl s
  · next ready => exact (putHome_word_peaksOnly _ _ hl).after (parkReady_peaksOnly ready)

/-- A list that one chunk holds. -/
theorem chunks_whole {α : Type} {l : List α} (h : l ≠ []) (k : Nat) : chunks l.length (k + 1) l = [l] := by
  have none : chunks l.length k ([] : List α) = [] := by cases k <;> rfl
  simp [chunks, h, none]

/-- A write of a whole word of a stack's storage by its unit. -/
theorem localWrite_word_peaksOnly (s : State) (n : Nat) {loc : Nat} (ha : loc % 32 = 0) {bs : List Byte} (hl : bs.length = 32) :
    PeaksOnly s (localWrite s n loc bs) := by
  have nonempty : bs ≠ [] := by rintro rfl; cases hl
  have word : localWords n loc bs = [(devAddr n loc, bs)] := by
    have whole := chunks_whole nonempty 31
    rw [hl] at whole
    simp [localWords, hl, whole]
  have place : devAddr n loc = 32 * (devAddr n loc / 32) + 0 := by
    have low := devAddr_mod n loc
    omega
  rw [localWrite, word, List.foldl_cons, List.foldl_nil, devWriteUnit, place, wordChunks_within _ 0 nonempty (by omega)]
  exact putDev_word_peaksOnly s _ hl

theorem recBase_aligned (s : State) (n r : Nat) : recBase s n r % 32 = 0 := by
  rw [recBase]
  cases (stackOf s n).half <;> simp only [journalBase, if_true, Bool.false_eq_true, if_false] <;> omega

/-- The release of a record (R299 step 5) is a write of one word. -/
theorem freeRec_peaksOnly (s : State) (n r : Nat) : PeaksOnly s (freeRec s n r) :=
  localWrite_word_peaksOnly s n (recBase_aligned s n r) (by simp [leBytes_length])

/-! ## The replay (R302) -/

theorem lineHeldAt_noSnoop {s : State} (h : s.host.snoop = []) (a n : Nat) : lineHeldAt s a n = false := by
  simp [lineHeldAt, h]

/-- The writes of a record's pieces, at the addresses that it names; none where its length fits no layout (R298). -/
def replayWrites (s : State) (n r : Nat) : List (Nat × List Byte) :=
  let len := recWord s n r 2 / 2 ^ 32
  match recLayout (recWord s n r 0) len with
  | none => []
  | some lay => (cutPayload lay (localRead s n (recBase s n r + 128) len)).map fun (k, bs) => (recWord s n r (4 + k), bs)

/-- The oldest record that waits is counted as replayed, and leaves. -/
def replayCounted (s : State) (n : Nat) (rest : List Nat) : State :=
  let t := rbump s (.updCtr n 2) 1
  setUpd t n { updOf t n with slowReplay := rest }

theorem rget_replayCounted (s : State) (n : Nat) (rest : List Nat) :
    rget (replayCounted s n rest) (.updCtr n 2) = rget s (.updCtr n 2) + 1 := rget_rbump_same s (.updCtr n 2) 1

theorem slowReplay_replayCounted (s : State) (n : Nat) (rest : List Nat) : (updOf (replayCounted s n rest) n).slowReplay = rest := by
  rw [replayCounted, updOf_setUpd_same]

/-- The state once a record is replayed, released and counted. -/
def replayed (s : State) (n r : Nat) (rest : List Nat) : State :=
  replayCounted (freeRec (memWrites 3 0 (replayWrites s n r) s).1 n r) n rest

theorem exec_slowReplay {s : State} {stack : BitVec 5} {r : Nat} {rest : List Nat} (hq : (updOf s stack.toNat).slowReplay = r :: rest)
    (hs : unitServes s stack.toNat = true) (hh : hostServes s = true) (hn : s.host.snoop = []) :
    exec (.slowReplay stack) s = .next (replayed s stack.toNat r rest) := by
  have written : ¬ (memWrites 3 0 (replayWrites s stack.toNat r) s).2.isSome = true := by
    rw [(memWrites_host hh _).2]
    exact Bool.false_ne_true
  show execSlowReplay stack s = _
  simp only [execSlowReplay, hq, hs, hh, lineHeldAt_noSnoop hn]
  rw [if_neg (by simp), if_neg (by simp)]
  exact if_neg written

theorem rget_replayed {s : State} (hh : hostServes s = true) (n r : Nat) (rest : List Nat) :
    rget (replayed s n r rest) (.updCtr n 2) = rget s (.updCtr n 2) + 1 := by
  rw [replayed, rget_replayCounted, (freeRec_peaksOnly _ n r).updCtr n (by omega), (memWrites_host hh _).1.rget]

end Sys2Proof.Machine
end

section
/-! PROOFS. Fetches of the slow tier (R304, R305), and the statement O28. -/
namespace Sys2Proof.Machine

/-! ## Slots -/

theorem modSlot_head {t : HoldSlot → Bool} {x : HoldSlot} (h : t x = true) (f : HoldSlot → HoldSlot) (l : List HoldSlot) :
    modSlot t f (x :: l) = f x :: l := by
  rw [modSlot, if_pos h]

theorem slotActive_of_fetch {x : HoldSlot} {since : Nat} (h : x.fetch = .active since) : slotActive x = true := by
  rw [slotActive, h]

/-- The state with the oldest slot of a stack in another state of its fetch. -/
def fetchTo (s : State) (n : Nat) (x : HoldSlot) (rest : List HoldSlot) (st : FetchSt) : State :=
  setStack s n { stackOf s n with slots := { x with fetch := st } :: rest }

section
variable {s : State} {stack : BitVec 5} {x : HoldSlot} {rest : List HoldSlot} (hk : (stackOf s stack.toNat).slots = x :: rest)
include hk

theorem exec_slowFetch (hu : x.updating = false) (hx : x.fetch = .queued) (hg : (slowGroup s x.tag).isSome = true)
    (hs : unitServes s stack.toNat = true) (hb : buffersUsed s stack.toNat < 64) :
    exec (.slowFetch stack) s = .next (fetchTo s stack.toNat x rest (.active s.localNs)) := by
  have first : (!x.updating && decide (x.fetch = .queued) && (slowGroup s x.tag).isSome) = true := by simp [hu, hx, hg]
  show execSlowFetch stack s = _
  simp only [execSlowFetch, hs, hk, fetchTo]
  rw [modSlot_head first, if_neg (by simpa using hb)]

/-- The oldest fetch under way, which arrives while the unit has no command. -/
theorem exec_slowFetchDone {since : Nat} {g : Group} {bs : List Byte} (hx : x.fetch = .active since) (hg : slowGroup s x.tag = some g)
    (hs : unitServes s stack.toNat = true) (hl : fetchLate s stack.toNat x = false)
    (hp : slowPieces s g (groupIndex g x.tag) (pieces g) = .ok bs) (ht : (updOf s stack.toNat).tasks = []) :
    exec (.slowFetchDone stack) s = .next (rbump (fetchTo s stack.toNat x rest (.arrived bs)) (.updCtr stack.toNat 4) 1) := by
  have active := slotActive_of_fetch hx
  show execSlowFetchDone stack s = _
  simp [execSlowFetchDone, hk, active, hg, hs, hl, hp, ht, modSlot_head active, fetchTo]

/-- The oldest fetch under way, which fails while the unit has no command. -/
theorem exec_slowFetchFail {since : Nat} (hx : x.fetch = .active since) (hs : unitServes s stack.toNat = true)
    (ht : (updOf s stack.toNat).tasks = []) :
    exec (.slowFetchFail stack) s = .next (rbump (fetchTo s stack.toNat x rest .failed) (.updCtr stack.toNat 5) 1) := by
  have active := slotActive_of_fetch hx
  show execSlowFetchFail stack s = _
  simp [execSlowFetchFail, failFetch, fetchFailed, hk, active, hs, ht, modSlot_head active, fetchTo]

end

/-- A fetch that moves on and is counted: the oldest slot and the counter change, and no other register. -/
theorem fetchTo_counted (s : State) (n : Nat) (x : HoldSlot) (rest : List HoldSlot) (st : FetchSt) (r : Reg) :
    let t := rbump (fetchTo s n x rest st) r 1
    stackOf t n = { stackOf s n with slots := { x with fetch := st } :: rest } ∧ rget t r = rget s r + 1 ∧ RegsBut s t [r] :=
  ⟨stackOf_setStack_same _ _ _, rget_rbump_same _ _ _, fun _ hq => rget_rbump_other _ _ (hq r (List.mem_singleton.mpr rfl))⟩

/-! ## The statement -/

/-- Settles O28: recovery that finds no record only serves the stack again, a start without contents by what its record leaves alone, a
replay by the registers that a write of a whole word leaves alone, and fetches by the oldest slot. -/
theorem journalAndSlowTier : Obligations.JournalAndSlowTier := by
  unfold Obligations.JournalAndSlowTier
  refine ⟨fun s stack r rest => ?_, fun s stack x rest => ?_⟩
  · intro n s1
    refine ⟨fun hr hc hh ho hb => ?_, fun hi => ?_, fun hq hs hh hn => ?_⟩
    · rw [exec_journalRecovery hr hc hh, recoverStack_noRecord hb ho]
      simp [stackBack, s1, n]
    · have gone := initJournal_contentsGone s n
      exact ⟨_, exec_journalInit hi, gone.ready, gone.slots, gone.merge, gone.parkQ, gone.unit, gone.started, gone.own, gone.others⟩
    · exact ⟨_, exec_slowReplay hq hs hh hn, slowReplay_replayCounted _ _ _, rget_replayed hh n r rest⟩
  · intro n k
    refine ⟨exec_slowFetch, fun since g bs hk hx hg hs hl hp ht => ?_, fun since hk hx hs ht => ?_, ?_⟩
    · obtain ⟨stk, count, regs⟩ := fetchTo_counted s n x rest (.arrived bs) (.updCtr n 4)
      exact ⟨_, exec_slowFetchDone hk hx hg hs hl hp ht, stk, count, regs, rfl⟩
    · obtain ⟨stk, count, regs⟩ := fetchTo_counted s n x rest .failed (.updCtr n 5)
      exact ⟨_, exec_slowFetchFail hk hx hs ht, stk, rfl, count, regs⟩
    · refine ⟨_, rfl, congrArg Stack.slots ((stackOf_setSlots s n n _).trans (if_pos rfl)), setSlots_regs s n _, ?_⟩
      rw [setSlots_frame]
      rfl

end Sys2Proof.Machine
end

section
/-! PROOFS. The commands about events and time, and the event unit (R320, R325, R331, R333, R334, R342, R343). -/
namespace Sys2Proof.Machine

/-! ## Event counters (R331, R333) -/

/-- An add stops at the largest value, and no other counter changes. -/
theorem evtOf_evtAdd (s : State) (c : Nat) (v : Word64) (k : Nat) :
    (evtOf (evtAdd s c v) k).toNat = if k = c then min (2 ^ 64 - 1) ((evtOf s k).toNat + v.toNat) else (evtOf s k).toNat := by
  unfold evtAdd
  rw [evtOf, tget_tset]
  by_cases hk : k = c
  · subst hk
    simp only [if_true]
    split
    · simp; omega
    · rw [BitVec.toNat_ofNat]; omega
  · simp only [hk, if_false]; rfl

/-- A raise-to leaves the larger of the two values, and no other counter changes. -/
theorem evtOf_evtRaise (s : State) (c : Nat) (v : Word64) (k : Nat) :
    (evtOf (evtRaise s c v) k).toNat = if k = c then max (evtOf s k).toNat v.toNat else (evtOf s k).toNat := by
  unfold evtRaise
  rw [evtOf, tget_tset]
  by_cases hk : k = c
  · subst hk
    simp only [if_true]
    split <;> omega
  · simp only [hk, if_false]; rfl

/-- From s to t event counters change at most. -/
def CountersOnly (s t : State) : Prop := t = { s with evt := t.evt }

theorem evtAdd_countersOnly (s : State) (c : Nat) (v : Word64) : CountersOnly s (evtAdd s c v) := rfl

theorem evtRaise_countersOnly (s : State) (c : Nat) (v : Word64) : CountersOnly s (evtRaise s c v) := rfl

theorem CountersOnly.after {s t u : State} (h : CountersOnly t u) (g : CountersOnly s t) : CountersOnly s u := by
  unfold CountersOnly at *
  rw [h, g]

theorem CountersOnly.fold {α : Type} {f : State → α → State} (h : ∀ s x, CountersOnly s (f s x)) (l : List α) (s : State) :
    CountersOnly s (l.foldl f s) := by
  induction l generalizing s with
  | nil => rfl
  | cons x l ih => exact (ih (f s x)).after (h s x)

theorem CountersOnly.flightEnds {s t u : State} (h : CountersOnly s t) {q : Nat} {seq : Word32} {f : Flight → Flight}
    (g : FlightEnds t u q seq f) : FlightEnds s u q seq f := by
  rw [h] at g
  exact g

/-- The adds that meet at a counter in one cycle are summed onto it. -/
theorem evtOf_adds (c : Nat) (adds : List Word64) (s : State) (k : Nat) :
    (evtOf (adds.foldl (fun s v => evtAdd s c v) s) k).toNat =
      if k = c then min (2 ^ 64 - 1) ((evtOf s k).toNat + (adds.map (·.toNat)).sum) else (evtOf s k).toNat := by
  induction adds generalizing s with
  | nil =>
    have small := (evtOf s k).isLt
    simp only [List.foldl_nil, List.map_nil, List.sum_nil]
    split <;> omega
  | cons v adds ih =>
    rw [List.foldl_cons, ih, evtOf_evtAdd, List.map_cons, List.sum_cons]
    split <;> omega

/-- The raises that meet at a counter in one cycle raise it to the largest of their values. -/
theorem evtOf_raises (c : Nat) (raises : List Word64) (s : State) (k : Nat) :
    (evtOf (raises.foldl (fun s v => evtRaise s c v) s) k).toNat =
      if k = c then (raises.map (·.toNat)).foldl max (evtOf s k).toNat else (evtOf s k).toNat := by
  induction raises generalizing s with
  | nil => simp
  | cons v raises ih =>
    rw [List.foldl_cons, ih, evtOf_evtRaise]
    split <;> simp [*]

/-! ## Waits (R317, R320, R334) -/

/-- A wait of a record does not hold yet. -/
def Pending (s : State) (c : CmdRec) (w : Nat) : Prop := evtOf s (waitCtr c w) < waitVal c w

theorem waitsHold_iff {s : State} {c : CmdRec} : waitsHold s c = true ↔ ∀ w, w < cmdNwait c → ¬ Pending s c w := by
  simp only [waitsHold, List.all_eq_true, decide_eq_true_eq, mem_upto, Pending, BitVec.lt_def]
  exact ⟨fun h w hw => by have := h w ⟨Nat.zero_le w, by omega⟩; omega, fun h w hw => by have := h w (by omega); omega⟩

theorem waitsHold_of_pending {s : State} {c : CmdRec} {w : Nat} (hw : w < cmdNwait c) (hp : Pending s c w) : waitsHold s c = false :=
  Bool.eq_false_iff.mpr fun h => waitsHold_iff.mp h w hw hp

/-- The status that a wait gives where it does not hold and its counter carries a mark. -/
def waitFault (s : State) (c : CmdRec) (w : Nat) : Option Status :=
  if (evtOf s (waitCtr c w)).toNat < (waitVal c w).toNat then (evtMark s (waitCtr c w)).map markStatus else none

/-- The first value of a search over numbers is that of the first number that has one. -/
theorem findSome_upto {α : Type} {p : Nat → Option α} {x : α} {n w lo : Nat} (hw : w < n) (hx : p (lo + w) = some x)
    (hn : ∀ v, v < w → p (lo + v) = none) : (upto lo n).findSome? p = some x := by
  induction n generalizing w lo with
  | zero => omega
  | succ n ih =>
    rw [upto, List.findSome?_cons]
    cases w with
    | zero => rw [Nat.add_zero] at hx; rw [hx]
    | succ w =>
      have first : p lo = none := hn 0 (by omega)
      rw [first]
      exact ih (w := w) (by omega) (by rw [← hx]; congr 1; omega) fun v hv => by
        rw [← hn (v + 1) (by omega)]; congr 1; omega

/-- The first wait that does not hold and is on a marked counter gives its status. -/
theorem findSome_waitFault {s : State} {c : CmdRec} {w : Nat} {e : Status} (hw : w < cmdNwait c) (hp : Pending s c w)
    (he : evtMark s (waitCtr c w) = some e) (hn : ∀ v, v < w → Pending s c v → evtMark s (waitCtr c v) = none) :
    (upto 0 (cmdNwait c)).findSome? (waitFault s c) = some (markStatus e) := by
  refine findSome_upto hw ?_ fun v hv => ?_
  · rw [Nat.zero_add, waitFault, if_pos (BitVec.lt_def.mp hp), he]; rfl
  · rw [Nat.zero_add, waitFault]
    split
    · next late => rw [hn v hv (BitVec.lt_def.mpr late)]; rfl
    · rfl

/-! ## The commands (R320, R325) -/

/-- What a command leaves that ends with a status and does nothing else. -/
theorem ends_only {s : State} {o : Out} {q : Nat} {seq : Word32} {st : Status} (h : o = .next (flightDone s q seq st)) :
    ∃ t, o = .next t ∧ FlightEnds s t q seq (ended st) ∧ t = { s with queues := t.queues, stks := t.stks } :=
  ⟨_, h, flightDone_is s q seq st⟩

section
variable {s : State} {q : Fin 4096} {seq : Word32} {f : Flight}

theorem exec_fence (hf : workOf s q.val seq 7 = some f) : exec (.fence q seq) s = .next (flightDone s q.val seq .success) := by
  show execFence q seq s = _
  rw [execFence, hf]

theorem exec_waitEvent_holds (hf : workOf s q.val seq 8 = some f) (hw : waitsHold s f.cmd = true) :
    exec (.waitEvent q seq) s = .next (flightDone s q.val seq .success) := by
  show execWaitEvent q seq s = _
  rw [execWaitEvent, hf]
  exact if_pos hw

theorem exec_waitEvent_marked {st : Status} (hf : workOf s q.val seq 8 = some f) (hw : waitsHold s f.cmd = false)
    (hm : (upto 0 (cmdNwait f.cmd)).findSome? (waitFault s f.cmd) = some st) :
    exec (.waitEvent q seq) s = .next (flightDone s q.val seq st) := by
  show execWaitEvent q seq s = _
  unfold waitFault at hm
  simp only [execWaitEvent, hf, hw, hm, Bool.false_eq_true, if_false]

theorem exec_evtTimeout (hf : workOf s q.val seq 8 = some f) (hw : waitsHold s f.cmd = false) (ht : cmdFld f.cmd 0x40 0 32 ≠ 0)
    (hn : f.startNs + 1000 * cmdFld f.cmd 0x40 0 32 ≤ s.localNs) :
    exec (.evtTimeout q seq) s = .next (flightDone s q.val seq .evtTimeout) := by
  show execEvtTimeout q seq s = _
  rw [execEvtTimeout, hf]
  exact if_neg (by rw [hw]; simp only [ht, Bool.false_eq_true, false_or]; omega)

/-- One entry of a SIGNAL_EVENT is applied (R320). -/
def signalEntry (c : CmdRec) (s : State) (e : Nat) : State :=
  let o := 0x40 + 16 * e
  if cmdFld c o 17 1 = 0 then s
  else if cmdFld c o 16 1 = 1 then evtRaise s (cmdFld c o 0 16) (cmdWord c (o + 8))
  else evtAdd s (cmdFld c o 0 16) (cmdWord c (o + 8))

/-- What one entry of a SIGNAL_EVENT makes of the value of counter k. -/
def entryValue (c : CmdRec) (k v e : Nat) : Nat :=
  let x := cmdWord c (0x48 + 16 * e)
  if cmdFld c (0x40 + 16 * e) 17 1 = 0 ∨ cmdFld c (0x40 + 16 * e) 0 16 ≠ k then v
  else if cmdFld c (0x40 + 16 * e) 16 1 = 1 then max v x.toNat
  else min (2 ^ 64 - 1) (v + x.toNat)

theorem signalEntry_countersOnly (c : CmdRec) (s : State) (e : Nat) : CountersOnly s (signalEntry c s e) := by
  unfold signalEntry
  dsimp only
  split
  · rfl
  · split
    · exact evtRaise_countersOnly _ _ _
    · exact evtAdd_countersOnly _ _ _

theorem evtOf_signalEntry (c : CmdRec) (k : Nat) (s : State) (e : Nat) :
    entryValue c k (evtOf s k).toNat e = (evtOf (signalEntry c s e) k).toNat := by
  have word : 0x40 + 16 * e + 8 = 0x48 + 16 * e := by omega
  unfold signalEntry entryValue
  dsimp only
  rw [word]
  by_cases valid : cmdFld c (0x40 + 16 * e) 17 1 = 0
  · rw [if_pos (.inl valid), if_pos valid]
  · rw [if_neg valid]
    by_cases other : cmdFld c (0x40 + 16 * e) 0 16 = k
    · rw [if_neg (by simp [valid, other]), other]
      split
      · rw [evtOf_evtRaise, if_pos rfl]
      · rw [evtOf_evtAdd, if_pos rfl]
    · rw [if_pos (.inr other)]
      split
      · rw [evtOf_evtRaise, if_neg (Ne.symm other)]
      · rw [evtOf_evtAdd, if_neg (Ne.symm other)]

theorem exec_signalEvent (hf : workOf s q.val seq 9 = some f) :
    exec (.signalEvent q seq) s = .next (flightDone ((upto 0 4).foldl (signalEntry f.cmd) s) q.val seq .success) := by
  show execSignalEvent q seq s = _
  rw [execSignalEvent, hf]
  rfl

/-- The flags of an instant (R343), one by one. -/
theorem timeFlagsAt_eq (s : State) (x : Nat) :
    timeFlagsAt s x = (if s.time.st = .holdover then 1 else 0) + (if s.time.st = .free ∨ s.time.st = .unsync then 2 else 0)
      + (if s.time.stepped = true ∨ ∃ y ∈ s.time.steps, y.1 < x ∧ x ≤ y.2 then 4 else 0) := by
  have passed : (s.time.steps.any fun y => decide (y.1 < x) && decide (x ≤ y.2)) = true ↔ ∃ y ∈ s.time.steps, y.1 < x ∧ x ≤ y.2 := by
    simp
  unfold timeFlagsAt timeFlags
  dsimp only
  by_cases hp : ∃ y ∈ s.time.steps, y.1 < x ∧ x ≤ y.2
  · simp only [passed, hp, or_true, if_true]
    cases s.time.st <;> cases s.time.stepped <;> rfl
  · simp only [passed, hp, or_false, if_false]

theorem rget_fireFlags_count (s : State) (x : Nat) :
    rget (fireFlags s x).1 (.timeCtr 1) = rget s (.timeCtr 1) + if s.time.st = .free ∨ s.time.st = .unsync then 1 else 0 := by
  unfold fireFlags
  dsimp only
  split
  · exact rget_rbump_same s (.timeCtr 1) 1
  · simp

/-- The record of a command carries the flags of the action that fired. -/
def withFlags (tf : BitVec 3) (y : Flight) : Flight := { y with timeFlags := y.timeFlags ||| tf }

/-- A TIME_WAIT whose instant has come: the action fires, and the command is done with its flags. -/
def timeWaited (s : State) (q : Nat) (seq : Word32) (x : Nat) : State :=
  flightDone (modFlight (fireFlags s x).1 q seq (withFlags (timeFlagsAt s x))) q seq .success

theorem exec_timeWait (hf : workOf s q.val seq 0xA = some f) (hn : cmdWord f.cmd 0x40 ≤ s.time.now) :
    exec (.timeWait q seq) s = .next (timeWaited s q.val seq (cmdWord f.cmd 0x40).toNat) := by
  show execTimeWait q seq s = _
  rw [execTimeWait, hf]
  exact if_neg (Nat.not_lt.mpr hn)

theorem timeWaited_frame (s : State) (q : Nat) (seq : Word32) (x : Nat) :
    timeWaited s q seq x = { s with queues := (timeWaited s q seq x).queues, regs := (fireFlags s x).1.regs, stks := (timeWaited s q seq x).stks } := by
  have frame := (flightDone_is (modFlight (fireFlags s x).1 q seq (withFlags (timeFlagsAt s x))) q seq .success).2
  rw [timeWaited, frame, modFlight, fireFlags_frame s x]
  rfl

theorem timeWaited_ends (s : State) (q : Nat) (seq : Word32) (x : Nat) :
    FlightEnds s (timeWaited s q seq x) q seq (ended .success ∘ withFlags (timeFlagsAt s x)) := by
  obtain ⟨record, gone⟩ := (flightDone_is (modFlight (fireFlags s x).1 q seq (withFlags (timeFlagsAt s x))) q seq .success).1
  have fired : (fireFlags s x).1.queues = s.queues := by rw [fireFlags_frame]
  have parked : ParkGone s (modFlight (fireFlags s x).1 q seq (withFlags (timeFlagsAt s x))) := by
    rw [fireFlags_frame]; exact .rfl' s
  exact ⟨record.after ((modFlight_is _ q seq _).1.of_queues fired) fun _ => rfl, parked.trans gone⟩

end

/-! ## The event unit (R331, R333) -/

/-- The advances that meet at one counter are applied: the adds first, then the raises. -/
def advanced (s : State) (c : Nat) (adds raises : List Word64) : State :=
  raises.foldl (fun s v => evtRaise s c v) (adds.foldl (fun s v => evtAdd s c v) s)

theorem advanced_countersOnly (s : State) (c : Nat) (adds raises : List Word64) : CountersOnly s (advanced s c adds raises) :=
  (CountersOnly.fold (fun s v => evtRaise_countersOnly s c v) raises _).after (.fold (fun s v => evtAdd_countersOnly s c v) adds s)

theorem evtOf_advanced (s : State) (c : Nat) (adds raises : List Word64) (k : Nat) :
    (evtOf (advanced s c adds raises) k).toNat = if k = c
      then (raises.map (·.toNat)).foldl max (min (2 ^ 64 - 1) ((evtOf s k).toNat + (adds.map (·.toNat)).sum)) else (evtOf s k).toNat := by
  rw [advanced, evtOf_raises, evtOf_adds]
  split <;> rfl

/-! ## The statement -/

/-- Settles O15: the waits decide with which status a command ends, and the advances are applied one after the other. -/
theorem eventCommands : Obligations.EventCommands := by
  unfold Obligations.EventCommands
  refine ⟨fun s q seq f => ⟨fun hf => ends_only (exec_fence hf), fun hf hw => ends_only (exec_waitEvent_holds hf (waitsHold_iff.mpr hw)),
    fun w e hf hw hp he hn => ends_only (exec_waitEvent_marked hf (waitsHold_of_pending hw hp) (findSome_waitFault hw hp he hn)),
    fun w hf hw hp ht hn => ends_only (exec_evtTimeout hf (waitsHold_of_pending hw hp) ht hn)⟩,
    fun s q seq f => ⟨fun hf => ?_, fun hf hn => ?_⟩,
    fun s ctr adds raises => ⟨⟨_, rfl, ?_, evtOf_advanced s ctr.toNat adds raises⟩,
      ⟨_, rfl, rfl, fun k => tget_tset (fun _ => none) s.evtFault ctr.toNat k none⟩⟩⟩
  · have counters : CountersOnly s ((upto 0 4).foldl (signalEntry f.cmd) s) := .fold (signalEntry_countersOnly f.cmd) _ s
    obtain ⟨ends, frame⟩ := flightDone_is ((upto 0 4).foldl (signalEntry f.cmd) s) q.val seq .success
    refine ⟨_, exec_signalEvent hf, counters.flightEnds ends, ?_, fun k => ?_⟩
    · rw [frame, counters]
    · rw [frame]
      exact (List.foldl_hom (fun s => (evtOf s k).toNat) (evtOf_signalEntry f.cmd k)).symm
  · refine ⟨_, exec_timeWait hf hn, ?_, ?_, ?_, ?_⟩
    · rw [timeWaited_frame]
    · have := timeWaited_ends s q.val seq (cmdWord f.cmd 0x40).toNat
      rwa [timeFlagsAt_eq] at this
    · rw [timeWaited_frame]
      exact rget_fireFlags_count s _
    · intro r hr
      rw [timeWaited_frame]
      exact rget_fireFlags_other s _ (hr _ (by simp))
  · exact advanced_countersOnly s ctr.toNat adds raises

end Sys2Proof.Machine
end

section
/-! PROOFS. What a read of device or host memory depends on: of the registers, the park ranges and the control word of the host port
alone (R277, R512, R522); and reads without bit errors (R262). -/
namespace Sys2Proof.Machine

/-! ## Registers that no access asks for -/

/-- A register below those of the memory stacks, and not GLB_HOST_CTRL: no access asks for it. -/
def NotAsked (r : Reg) : Prop := regOffset r < 0x120000 ∧ regOffset r ≠ regOffset .glbHostCtrl

theorem notAsked_timeCtr {i : Nat} (hi : i < 4) : NotAsked (.timeCtr i) := by
  constructor <;> simp only [regOffset] <;> omega

theorem notAsked_cqCtrl (q : Fin 4096) : NotAsked (.cqCtrl q.val) := by
  constructor <;> simp only [regOffset] <;> omega

theorem rfld_rset_other (s : State) {r x : Reg} (v : Word64) (h : regOffset x ≠ regOffset r) (lo n : Nat) :
    rfld (rset s r v) x lo n = rfld s x lo n := by
  rw [rfld, rget_rset_other _ _ _ _ h, rfld]

theorem rbit_rset_other (s : State) {r x : Reg} (v : Word64) (h : regOffset x ≠ regOffset r) (i : Nat) :
    rbit (rset s r v) x i = rbit s x i := by
  rw [rbit, rget_rset_other _ _ _ _ h, rbit]

section
variable (s : State) {r : Reg} (v : Word64) (h : NotAsked r)
include h

theorem devParked_rset (a : Nat) : devParked (rset s r v) a = devParked s a := by
  obtain ⟨low, -⟩ := h
  have base (n i : Nat) : regOffset (.memParkBase n i) ≠ regOffset r := by
    have : regOffset (.memParkBase n i) = 0x120100 + 0x1000 * n + 0x10 * i := rfl
    omega
  have limit (n i : Nat) : regOffset (.memParkLimit n i) ≠ regOffset r := by
    have : regOffset (.memParkLimit n i) = 0x120108 + 0x1000 * n + 0x10 * i := rfl
    omega
  simp only [devParked, rfld_rset_other s v (base _ _), rfld_rset_other s v (limit _ _), rbit_rset_other s v (base _ _)]

theorem devHome_rset (w : Nat) : devHome (rset s r v) w = devHome s w := by
  rw [devHome, devParked_rset s v h]
  rfl

theorem devFault_rset (write : Bool) (w : Nat) : devFault (rset s r v) write w = devFault s write w := by
  simp only [devFault, devHome_rset s v h, devParked_rset s v h]
  rfl

theorem devWordErr_rset (w : Nat) : devWordErr (rset s r v) w = devWordErr s w := by
  rw [devWordErr, devFault_rset s v h, devHome_rset s v h]
  rfl

theorem devBytes_rset (a n : Nat) : devBytes (rset s r v) a n = devBytes s a n := by
  have plain : devPlain (rset s r v) a n = devPlain s a n := by
    simp only [devPlain, devParked_rset s v h]
    rfl
  have byte : devByte (rset s r v) = devByte s := by
    funext b
    rw [devByte, devHome_rset s v h]
    rfl
  rw [devBytes, plain, byte]
  rfl

theorem devRead_rset (a n : Nat) : devRead (rset s r v) a n = devRead s a n := by
  rw [devRead, funext (devWordErr_rset s v h), devBytes_rset s v h]
  rfl

theorem hostRead_rset (a n : Nat) : hostRead (rset s r v) a n = hostRead s a n := by
  obtain ⟨-, other⟩ := h
  have reach : hostErr (rset s r v) = hostErr s := by
    rw [hostErr, rbit_rset_other s v (Ne.symm other)]
    rfl
  rw [hostRead, reach]
  rfl

theorem hdRead_rset (host : Bool) (a n : Nat) : hdRead (rset s r v) host a n = hdRead s host a n := by
  rw [hdRead, hostRead_rset s v h, devRead_rset s v h, hdRead]

end

/-! ## Reads without bit errors (R262, R263) -/

section
variable {s : State} (hb : NoBitErrors s)
include hb

theorem hdSettle_noBitErrors (host : Bool) (a n : Nat) : hdSettle s host a n = s := by
  have clean : s.devErrs.isEmpty = true := by rw [show s.devErrs = [] from hb]; rfl
  rw [hdSettle, devSettle, if_pos clean, ite_self]

theorem tailSettle_noBitErrors (q : Nat) : tailSettle s q = s := hdSettle_noBitErrors hb _ _ _

theorem ringSettle_noBitErrors (q off n : Nat) : ringSettle s q off n = s := hdSettle_noBitErrors hb _ _ _

end

end Sys2Proof.Machine
end

section
/-! PROOFS. Wakes, polls, enabling, resuming and disabling of a queue (R313 to R315, R328, R329, R658): the statement O18. -/
namespace Sys2Proof.Machine

/-! ## TAIL is read (R313, R315) -/

/-- A queue whose TAIL has been read: no read of its line waits, and the line is held where it can be. -/
def tailTaken (s : State) (q : Nat) (tail : Word32) (k : Queue) : Queue :=
  { k with tail := tail, wake := false, woken := false, lineHeld := tailCoherent s q }

theorem readTail_setQueue (s : State) (q n : Nat) (k : Queue) : readTail (setQueue s q k) n = readTail s n := rfl

/-- The engine reads a TAIL within a ring beyond F. -/
theorem takeTail_reads {s : State} {q : Nat} {tail : Word32} (hb : NoBitErrors s) (hr : readTail s q = .ok tail)
    (hn : (tail - qFetch s q).toNat ≤ qSize s q) : takeTail s q = setQueue s q (tailTaken s q tail (queueOf s q)) := by
  have within : ¬ newWork (setQueue s q (tailTaken s q tail (queueOf s q))) q > qSize s q := by
    rw [newWork, queueOf_setQueue_same]
    exact Nat.not_lt.mpr hn
  unfold takeTail
  simp only [tailSettle_noBitErrors hb, hr]
  exact if_neg within

/-- The same where the engine has changed the queue before. -/
theorem takeTail_setQueue {s : State} {q : Nat} {tail : Word32} (hb : NoBitErrors s) (hr : readTail s q = .ok tail)
    (hn : (tail - qFetch s q).toNat ≤ qSize s q) (k : Queue) : takeTail (setQueue s q k) q = setQueue s q (tailTaken s q tail k) := by
  rw [takeTail_reads (s := setQueue s q k) hb (readTail_setQueue s q q k ▸ hr) hn, queueOf_setQueue_same, setQueue_setQueue]
  rfl

/-! ## Wakes, polls and RESUME (R313, R314, R328) -/

section
variable {s : State} {q : Fin 4096} {tail : Word32} (hb : NoBitErrors s) (hr : readTail s q.val = .ok tail)
  (hn : (tail - qFetch s q.val).toNat ≤ qSize s q.val)
include hr

/-- A wake that an invalidation asked for, of an enabled queue, is counted where it finds TAIL unchanged. -/
theorem exec_tailWake (hd : (queueOf s q.val).disabling = false) (he : (queueOf s q.val).state ≠ .disabled)
    (hc : (queueOf s q.val).cancelAsked = false) (hw : (queueOf s q.val).lineHeld = true ∨ (queueOf s q.val).wake = true) :
    exec (.tailWake q) s =
      if ((queueOf s q.val).lineHeld = true ∨ (queueOf s q.val).woken = true) ∧ tail = (queueOf s q.val).tail then
        .next (rbump (if (queueOf s q.val).lineHeld then s else takeTail s q.val) .cqSpurious 1)
      else .next (takeTail s q.val) := by
  have enabled : ¬ (((!(queueOf s q.val).lineHeld) = true ∧ (!(queueOf s q.val).wake) = true) ∨ (queueOf s q.val).disabling = true ∨
      (queueOf s q.val).state = .disabled) := by
    rcases hw with held | wakes <;> simp [*]
  show execTailWake q s = _
  unfold execTailWake
  dsimp only
  rw [if_neg enabled, hc, if_neg Bool.false_ne_true, hr]
  simp only [Bool.and_eq_true, Bool.or_eq_true, decide_eq_true_eq]

include hb hn

theorem exec_tailPoll (hd : (queueOf s q.val).disabling = false) (he : (queueOf s q.val).state ≠ .disabled)
    (hp : rbit s (.cqCtrl q.val) 1 = true ∨ tailCoherent s q.val = false)
    (ht : (queueOf s q.val).pollNs + 1000 * max 1 (rfld s .cqPollCtrl 0 16) ≤ s.localNs) :
    exec (.tailPoll q) s = .next (setQueue s q.val (tailTaken s q.val tail { queueOf s q.val with pollNs := s.localNs })) := by
  have polled : ¬ ((!rbit s (.cqCtrl q.val) 1 && tailCoherent s q.val) = true) := by
    rcases hp with h | h <;> simp [h]
  show execTailPoll q s = _
  unfold execTailPoll
  dsimp only
  rw [if_neg (by rw [hd]; simp only [he, polled, Bool.false_eq_true, false_or]; omega), modQueue, takeTail_setQueue hb hr hn]

theorem exec_resume (hd : (queueOf s q.val).disabling = false) (hs : (queueOf s q.val).state = .stopped)
    (hc : (queueOf s q.val).cancelTo = none) (ha : (queueOf s q.val).cancelAsked = false) :
    exec (.resume q) s = .next (setQueue s q.val (tailTaken s q.val tail { queueOf s q.val with state := .running })) := by
  show Host.Outcome.next (resumeQueue s q.val) = _
  unfold resumeQueue
  dsimp only
  rw [if_neg (by simp [hs, hc, ha, hd]), takeTail_setQueue hb hr hn]
  rfl

end

/-! ## QUEUE_ENABLE (R328, R329) -/

theorem rsetFld_eq (s : State) (r : Reg) (lo n v : Nat) : ∃ w, rsetFld s r lo n v = rset s r w := ⟨_, rfl⟩

theorem rbit_rsetFld_same (s : State) (r : Reg) {i : Nat} (hi : i < 64) (v : Nat) : rbit (rsetFld s r i 1 v) r i = decide (v % 2 = 1) := by
  have field := rfld_rsetFld_same s r (lo := i) (n := 1) v (by omega)
  rw [rfld] at field
  rw [rbit, nbit, field]
  rfl

section
variable (s : State) (q : Fin 4096) (v : Word64)

theorem cqCtrl_ne {x : Reg} (h : regOffset x % 0x40 ≠ 0x20 ∨ regOffset x < 0x90000) : regOffset x ≠ regOffset (.cqCtrl q.val) := by
  have : regOffset (.cqCtrl q.val) = 0x90020 + 0x40 * q.val := rfl
  omega

theorem readTail_rset_cqCtrl : readTail (rset s (.cqCtrl q.val) v) q.val = readTail s q.val := by
  have page : regOffset (.cqTail q.val) ≠ regOffset (.cqCtrl q.val) := cqCtrl_ne q (.inl (by simp only [regOffset]; omega))
  simp only [readTail, rget_rset_other _ _ _ _ page, hdRead_rset s v (notAsked_cqCtrl q)]

theorem tailCoherent_rset_cqCtrl : tailCoherent (rset s (.cqCtrl q.val) v) q.val = tailCoherent s q.val := by
  have page : regOffset (.cqTail q.val) ≠ regOffset (.cqCtrl q.val) := cqCtrl_ne q (.inl (by simp only [regOffset]; omega))
  rw [tailCoherent, rget_rset_other _ _ _ _ page, tailCoherent]
  rfl

theorem qFetch_rset_cqCtrl : qFetch (rset s (.cqCtrl q.val) v) q.val = qFetch s q.val := by
  rw [qFetch, rget_rset_other _ _ _ _ (cqCtrl_ne q (.inl (by simp only [regOffset]; omega))), qFetch]

theorem qSize_rset_cqCtrl : qSize (rset s (.cqCtrl q.val) v) q.val = qSize s q.val := by
  rw [qSize, rfld_rset_other _ _ (cqCtrl_ne q (.inl (by simp only [regOffset]; omega))), qSize]

theorem qPart_lt : qPart s q.val < 256 := by
  have : qPart s q.val < 2 ^ 8 := Nat.mod_lt _ (by decide)
  exact this

/-- Whether a die of the partition of a queue is out of service (R329). -/
def partLost (s : State) (q : Nat) : Bool := (upto 0 4).any fun n => partOnDie s (qPart s q) n && !dieServes s n

theorem partLost_iff : partLost s q.val = true ↔ ∃ n : Fin 4, partOnDie s (qPart s q.val) n.val = true ∧ dieServes s n.val = false := by
  simp only [partLost, List.any_eq_true, mem_upto, Bool.and_eq_true, Bool.not_eq_true']
  exact ⟨fun ⟨n, hn, h⟩ => ⟨⟨n, by omega⟩, h⟩, fun ⟨n, h⟩ => ⟨n.val, by omega, h⟩⟩

theorem partLost_rset_cqCtrl : partLost (rset s (.cqCtrl q.val) v) q.val = partLost s q.val := by
  have part : qPart (rset s (.cqCtrl q.val) v) q.val = qPart s q.val := by
    rw [qPart, rfld_rset_other _ _ (cqCtrl_ne q (.inl (by simp only [regOffset]; omega))), qPart]
  have mask : regOffset (.cqPart (qPart s q.val)) ≠ regOffset (.cqCtrl q.val) := by
    have := qPart_lt s q
    exact cqCtrl_ne q (.inr (by simp only [regOffset]; omega))
  simp only [partLost, part, partOnDie, partHas, rbit_rset_other s v mask]
  rfl

end

/-- A queue that is enabled: it runs, or it is FAILED where its partition has lost a die. -/
def enabledQueue (s : State) (q : Nat) (tail : Word32) : Queue :=
  tailTaken s q tail { queueOf s q with state := if partLost s q then .failed else .running, pollNs := s.localNs }

theorem exec_queueEnable {s : State} {q : Fin 4096} {tail : Word32} (hb : NoBitErrors s) (hr : readTail s q.val = .ok tail)
    (hn : (tail - qFetch s q.val).toNat ≤ qSize s q.val) (hd : (queueOf s q.val).disabling = false)
    (hs : (queueOf s q.val).state = .disabled) :
    exec (.queueEnable q) s = .next (setQueue (rsetFld s (.cqCtrl q.val) 0 1 1) q.val (enabledQueue s q.val tail)) := by
  obtain ⟨w, written⟩ := rsetFld_eq s (.cqCtrl q.val) 0 1 1
  have read : readTail (rset s (.cqCtrl q.val) w) q.val = .ok tail := by rw [readTail_rset_cqCtrl, hr]
  have within : (tail - qFetch (rset s (.cqCtrl q.val) w) q.val).toNat ≤ qSize (rset s (.cqCtrl q.val) w) q.val := by
    rw [qFetch_rset_cqCtrl, qSize_rset_cqCtrl]
    exact hn
  show Host.Outcome.next (enableQueue s q.val) = _
  unfold enableQueue
  dsimp only
  rw [if_neg (by rw [hd]; exact Bool.false_ne_true), if_pos hs, written, takeTail_setQueue (s := rset s (.cqCtrl q.val) w) hb read within,
    enabledQueue, tailTaken, tailCoherent_rset_cqCtrl, ← partLost_rset_cqCtrl s q w]
  rfl

/-! ## QUEUE_DISABLE (R328, R658) -/

/-- A queue that a disable leaves without anything in flight. -/
def disabledQueue (k : Queue) : Queue :=
  { k with state := .disabled, lineHeld := false, disabling := false, cancelTo := none, shut := false, wake := false, woken := false, cancelAsked := false
           lastStatus := if k.shut then .hostLinkDown else k.lastStatus }

theorem disableIfEmpty_empty {s : State} {q : Nat} (hd : (queueOf s q).disabling = true) (hf : (queueOf s q).flight = [])
    (hq : (queueOf s q).queued = []) :
    disableIfEmpty s q = if (queueOf s q).shut then rsetFld (setQueue s q (disabledQueue (queueOf s q))) (.cqCtrl q) 0 1 0
      else setQueue s q (disabledQueue (queueOf s q)) := if_pos ⟨hd, hf, hq⟩

theorem disableIfEmpty_busy {s : State} {q : Nat} (h : (queueOf s q).disabling = false ∨ (queueOf s q).flight ≠ []) :
    disableIfEmpty s q = s := if_neg fun ⟨hd, hf, _⟩ => h.elim (fun h => by rw [h] at hd; cases hd) fun h => h hf

/-- A queue that is being disabled: what has not started is dropped, and a cancel ends. -/
def droppedQueue (k : Queue) : Queue := { k with queued := [], disabling := true, cancelTo := none, cancelAsked := false }

/-- The fetch count goes back to the first command that has not started. -/
def fetchBack (s : State) (q : Nat) : List CmdRec → State
  | [] => s
  | c :: _ => setFetch s q c.seq

/-- ENABLE reads 0, and the queue is being disabled. -/
def dropped (s : State) (q : Nat) : State :=
  setQueue (fetchBack (rsetFld s (.cqCtrl q) 0 1 0) q (queueOf s q).queued) q (droppedQueue (queueOf s q))

theorem exec_queueDisable {s : State} {q : Fin 4096} (h : (queueOf s q.val).state ≠ .disabled) :
    exec (.queueDisable q) s = .next (disableIfEmpty (dropped s q.val) q.val) := by
  show Host.Outcome.next (disableQueue s q.val) = _
  unfold disableQueue dropped
  dsimp only
  rw [if_neg (show ¬ (queueOf (rsetFld s (.cqCtrl q.val) 0 1 0) q.val).state = .disabled from h)]
  show Host.Outcome.next (disableIfEmpty (setQueue (match (queueOf s q.val).queued with
    | [] => rsetFld s (.cqCtrl q.val) 0 1 0
    | c :: _ => setFetch (rsetFld s (.cqCtrl q.val) 0 1 0) q.val c.seq) q.val (droppedQueue (queueOf s q.val))) q.val) = _
  cases (queueOf s q.val).queued <;> rfl

section
variable (s : State) (q : Fin 4096)

theorem cqFetch_ne_cqCtrl : regOffset (.cqFetch q.val) ≠ regOffset (.cqCtrl q.val) := cqCtrl_ne q (.inl (by simp only [regOffset]; omega))

theorem qFetch_setFetch (n : Nat) (f : Word32) : qFetch (setFetch s n f) n = f := by
  rw [qFetch, setFetch, rget_rset_same, ← BitVec.setWidth_eq_extractLsb' (by decide), BitVec.setWidth_setWidth_of_le _ (by decide),
    BitVec.setWidth_eq]

theorem queueOf_fetchBack (n k : Nat) (l : List CmdRec) : queueOf (fetchBack s n l) k = queueOf s k := by cases l <;> rfl

theorem fetchBack_frame (n : Nat) (l : List CmdRec) : fetchBack s n l = { s with regs := (fetchBack s n l).regs } := by cases l <;> rfl

theorem fetchBack_regs (n : Nat) (l : List CmdRec) : RegsBut s (fetchBack s n l) [.cqFetch n] := by
  intro r hr
  cases l with
  | nil => rfl
  | cons c l => exact rget_rset_other _ _ _ _ (hr _ (by simp))

/-- What a disable leaves of the registers: ENABLE, and F, which goes back to the first command that has not started. -/
structure Disables (s t : State) (q : Nat) : Prop where
  enable : rbit t (.cqCtrl q) 0 = false
  back : ∀ c rest, (queueOf s q).queued = c :: rest → qFetch t q = c.seq
  stays : (queueOf s q).queued = [] → qFetch t q = qFetch s q
  regs : RegsBut s t [.cqCtrl q, .cqFetch q]
  frame : t = { s with queues := t.queues, regs := t.regs }
  others : ∀ n, n ≠ q → queueOf t n = queueOf s n

theorem dropped_disables : Disables s (dropped s q.val) q.val where
  enable := by
    have kept : rget (dropped s q.val) (.cqCtrl q.val) = rget (rsetFld s (.cqCtrl q.val) 0 1 0) (.cqCtrl q.val) :=
      fetchBack_regs _ q.val _ _ (by simpa using (cqFetch_ne_cqCtrl q).symm)
    have cleared := rbit_rsetFld_same s (.cqCtrl q.val) (i := 0) (by decide) 0
    rw [rbit] at cleared ⊢
    rw [kept, cleared]
    rfl
  back := fun c rest hq => by
    rw [dropped, hq]
    exact qFetch_setFetch _ q.val c.seq
  stays := fun hq => by
    rw [dropped, hq]
    exact qFetch_rset_cqCtrl s q _
  regs := fun r hr => (fetchBack_regs _ q.val _ r (by simpa using hr _ (by simp))).trans (rget_rset_other _ _ _ _ (hr _ (by simp)))
  frame := by rw [dropped, fetchBack_frame]; rfl
  others := fun n hn => by rw [dropped, queueOf_setQueue_other _ _ _ _ hn, queueOf_fetchBack]; rfl

theorem queueOf_dropped : queueOf (dropped s q.val) q.val = droppedQueue (queueOf s q.val) := queueOf_setQueue_same _ _ _

variable {s q}

/-- ENABLE written 0 once more changes nothing else of what a disable leaves. -/
theorem Disables.cleared {t : State} (h : Disables s t q.val) : Disables s (rsetFld t (.cqCtrl q.val) 0 1 0) q.val where
  enable := rbit_rsetFld_same t (.cqCtrl q.val) (i := 0) (by decide) 0
  back := fun c rest hq => (qFetch_rset_cqCtrl t q _).trans (h.back c rest hq)
  stays := fun hq => (qFetch_rset_cqCtrl t q _).trans (h.stays hq)
  regs := fun r hr => (rget_rset_other _ _ _ _ (hr _ (by simp))).trans (h.regs r hr)
  frame := by
    have frame := h.frame
    rw [frame]
    rfl
  others := h.others

theorem Disables.setQueue {t : State} (h : Disables s t q.val) (k : Queue) : Disables s (Machine.setQueue t q.val k) q.val where
  enable := h.enable
  back := h.back
  stays := h.stays
  regs := h.regs
  frame := by
    have frame := h.frame
    rw [frame]
    rfl
  others := fun n hn => (queueOf_setQueue_other _ _ _ _ hn).trans (h.others n hn)

/-- With nothing in flight the queue is DISABLED at once. -/
theorem disable_idle (hf : (queueOf s q.val).flight = []) :
    let t := disableIfEmpty (dropped s q.val) q.val
    Disables s t q.val ∧ queueOf t q.val = disabledQueue (droppedQueue (queueOf s q.val)) := by
  have empty := disableIfEmpty_empty (s := dropped s q.val) (q := q.val) (by rw [queueOf_dropped]; rfl) (by rw [queueOf_dropped]; exact hf)
    (by rw [queueOf_dropped]; rfl)
  have gone := (dropped_disables s q).setQueue (disabledQueue (queueOf (dropped s q.val) q.val))
  dsimp only
  rw [empty]
  split
  · exact ⟨gone.cleared, (queueOf_setQueue_same _ _ _).trans (by rw [queueOf_dropped])⟩
  · exact ⟨gone, (queueOf_setQueue_same _ _ _).trans (by rw [queueOf_dropped])⟩

theorem disable_busy (hf : (queueOf s q.val).flight ≠ []) : disableIfEmpty (dropped s q.val) q.val = dropped s q.val :=
  disableIfEmpty_busy (.inr (by rw [queueOf_dropped]; exact hf))

end

/-! ## The statement -/

/-- Settles O18: an engine that reads TAIL takes it up, and a disable drops what has not started. -/
theorem queueControl : Obligations.QueueControl := by
  unfold Obligations.QueueControl
  constructor
  · intro s q tail k page hb hr hn hd
    refine ⟨fun he hc hw ht => ?_, fun he hc ht => ⟨fun hl => ?_, fun hl hw hk => ?_⟩,
      fun he hp hi => exec_tailPoll hb hr hn hd he hp hi, fun hs hc ha => exec_resume hb hr hn hd hs hc ha, fun hs => ?_⟩
    · rw [exec_tailWake hr hd he hc hw, if_neg fun ⟨asked, same⟩ => ht asked same, takeTail_reads hb hr hn]
      rfl
    · rw [exec_tailWake hr hd he hc (.inl hl), if_pos ⟨.inl hl, ht⟩, if_pos hl]
      rfl
    · rw [exec_tailWake hr hd he hc (.inr hw), if_pos ⟨.inr hk, ht⟩, if_neg (by rw [hl]; exact Bool.false_ne_true), takeTail_reads hb hr hn]
      rfl
    · refine ⟨_, exec_queueEnable hb hr hn hd hs, rfl, ?_, fun n hn => queueOf_setQueue_other _ _ _ _ hn, ?_, fun r hr => ?_⟩
      · rw [queueOf_setQueue_same]
        simp only [enabledQueue, partLost_iff]
        rfl
      · exact rbit_rsetFld_same s (.cqCtrl q.val) (i := 0) (by decide) 1
      · exact rget_rset_other _ _ _ _ (hr _ (by simp))
  · intro s q h k
    rw [exec_queueDisable h]
    by_cases hf : (queueOf s q.val).flight = []
    · obtain ⟨done, left⟩ := disable_idle hf
      exact ⟨_, rfl, by rw [left]; rfl, done.enable, fun _ => by rw [left]; rfl, fun busy => absurd hf busy, done.back, done.stays,
        by rw [left]; rfl, done.others, done.regs, done.frame⟩
    · have done := dropped_disables s q
      rw [disable_busy hf]
      exact ⟨_, rfl, by rw [queueOf_dropped]; rfl, done.enable, fun idle => absurd idle hf, fun _ => by rw [queueOf_dropped]; rfl,
        done.back, done.stays, by rw [queueOf_dropped]; rfl, done.others, done.regs, done.frame⟩

end Sys2Proof.Machine
end

section
/-! PROOFS. Cluster time: edges of TIMEPPS, loss and return of the references, and time messages (R337 to R341, R347): the statement O21. -/
namespace Sys2Proof.Machine

/-! ## Edges (R337 to R339) -/

/-- The time unit after an expected edge with TIMEREF good, k milliseconds after the last one: the value due has been taken. -/
def edgeTaken (s : State) (k : Nat) : TimeUnit :=
  { s.time with edgeNs := some s.localNs, nextEdge := none, goodEdges := if k = 1 then min 8 (s.time.goodEdges + 1) else 1 }

/-- What a value is ahead of cluster time. -/
def ahead (s : State) (v : Word64) : Int := (v.toNat : Int) - s.time.now.toNat

/-- A forward step to v: cluster time is v, and the step is counted and remembered. -/
def steppedTo (s : State) (k : Nat) (v : Word64) : State :=
  let t := { edgeTaken s k with now := v, st := .locked, slew := 0, stepped := true, steps := s.time.steps ++ [(s.time.now.toNat, v.toNat)] }
  rbump { s with time := t, gov := { s.gov with lastEnd := max s.gov.lastEnd v.toNat } } (.timeCtr 2) 1

section
variable {s : State} {v : Word64} {k : Nat}

/-- An expected edge with both references good applies the value due. -/
theorem exec_timeppsEdge (hr : s.time.refOk = true) (hp : s.time.ppsOk = true) (hv : s.time.nextEdge = some v)
    (he : edgeExpected s = (true, k)) :
    exec (.timeppsEdge true) s =
      .next (firePassed (applyEdge (setTime s { edgeTaken s k with nextEdge := some v }) v) s.time.now.toNat) := by
  show execTimeppsEdge true s = _
  unfold execTimeppsEdge
  simp only [he, hr, hp, hv, setTime, edgeTaken, Bool.not_true, Bool.and_self, Bool.or_self, Bool.false_eq_true, if_false]

theorem applyEdge_steps (h : 1000000 < ahead s v) :
    applyEdge (setTime s { edgeTaken s k with nextEdge := some v }) v = steppedTo s k v := if_pos h

theorem applyEdge_slews (hs : ahead s v ≤ 1000000) (h : 5 < (ahead s v).natAbs) :
    applyEdge (setTime s { edgeTaken s k with nextEdge := some v }) v =
      setTime s { edgeTaken s k with st := .slewing, slew := ahead s v } := (if_neg (Int.not_lt.mpr hs)).trans (if_pos h)

theorem applyEdge_keeps (h : (ahead s v).natAbs ≤ 5) :
    applyEdge (setTime s { edgeTaken s k with nextEdge := some v }) v = setTime s { edgeTaken s k with st := .locked, slew := 0 } := by
  have small : ¬ ahead s v > 1000000 := by omega
  exact (if_neg small).trans (if_neg (Nat.not_lt.mpr h))

/-- Where cluster time has not stepped, no action is passed over. -/
theorem firePassed_unmoved {t : State} (h : t.time.now = s.time.now) : firePassed t s.time.now.toNat = t :=
  if_pos (by rw [h]; omega)

theorem exec_timeppsEdge_unmoved {t : TimeUnit} (hr : s.time.refOk = true) (hp : s.time.ppsOk = true) (hv : s.time.nextEdge = some v)
    (he : edgeExpected s = (true, k)) (ha : applyEdge (setTime s { edgeTaken s k with nextEdge := some v }) v = setTime s t)
    (hn : t.now = s.time.now) : exec (.timeppsEdge true) s = .next (setTime s t) := by
  rw [exec_timeppsEdge hr hp hv he, ha, firePassed_unmoved hn]

end

theorem rget_steppedTo (s : State) (k : Nat) (v : Word64) : rget (steppedTo s k v) (.timeCtr 2) = rget s (.timeCtr 2) + 1 :=
  rget_rbump_same _ (.timeCtr 2) 1

theorem steppedTo_regs (s : State) (k : Nat) (v : Word64) : RegsBut s (steppedTo s k v) [.timeCtr 2] :=
  fun _ hr => rget_rbump_other _ 1 (hr _ (by simp))

/-! ## References (R340, R341) -/

/-- The time unit as it enters HOLDOVER. -/
def holdoverTime (s : State) (pps : Bool) : TimeUnit :=
  { s.time with goodEdges := 0, ppsOk := s.time.ppsOk && !pps, refOk := s.time.refOk && pps, slew := 0, nextEdge := none, st := .holdover
                lossBound := errBound s, lossNs := s.localNs }

/-- Losing a reference in LOCKED or SLEWING begins HOLDOVER, which is counted, and the loss is recorded. -/
theorem exec_timeRefLost {s : State} {pps : Bool} (hw : (if pps then s.time.ppsOk else s.time.refOk) = true)
    (hm : pps = true → edgesMissed s = true) (hs : s.time.st = .locked ∨ s.time.st = .slewing) :
    exec (.timeRefLost pps) s =
      .next (report (rbump (setTime s (holdoverTime s pps)) (.timeCtr 3) 1) .timeRefLost (resource 0x0D (b01 pps)) 0 0 false) := by
  have missed : ¬ (pps = true ∧ (if pps then s.time.ppsOk else s.time.refOk) = true ∧ (!edgesMissed s) = true) := by
    rintro ⟨lost, -, late⟩
    rw [hm lost] at late
    cases late
  have good : ¬ ((!(if pps then s.time.ppsOk else s.time.refOk)) = true) := by rw [hw]; exact Bool.false_ne_true
  have steered : (decide (s.time.st = .locked) || decide (s.time.st = .slewing)) = true := by
    rcases hs with h | h <;> rw [h] <;> rfl
  show execTimeRefLost pps s = _
  refine (if_neg missed).trans ((if_neg good).trans ?_)
  dsimp only
  rw [if_pos steered]
  rfl

theorem timeCtr_ne_recordRegs {n : Nat} : ∀ x ∈ recordRegs n, regOffset (.timeCtr 3) ≠ regOffset x := by
  intro x hx e
  have low := recordRegs_low hx
  rw [← e] at low
  exact absurd low (by decide)

/-- The record of a lost reference leaves cluster time and its counters alone. -/
theorem reported_time (s : State) (st : Status) (res : Word32) (a d : Word64) (f : Bool) :
    (report s st res a d f).time = s.time ∧ rget (report s st res a d f) (.timeCtr 3) = rget s (.timeCtr 3) :=
  ⟨by rw [report_frame], report_regs s st res a d f _ timeCtr_ne_recordRegs⟩

section
variable {s : State}

theorem exec_timeRefReturn (he : 8 ≤ s.time.goodEdges) (hl : ¬ (s.time.refOk = true ∧ s.time.ppsOk = true)) :
    exec .timeRefReturn s = .next { s with time := { s.time with refOk := true, ppsOk := true, nextEdge := none } } :=
  if_neg (by simp only [not_or, Nat.not_lt]; exact ⟨he, hl⟩)

theorem exec_holdoverExpiry (hs : s.time.st = .holdover) (hn : s.time.lossNs + 10 ^ 10 ≤ s.localNs) :
    exec .holdoverExpiry s = .next { s with time := { s.time with st := .unsync } } := if_pos ⟨hs, hn⟩

theorem exec_epochStale (he : s.time.epochStale = false) (hn : s.time.lastMsgNs + 10 ^ 9 ≤ s.localNs) :
    exec .epochStale s = .next { s with time := { s.time with epochStale := true } } :=
  if_neg (by rw [he]; simp only [Bool.false_eq_true, false_or]; omega)

/-! ## The master (R338, R347) -/

theorem exec_timeSet {v : Word64} (hm : rbit s .timeCtrl 0 = true) (hv : v.toNat % 1000000 = 0) :
    exec (.timeSet v) s = .next (setTime (rset s .timeSet v) { s.time with nextEdge := some v, masterBound := 0 }) := by
  show Host.Outcome.next (setEdge s v) = _
  rw [setEdge, if_pos ⟨hm, hv⟩]

/-- The cluster time of the next edge, as the master names it. -/
def messageEdge (s : State) : Nat :=
  match s.time.nextEdge with
  | some v => v.toNat
  | none => (nearestMs (s.time.now + BitVec.ofNat 64 (edgeIn s))).toNat

/-- The time message of the master (R338), as it hands it to the switch. -/
def timePacket (s : State) (edge : Nat) : Packet :=
  { destNode := ownNode s, destUnit := 0xFFF, srcUnit := 0xFFF, vc := 0, ptype := ptTime, last := true, bcast := true, btree := 0
    payload := timePayload edge (errBound s) }

theorem exec_timeMessageSend (hm : rbit s .timeCtrl 0 = true) (hd : s.time.msgMs ≠ messageEdge s / 1000000) (he : 500000 ≤ edgeIn s) :
    exec .timeMessageSend s =
      .next (sendPacket (setTime s { s.time with msgMs := messageEdge s / 1000000 }) (timePacket s (messageEdge s))) := by
  have due : ¬ ((!isMaster s || decide (s.time.msgMs = messageEdge s / 1000000) || decide (edgeIn s < 500000)) = true) := by
    simp [isMaster, hm, hd, he]
  exact if_neg due

/-! ## Messages that arrive (R338) -/

/-- From s to t the fabric changes at most. -/
def FabricOnly (s t : State) : Prop := t = { s with fab := t.fab }

theorem FabricOnly.after {t u : State} (h : FabricOnly t u) (g : FabricOnly s t) : FabricOnly s u := by
  unfold FabricOnly at *
  rw [h, g]

theorem returnCredits_fabricOnly (p fuel : Nat) (s : State) : FabricOnly s (returnCredits p fuel s) := by
  induction fuel generalizing s with
  | zero => rfl
  | succ fuel ih =>
    rw [returnCredits]
    split
    · exact (ih _).after rfl
    · rfl

/-- A packet that is taken leaves the fabric alone changed (R360). -/
theorem takeArrived_fabricOnly (s : State) (n : Nat) : FabricOnly s (takeArrived s n) := by
  unfold takeArrived leaveInput oweSlots
  dsimp only
  split
  · split
    · rfl
    · exact (returnCredits_fabricOnly _ _ _).after rfl
  · rfl

section
variable {n : Nat} {x : InPkt} (hm : rbit s .timeCtrl 0 = false) (hx : arrivedAt s n 0x0B = some x)
  (hn : x.pkt.srcNode.toNat = rfld s .timeCtrl 48 16)
include hm hx hn

/-- A message of the master's node is taken; one that names a past edge is discarded and counted. -/
theorem exec_time :
    exec (.time n) s = .next (if leNat x.pkt.payload % 2 ^ 64 < s.time.now.toNat then rbump (takeArrived s n) (.timeCtr 0) 1
      else setTime (takeArrived s n) { s.time with nextEdge := some (BitVec.ofNat 64 (leNat x.pkt.payload % 2 ^ 64))
                                                   masterBound := leNat x.pkt.payload / 2 ^ 64 % 2 ^ 64, lastMsgNs := s.localNs
                                                   epochStale := false }) := by
  have taken := takeArrived_fabricOnly s n
  have time : (takeArrived s n).time = s.time := by rw [taken]
  have instant : (takeArrived s n).localNs = s.localNs := by rw [taken]
  have ours : ¬ ((isMaster (takeArrived s n) || decide (x.pkt.srcNode.toNat ≠ rfld (takeArrived s n) .timeCtrl 48 16)) = true) := by
    have master : isMaster (takeArrived s n) = false := by rw [taken]; exact hm
    have node : rfld (takeArrived s n) .timeCtrl 48 16 = rfld s .timeCtrl 48 16 := by rw [taken]; rfl
    simp [master, node, hn]
  have edge : nfld (leNat x.pkt.payload) 0 64 = leNat x.pkt.payload % 2 ^ 64 := by rw [nfld, Nat.pow_zero, Nat.div_one]
  show execTime n s = _
  unfold execTime
  rw [show arrivedAt s n ptTime = some x from hx]
  dsimp only
  rw [if_neg ours, time, instant, edge]
  split <;> rfl

theorem exec_time_late (hl : leNat x.pkt.payload % 2 ^ 64 < s.time.now.toNat) :
    exec (.time n) s = .next (rbump (takeArrived s n) (.timeCtr 0) 1) := by
  rw [exec_time hm hx hn, if_pos hl]

theorem exec_time_accepted (hl : s.time.now.toNat ≤ leNat x.pkt.payload % 2 ^ 64) :
    exec (.time n) s = .next (setTime (takeArrived s n) { s.time with nextEdge := some (BitVec.ofNat 64 (leNat x.pkt.payload))
                                                                      masterBound := leNat x.pkt.payload / 2 ^ 64 % 2 ^ 64
                                                                      lastMsgNs := s.localNs, epochStale := false }) := by
  have edge : BitVec.ofNat 64 (leNat x.pkt.payload % 2 ^ 64) = BitVec.ofNat 64 (leNat x.pkt.payload) := by
    apply BitVec.eq_of_toNat_eq
    rw [BitVec.toNat_ofNat, BitVec.toNat_ofNat, Nat.mod_mod]
  rw [exec_time hm hx hn, if_neg (Nat.not_lt.mpr hl), edge]

end

end

/-! ## The statement -/

/-- Settles O21: the value due decides what an edge does, a lost reference begins HOLDOVER, and a message names the next edge. -/
theorem clusterTime : Obligations.ClusterTime := by
  unfold Obligations.ClusterTime
  constructor
  · intro s v t0 diff
    refine ⟨?_, fun pps hw hm hs => ?_, exec_timeRefReturn, exec_holdoverExpiry, exec_epochStale⟩
    · intro k hr hp hv he edge
      refine ⟨fun hs => ?_, fun hs hd => exec_timeppsEdge_unmoved hr hp hv he (applyEdge_slews hs hd) rfl,
        fun hd => exec_timeppsEdge_unmoved hr hp hv he (applyEdge_keeps hd) rfl⟩
      rw [exec_timeppsEdge hr hp hv he, applyEdge_steps hs]
      exact ⟨_, rfl, rfl, rfl, rget_steppedTo s k v, steppedTo_regs s k v⟩
    · obtain ⟨time, count⟩ := reported_time (rbump (setTime s (holdoverTime s pps)) (.timeCtr 3) 1) .timeRefLost (resource 0x0D (b01 pps)) 0 0 false
      refine ⟨_, exec_timeRefLost hw hm hs, ?_⟩
      rw [time, count]
      exact ⟨rfl, rfl, rfl, rfl, rfl, rfl, rfl, rfl, rget_rbump_same _ (.timeCtr 3) 1⟩
  · intro s v n x
    refine ⟨fun hm hv => ⟨_, exec_timeSet hm hv, rfl, rget_rset_same s .timeSet v, fun r hr => rget_rset_other _ _ _ _ (hr _ (by simp)), rfl⟩,
      fun hm hd he => ⟨_, _, exec_timeMessageSend hm hd he, rfl, rfl, rfl, rfl, rfl, rfl, rfl, rfl, rfl, rfl⟩,
      fun hm hx hn hl => exec_time_late hm hx hn hl, fun hm hx hn hl => ⟨_, exec_time_accepted hm hx hn hl, rfl, ?_, rfl⟩⟩
    rw [takeArrived_fabricOnly s n]
    rfl

end Sys2Proof.Machine
end

section
/-! PROOFS. Command records are fetched, checked, cancelled and started (R315, R316, R319, R321 to R323, R403, R408, R438, R657): the
statement O19. -/
namespace Sys2Proof.Machine

/-! ## Fetch (R315, R316) -/

section
variable {s : State} {q : Fin 4096}

/-- The command record that is copied from the slot of F. -/
def fetchedRec (s : State) (q : Nat) (bs : List Byte) : CmdRec := { seq := qFetch s q, raw := BitVec.ofNat 1024 (leNat bs) }

/-- The queue with that record behind those fetched before. -/
def fetchedQueue (s : State) (q : Nat) (bs : List Byte) : Queue :=
  { queueOf s q with queued := (queueOf s q).queued ++ [fetchedRec s q bs] }

theorem exec_commandFetch {bs : List Byte} (hb : NoBitErrors s) (hs : (queueOf s q.val).state = .running)
    (hd : (queueOf s q.val).disabling = false) (hc : (queueOf s q.val).cancelTo = none) (hf : qFetch s q.val ≠ (queueOf s q.val).tail)
    (hq : (queueOf s q.val).queued.length < 32) (ht : queuedTotal s < 16384)
    (hr : ringRead s q.val ((qFetch s q.val).toNat % qSize s q.val * 128) 128 = .ok bs) :
    exec (.commandFetch q) s = .next (setQueue (setFetch s q.val (qFetch s q.val + 1)) q.val (fetchedQueue s q.val bs)) := by
  show execCommandFetch q s = _
  unfold execCommandFetch
  simp only [hc, ringSettle_noBitErrors hb, hr, Option.isSome_none, Bool.not_false, Bool.true_and, Bool.false_and, Bool.false_eq_true,
    if_false]
  have goes : ¬ ((queueOf s q.val).disabling = true ∨ qFetch s q.val = (queueOf s q.val).tail ∨
      decide ((queueOf s q.val).state ≠ .running) = true ∨ False ∨ (queueOf s q.val).queued.length ≥ 32 ∨ queuedTotal s ≥ 16384) := by
    simp [hs, hd, hf, hq, ht]
  exact if_neg goes

/-! ## Commands that complete unrun (R319, R657) -/

/-- The record of a fetched command that completes with a status without running. -/
def unrunFlight (s : State) (st : Status) (c : CmdRec) : Flight :=
  { cmd := c, started := false, done := true, status := st, startNs := s.localNs, kindBlk := kindStart c }

theorem unrun_setQueue (s : State) (q : Nat) (k : Queue) (c : CmdRec) (st : Status) :
    unrun (setQueue s q k) q c st = setQueue s q { k with flight := k.flight ++ [unrunFlight s st c] } := by
  rw [unrun, modQueue, queueOf_setQueue_same, setQueue_setQueue]
  rfl

theorem foldl_unrun (s : State) (q : Nat) (st : Status) (l : List CmdRec) (k : Queue) :
    l.foldl (fun s c => unrun s q c st) (setQueue s q k) = setQueue s q { k with flight := k.flight ++ l.map (unrunFlight s st) } := by
  induction l generalizing k with
  | nil => simp
  | cons c l ih => rw [List.foldl_cons, unrun_setQueue, ih, List.map_cons, List.append_assoc, List.singleton_append]

theorem exec_commandCheck {c : CmdRec} {rest : List CmdRec} {st : Status} (hq : (queueOf s q.val).queued = c :: rest)
    (hs : (queueOf s q.val).state = .running) (hd : (queueOf s q.val).disabling = false)
    (hf : ∀ x ∈ (queueOf s q.val).flight, x.started = true) (hh : headFault s q.val c = some st) :
    exec (.commandCheck q) s =
      .next (setQueue s q.val { queueOf s q.val with queued := rest, flight := (queueOf s q.val).flight ++ [unrunFlight s st c] }) := by
  have started : ((queueOf s q.val).flight.any fun f => !f.started && decide (f.status ≠ .cancelled)) = false := by
    rw [List.any_eq_false]
    intro x hx
    simp [hf x hx]
  show execCommandCheck q s = _
  unfold execCommandCheck
  simp only [hq, hs, hd, started, hh, modQueue, unrun_setQueue, ne_eq, not_true_eq_false, Bool.false_eq_true, or_self, if_false]

/-- A queue that a CANCEL takes: what has not started completes with CANCELLED, and so will the records up to this TAIL. -/
def cancelledQueue (s : State) (q : Nat) (tail : Word32) : Queue :=
  { tailTaken s q tail (queueOf s q) with
    queued := [], flight := (queueOf s q).flight ++ (queueOf s q).queued.map (unrunFlight s .cancelled), cancelTo := some tail
    cancelAsked := false }

theorem exec_cancel {tail : Word32} (hb : NoBitErrors s) (hs : (queueOf s q.val).state = .stopped)
    (hd : (queueOf s q.val).disabling = false) (hc : (queueOf s q.val).cancelTo = none) (hr : readTail s q.val = .ok tail)
    (hn : (tail - qFetch s q.val).toNat ≤ qSize s q.val) (ht : tail ≠ qFetch s q.val) :
    exec (.cancel q) s = .next (setQueue s q.val (cancelledQueue s q.val tail)) := by
  have more : ∀ k : Queue, cancelStep (setQueue s q.val { k with cancelTo := some tail }) q.val =
      setQueue s q.val { k with cancelTo := some tail } := fun k => by
    rw [cancelStep, queueOf_setQueue_same]
    exact if_neg (Ne.symm ht)
  have within (k : Queue) : ¬ (tail - qFetch (setQueue s q.val k) q.val).toNat > qSize (setQueue s q.val k) q.val := Nat.not_lt.mpr hn
  have goes : ¬ ((queueOf s q.val).state ≠ .stopped ∨ (queueOf s q.val).cancelTo.isSome = true ∨ (queueOf s q.val).disabling = true) := by
    simp [hs, hc, hd]
  show Host.Outcome.next (cancelQueue s q.val) = _
  unfold cancelQueue
  refine (congrArg Host.Outcome.next (if_neg goes)).trans ?_
  simp only [tailSettle_noBitErrors hb, hr, foldl_unrun, if_neg (within _), modQueue, queueOf_setQueue_same, setQueue_setQueue]
  exact congrArg Host.Outcome.next (more (cancelledQueue s q.val tail))

end

/-! ## What a start reads (R321 to R323, R438) -/

theorem localUnits_rset (s : State) {r : Reg} (v : Word64) (h : NotAsked r) (c : CmdRec) : localUnits (rset s r v) c = localUnits s c := by
  have own : ownNode (rset s r v) = ownNode s := by
    obtain ⟨low, -⟩ := h
    have : regOffset .fabNodeId = 0x400000 := rfl
    rw [ownNode, rfld_rset_other _ _ (by omega), ownNode]
  simp only [localUnits, hdRead_rset s v h, own]

theorem neededCores_rset (s : State) {r : Reg} (v : Word64) (h : NotAsked r) (c : CmdRec) : neededCores (rset s r v) c = neededCores s c := by
  rw [neededCores, localUnits_rset s v h]
  rfl

/-- NOT_BEFORE of a command fires as the command starts (R342): the state, and the flags. -/
def startFired (s : State) (c : CmdRec) : State × BitVec 3 := if cmdNb c then fireFlags s (cmdWord c 0x08).toNat else (s, 0)

/-- What fires counts in a register of cluster time at most. -/
theorem startFired_eq (s : State) (c : CmdRec) : (startFired s c).1 = s ∨ ∃ v, (startFired s c).1 = rset s (.timeCtr 1) v := by
  unfold startFired
  split
  · unfold fireFlags
    dsimp only
    split
    · exact .inr ⟨_, rfl⟩
    · exact .inl rfl
  · exact .inl rfl

theorem neededCores_startFired (s : State) (c : CmdRec) : neededCores (startFired s c).1 c = neededCores s c := by
  obtain same | ⟨v, fired⟩ := startFired_eq s c
  · rw [same]
  · rw [fired, neededCores_rset s v (notAsked_timeCtr (by decide))]

theorem rget_startFired (s : State) (c : CmdRec) {r : Reg} (h : regOffset r ≠ regOffset (.timeCtr 1)) : rget (startFired s c).1 r = rget s r := by
  obtain same | ⟨v, fired⟩ := startFired_eq s c
  · rw [same]
  · rw [fired, rget_rset_other _ _ _ _ h]

theorem startFired_frame (s : State) (c : CmdRec) : (startFired s c).1 = { s with regs := (startFired s c).1.regs } := by
  obtain same | ⟨v, fired⟩ := startFired_eq s c
  · rw [same]
  · rw [fired]; rfl

theorem qCopy_startFired (s : State) (c : CmdRec) (q : Nat) : qCopy (startFired s c).1 q = qCopy s q := by
  have page : regOffset (.cqCfg q) ≠ regOffset (.timeCtr 1) := by simp only [regOffset]; omega
  rw [qCopy, rfld, rget_startFired s c page, qCopy, rfld]

/-! ## Places in the seal table and turns to claim (R403, R408) -/

/-- From s to t the seal table and the collectives lose entries at most, and the turns to claim stay. -/
structure SealKept (s t : State) : Prop where
  frame : t = { s with coll := { s.coll with entries := t.coll.entries, colls := t.coll.colls } }
  entries : t.coll.entries.Sublist s.coll.entries
  colls : t.coll.colls.Sublist s.coll.colls

theorem SealKept.refl (s : State) : SealKept s s := ⟨rfl, .refl _, .refl _⟩

theorem sealEvict_kept (s : State) (ref : Word64) : SealKept s (sealEvict s ref) := by
  unfold sealEvict
  split
  · exact .refl s
  · split
    · exact .refl s
    · exact ⟨rfl, List.filter_sublist, List.filter_sublist⟩

/-- A COLLECTIVE takes its place in the seal table. -/
def sealPlaced (s : State) (c : CmdRec) : State := if cmdKind c = 0x05 then sealEvict s (cmdWord c 0x48) else s

theorem sealPlaced_kept (s : State) (c : CmdRec) : SealKept s (sealPlaced s c) := by
  unfold sealPlaced
  split
  · exact sealEvict_kept _ _
  · exact .refl s

/-- A reduction with CUM 1 takes its turn to claim slots. -/
def turnTaken (s : State) (q : Nat) (c : CmdRec) : State :=
  if wantsClaim c then { s with coll := { s.coll with starts := claimsDue s ++ [(q, c.seq)] } } else s

/-- The command is in the seal table and among the turns, as far as its kind asks for it. -/
def placed (s : State) (q : Nat) (c : CmdRec) : State := turnTaken (sealPlaced s c) q c

theorem claimsDue_sealPlaced (s : State) (c : CmdRec) : claimsDue (sealPlaced s c) = claimsDue s := by
  have starts : (sealPlaced s c).coll.starts = s.coll.starts := by rw [(sealPlaced_kept s c).frame]
  have queues : ∀ n, queueOf (sealPlaced s c) n = queueOf s n := fun n => by rw [(sealPlaced_kept s c).frame]; rfl
  simp only [claimsDue, starts, queues]

theorem placed_frame (s : State) (q : Nat) (c : CmdRec) :
    placed s q c = { s with coll := { s.coll with
      entries := (placed s q c).coll.entries, colls := (placed s q c).coll.colls
      starts := if wantsClaim c then claimsDue s ++ [(q, c.seq)] else s.coll.starts } } := by
  unfold placed turnTaken
  rw [claimsDue_sealPlaced]
  split
  · rw [(sealPlaced_kept s c).frame]
  · exact (sealPlaced_kept s c).frame

theorem placed_sublist (s : State) (q : Nat) (c : CmdRec) :
    (placed s q c).coll.entries.Sublist s.coll.entries ∧ (placed s q c).coll.colls.Sublist s.coll.colls := by
  obtain ⟨-, entries, colls⟩ := sealPlaced_kept s c
  unfold placed turnTaken
  split <;> exact ⟨entries, colls⟩

theorem placed_other {c : CmdRec} (h : cmdKind c ≠ 5) (s : State) (q : Nat) : placed s q c = s := by
  rw [placed, sealPlaced, if_neg h, turnTaken, if_neg (by simp [wantsClaim, h])]

/-! ## COMMAND_START (R321 to R323) -/

/-- The record of a command that starts: cores, copy unit and CUM_SVT_BASE as its start finds them. -/
def startFlight (s : State) (q : Nat) (c : CmdRec) : Flight :=
  { cmd := c, kindBlk := kindStart c, timeFlags := (startFired s c).2, startNs := s.localNs, tried := s.localNs
    copyUnit := if isCopyKind (cmdKind c) then some (qCopy s q) else none, svt := rget s .cumSvtBase
    launched := (neededCores s c).map fun x => (x, (physOf s x).getD 0) }

/-- The queue is granted, and the action of NOT_BEFORE has fired. -/
def granted (s : State) (q : Nat) (c : CmdRec) : State := { (startFired s c).1 with lastGrant := q }

theorem granted_frame (s : State) (q : Nat) (c : CmdRec) : granted s q c = { s with regs := (startFired s c).1.regs, lastGrant := q } := by
  rw [granted, startFired_frame]

/-- The command at the head of a queue is in flight, in its places. -/
def commandStarted (s : State) (q : Nat) (c : CmdRec) : State :=
  setQueue (placed (granted s q c) q c) q
    { queueOf s q with queued := (queueOf s q).queued.drop 1, flight := (queueOf s q).flight ++ [startFlight s q c] }

/-- A movement takes the copy unit of its cluster. -/
def copyTaken (s : State) (q : Nat) (seq : Word32) : Option Nat → State
  | none => s
  | some cl => setCluster s cl { clusterOf s cl with copyCmd := some (q, seq) }

theorem copyTaken_frame (s : State) (q : Nat) (seq : Word32) (u : Option Nat) :
    copyTaken s q seq u = { s with clusters := (copyTaken s q seq u).clusters } := by cases u <;> rfl

theorem queueOf_copyTaken (s : State) (q : Nat) (seq : Word32) (u : Option Nat) (n : Nat) :
    queueOf (copyTaken s q seq u) n = queueOf s n := by rw [copyTaken_frame]; rfl

theorem queueOf_placed (s : State) (q : Nat) (c : CmdRec) (n : Nat) : queueOf (placed (granted s q c) q c) n = queueOf s n := by
  rw [placed_frame, granted_frame]; rfl

/-- A start changes queues, the queue last granted, a register of cluster time, and what the collectives hold. -/
theorem commandStarted_frame (s : State) (q : Nat) (c : CmdRec) :
    commandStarted s q c = { s with queues := (commandStarted s q c).queues, lastGrant := q, regs := (startFired s c).1.regs
                                    coll := (placed (granted s q c) q c).coll } := by
  rw [commandStarted, placed_frame, granted_frame]
  rfl

/-- The collectives of a granted queue's package are those before. -/
theorem granted_coll (s : State) (q : Nat) (c : CmdRec) : (granted s q c).coll = s.coll ∧ claimsDue (granted s q c) = claimsDue s := by
  rw [granted_frame]
  exact ⟨rfl, rfl⟩

theorem placed_granted_other {c : CmdRec} (h : cmdKind c ≠ 5) (s : State) (q : Nat) : (placed (granted s q c) q c).coll = s.coll := by
  rw [placed_other h, (granted_coll s q c).1]

/-- What a start leaves of the seal table, the collectives and the turns to claim. -/
theorem placed_granted (s : State) (q : Nat) (c : CmdRec) :
    let u := (placed (granted s q c) q c).coll
    u.entries.Sublist s.coll.entries ∧ u.colls.Sublist s.coll.colls ∧
      u = { s.coll with entries := u.entries, colls := u.colls
                        starts := if wantsClaim c then claimsDue s ++ [(q, c.seq)] else s.coll.starts } := by
  obtain ⟨coll, claims⟩ := granted_coll s q c
  obtain ⟨entries, colls⟩ := placed_sublist (granted s q c) q c
  have frame := congrArg State.coll (placed_frame (granted s q c) q c)
  rw [coll] at entries colls frame
  rw [claims] at frame
  exact ⟨entries, colls, frame⟩

theorem startFlight_startFired (s : State) (q : Nat) (c : CmdRec) :
    { startFlight (startFired s c).1 q c with timeFlags := (startFired s c).2 } = startFlight s q c := by
  have ns : (startFired s c).1.localNs = s.localNs := by rw [startFired_frame]
  have phys : ∀ x, physOf (startFired s c).1 x = physOf s x := fun x => by rw [startFired_frame]; rfl
  have svt : rget (startFired s c).1 .cumSvtBase = rget s .cumSvtBase := rget_startFired s c (by decide)
  simp only [startFlight, ns, phys, svt, qCopy_startFired, neededCores_startFired]

theorem exec_commandStart {s : State} {q : Fin 4096} {c : CmdRec} (hc : canStart s q.val = some c) (hf : startsFirst s q.val c = true) :
    exec (.commandStart q) s =
      .next (copyTaken (commandStarted s q.val c) q.val c.seq (startFlight s q.val c).copyUnit) := by
  have head : queueOf (placed (granted s q.val c) q.val c) q.val = queueOf s q.val := queueOf_placed s q.val c q.val
  show execCommandStart q s = _
  rw [commandStarted, ← startFlight_startFired, ← head, granted, execCommandStart, hc]
  refine (if_neg (by rw [hf]; decide)).trans ?_
  generalize hu : startFired s c = fired
  have hu' : (if cmdNb c then fireFlags s (cmdWord c 0x08).toNat else (s, 0)) = fired := hu
  obtain ⟨u, tf⟩ := fired
  simp only [hu']
  rfl

/-! ## The statement -/

theorem isCopyKind_iff {k : Nat} : isCopyKind k = true ↔ 1 ≤ k ∧ k ≤ 3 := by simp [isCopyKind]

/-- Settles O19: what a fetch, a check, a cancel and a start each put into the queue. -/
theorem fetchAndStart : Obligations.FetchAndStart := by
  unfold Obligations.FetchAndStart
  constructor
  · intro s q bs c rest st tail k f never
    refine ⟨fun hb hs hd hc hf hq ht hr => ⟨_, exec_commandFetch hb hs hd hc hf hq ht hr, queueOf_setQueue_same _ _ _,
        fun n hn => queueOf_setQueue_other _ _ _ _ hn, qFetch_setFetch s q.val _, fun r hr => rget_rset_other _ _ _ _ (hr _ (by simp)), rfl⟩,
      fun hq hs hd hf hh => exec_commandCheck hq hs hd hf hh, fun hb hs hd hc hr hn ht => exec_cancel hb hs hd hc hr hn ht⟩
  · intro s q c hc hf k moves
    refine ⟨_, startFlight s q.val c, exec_commandStart hc hf, ?_⟩
    have frame := copyTaken_frame (commandStarted s q.val c) q.val c.seq (startFlight s q.val c).copyUnit
    have coll : (copyTaken (commandStarted s q.val c) q.val c.seq (startFlight s q.val c).copyUnit).coll =
        (placed (granted s q.val c) q.val c).coll := by rw [frame, commandStarted_frame]
    refine ⟨by rw [frame, commandStarted_frame], ?_, fun n hn => ?_, rfl, fun other => ?_, fun _ => ?_, rfl, rfl, rfl, rfl, rfl,
      ?_, fun moving => ?_, fun still => ?_, ?_⟩
    · rw [queueOf_copyTaken, commandStarted, queueOf_setQueue_same]
    · rw [queueOf_copyTaken, commandStarted, queueOf_setQueue_other _ _ _ _ hn, queueOf_placed]
    · rw [coll, placed_granted_other other]
    · rw [coll]
      exact placed_granted s q.val c
    · simp [startFlight, List.map_map, Function.comp_def]
    · have unit : (startFlight s q.val c).copyUnit = some (qCopy s q.val) := if_pos (isCopyKind_iff.mpr moving)
      rw [unit, copyTaken, clusterOf_setCluster_same]
      exact ⟨rfl, rfl⟩
    · have unit : (startFlight s q.val c).copyUnit = none := if_neg (mt isCopyKind_iff.mp still)
      rw [unit, copyTaken, commandStarted_frame]
      exact ⟨rfl, rfl⟩
    · rw [frame, commandStarted_frame]

end Sys2Proof.Machine
end

section
/-! PROOFS. A write of device or host memory neither asks for the command queues and the event counters nor changes them (R244, R263,
R278, R512): it does the same whatever they hold. And it leaves the registers below those of the memory stacks, but for the
counters of records. -/
namespace Sys2Proof.Machine

/-- The state with other command queues and event counters. -/
def withCommands (s : State) (l : Table Queue) (e : Table Word64) : State := { s with queues := l, evt := e }

section
variable (s : State) (l : Table Queue) (e : Table Word64)

theorem withCommands_ite (c : Prop) [Decidable c] (t : State) :
    withCommands (if c then s else t) l e = if c then withCommands s l e else withCommands t l e := apply_ite (fun u => withCommands u l e) c s t

/-! ## Accessors and updates -/

@[simp] theorem rget_withCommands (r : Reg) : rget (withCommands s l e) r = rget s r := rfl
@[simp] theorem errQ_withCommands (n : Nat) : errQ (withCommands s l e) n = errQ s n := rfl
@[simp] theorem stackOf_withCommands (n : Nat) : stackOf (withCommands s l e) n = stackOf s n := rfl
@[simp] theorem clusterOf_withCommands (n : Nat) : clusterOf (withCommands s l e) n = clusterOf s n := rfl
@[simp] theorem time_withCommands : (withCommands s l e).time = s.time := rfl
@[simp] theorem timeFlags_withCommands : timeFlags (withCommands s l e) = timeFlags s := rfl
@[simp] theorem rbump_withCommands (r : Reg) (n : Nat) : rbump (withCommands s l e) r n = withCommands (rbump s r n) l e := rfl
@[simp] theorem setErrQ_withCommands (n : Nat) (q : ErrQueue) : setErrQ (withCommands s l e) n q = withCommands (setErrQ s n q) l e := rfl
@[simp] theorem setStack_withCommands (n : Nat) (k : Stack) : setStack (withCommands s l e) n k = withCommands (setStack s n k) l e := rfl
@[simp] theorem modLive_withCommands (f : FldImage → FldImage) : modLive (withCommands s l e) f = withCommands (modLive s f) l e := rfl

/-! ## Error records (R571) -/

@[simp] theorem addDue_withCommands (d : Due) : addDue (withCommands s l e) d = withCommands (addDue s d) l e := by
  unfold addDue
  rw [withCommands_ite]
  rfl

@[simp] theorem putRecord_withCommands (r : ErrRec) : putRecord (withCommands s l e) r = withCommands (putRecord s r) l e := by
  simp only [putRecord, withCommands_ite, rget_withCommands, errQ_withCommands, timeFlags_withCommands, rbump_withCommands,
    setErrQ_withCommands, addDue_withCommands, time_withCommands]

theorem followRecord_withCommands (st : Status) (res : Word32) (d : Nat) :
    followRecord (withCommands s l e) st res d = withCommands (followRecord s st res d) l e := putRecord_withCommands s l e _

theorem markRetire_withCommands (r : Word32) : markRetire (withCommands s l e) r = withCommands (markRetire s r) l e := by
  unfold markRetire
  dsimp only
  split
  · rfl
  · rw [clusterOf_withCommands]
    split <;> rfl
  · rw [stackOf_withCommands]
    split
    · rw [withCommands_ite, setStack_withCommands, followRecord_withCommands]
    · rfl
  · exact addDue_withCommands s l e _

theorem raisedAction_withCommands (r : ErrRec) : raisedAction (withCommands s l e) r = withCommands (raisedAction s r) l e := by
  unfold raisedAction
  rw [withCommands_ite]
  split
  · rfl
  · split <;> simp only [withCommands_ite, markRetire_withCommands, addDue_withCommands]

theorem raiseRecord_withCommands (r : ErrRec) : raiseRecord (withCommands s l e) r = withCommands (raiseRecord s r) l e := by
  unfold raiseRecord
  dsimp only
  rw [withCommands_ite, errQ_withCommands, putRecord_withCommands, raisedAction_withCommands, time_withCommands, timeFlags_withCommands]

theorem report_withCommands (st : Status) (res : Word32) (a d : Word64) (f : Bool) :
    report (withCommands s l e) st res a d f = withCommands (report s st res a d f) l e := by
  unfold report
  rw [withCommands_ite, raiseRecord_withCommands]

/-! ## Words of storage (R262 to R265, R278) -/

theorem channelDue_withCommands (n ch : Nat) (f : Bool) : channelDue (withCommands s l e) n ch f = withCommands (channelDue s n ch f) l e := by
  simp only [channelDue, withCommands_ite, stackOf_withCommands, setStack_withCommands, report_withCommands]

theorem setSlots_withCommands (n : Nat) (x : List HoldSlot) : setSlots (withCommands s l e) n x = withCommands (setSlots s n x) l e := by
  unfold setSlots
  rw [withCommands_ite]
  rfl

theorem putRaw_withCommands (a : Nat) (bs : List Byte) : putRaw (withCommands s l e) a bs = withCommands (putRaw s a bs) l e := by
  unfold putRaw
  rw [show slotAt (withCommands s l e) a = slotAt s a from rfl]
  split
  · exact setSlots_withCommands s l e _ _
  · rfl

theorem setDevPoison_withCommands (w : Nat) (b : Bool) : setDevPoison (withCommands s l e) w b = withCommands (setDevPoison s w b) l e := rfl

theorem devCorrected_withCommands (h : Nat) : devCorrected (withCommands s l e) h = withCommands (devCorrected s h) l e := by
  simp only [devCorrected, withCommands_ite, stackOf_withCommands, setStack_withCommands, rbump_withCommands, modLive_withCommands,
    channelDue_withCommands, time_withCommands]

/-- What is stored of a word of storage once its correction is written back. -/
def storedBack (s : State) (h : Nat) : State :=
  if rsLeft (devPattern s h) = 0 then s
  else setDevPoison (putRaw s (32 * h) (List.zipWith (· ^^^ ·) ((upto (32 * h) 32).map (rawByte s)) (leftData (rsLeft (devPattern s h))))) h
    (leftPoison (rsLeft (devPattern s h)))

/-- A word of storage whose correction is written back: no bit error stands in it. -/
def fixedWord (s : State) (h : Nat) : State := withErrs (storedBack s h) (tset (fun _ => 0) (storedBack s h).devErrs h 0)

theorem devFix_eq (h : Nat) : devFix s h = if devPattern s h = 0 ∨ devPoisoned s h = true then s
    else match rsFound (devPattern s h) with
      | .uncorrectable => s
      | .corrected => devCorrected (fixedWord s h) h
      | .good => fixedWord s h := by
  unfold devFix
  dsimp only
  cases rsFound (devPattern s h) <;> rfl

theorem withErrs_withCommands (x : Table (BitVec 288)) : withErrs (withCommands s l e) x = withCommands (withErrs s x) l e := rfl

theorem storedBack_withCommands (h : Nat) : storedBack (withCommands s l e) h = withCommands (storedBack s h) l e := by
  unfold storedBack
  rw [withCommands_ite, putRaw_withCommands, setDevPoison_withCommands]
  rfl

theorem fixedWord_withCommands (h : Nat) : fixedWord (withCommands s l e) h = withCommands (fixedWord s h) l e := by
  rw [fixedWord, storedBack_withCommands]
  exact withErrs_withCommands _ l e _

theorem devFix_withCommands (h : Nat) : devFix (withCommands s l e) h = withCommands (devFix s h) l e := by
  rw [devFix_eq, devFix_eq, withCommands_ite, show devPattern (withCommands s l e) h = devPattern s h from rfl,
    show devPoisoned (withCommands s l e) h = devPoisoned s h from rfl, fixedWord_withCommands, devCorrected_withCommands]
  cases rsFound (devPattern s h) <;> rfl

theorem clearMarks_withCommands (h : Nat) : clearMarks (withCommands s l e) h = withCommands (clearMarks s h) l e := by
  unfold clearMarks
  dsimp only
  rw [show devPoisoned (withCommands s l e) h = devPoisoned s h from rfl, setDevPoison_withCommands]
  split
  all_goals
    rw [withCommands_ite]
    exact congrArg (ite _ _) (withErrs_withCommands _ l e _)

theorem fillSlot_withCommands (n tag : Nat) : fillSlot (withCommands s l e) n tag = withCommands (fillSlot s n tag) l e := by
  rw [fillSlot_eq, fillSlot_eq, stackOf_withCommands, show nextSlot (withCommands s l e) n = nextSlot s n from rfl,
    show slotWords (withCommands s l e) n = slotWords s n from rfl, show tickFree (withCommands s l e) = withCommands (tickFree s) l e from rfl,
    setSlots_withCommands]
  exact List.foldl_hom (fun s => withCommands s l e) fun s h => clearMarks_withCommands s l e h

/-! ## Writes (R244, R278, R512) -/

theorem parkReady_withCommands (w : Nat) :
    parkReady (withCommands s l e) w = (parkReady s w).map fun t => withCommands t l e := by
  unfold parkReady
  dsimp only
  rw [fillSlot_withCommands, show devParked (withCommands s l e) (32 * w) = devParked s (32 * w) from rfl,
    show slotOf (withCommands s l e) (32 * w) = slotOf s (32 * w) from rfl, stackOf_withCommands,
    show parkHeld (withCommands s l e) = parkHeld s from rfl]
  split
  · rfl
  · split <;> split <;> rfl

/-- The outcome of an access, with other command queues and event counters in its state. -/
def accWith (r : Acc) (l : Table Queue) (e : Table Word64) : Acc := (withCommands r.1 l e, r.2)

theorem putHome_withCommands (h o : Nat) (bs : List Byte) : putHome (withCommands s l e) h o bs = accWith (putHome s h o bs) l e := by
  unfold putHome
  rw [show devDead (withCommands s l e) h = devDead s h from rfl, show devBad (withCommands s l e) h = devBad s h from rfl,
    devFix_withCommands, putRaw_withCommands, putRaw_withCommands, setDevPoison_withCommands]
  split
  · rfl
  · split
    · exact congrArg (·, none) (withErrs_withCommands _ l e _)
    · split <;> rfl

theorem putDev_withCommands (ws : List (Nat × Nat × List Byte)) (s : State) : putDev ws (withCommands s l e) = accWith (putDev ws s) l e := by
  induction ws generalizing s with
  | nil => rfl
  | cons x ws ih =>
    obtain ⟨w, o, bs⟩ := x
    rw [putDev, putDev, parkReady_withCommands]
    cases parkReady s w with
    | none => rfl
    | some t =>
      simp only [Option.map_some]
      rw [show devHome (withCommands t l e) w = devHome t w from rfl, putHome_withCommands]
      simp only [accWith, ih]

theorem hdWrite_withCommands (host : Bool) (a : Nat) (bs : List Byte) :
    hdWrite (withCommands s l e) host a bs = accWith (hdWrite s host a bs) l e := by
  cases host with
  | true =>
    show hostWrite (withCommands s l e) a bs = accWith (hostWrite s a bs) l e
    unfold hostWrite
    rw [show hostErr (withCommands s l e) = hostErr s from rfl]
    split <;> rfl
  | false =>
    show devWrite (withCommands s l e) a bs = accWith (devWrite s a bs) l e
    unfold devWrite
    rw [show devFault (withCommands s l e) true = devFault s true from rfl]
    split
    · rfl
    · exact putDev_withCommands l e _ s

/-- So a write leaves the command queues and the event counters as they are. -/
theorem hdWrite_keeps (host : Bool) (a : Nat) (bs : List Byte) :
    (hdWrite s host a bs).1.queues = s.queues ∧ (hdWrite s host a bs).1.evt = s.evt := by
  have same : hdWrite s host a bs = accWith (hdWrite s host a bs) s.queues s.evt := hdWrite_withCommands s s.queues s.evt host a bs
  rw [same]
  exact ⟨rfl, rfl⟩

end

/-! ## Registers (R263, R265, R283) -/

/-- A register below those of the memory stacks that is no counter of records. -/
def BelowStacks (r : Reg) : Prop := 0x20 ≤ regOffset r % 0x1000 ∧ regOffset r < 0x120000

theorem belowStacks_cqCompleted (q : Fin 4096) : BelowStacks (.cqCompleted q.val) := by
  constructor <;> simp only [regOffset] <;> omega

section
variable {r : Reg} (h : BelowStacks r)
include h

theorem PeaksOnly.belowStacks {s t : State} (g : PeaksOnly s t) : rget t r = rget s r := by
  obtain ⟨-, low⟩ := h
  refine g r fun x hx => ?_
  obtain ⟨n, -, rfl⟩ := List.mem_map.mp hx
  have : regOffset (.memParkPeak n) = 0x120228 + 0x1000 * n := rfl
  omega

theorem rget_devCorrected_belowStacks (s : State) (w : Nat) : rget (devCorrected s w) r = rget s r := by
  obtain ⟨high, low⟩ := h
  have ecc (n : Nat) : regOffset r ≠ regOffset (.memEcc n) := by
    have : regOffset (.memEcc n) = 0x120200 + 0x1000 * n := rfl
    omega
  have corr (n c : Nat) : regOffset r ≠ regOffset (.memChCorr n c) := by
    have : regOffset (.memChCorr n c) = 0x120300 + 0x1000 * n + 0x8 * c := rfl
    omega
  rw [rget_devCorrected s w high, rget_rbump_other _ _ (corr _ _), rget_rbump_other _ _ (ecc _)]

theorem rget_fixedWord (s : State) (w : Nat) : rget (fixedWord s w) r = rget s r := by
  show rget (storedBack s w) r = rget s r
  unfold storedBack
  split
  · rfl
  · exact (putRaw_peaksOnly s _ _).belowStacks h

theorem rget_devFix (s : State) (w : Nat) : rget (devFix s w) r = rget s r := by
  rw [devFix_eq]
  split
  · rfl
  · split
    · rfl
    · exact (rget_devCorrected_belowStacks h _ w).trans (rget_fixedWord h s w)
    · exact rget_fixedWord h s w

theorem rget_putHome (s : State) (w o : Nat) (bs : List Byte) : rget (putHome s w o bs).1 r = rget s r := by
  unfold putHome
  split
  · rfl
  · split
    · exact (putRaw_peaksOnly s (32 * w) bs).belowStacks h
    · split
      · rfl
      · exact ((putRaw_peaksOnly _ _ bs).belowStacks h).trans (rget_devFix h s w)

theorem rget_putDev (ws : List (Nat × Nat × List Byte)) (s : State) : rget (putDev ws s).1 r = rget s r := by
  induction ws generalizing s with
  | nil => rfl
  | cons x ws ih =>
    obtain ⟨w, o, bs⟩ := x
    rw [putDev]
    split
    · rfl
    · next ready => exact (ih _).trans ((rget_putHome h _ _ _ _).trans ((parkReady_peaksOnly ready).belowStacks h))

theorem rget_hdWrite (s : State) (host : Bool) (a : Nat) (bs : List Byte) : rget (hdWrite s host a bs).1 r = rget s r := by
  cases host with
  | true =>
    show rget (hostWrite s a bs).1 r = rget s r
    unfold hostWrite
    split <;> rfl
  | false =>
    show rget (devWrite s a bs).1 r = rget s r
    unfold devWrite
    split
    · rfl
    · exact rget_putDev h _ s

end

end Sys2Proof.Machine
end

section
/-! PROOFS. A command that is done applies its signals and writes its completion record (R324, R326, R327): the statement O20. -/
namespace Sys2Proof.Machine

/-! ## Step 2: resources and signals (R324, R333) -/

/-- The clusters of a command are idle from now on (R486), and its copy unit and staging area are free. -/
def released (s : State) (q : Nat) (f : Flight) : State :=
  releaseFlight ((flightClusters s q f).foldl (fun s c => setCluGov s c { cluGovOf s c with idleSince := s.localNs }) s) q f

theorem released_frame (s : State) (q : Nat) (f : Flight) :
    released s q f = { s with gov := (released s q f).gov, clusters := (released s q f).clusters } := by
  have idle : ∀ (l : List Nat) (u : State), l.foldl (fun s c => setCluGov s c { cluGovOf s c with idleSince := s.localNs }) u =
      { u with gov := (l.foldl (fun s c => setCluGov s c { cluGovOf s c with idleSince := s.localNs }) u).gov } := by
    intro l
    induction l with
    | nil => exact fun _ => rfl
    | cons c l ih => intro u; rw [List.foldl_cons, ih]; rfl
  unfold released releaseFlight
  rw [idle]
  split <;> rfl

/-- The record of a command whose signals are applied: it holds no cores any more. -/
def signalsSent (x : Flight) : Flight := { x with signalled := true, launched := [] }

section
variable {s : State} {q : Nat} {f : Flight}

/-- The one signal of a command that succeeds is an add. -/
theorem applySignals_one (s : State) {c : CmdRec} (hn : cmdNsig c = 1) :
    applySignals s c .success = evtAdd s (sigCtr c 0) (BitVec.ofNat 64 (sigInc c 0)) := by
  rw [applySignals, hn]
  rfl

/-- Of a command that succeeds and is no COLLECTIVE that began, step 2 frees what it holds and applies its signal. -/
theorem finishWork_success (hs : flightStatus f = .success) (hc : collOf s q f.cmd.seq = none) (hn : cmdNsig f.cmd = 1) :
    finishWork s q f =
      modFlight (evtAdd (released s q f) (sigCtr f.cmd 0) (BitVec.ofNat 64 (sigInc f.cmd 0))) q f.cmd.seq signalsSent := by
  have coll : collOf (released s q f) q f.cmd.seq = none := by rw [released_frame]; exact hc
  have report : collReport (released s q f) q f = released s q f := by rw [collReport, coll]
  have claim : releaseClaim (released s q f) q f.cmd.seq = released s q f := by rw [releaseClaim, coll]
  show (if succeeds (flightStatus f) || decide (flightStatus f = .cancelled)
    then modFlight (applySignals (releaseClaim (collReport (released s q f) q f) q f.cmd.seq) f.cmd (flightStatus f)) q f.cmd.seq signalsSent
    else _) = _
  rw [report, claim, hs, applySignals_one _ hn]
  rfl

/-- What step 2 leaves: clusters, the governor, the signalled counter and the record of the command apart, all is as before. -/
theorem finishWork_frame (hs : flightStatus f = .success) (hc : collOf s q f.cmd.seq = none) (hn : cmdNsig f.cmd = 1) :
    finishWork s q f = { s with gov := (released s q f).gov, clusters := (released s q f).clusters, queues := (finishWork s q f).queues
                                evt := (evtAdd s (sigCtr f.cmd 0) (BitVec.ofNat 64 (sigInc f.cmd 0))).evt } := by
  rw [finishWork_success hs hc hn, released_frame]
  rfl

theorem finishWork_queue (hs : flightStatus f = .success) (hc : collOf s q f.cmd.seq = none) (hn : cmdNsig f.cmd = 1) :
    queueOf (finishWork s q f) q = { queueOf s q with
      flight := (queueOf s q).flight.map fun x => if x.cmd.seq = f.cmd.seq then signalsSent x else x } := by
  have same : queueOf (evtAdd (released s q f) (sigCtr f.cmd 0) (BitVec.ofNat 64 (sigInc f.cmd 0))) q = queueOf s q := by
    rw [released_frame]; rfl
  rw [finishWork_success hs hc hn, ← same]
  exact (modFlight_is _ q f.cmd.seq signalsSent).1.1

end

/-! ## Steps 3 and 4: the record (R324, R326) -/

/-- The write of the completion record of a command. -/
def recordWrite (s : State) (q : Nat) (g : Flight) : Acc :=
  hdWrite s (ptrHost (rget s (.cqCompl q))) (ptrAddr (rget s (.cqCompl q)) 12 + g.cmd.seq.toNat % qSize s q * 64) (completionBytes s g)

/-- The queue when its oldest command has its record. -/
def recordLeaves (k : Queue) : Queue := { k with flight := k.flight.drop 1 }

/-- CQ_COMPLETED counts one record more. -/
def recordCounted (s : State) (q : Nat) : State :=
  rset s (.cqCompleted q) (((rget s (.cqCompleted q)).extractLsb' 0 32 + 1).setWidth 64)

/-- The state once the record is written and counted. -/
def recordDone (s : State) (q : Nat) (g : Flight) : State :=
  recordCounted (withCommands (recordWrite s q g).1 (setQueue s q (recordLeaves (queueOf s q))).queues s.evt) q

theorem queueOf_recordDone (s : State) (q : Nat) (g : Flight) : queueOf (recordDone s q g) q = recordLeaves (queueOf s q) :=
  queueOf_setQueue_same s q _

/-- Where the host link has not shut the queue, the record is written once the command has left, and counted. -/
theorem writeRecord_eq {s : State} {q : Nat} (hs : (queueOf s q).shut = false) (g : Flight) :
    writeRecord s q g =
      let u := setQueue s q (recordLeaves (queueOf s q))
      match (recordWrite u q g).2 with
      | some e => disableIfEmpty (recordCounted (stopQueue (noteErr u e) q e.status) q) q
      | none => disableIfEmpty (recordCounted
          (if cmdFld g.cmd 0 10 1 = 1 then sendMsix (recordWrite u q g).1 (qVector u q) else (recordWrite u q g).1) q) q := by
  have runs : ¬ (queueOf s q).shut = true := by rw [hs]; exact Bool.false_ne_true
  exact (if_neg runs).trans rfl

/-- The record of a queue that runs on is written without a message, and counted. -/
theorem writeRecord_done {s : State} {q : Nat} {g : Flight} (hs : (queueOf s q).shut = false) (hd : (queueOf s q).disabling = false)
    (hi : cmdFld g.cmd 0 10 1 = 0) (hw : (recordWrite s q g).2 = none) : writeRecord s q g = recordDone s q g := by
  have write : recordWrite (setQueue s q (recordLeaves (queueOf s q))) q g =
      accWith (recordWrite s q g) (setQueue s q (recordLeaves (queueOf s q))).queues s.evt :=
    hdWrite_withCommands s (setQueue s q (recordLeaves (queueOf s q))).queues s.evt _ _ _
  have busy : disableIfEmpty (recordDone s q g) q = recordDone s q g :=
    disableIfEmpty_busy (.inl (by rw [queueOf_recordDone]; exact hd))
  have silent : ¬ cmdFld g.cmd 0 10 1 = 1 := by rw [hi]; decide
  rw [writeRecord_eq hs]
  simp only [write, accWith, hw, if_neg silent]
  exact busy

/-! ## COMMAND_FINISH -/

theorem exec_commandFinish {s : State} {q : Fin 4096} {seq : Word32} {f g : Flight} {rest : List Flight}
    (hf : flightOf s q.val seq = some f) (hd : f.done = true) (hh : stewardsHalted s f.cmd = false) (hn : f.signalled = false)
    (hq : (queueOf (finishWork s q.val f) q.val).flight = g :: rest) (hg : g.cmd.seq = seq)
    (hw : (recordWrite (finishWork s q.val f) q.val g).2 = none) :
    exec (.commandFinish q seq) s = .next (writeRecord (finishWork s q.val f) q.val g) := by
  have ready : recordWaits (finishWork s q.val f) q.val g = false := by
    unfold recordWrite at hw
    simp only [recordWaits, hw]
  show execCommandFinish q seq s = _
  rw [execCommandFinish, hf]
  simp only [hd, hh, hn, hq, hg, ready, Bool.not_true, Bool.not_false, Bool.or_self, Bool.false_eq_true, if_false, and_self, if_true]

/-! ## The statement -/

/-- Settles O20: step 2 sends the signal of the oldest command, and steps 3 and 4 write its record, which leaves the queue. -/
theorem commandFinishes : Obligations.CommandFinishes := by
  unfold Obligations.CommandFinishes
  intro s q seq f rest k hk hseq hd hn hs hshut hdis hh hc hsig hirq hother w hw
  subst hseq
  have first : flightOf s q.val f.cmd.seq = some f := by
    rw [flightOf, show (queueOf s q.val).flight = f :: rest from hk]
    simp
  have frame := finishWork_frame hs hc hsig
  have reg : ∀ r, rget (finishWork s q.val f) r = rget s r := fun r => by rw [frame]; rfl
  have size : qSize (finishWork s q.val f) q.val = qSize s q.val := by rw [frame]; rfl
  have queue := finishWork_queue hs hc hsig
  have flight : (queueOf (finishWork s q.val f) q.val).flight = signalsSent f :: rest := by
    have others : rest.map (fun x => if x.cmd.seq = f.cmd.seq then signalsSent x else x) = rest :=
      (List.map_congr_left fun x hx => if_neg (hother x hx)).trans (List.map_id rest)
    rw [queue, show (queueOf s q.val).flight = f :: rest from hk, List.map_cons, if_pos rfl, others]
  have write : recordWrite (finishWork s q.val f) q.val (signalsSent f) = w := by
    rw [recordWrite, reg, size]
    rfl
  have written : writeRecord (finishWork s q.val f) q.val (signalsSent f) = recordDone (finishWork s q.val f) q.val (signalsSent f) :=
    writeRecord_done (by rw [queue]; exact hshut) (by rw [queue]; exact hdis) hirq (by rw [write]; exact hw)
  refine ⟨_, (exec_commandFinish first hd hh hn flight rfl (by rw [write]; exact hw)).trans (congrArg _ written), ?_, ?_, ?_, ?_, ?_, fun n => ?_⟩
  · rw [queueOf_recordDone, recordLeaves, flight]
    rfl
  · rw [queueOf_recordDone, recordLeaves, queue]
  · rw [← write]
    rfl
  · rw [← write]
    rfl
  · have count : rget (recordWrite (finishWork s q.val f) q.val (signalsSent f)).1 (.cqCompleted q.val) = rget s (.cqCompleted q.val) :=
      (rget_hdWrite (belowStacks_cqCompleted q) _ _ _ _).trans (reg _)
    rw [recordDone, recordCounted, rget_rset_same, rget_withCommands, count]
  · have small : sigInc f.cmd 0 < 2 ^ 64 := Nat.lt_of_lt_of_le (Nat.mod_lt _ (by decide)) (by decide)
    have sent := evtOf_evtAdd s (sigCtr f.cmd 0) (BitVec.ofNat 64 (sigInc f.cmd 0)) n
    rw [BitVec.toNat_ofNat, Nat.mod_eq_of_lt small] at sent
    show (tget (fun _ => 0) (finishWork s q.val f).evt n).toNat = _
    rw [frame]
    refine sent.trans ?_
    split
    · next same => rw [same]
    · rfl

end Sys2Proof.Machine
end

section
/-! PROOFS. What the sending side of a fabric port may change (R357 to R361, R375, R381): the port accessor, credits that go back, idle and
data flits, and the drain of an output. -/
namespace Sys2Proof.Machine

/-! ## The port accessor -/

theorem portOf_setPort (s : State) (p q : Nat) (k : Port) : portOf (setPort s p k) q = if q = p then k else portOf s q := tget_tset _ _ _ _ _

@[simp] theorem portOf_setPort_same (s : State) (p : Nat) (k : Port) : portOf (setPort s p k) p = k := by simp [portOf_setPort]

theorem portOf_setPort_other (s : State) {p q : Nat} (k : Port) (h : q ≠ p) : portOf (setPort s p k) q = portOf s q := by
  simp [portOf_setPort, h]

@[simp] theorem setPort_setPort (s : State) (p : Nat) (k k' : Port) : setPort (setPort s p k) p k' = setPort s p k' := by
  simp [setPort, tset_tset]

@[simp] theorem setPort_wire (s : State) (p : Nat) (k : Port) : (setPort s p k).fab.wire = s.fab.wire := rfl
@[simp] theorem rget_setPort (s : State) (p : Nat) (k : Port) (r : Reg) : rget (setPort s p k) r = rget s r := rfl
@[simp] theorem portOf_rset (s : State) (r : Reg) (v : Word64) (p : Nat) : portOf (rset s r v) p = portOf s p := rfl
@[simp] theorem portOf_rbump (s : State) (r : Reg) (n p : Nat) : portOf (rbump s r n) p = portOf s p := rfl
@[simp] theorem portOf_putWire (s : State) (p : Nat) (f : Flit) (q : Nat) : portOf (putWire s p f) q = portOf s q := rfl

/-! ## Registers that are left alone -/

theorem RegsBut.refl (s : State) (l : List Reg) : RegsBut s s l := fun _ _ => rfl

theorem RegsBut.after {s t u : State} {l : List Reg} (h : RegsBut t u l) (g : RegsBut s t l) : RegsBut s u l :=
  fun r hr => (h r hr).trans (g r hr)

theorem RegsBut.mono {s t : State} {l m : List Reg} (h : RegsBut s t l) (hlm : l ⊆ m) : RegsBut s t m :=
  fun r hr => h r fun x hx => hr x (hlm hx)

theorem rbump_regs (s : State) {r : Reg} (n : Nat) {l : List Reg} (h : r ∈ l) : RegsBut s (rbump s r n) l :=
  fun _ hx => rget_rbump_other s n (hx r h)

theorem regsBut_of_regs {s t : State} (h : t.regs = s.regs) (l : List Reg) : RegsBut s t l := fun r _ => by unfold rget; rw [h]

/-! ## Credits that go back (R359, R360) -/

/-- From s to t port q owes other credits at most, and flits have gone out on the wire. -/
structure CreditsOnly (s t : State) (q : Nat) : Prop where
  frame : t = { s with fab := { s.fab with ports := t.fab.ports, wire := t.fab.wire } }
  port  : portOf t q = { portOf s q with owed := (portOf t q).owed }
  other : ∀ r, r ≠ q → portOf t r = portOf s r
  wire  : s.fab.wire <+: t.fab.wire

theorem CreditsOnly.refl (s : State) (q : Nat) : CreditsOnly s s q := ⟨rfl, rfl, fun _ _ => rfl, List.prefix_refl _⟩

theorem CreditsOnly.after {s t u : State} {q : Nat} (h : CreditsOnly t u q) (g : CreditsOnly s t q) : CreditsOnly s u q where
  frame := by rw [h.frame, g.frame]
  port := by rw [h.port, g.port]
  other r hr := (h.other r hr).trans (g.other r hr)
  wire := g.wire.trans h.wire

theorem setPort_creditsOnly (s : State) (q : Nat) (owed : Table Nat) : CreditsOnly s (setPort s q { portOf s q with owed := owed }) q where
  frame := rfl
  port := by rw [portOf_setPort_same]
  other _ hr := portOf_setPort_other _ _ hr
  wire := List.prefix_refl _

theorem putWire_creditsOnly (s : State) (q : Nat) (f : Flit) : CreditsOnly s (putWire s q f) q :=
  ⟨rfl, rfl, fun _ _ => rfl, List.prefix_append _ _⟩

/-- A fold whose steps change what a port owes changes that alone. -/
theorem foldl_owed {α β : Type} {f : α × Port → β → α × Port} (hf : ∀ x v, (f x v).2 = { x.2 with owed := (f x v).2.owed }) (l : List β)
    (x : α × Port) : (l.foldl f x).2 = { x.2 with owed := (l.foldl f x).2.owed } := by
  induction l generalizing x with
  | nil => rfl
  | cons v l ih => rw [List.foldl_cons, ih, hf]

/-- What a port is once a flit has taken its credits: it owes fewer. -/
theorem takeCredits_port (k : Port) : (takeCredits k).2 = { k with owed := (takeCredits k).2.owed } := by
  unfold takeCredits
  refine foldl_owed ?_ _ _
  exact fun _ _ => rfl

/-- The idle flit that a port sends (R359). -/
def idleFlit (k : Port) (nak : Bool) (swap : Option (BitVec 12)) : Flit :=
  { fseq := k.txSeq, ackSeq := k.rxNext - 1, nak := nak, creds := (takeCredits k).1, aux := linkAux k swap }

theorem sendIdle_eq (s : State) (p : Nat) (nak : Bool) (swap : Option (BitVec 12)) :
    sendIdle s p nak swap = putWire (setPort s p { portOf s p with owed := (takeCredits (portOf s p)).2.owed }) p (idleFlit (portOf s p) nak swap) := by
  have credits := takeCredits_port (portOf s p)
  unfold sendIdle idleFlit
  generalize takeCredits (portOf s p) = x at credits ⊢
  obtain ⟨cr, k⟩ := x
  dsimp only at credits ⊢
  generalize k.owed = owed at credits ⊢
  subst credits
  simp only [linkAux]

theorem sendIdle_wire (s : State) (p : Nat) (nak : Bool) (swap : Option (BitVec 12)) :
    (sendIdle s p nak swap).fab.wire = s.fab.wire ++ [(p, laneBytes (portOf s p) (idleFlit (portOf s p) nak swap))] := by
  simp only [sendIdle_eq, putWire, portOf_setPort_same, setPort_wire, laneBytes]

theorem sendIdle_creditsOnly (s : State) (p : Nat) (nak : Bool) (swap : Option (BitVec 12)) : CreditsOnly s (sendIdle s p nak swap) p := by
  rw [sendIdle_eq]
  exact (putWire_creditsOnly _ _ _).after (setPort_creditsOnly _ _ _)

theorem returnCredits_creditsOnly (p fuel : Nat) (s : State) : CreditsOnly s (returnCredits p fuel s) p := by
  induction fuel generalizing s with
  | zero => exact .refl s p
  | succ fuel ih =>
    rw [returnCredits]
    split
    · exact (ih _).after (sendIdle_creditsOnly s p false none)
    · exact .refl s p

/-- A port that is not ACTIVE sends no credits. -/
theorem returnCredits_inactive {s : State} {p : Nat} (h : (portOf s p).st ≠ .active) (fuel : Nat) : returnCredits p fuel s = s := by
  cases fuel with
  | zero => rfl
  | succ fuel => exact if_neg fun ha => h ha.1

theorem oweSlots_creditsOnly (s : State) (p key n : Nat) : CreditsOnly s (oweSlots s p key n) p :=
  (returnCredits_creditsOnly p 128 _).after (setPort_creditsOnly s p _)

/-! ## Loading and sending (R360, R361, R381) -/

/-- A port without what the choice of the next slots changes (R381). -/
def besideLoading (k : Port) : Port :=
  { k with cur := [], used := [], curNs := [], outq := [], lastIn := [], rr := 0, deficit := [] }

theorem besideLoading_loadKey (x : List OutPkt × Port) (key : Nat) : besideLoading (loadKey x key).2 = besideLoading x.2 := by
  unfold loadKey
  dsimp only
  split
  · split <;> rfl
  · rfl

theorem besideLoading_loadKeys (l : List Nat) (x : List OutPkt × Port) : besideLoading (l.foldl loadKey x).2 = besideLoading x.2 := by
  induction l generalizing x with
  | nil => rfl
  | cons key l ih => rw [List.foldl_cons, ih, besideLoading_loadKey]

theorem besideLoading_pickVc (weight : Nat → Nat) (fuel : Nat) (k : Port) : besideLoading (pickVc weight fuel k).2 = besideLoading k := by
  induction fuel generalizing k with
  | zero => rfl
  | succ fuel ih =>
    rw [pickVc]
    split
    · rfl
    · split
      · dsimp only
        split
        · rfl
        · rw [ih]; rfl
      · dsimp only
        rw [ih]; rfl

/-- What loading for one flit does (R381): the packets loaded and the port after. -/
def loadAll (k : Port) : List OutPkt × Port := (upto 0 16).foldl loadKey ([], k)

/-- The VC and class of the next slot (R381), and the port after. -/
def pickAll (weight : Nat → Nat) (k : Port) : Option Nat × Port := pickVc weight 16 k

/-- The slots of a flit by any way to load packets and to pick a VC. With R381's two the model's own equations would evaluate all 16 steps
of each. -/
def fillBy (load : Port → List OutPkt × Port) (pick : Port → Option Nat × Port) : Nat → Port → List Slot × List OutPkt × Port
  | 0, k => ([], [], k)
  | n + 1, k =>
    let (ld, k) := load k
    match pick k with
    | (none, k) => ([], ld, k)
    | (some key, k) =>
      match tget (fun _ => []) k.cur key with
      | [] => ([], ld, k)
      | x :: rest =>
        let k := { k with cur := tset (fun _ => []) k.cur key rest
                          used := tset (fun _ => 0) k.used key (tget (fun _ => 0) k.used key + 1)
                          curNs := tset (fun _ => 0) k.curNs key 0 }
        let (xs, ld', k) := fillBy load pick n k
        (x :: xs, ld ++ ld', k)

theorem fillSlots_eq_fillBy (weight : Nat → Nat) (n : Nat) (k : Port) : fillSlots weight n k = fillBy loadAll (pickAll weight) n k := by
  have load : ∀ k : Port, (upto 0 16).foldl loadKey ([], k) = loadAll k := fun _ => rfl
  have pick : ∀ k : Port, pickVc weight 16 k = pickAll weight k := fun _ => rfl
  delta fillSlots fillSlots._f
  simp -iota only [load, pick]
  generalize loadAll = l
  generalize pickAll weight = p
  delta fillBy
  rfl

theorem besideLoading_loadAll (k : Port) : besideLoading (loadAll k).2 = besideLoading k := besideLoading_loadKeys _ _

theorem besideLoading_fillBy {load : Port → List OutPkt × Port} {pick : Port → Option Nat × Port}
    (hl : ∀ k, besideLoading (load k).2 = besideLoading k) (hp : ∀ k, besideLoading (pick k).2 = besideLoading k) (n : Nat) (k : Port) :
    besideLoading (fillBy load pick n k).2.2 = besideLoading k := by
  induction n generalizing k with
  | zero => rfl
  | succ n ih =>
    have same := (hp (load k).2).trans (hl k)
    rw [fillBy]
    dsimp only
    generalize pick (load k).2 = picked at same ⊢
    obtain ⟨key, k1⟩ := picked
    cases key with
    | none => exact same
    | some key =>
      dsimp only at same ⊢
      split
      · exact same
      · rw [ih, ← same]; rfl

theorem besideLoading_fillSlots (weight : Nat → Nat) (n : Nat) (k : Port) : besideLoading (fillSlots weight n k).2.2 = besideLoading k := by
  rw [fillSlots_eq_fillBy]
  exact besideLoading_fillBy besideLoading_loadAll (besideLoading_pickVc weight 16) n k

/-- A port without what sending flits changes (R357 to R361). -/
def besideSending (k : Port) : Port := { besideLoading k with owed := [], txSeq := 0, replay := [], ackNs := 0 }

/-- From s to t port p has sent flits: beside its own sending side, other ports owe other credits at most. -/
structure PortSent (s t : State) (p : Nat) : Prop where
  frame  : t = { s with fab := { s.fab with ports := t.fab.ports, wire := t.fab.wire }, regs := t.regs }
  port   : besideSending (portOf t p) = besideSending (portOf s p)
  replay : (portOf s p).replay <+: (portOf t p).replay
  other  : ∀ q, q ≠ p → portOf t q = { portOf s q with owed := (portOf t q).owed }
  wire   : s.fab.wire <+: t.fab.wire
  regs   : RegsBut s t [.fabPortCtr p 0]

theorem PortSent.refl (s : State) (p : Nat) : PortSent s s p :=
  ⟨rfl, rfl, List.prefix_refl _, fun _ _ => rfl, List.prefix_refl _, .refl s _⟩

theorem PortSent.after {s t u : State} {p : Nat} (h : PortSent t u p) (g : PortSent s t p) : PortSent s u p where
  frame := by rw [h.frame, g.frame]
  port := h.port.trans g.port
  replay := g.replay.trans h.replay
  other q hq := by rw [h.other q hq, g.other q hq]
  wire := g.wire.trans h.wire
  regs := h.regs.after g.regs

theorem CreditsOnly.portSent {s t : State} {q : Nat} (h : CreditsOnly s t q) (p : Nat) : PortSent s t p := by
  have all (r : Nat) : portOf t r = { portOf s r with owed := (portOf t r).owed } := by
    by_cases hr : r = q
    · rw [hr]; exact h.port
    · rw [h.other r hr]
  refine ⟨?_, ?_, ?_, fun r _ => all r, h.wire, regsBut_of_regs (by rw [h.frame]) _⟩
  · rw [h.frame]
  · rw [all p]; rfl
  · rw [all p]

theorem setPort_portSent {s : State} {p : Nat} {k : Port} (hk : besideSending k = besideSending (portOf s p))
    (hr : (portOf s p).replay <+: k.replay) : PortSent s (setPort s p k) p where
  frame := rfl
  port := by rw [portOf_setPort_same, hk]
  replay := by rwa [portOf_setPort_same]
  other _ hq := by rw [portOf_setPort_other _ _ hq]
  wire := List.prefix_refl _
  regs := .refl _ _

theorem putWire_portSent (s : State) (p : Nat) (f : Flit) : PortSent s (putWire s p f) p := (putWire_creditsOnly s p f).portSent p

theorem rbump_portSent (s : State) (p n : Nat) : PortSent s (rbump s (.fabPortCtr p 0) n) p :=
  ⟨rfl, rfl, List.prefix_refl _, fun _ _ => rfl, List.prefix_refl _, rbump_regs s n (by simp)⟩

theorem leaveHeld_portSent (s : State) (o : OutPkt) (p : Nat) : PortSent s (leaveHeld s o) p := by
  unfold leaveHeld
  split
  · exact (oweSlots_creditsOnly _ _ _ _).portSent p
  · exact .refl s p

theorem leaveHelds_portSent (l : List OutPkt) (s : State) (p : Nat) : PortSent s (l.foldl leaveHeld s) p := by
  induction l generalizing s with
  | nil => exact .refl s p
  | cons o l ih => exact (ih _).after (leaveHeld_portSent s o p)

/-- The replay buffer and what else sending leaves alone do not depend on what is loaded. -/
theorem besideSending_of_loading {k k' : Port} (h : besideLoading k' = besideLoading k) : besideSending k' = besideSending k ∧ k'.replay = k.replay :=
  ⟨by unfold besideSending; rw [h], (congrArg Port.replay h :)⟩

theorem sendFlits_portSent (p fuel : Nat) (s : State) : PortSent s (sendFlits p fuel s) p := by
  induction fuel generalizing s with
  | zero => exact .refl s p
  | succ fuel ih =>
    rw [sendFlits]
    dsimp only
    split
    · exact .refl s p
    · have loaded := besideSending_of_loading (besideLoading_fillSlots (fun v => rfld s (.fabPortWeight p) (8 * v) 8) 15 (portOf s p))
      generalize fillSlots (fun v => rfld s (.fabPortWeight p) (8 * v) 8) 15 (portOf s p) = x at loaded ⊢
      obtain ⟨xs, ld, k⟩ := x
      obtain ⟨beside, replay⟩ := loaded
      dsimp only at beside replay ⊢
      split
      · exact setPort_portSent beside (by rw [replay])
      · have credits := takeCredits_port k
        generalize takeCredits k = y at credits ⊢
        obtain ⟨cr, k1⟩ := y
        dsimp only at credits ⊢
        refine (ih _).after ((leaveHelds_portSent _ _ _).after ((rbump_portSent _ _ _).after ((putWire_portSent _ _ _).after (setPort_portSent ?_ ?_))))
        · rw [← beside, credits]; rfl
        · rw [← replay, credits]; exact List.prefix_append _ _

/-- What a port is once its waits for credits are noted (R375). -/
theorem noteWaits_eq (s : State) (p : Nat) : ∃ waits, noteWaits s p = setPort s p { portOf s p with curNs := waits } := ⟨_, rfl⟩

theorem noteWaits_portSent (s : State) (p : Nat) : PortSent s (noteWaits s p) p := by
  obtain ⟨waits, noted⟩ := noteWaits_eq s p
  rw [noted]
  exact setPort_portSent rfl (List.prefix_refl _)

/-- What an output that drains may change. -/
theorem drainPort_portSent (s : State) (p : Nat) : PortSent s (drainPort s p) p :=
  (noteWaits_portSent _ p).after (((returnCredits_creditsOnly p 128 _).portSent p).after (sendFlits_portSent p 1024 s))

/-! ## Flits that are resent (R361) -/

/-- From s to t the flits l of port p have gone out once more, each counted as a replay and as a flit sent. -/
structure Resent (s t : State) (p : Nat) (l : List Flit) : Prop where
  frame : t = { s with fab := { s.fab with wire := s.fab.wire ++ l.map fun y => (p, laneBytes (portOf s p) (resent (portOf s p) y)) }
                       regs := t.regs, fld := t.fld }
  count : rget t (.fabPortCtr p 3) = rget s (.fabPortCtr p 3) + BitVec.ofNat 64 l.length
  regs  : RegsBut s t [.fabPortCtr p 0, .fabPortCtr p 3]

/-- A flit goes out once more. -/
def resendOne (k : Port) (p : Nat) (s : State) (f : Flit) : State :=
  rbump (rbump (putWire s p (resent k f)) (.fabPortCtr p 3) 1) (.fabPortCtr p 0) 1

theorem fabPortCtr_ne {p i j : Nat} (h : i ≠ j) : regOffset (.fabPortCtr p i) ≠ regOffset (.fabPortCtr p j) := by
  simp only [regOffset]; omega

theorem portOf_resendOne (s : State) (k : Port) (p : Nat) (f : Flit) (q : Nat) : portOf (resendOne k p s f) q = portOf s q := rfl

theorem resendOne_resent (s : State) (p : Nat) (f : Flit) : Resent s (resendOne (portOf s p) p s f) p [f] where
  frame := by unfold resendOne; rfl
  count := (rget_rbump_other _ 1 (fabPortCtr_ne (by decide))).trans (rget_rbump_same _ _ 1)
  regs := (rbump_regs _ 1 (by simp)).after ((rbump_regs _ 1 (by simp)).after (.refl _ _))

theorem Resent.after {s t u : State} {p : Nat} {l m : List Flit} (h : Resent t u p m) (g : Resent s t p l) : Resent s u p (l ++ m) where
  frame := by
    have port : portOf t p = portOf s p := by rw [g.frame]; rfl
    rw [h.frame, port, List.map_append, ← List.append_assoc, g.frame]
  count := by rw [h.count, g.count, List.length_append, BitVec.ofNat_add, BitVec.add_assoc]
  regs := h.regs.after g.regs

theorem resendOnes_resent (p : Nat) (l : List Flit) (s : State) : Resent s (l.foldl (resendOne (portOf s p) p) s) p l := by
  induction l generalizing s with
  | nil => exact ⟨by simp, by simp, .refl s _⟩
  | cons f l ih =>
    have rest := ih (resendOne (portOf s p) p s f)
    rw [portOf_resendOne] at rest
    rw [List.foldl_cons]
    exact rest.after (resendOne_resent s p f)

/-- The field record counts the replays of a port (R388). -/
def replaysNoted (s : State) (p n : Nat) : State :=
  modLive s fun l => { l with replays := tmod (fun _ => 0) l.replays p fun x => fldAdd 64 x n }

theorem resendAll_eq (s : State) (p : Nat) :
    resendAll s p = (portOf s p).replay.foldl (resendOne (portOf s p) p) (replaysNoted s p (portOf s p).replay.length) := rfl

theorem portOf_replaysNoted (s : State) (p n q : Nat) : portOf (replaysNoted s p n) q = portOf s q := rfl

theorem resendAll_resent (s : State) (p : Nat) : Resent s (resendAll s p) p (portOf s p).replay := by
  have all := resendOnes_resent p (portOf s p).replay (replaysNoted s p (portOf s p).replay.length)
  rw [portOf_replaysNoted, ← resendAll_eq] at all
  refine ⟨?_, all.count, all.regs⟩
  rw [all.frame, portOf_replaysNoted]
  rfl

end Sys2Proof.Machine
end

section
/-! PROOFS. Training, recovery, lane failure and lane swap of fabric ports (R353 to R356, R362, R385, R576): the statement O29. -/
namespace Sys2Proof.Machine

/-! ## Registers of a port -/

theorem recordRegs_below_fabric {n : Nat} (hn : n ≤ 4) {x : Reg} (hx : x ∈ recordRegs n) : regOffset x < 0x400000 := by
  simp only [recordRegs, List.mem_cons, List.not_mem_nil, or_false] at hx
  rcases hx with rfl | rfl | rfl | rfl | rfl | rfl <;> simp only [regOffset] <;> omega

/-- A record of the welkin die's queue leaves the registers of the fabric alone. -/
theorem rget_report_fabric {s : State} {res : Word32} (hres : resourceDie res = 4) (st : Status) (a d : Word64) (f : Bool) {r : Reg}
    (hr : 0x400000 ≤ regOffset r) : rget (report s st res a d f) r = rget s r :=
  report_regs s st res a d f r fun x hx => by
    rw [hres] at hx
    have := recordRegs_below_fabric (by omega) hx
    omega

theorem fabPortCtr_fabric (p i : Nat) : 0x400000 ≤ regOffset (.fabPortCtr p i) := by simp only [regOffset]; omega

theorem rget_rsetFld_other (s : State) {r x : Reg} (lo n v : Nat) (h : regOffset x ≠ regOffset r) : rget (rsetFld s r lo n v) x = rget s x :=
  rget_rset_other _ _ _ _ h

/-! ## Commands that change one port -/

/-- From s to t port p changes, the registers l, and nothing else. -/
def PortOnly (s t : State) (p : Nat) (l : List Reg) : Prop :=
  (∀ q, q ≠ p → portOf t q = portOf s q) ∧ RegsBut s t l ∧ t = { s with fab := t.fab, regs := t.regs }

theorem PortOnly.after {s t u : State} {p : Nat} {l : List Reg} (h : PortOnly t u p l) (g : PortOnly s t p l) : PortOnly s u p l := by
  obtain ⟨hq, hr, hf⟩ := h
  obtain ⟨gq, gr, gf⟩ := g
  exact ⟨fun q n => (hq q n).trans (gq q n), hr.after gr, by rw [hf, gf]⟩

theorem setPort_portOnly (s : State) (p : Nat) (k : Port) (l : List Reg) : PortOnly s (setPort s p k) p l :=
  ⟨fun _ hq => portOf_setPort_other _ _ hq, .refl _ _, rfl⟩

theorem enterTraining_portOnly (s : State) (p : Nat) (l : List Reg) : PortOnly s (enterTraining s p) p l := setPort_portOnly _ _ _ _

/-- The state once ENABLE of a port is written. -/
def enableWritten (s : State) (p : Nat) (on : Bool) : State := rsetFld s (.fabPortCtrl p) 0 1 (b01 on)

theorem enableWritten_portOnly (s : State) (p : Nat) (on : Bool) : PortOnly s (enableWritten s p on) p [.fabPortCtrl p] :=
  ⟨fun _ _ => rfl, fun _ hr => rget_rsetFld_other _ _ _ _ (hr _ (by simp)), rfl⟩

/-! ## Training begins (R353, R354, R362, R385) -/

/-- What a port tells its peer: its node, its number and its allocation by VC. -/
def toldOf (s : State) (p : Nat) : PortTold :=
  { node := BitVec.ofNat 16 (rfld s .fabNodeId 0 16), port := p, alloc := (upto 0 8).map (allocOf s p) }

theorem toldOf_enableWritten (s : State) (p : Nat) (on : Bool) : toldOf (enableWritten s p on) p = toldOf s p := by
  have node : regOffset .fabNodeId ≠ regOffset (.fabPortCtrl p) := by simp only [regOffset]; omega
  have low : regOffset (.fabPortAlloc0 p) ≠ regOffset (.fabPortCtrl p) := by simp only [regOffset]; omega
  have high : regOffset (.fabPortAlloc1 p) ≠ regOffset (.fabPortCtrl p) := by simp only [regOffset]; omega
  have alloc : allocOf (enableWritten s p on) p = allocOf s p := by
    funext v
    unfold allocOf rfld enableWritten
    rw [rget_rsetFld_other _ _ _ _ low, rget_rsetFld_other _ _ _ _ high]
  unfold toldOf
  rw [alloc, rfld, enableWritten, rget_rsetFld_other _ _ _ _ node, ← rfld]

/-- A port that begins to train has dropped its replay buffer and partial packets, and told its peer. -/
theorem portOf_enterTraining (s : State) (p : Nat) :
    portOf (enterTraining s p) p = { portDrop (portOf s p) with st := .training, sinceNs := s.localNs, width := 0, swapDue := [], curNs := []
                                                                told := some (toldOf s p) } := portOf_setPort_same _ _ _

section
variable {s : State} {port : Fin 24}

theorem exec_portEnable_trains (hd : (portOf s port.val).st = .disabled) (hn : rfld s .fabNodeId 0 16 ≠ 0xFFFF) :
    exec (.portEnable port true) s = .next (enterTraining (enableWritten s port.val true) port.val) := by
  have node : regOffset .fabNodeId ≠ regOffset (.fabPortCtrl port.val) := by simp only [regOffset]; omega
  have numbered : rfld (enableWritten s port.val true) .fabNodeId 0 16 ≠ 0xFFFF := by
    rwa [rfld, enableWritten, rget_rsetFld_other _ _ _ _ node, ← rfld]
  exact congrArg _ (if_pos ⟨hd, numbered⟩)

theorem exec_portEnable_enabled (hd : (portOf s port.val).st ≠ .disabled) :
    exec (.portEnable port true) s = .next (enableWritten s port.val true) := congrArg _ (if_neg fun h => hd h.1)

/-- A port that is disabled. -/
def disabledPort (k : Port) : Port := { portDrop k with st := .disabled, width := 0, retrain := false, curNs := [] }

theorem exec_portEnable_disables (hr : (portOf s port.val).st ≠ .retired) :
    exec (.portEnable port false) s = .next (setPort (enableWritten s port.val false) port.val (disabledPort (portOf s port.val))) :=
  if_neg hr

theorem exec_portEnable_retired (hr : (portOf s port.val).st = .retired) :
    exec (.portEnable port false) s = .next (enableWritten s port.val false) := if_pos hr

/-- A port whose lanes are to be tested again. -/
def retestedPort (k : Port) : Port := { k with rxFailed := 0, txFailed := 0, retrain := true }

theorem exec_retrain (hd : (portOf s port.val).st ≠ .disabled) :
    exec (.retrain port) s = .next (enterTraining (setPort s port.val (retestedPort (portOf s port.val))) port.val) := if_neg hd

theorem exec_trainingRestart (hs : (portOf s port.val).st = .training) (ht : (portOf s port.val).sinceNs + 10 ^ 9 ≤ s.localNs) :
    exec (.trainingRestart port) s = .next (enterTraining s port.val) := if_pos ⟨hs, ht⟩

theorem exec_recoveryTimeout (hs : (portOf s port.val).st = .recovery) (ht : (portOf s port.val).sinceNs + 10 ^ 7 ≤ s.localNs) :
    exec (.recoveryTimeout port) s = .next (enterTraining s port.val) := if_pos ⟨hs, ht⟩

/-! ## Training and recovery end (R353, R354) -/

/-- A port whose training has found failed lanes. -/
def testedPort (k : Port) (rx : RxFound) (txBad : BitVec 10) : Port :=
  { k with rxFailed := k.rxFailed ||| rx.bad, txFailed := k.txFailed ||| txBad }

/-- A port whose training ends with a width. -/
def trainedPort (s : State) (k : Port) (rx : RxFound) (peer : Half) (peerPort : BitVec 5) (alloc : List Half) : Port :=
  { k with st := .active, width := portWidth k, lanes := laneMap rx.rev k.rxFailed (portWidth k)
           txLanes := laneMap false k.txFailed (portWidth k), inv := rx.inv, rev := rx.rev, peerNode := peer, peerPort := peerPort
           allocs := creditsFrom alloc, used := [], owed := [], rxNext := 0, txSeq := 0, sinceNs := s.localNs, retrain := false
           ackNs := s.localNs, symStart := s.localNs, symCount := [] }

/-- A port whose recovery ends. -/
def recoveredPort (s : State) (k : Port) (alloc : List Half) : Port :=
  { k with st := .active, sinceNs := s.localNs, allocs := (if alloc.isEmpty then k.allocs else creditsFrom alloc)
           ackNs := s.localNs, nakSeen := false, nakSent := false }

variable {rx : RxFound} {txBad : BitVec 10} {peer : Half} {peerPort : BitVec 5} {alloc : List Half}

theorem exec_trainingDone_narrow (hs : (portOf s port.val).st = .training) (hw : portWidth (testedPort (portOf s port.val) rx txBad) = 0) :
    exec (.trainingDone port rx txBad peer peerPort alloc) s = .next s := by
  show execTrainingDone port rx txBad peer peerPort alloc s = _
  unfold execTrainingDone
  simp only [hs]
  exact if_pos hw

theorem exec_trainingDone_trained (hs : (portOf s port.val).st = .training) (hw : portWidth (testedPort (portOf s port.val) rx txBad) ≠ 0) :
    exec (.trainingDone port rx txBad peer peerPort alloc) s =
      .next (drainPort (setPort s port.val (trainedPort s (testedPort (portOf s port.val) rx txBad) rx peer peerPort alloc)) port.val) := by
  show execTrainingDone port rx txBad peer peerPort alloc s = _
  unfold execTrainingDone
  simp only [hs]
  exact if_neg hw

theorem exec_trainingDone_recovered (hs : (portOf s port.val).st = .recovery) :
    exec (.trainingDone port rx txBad peer peerPort alloc) s =
      .next (drainPort (resendAll (setPort s port.val (recoveredPort s (portOf s port.val) alloc)) port.val) port.val) := by
  show execTrainingDone port rx txBad peer peerPort alloc s = _
  unfold execTrainingDone
  simp only [hs]
  rfl

end

/-- What sending leaves alone of a port. -/
theorem PortSent.keeps {α : Type} {s t : State} {p : Nat} (h : PortSent s t p) (g : Port → α) (hg : ∀ k, g (besideSending k) = g k) :
    g (portOf t p) = g (portOf s p) := by
  rw [← hg, h.port, hg]

/-! ## LINK_AUX (R355, R356) -/

theorem linkAux_lanes (k : Port) (swap : Option (BitVec 12)) : (linkAux k swap).extractLsb' 0 10 = peerLanes k.rev k.rxFailed := by
  apply BitVec.eq_of_toNat_eq
  have := (peerLanes k.rev k.rxFailed).isLt
  cases swap with
  | none => simp only [linkAux, fields, BitVec.extractLsb'_toNat, BitVec.toNat_ofNat, Nat.shiftRight_zero]; omega
  | some q =>
    have := q.isLt
    simp only [linkAux, fields, BitVec.extractLsb'_toNat, BitVec.toNat_ofNat, Nat.shiftRight_zero]; omega

theorem linkAux_swap (k : Port) (swap : Option (BitVec 12)) : (linkAux k swap).getLsbD 10 = swap.isSome := by
  have := (peerLanes k.rev k.rxFailed).isLt
  rw [BitVec.getLsbD, Nat.testBit_eq_decide_div_mod_eq]
  cases swap with
  | none => simp only [linkAux, fields, BitVec.toNat_ofNat, Option.isSome_none, decide_eq_false_iff_not]; omega
  | some q =>
    have := q.isLt
    simp only [linkAux, fields, BitVec.toNat_ofNat, Option.isSome_some, decide_eq_true_eq]; omega

theorem linkAux_fseq (k : Port) (q : BitVec 12) : (linkAux k (some q)).extractLsb' 11 12 = q := by
  apply BitVec.eq_of_toNat_eq
  have := (peerLanes k.rev k.rxFailed).isLt
  have := q.isLt
  simp only [linkAux, fields, BitVec.extractLsb'_toNat, BitVec.toNat_ofNat, Nat.shiftRight_eq_div_pow]; omega

/-! ## A lane fails (R355) -/

/-- A port one of whose receive lanes has failed: a swap is due where the lane is in use. -/
def laneFailed (k : Port) (l : Nat) : Port :=
  { k with rxFailed := k.rxFailed ||| (1#10 <<< l), swapDue := (if k.lanes.contains l then setAdd l k.swapDue else k.swapDue) }

theorem exec_laneFail {s : State} {port : Fin 24} {lane : BitVec 4} {lock : Bool} (hu : portUsable (portOf s port.val) = true)
    (hl : lane.toNat < 10) (hg : (portOf s port.val).rxFailed.getLsbD lane.toNat = false)
    (hf : lock = true ∨ (max 1 (rfld s (.fabPortLane port.val) 0 32) < tget (fun _ => 0) (portOf s port.val).symCount lane.toNat ∧
      s.localNs ≤ (portOf s port.val).symStart + 10 ^ 9)) :
    exec (.laneFail port lane lock) s =
      .next (if (portOf s port.val).st = .active then sendIdle (setPort s port.val (laneFailed (portOf s port.val) lane.toNat)) port.val false none
        else setPort s port.val (laneFailed (portOf s port.val) lane.toNat)) := by
  have fails : (lock || (decide (tget (fun _ => 0) (portOf s port.val).symCount lane.toNat > max 1 (rfld s (.fabPortLane port.val) 0 32)) &&
      decide (s.localNs ≤ (portOf s port.val).symStart + 1000000000))) = true := by
    rcases hf with h | ⟨h, h'⟩
    · rw [h, Bool.true_or]
    · rw [decide_eq_true h, decide_eq_true (show s.localNs ≤ (portOf s port.val).symStart + 1000000000 from h'), Bool.and_self, Bool.or_true]
  refine if_pos ?_
  rw [hu, decide_eq_true hl, hg, fails]
  rfl

/-! ## A lane is swapped (R353, R356, R576) -/

/-- A port without what entering RECOVERY changes. -/
def besideRecovery (k : Port) : Port := { k with st := .recovery, sinceNs := 0, resends := 0, told := none, curNs := [], owed := [] }

/-- From s to t port p has gone through to RECOVERY, with an agreed FSEQ where it was ACTIVE. -/
structure SwapAgreed (s t : State) (p : Nat) : Prop where
  port   : besideRecovery (portOf t p) = besideRecovery (portOf s p)
  st     : (portOf t p).st = .recovery
  only   : PortOnly s t p [.fabPortCtr p 7]
  waited : (portOf s p).st = .recovery → (portOf t p).sinceNs = (portOf s p).sinceNs ∧ t.fab.wire = s.fab.wire
  begun  : (portOf s p).st = .active → (portOf t p).sinceNs = s.localNs ∧ rget t (.fabPortCtr p 7) = rget s (.fabPortCtr p 7) + 1 ∧
    t.fab.wire = s.fab.wire ++ [(p, laneBytes (portOf s p) (idleFlit (portOf s p) false (some (portOf s p).txSeq)))]

theorem CreditsOnly.portOnly {s t : State} {p : Nat} (h : CreditsOnly s t p) (l : List Reg) : PortOnly s t p l :=
  ⟨h.other, regsBut_of_regs (by rw [h.frame]) _, by rw [h.frame]⟩

theorem CreditsOnly.localNs {s t : State} {p : Nat} (h : CreditsOnly s t p) : t.localNs = s.localNs := by rw [h.frame]

theorem CreditsOnly.rget {s t : State} {p : Nat} (h : CreditsOnly s t p) (r : Reg) : rget t r = rget s r := by rw [h.frame]; rfl

theorem enterRecovery_portOnly (s : State) (p : Nat) : PortOnly s (enterRecovery s p) p [.fabPortCtr p 7] :=
  ⟨fun _ hq => portOf_setPort_other _ _ hq, rbump_regs _ 1 (by simp), rfl⟩

theorem portOf_enterRecovery (s : State) (p : Nat) :
    portOf (enterRecovery s p) p = { portOf s p with st := .recovery, sinceNs := s.localNs, resends := 0, curNs := [], told := some (toldOf s p) } :=
  portOf_setPort_same _ _ _

theorem rget_enterRecovery (s : State) (p : Nat) : rget (enterRecovery s p) (.fabPortCtr p 7) = rget s (.fabPortCtr p 7) + 1 :=
  rget_rbump_same _ _ 1

theorem enterRecovery_wire (s : State) (p : Nat) : (enterRecovery s p).fab.wire = s.fab.wire := rfl

theorem swapThrough_agreed {s : State} {p : Nat} (hu : portUsable (portOf s p) = true) : SwapAgreed s (swapThrough s p) p := by
  unfold swapThrough
  split
  · next active =>
    have idle := sendIdle_creditsOnly s p false (some (portOf s p).txSeq)
    refine ⟨?_, ?_, (enterRecovery_portOnly _ p).after (idle.portOnly _), fun h => ?_, fun _ => ⟨?_, ?_, ?_⟩⟩
    · rw [portOf_enterRecovery, idle.port]; rfl
    · rw [portOf_enterRecovery]
    · rw [active] at h; cases h
    · rw [portOf_enterRecovery]; exact idle.localNs
    · rw [rget_enterRecovery, idle.rget]
    · rw [enterRecovery_wire, sendIdle_wire]
  · next inactive =>
    have recovery : (portOf s p).st = .recovery := by simpa [portUsable, inactive] using hu
    exact ⟨rfl, recovery, ⟨fun _ _ => rfl, .refl _ _, rfl⟩, fun _ => ⟨rfl, rfl⟩, fun h => absurd h inactive⟩

theorem SwapAgreed.keeps {α : Type} {s t : State} {p : Nat} (h : SwapAgreed s t p) (g : Port → α) (hg : ∀ k, g (besideRecovery k) = g k) :
    g (portOf t p) = g (portOf s p) := by
  rw [← hg, h.port, hg]

theorem Recorded.of_portOnly {s u t : State} {p : Nat} {l : List Reg} {st : Status} {res : Word32} {d : Word64} (h : PortOnly s u p l)
    (g : Recorded u t st res d) : Recorded s t st res d := by
  rw [h.2.2] at g
  exact g

/-- The port after a lane change is k: it is counted, and a record names the lane. -/
def laneChanged (s : State) (p l : Nat) (event : Status) (k : Port) : State := laneEvent (rbump (setPort s p k) (.fabPortCtr p 6) 1) p l event

theorem resourceDie_lane (p : Fin 24) (l : BitVec 4) : resourceDie (resource 0x06 (10 * p.val + l.toNat)) = 4 := by
  have kind : (resource 0x06 (10 * p.val + l.toNat)).toNat / 2 ^ 24 = 6 := by
    unfold resource
    rw [BitVec.toNat_ofNat]
    omega
  unfold resourceDie
  simp only [kind]

/-- What the record of a lane change leaves alone, and that it is written. -/
theorem laneEvent_effect (s : State) (p : Fin 24) (l : BitVec 4) {event : Status} (he : statusRecorded event = true) :
    (laneEvent s p.val l.toNat event).fab = s.fab ∧ Recorded s (laneEvent s p.val l.toNat event) event (resource 0x06 (10 * p.val + l.toNat)) 0 ∧
      RegsBut s (laneEvent s p.val l.toNat event) (recordRegs 4) := by
  refine ⟨?_, report_recorded _ _ _ _ _ _ he, ?_⟩
  · rw [laneEvent, report_frame]
  · have regs := report_regs s event (resource 0x06 (10 * p.val + l.toNat)) 0 0 false
    rwa [resourceDie_lane] at regs

/-- The port, the wire and the registers after a lane change, and its record. -/
structure LaneChange (s t : State) (p l : Nat) (event : Status) (k : Port) : Prop where
  port   : portOf t p = k
  wire   : t.fab.wire = s.fab.wire
  other  : ∀ q, q ≠ p → portOf t q = portOf s q
  record : Recorded s t event (resource 0x06 (10 * p + l)) 0
  swaps  : rget t (.fabPortCtr p 6) = rget s (.fabPortCtr p 6) + 1
  entries : rget t (.fabPortCtr p 7) = rget s (.fabPortCtr p 7)
  regs   : RegsBut s t (.fabPortCtr p 6 :: recordRegs 4)

theorem laneChanged_effect (s : State) (p : Fin 24) (l : BitVec 4) {event : Status} (he : statusRecorded event = true) (k : Port) :
    LaneChange s (laneChanged s p.val l.toNat event k) p.val l.toNat event k := by
  obtain ⟨fab, record, regs⟩ := laneEvent_effect (rbump (setPort s p.val k) (.fabPortCtr p.val 6) 1) p l he
  have ports : ∀ q, portOf (laneChanged s p.val l.toNat event k) q = portOf (setPort s p.val k) q := fun q => by
    unfold laneChanged portOf; rw [fab]; rfl
  have counter : ∀ i, rget (laneChanged s p.val l.toNat event k) (.fabPortCtr p.val i) = rget (rbump s (.fabPortCtr p.val 6) 1) (.fabPortCtr p.val i) :=
    fun i => rget_report_fabric (resourceDie_lane p l) _ _ _ _ (fabPortCtr_fabric _ _)
  refine ⟨?_, (congrArg Fabric.wire fab :), fun q hq => ?_, record, ?_, ?_, ?_⟩
  · rw [ports, portOf_setPort_same]
  · rw [ports, portOf_setPort_other _ _ hq]
  · rw [counter, rget_rbump_same]; rfl
  · rw [counter, rget_rbump_other _ _ (fabPortCtr_ne (by decide))]
  · exact (regs.mono (by simp)).after (rbump_regs s 1 (by simp) : RegsBut s (rbump s (.fabPortCtr p.val 6) 1) _)

/-- A port that a swap leaves without a width (R356, R576). -/
def retiredPort (k : Port) : Port := { portDrop k with st := .retired, width := 0, lanes := [], txLanes := [], swapDue := [] }

/-- Port x in whose place a swap of lane l of k has put another lane. -/
def sparedPort (k x : Port) (l : Nat) : Port :=
  { x with swapDue := k.swapDue.filter (fun y => decide (y ≠ l))
           lanes := (if k.rxFailed.getLsbD l then laneReplace k.rev k.rxFailed l k.lanes else k.lanes)
           txLanes := (if k.txFailed.getLsbD l then laneReplace false k.txFailed l k.txLanes else k.txLanes) }

theorem mem_sparedPort_swapDue {k x : Port} {l y : Nat} : y ∈ (sparedPort k x l).swapDue ↔ y ∈ k.swapDue ∧ y ≠ l := by simp [sparedPort]

/-- Port x after k has narrowed. -/
def narrowedPort (k x : Port) : Port :=
  { x with swapDue := [], width := portWidth k, lanes := laneMap k.rev k.rxFailed (portWidth k), txLanes := laneMap false k.txFailed (portWidth k) }

section
variable {s : State} {port : Fin 24} {lane : BitVec 4} (hu : portUsable (portOf s port.val) = true) (hl : lane.toNat ∈ (portOf s port.val).swapDue)
include hu hl

theorem swap_notRefused : ¬ (!portUsable (portOf s port.val) || !(portOf s port.val).swapDue.contains lane.toNat) = true := by
  simp [hu, hl]

/-- A port that a swap leaves without a width retires. -/
theorem exec_laneSwap_retires (hw : portWidth (portOf s port.val) = 0) :
    exec (.laneSwap port lane) s = .next (laneEvent (setPort s port.val (retiredPort (portOf s port.val))) port.val lane.toNat .fabPortRetired) :=
  (if_neg (swap_notRefused hu hl)).trans (if_pos hw)

/-- A port whose width stays takes a good unused lane for the failed one. -/
theorem exec_laneSwap_spares (h0 : portWidth (portOf s port.val) ≠ 0) (hw : portWidth (portOf s port.val) = (portOf s port.val).width) :
    ∃ t, exec (.laneSwap port lane) s = .next t ∧ LaneChange (swapThrough s port.val) t port.val lane.toNat .fabLaneSpared
      (sparedPort (portOf s port.val) (portOf (swapThrough s port.val) port.val) lane.toNat) :=
  ⟨_, (if_neg (swap_notRefused hu hl)).trans ((if_neg h0).trans (if_pos hw)), laneChanged_effect _ _ _ rfl _⟩

/-- A port that fewer lanes allow narrows and re-stripes. -/
theorem exec_laneSwap_narrows (h0 : portWidth (portOf s port.val) ≠ 0) (hw : portWidth (portOf s port.val) ≠ (portOf s port.val).width) :
    ∃ t, exec (.laneSwap port lane) s = .next t ∧ LaneChange (swapThrough s port.val) t port.val lane.toNat .fabPortNarrowed
      (narrowedPort (portOf s port.val) (portOf (swapThrough s port.val) port.val)) :=
  ⟨_, (if_neg (swap_notRefused hu hl)).trans ((if_neg h0).trans (if_neg hw)), laneChanged_effect _ _ _ rfl _⟩

end

/-! ## The statement -/

/-- A port that begins to train has dropped what it held but the packet it sends (R362), and told its peer. -/
theorem enterTraining_fresh {s : State} {p ns : Nat} {cur : Table (List Slot)} {tell : PortTold} (hc : (portOf s p).cur = cur) (hn : s.localNs = ns)
    (ht : toldOf s p = tell) :
    let x := portOf (enterTraining s p) p
    x.replay = [] ∧ x.partials = [] ∧ x.orphan = [] ∧ x.swapDue = [] ∧ x.width = 0 ∧ x.sinceNs = ns ∧ x.cur = cur ∧ x.told = some tell := by
  subst hn ht
  rw [portOf_enterTraining]
  exact ⟨rfl, rfl, rfl, rfl, rfl, rfl, hc, rfl⟩

theorem enterTraining_st (s : State) (p : Nat) : (portOf (enterTraining s p) p).st = .training := by rw [portOf_enterTraining]

theorem PortSent.owedOnly {s t : State} {p : Nat} (h : PortSent s t p) :
    (∀ q, q ≠ p → portOf t q = { portOf s q with owed := (portOf t q).owed }) ∧ RegsBut s t [.fabPortCtr p 0] ∧
      t = { s with fab := t.fab, regs := t.regs, fld := t.fld } :=
  ⟨h.other, h.regs, by rw [h.frame]⟩

/-- What a training that ends changes beside its port. -/
theorem trained_owedOnly {s t : State} {p : Nat} {k : Port} (h : PortSent (setPort s p k) t p) :
    (∀ q, q ≠ p → portOf t q = { portOf s q with owed := (portOf t q).owed }) ∧ RegsBut s t [.fabPortCtr p 0] ∧
      t = { s with fab := t.fab, regs := t.regs, fld := t.fld } := by
  obtain ⟨other, regs, frame⟩ := h.owedOnly
  exact ⟨fun q hq => by rw [other q hq, portOf_setPort_other _ _ hq], regs.after (.refl _ _), frame⟩

theorem Resent.ports {s t : State} {p : Nat} {l : List Flit} (h : Resent s t p l) (q : Nat) : portOf t q = portOf s q := by rw [h.frame]; rfl

theorem Resent.wire {s t : State} {p : Nat} {l : List Flit} (h : Resent s t p l) :
    t.fab.wire = s.fab.wire ++ l.map fun y => (p, laneBytes (portOf s p) (resent (portOf s p) y)) := by rw [h.frame]

/-- The port, the wire and all else once a recovery has ended: the replay buffer is resent, then the output drains. -/
structure RecoveryEnded (s t : State) (p : Nat) (k : Port) : Prop where
  port   : besideSending (portOf t p) = besideSending k
  replay : k.replay <+: (portOf t p).replay
  other  : ∀ q, q ≠ p → portOf t q = { portOf s q with owed := (portOf t q).owed }
  wire   : s.fab.wire ++ k.replay.map (fun y => (p, laneBytes k (resent k y))) <+: t.fab.wire
  regs   : RegsBut s t [.fabPortCtr p 0, .fabPortCtr p 3]
  frame  : t = { s with fab := t.fab, regs := t.regs, fld := t.fld }

theorem recoveryEnded (s : State) (p : Nat) (k : Port) : RecoveryEnded s (drainPort (resendAll (setPort s p k) p) p) p k := by
  have again := resendAll_resent (setPort s p k) p
  have sent := drainPort_portSent (resendAll (setPort s p k) p) p
  generalize drainPort (resendAll (setPort s p k) p) p = t at sent ⊢
  generalize resendAll (setPort s p k) p = u at again sent
  have ports := again.ports
  have wire := again.wire
  rw [portOf_setPort_same, setPort_wire] at wire
  refine ⟨?_, ?_, fun q hq => ?_, wire ▸ sent.wire, ?_, ?_⟩
  · rw [sent.port, ports, portOf_setPort_same]
  · have kept := sent.replay
    rwa [ports, portOf_setPort_same] at kept
  · rw [sent.other q hq, ports, portOf_setPort_other _ _ hq]
  · exact (sent.regs.mono (by simp)).after (again.regs.after (.refl _ _))
  · rw [sent.frame, again.frame]; rfl

/-- A swap that goes through RECOVERY: what it changes, counts and records (R355, R356, R576). -/
theorem swap_through {s t : State} {p : Fin 24} {l : BitVec 4} {event : Status} {k' : Port} (hu : portUsable (portOf s p.val) = true)
    (h : LaneChange (swapThrough s p.val) t p.val l.toNat event k') (hs : k'.st = (portOf (swapThrough s p.val) p.val).st)
    (hr : k'.replay = (portOf (swapThrough s p.val) p.val).replay) (hn : k'.sinceNs = (portOf (swapThrough s p.val) p.val).sinceNs) :
    let k := portOf s p.val
    ((∀ q, q ≠ p.val → portOf t q = portOf s q) ∧ Recorded s t event (resource 0x06 (10 * p.val + l.toNat)) 0 ∧
      RegsBut s t ([.fabPortCtr p.val 6, .fabPortCtr p.val 7] ++ recordRegs 4)) ∧
    (portOf t p.val).st = .recovery ∧ rget t (.fabPortCtr p.val 6) = rget s (.fabPortCtr p.val 6) + 1 ∧ (portOf t p.val).replay = k.replay ∧
    (k.st = .recovery → (portOf t p.val).sinceNs = k.sinceNs ∧ t.fab.wire = s.fab.wire) ∧
    (k.st = .active → (portOf t p.val).sinceNs = s.localNs ∧ rget t (.fabPortCtr p.val 7) = rget s (.fabPortCtr p.val 7) + 1 ∧
      ∃ f, t.fab.wire = s.fab.wire ++ [(p.val, laneBytes k f)] ∧ f.kind = 1 ∧ f.aux.getLsbD 10 = true ∧ f.aux.extractLsb' 11 12 = k.txSeq) := by
  intro k
  have agreed := swapThrough_agreed hu
  obtain ⟨others, regs, frame⟩ := agreed.only
  have swaps : rget (swapThrough s p.val) (.fabPortCtr p.val 6) = rget s (.fabPortCtr p.val 6) :=
    regs _ fun x hx => by rw [List.mem_singleton.mp hx]; exact fabPortCtr_ne (by decide)
  refine ⟨⟨fun q hq => (h.other q hq).trans (others q hq), h.record.of_portOnly agreed.only, ?_⟩, ?_, by rw [h.swaps, swaps], ?_, fun wait => ?_,
    fun begun => ?_⟩
  · exact (h.regs.mono (by simp)).after (regs.mono (by simp))
  · rw [h.port, hs, agreed.st]
  · rw [h.port, hr]
    exact agreed.keeps Port.replay fun _ => rfl
  · obtain ⟨since, wire⟩ := agreed.waited wait
    exact ⟨by rw [h.port, hn, since], h.wire.trans wire⟩
  · obtain ⟨since, entries, wire⟩ := agreed.begun begun
    exact ⟨by rw [h.port, hn, since], h.entries.trans entries, _, h.wire.trans wire, rfl, linkAux_swap _ _, linkAux_fseq _ _⟩

/-- How a training with a width ends (R354 to R356). -/
theorem exec_trainingDone_ends {s : State} {port : Fin 24} {rx : RxFound} {txBad : BitVec 10} {peer : Half} {peerPort : BitVec 5} {alloc : List Half}
    (hs : (portOf s port.val).st = .training) (hw : portWidth (testedPort (portOf s port.val) rx txBad) ≠ 0) :
    ∃ t, exec (.trainingDone port rx txBad peer peerPort alloc) s = .next t ∧
      besideSending (portOf t port.val) = besideSending (trainedPort s (testedPort (portOf s port.val) rx txBad) rx peer peerPort alloc) ∧
      (∀ q, q ≠ port.val → portOf t q = { portOf s q with owed := (portOf t q).owed }) ∧ RegsBut s t [.fabPortCtr port.val 0] ∧
      t = { s with fab := t.fab, regs := t.regs, fld := t.fld } := by
  have sent := drainPort_portSent (setPort s port.val (trainedPort s (testedPort (portOf s port.val) rx txBad) rx peer peerPort alloc)) port.val
  exact ⟨_, exec_trainingDone_trained hs hw, sent.port.trans (by rw [portOf_setPort_same]), trained_owedOnly sent⟩

/-- How a recovery ends (R353, R361). -/
theorem exec_trainingDone_recovers {s : State} {port : Fin 24} {rx : RxFound} {txBad : BitVec 10} {peer : Half} {peerPort : BitVec 5}
    {alloc : List Half} (hs : (portOf s port.val).st = .recovery) :
    ∃ t, exec (.trainingDone port rx txBad peer peerPort alloc) s = .next t ∧
      RecoveryEnded s t port.val (recoveredPort s (portOf s port.val) alloc) :=
  ⟨_, exec_trainingDone_recovered hs, recoveryEnded s port.val _⟩

/-- How a lane of a port fails that reports it (R355). -/
theorem exec_laneFail_reports {s : State} {port : Fin 24} {lane : BitVec 4} {lock : Bool} (hs : (portOf s port.val).st = .active)
    (hl : lane.toNat < 10) (hg : (portOf s port.val).rxFailed.getLsbD lane.toNat = false)
    (hf : lock = true ∨ (max 1 (rfld s (.fabPortLane port.val) 0 32) < tget (fun _ => 0) (portOf s port.val).symCount lane.toNat ∧
      s.localNs ≤ (portOf s port.val).symStart + 10 ^ 9)) :
    ∃ t, exec (.laneFail port lane lock) s = .next t ∧
      CreditsOnly (setPort s port.val (laneFailed (portOf s port.val) lane.toNat)) t port.val ∧
      t.fab.wire = s.fab.wire ++ [(port.val, laneBytes (portOf s port.val) (idleFlit (laneFailed (portOf s port.val) lane.toNat) false none))] := by
  have wire := sendIdle_wire (setPort s port.val (laneFailed (portOf s port.val) lane.toNat)) port.val false none
  rw [portOf_setPort_same] at wire
  exact ⟨_, by rw [exec_laneFail (by simp [portUsable, hs]) hl hg hf, if_pos hs], sendIdle_creditsOnly _ _ _ _, wire⟩

/-- What the event of a lane does beside its port. -/
theorem retired_effect (s : State) (p : Fin 24) (l : BitVec 4) (k : Port) :
    let t := laneEvent (setPort s p.val k) p.val l.toNat .fabPortRetired
    ((∀ q, q ≠ p.val → portOf t q = portOf s q) ∧ Recorded s t .fabPortRetired (resource 0x06 (10 * p.val + l.toNat)) 0 ∧
      RegsBut s t (recordRegs 4)) ∧ portOf t p.val = k ∧ t.fab.wire = s.fab.wire := by
  intro t
  obtain ⟨fab, record, regs⟩ := laneEvent_effect (setPort s p.val k) p l (event := .fabPortRetired) rfl
  have ports : ∀ q, portOf t q = portOf (setPort s p.val k) q := fun q => by unfold portOf; rw [fab]
  exact ⟨⟨fun q hq => by rw [ports, portOf_setPort_other _ _ hq], record, regs.after (.refl _ _)⟩, by rw [ports, portOf_setPort_same],
    (congrArg Fabric.wire fab :)⟩

/-- Settles O29: each command of a port is the equation of its case, and what its parts change is said once for each part. -/
theorem fabricPorts : Obligations.FabricPorts := by
  unfold Obligations.FabricPorts
  refine ⟨?_, ?_⟩
  · intro s port rxBad txBad inv rev peer peerPort alloc p k done tell same active fresh rx tx w
    refine ⟨fun hd hn => ?_, fun hd => ?_, fun hr => ?_, fun hr => ?_, fun hd => ?_, fun hs hw => ?_, fun hs hw => ?_, fun hs => ?_, fun hs ht => ?_,
      fun hs ht => ?_⟩
    · refine ⟨_, exec_portEnable_trains hd hn, ⟨enterTraining_st _ _, ?_⟩, enterTraining_fresh rfl rfl (toldOf_enableWritten s p true)⟩
      exact (enterTraining_portOnly _ _ _).after (enableWritten_portOnly s p true)
    · exact ⟨_, exec_portEnable_enabled hd, ⟨rfl, enableWritten_portOnly s p true⟩, rfl⟩
    · have written := enableWritten_portOnly s p false
      have port := portOf_setPort_same (enableWritten s p false) p (disabledPort k)
      exact ⟨_, exec_portEnable_disables hr, ⟨congrArg Port.st port, (setPort_portOnly _ p _ _).after written⟩, congrArg Port.replay port,
        congrArg Port.partials port, (congrArg Port.cur port :), congrArg Port.width port⟩
    · exact ⟨_, exec_portEnable_retired hr, ⟨hr, enableWritten_portOnly s p false⟩, rfl⟩
    · have port := portOf_setPort_same s p (retestedPort k)
      refine ⟨_, exec_retrain hd, ⟨enterTraining_st _ _, (enterTraining_portOnly _ p _).after (setPort_portOnly s p _ _)⟩,
        enterTraining_fresh (congrArg Port.cur port :) rfl rfl, ?_⟩
      rw [portOf_enterTraining]
      exact ⟨congrArg Port.rxFailed port, congrArg Port.txFailed port, congrArg Port.retrain port⟩
    · exact exec_trainingDone_narrow hs hw
    · obtain ⟨t, ends, port, rest⟩ := exec_trainingDone_ends (rx := ⟨rxBad, inv, rev⟩) (peer := peer) (peerPort := peerPort) (alloc := alloc) hs hw
      exact ⟨t, ends, ⟨congrArg Port.st port, rest⟩, congrArg Port.width port, congrArg Port.rxFailed port, congrArg Port.txFailed port,
        congrArg Port.peerNode port, congrArg Port.peerPort port, congrArg Port.rxNext port, congrArg Port.retrain port, congrArg Port.inv port,
        congrArg Port.rev port, congrArg Port.lanes port, congrArg Port.txLanes port, congrArg Port.allocs port⟩
    · obtain ⟨t, ends, port, ⟨more, replay⟩, other, ⟨later, wire⟩, regs, frame⟩ := exec_trainingDone_recovers (rx := ⟨rxBad, inv, rev⟩)
        (txBad := txBad) (peer := peer) (peerPort := peerPort) (alloc := alloc) hs
      refine ⟨t, ends, ⟨congrArg Port.st port, other, regs, frame⟩, (congrArg Port.width port :), (congrArg Port.lanes port :),
        (congrArg Port.txLanes port :), (congrArg Port.rxFailed port :), (congrArg Port.txFailed port :), (congrArg Port.rxNext port :), ?_,
        ⟨more, replay.symm⟩, later, wire.symm⟩
      refine (congrArg Port.allocs port).trans ?_
      cases alloc <;> rfl
    · exact ⟨_, exec_trainingRestart hs ht, ⟨enterTraining_st _ _, enterTraining_portOnly s p _⟩, enterTraining_fresh rfl rfl rfl⟩
    · exact ⟨_, exec_recoveryTimeout hs ht, ⟨enterTraining_st _ _, enterTraining_portOnly s p _⟩, enterTraining_fresh rfl rfl rfl⟩
  · intro s port lane lock p k l bad failing
    refine ⟨fun hs hf => ?_, fun hs hf => ?_, fun hu hl => ?_⟩
    · obtain ⟨ten, good, fails⟩ := hf
      have recovering : (portOf s port.val).st = .recovery := hs
      rw [exec_laneFail (by simp [portUsable, recovering]) ten good fails, if_neg (by rw [recovering]; decide)]
      rfl
    · obtain ⟨ten, good, fails⟩ := hf
      obtain ⟨t, fails, idle, wire⟩ := exec_laneFail_reports hs ten good fails
      have port := idle.port
      rw [portOf_setPort_same] at port
      refine ⟨t, _, fails, port, wire, rfl, rfl, rfl, rfl, linkAux_lanes _ _, linkAux_swap _ _, fun q hq => ?_, ?_⟩
      · rw [idle.other q hq, portOf_setPort_other _ _ hq]
      · rw [idle.frame]; rfl
    · intro w swapped through
      refine ⟨fun hw h0 => ?_, fun hw h0 => ?_, fun h0 => ?_⟩
      · obtain ⟨t, swaps, changed⟩ := exec_laneSwap_spares hu hl h0 hw
        obtain ⟨frame, rest⟩ := swap_through hu changed rfl rfl rfl
        refine ⟨t, swaps, frame, rest, ?_⟩
        rw [changed.port]
        exact ⟨((swapThrough_agreed hu).keeps Port.width fun _ => rfl).trans hw.symm, fun _ => mem_sparedPort_swapDue, rfl, rfl⟩
      · obtain ⟨t, swaps, changed⟩ := exec_laneSwap_narrows hu hl h0 hw
        obtain ⟨frame, rest⟩ := swap_through hu changed rfl rfl rfl
        refine ⟨t, swaps, frame, rest, ?_⟩
        rw [changed.port]
        exact ⟨rfl, rfl, rfl, rfl⟩
      · obtain ⟨swapped, retired, wire⟩ := retired_effect s port lane (retiredPort k)
        exact ⟨_, exec_laneSwap_retires hu hl h0, swapped, congrArg Port.st retired, congrArg Port.width retired, congrArg Port.lanes retired,
          congrArg Port.txLanes retired, congrArg Port.replay retired, wire⟩

end Sys2Proof.Machine
end

section
/-! PROOFS. What the bytes of a flit and the slots of a packet hold, and the striping over the lanes (R12, R352, R357, R358, R363). -/
namespace Sys2Proof.Machine

/-! ## Numbers as bytes (R12) -/

theorem leNat_leBytes (n v : Nat) : leNat (leBytes n v) = v % 256 ^ n := by
  induction n generalizing v with
  | zero => rw [pow_zero, Nat.mod_one]; rfl
  | succ n ih =>
    rw [leBytes, leNat, ih, BitVec.toNat_ofNat, pow_succ' 256 n, Nat.mod_mul]
    omega

theorem leNat_leBytes_of_lt {n v : Nat} (h : v < 256 ^ n) : leNat (leBytes n v) = v := by rw [leNat_leBytes, Nat.mod_eq_of_lt h]

theorem leNat_lt (bs : List Byte) : leNat bs < 256 ^ bs.length := by
  induction bs with
  | nil => exact Nat.one_pos
  | cons b bs ih =>
    have := b.isLt
    rw [leNat, List.length_cons, pow_succ]
    omega

theorem leBytes_zero (n : Nat) : leBytes n 0 = List.replicate n 0 := by
  induction n with
  | zero => rfl
  | succ n ih => rw [leBytes, Nat.zero_div, ih, List.replicate_succ]; rfl

/-- Bytes read as a number and written again have zero bytes after them, up to the length written. -/
theorem leBytes_leNat {n : Nat} {bs : List Byte} (h : bs.length ≤ n) : leBytes n (leNat bs) = bs ++ List.replicate (n - bs.length) 0 := by
  induction bs generalizing n with
  | nil => exact leBytes_zero n
  | cons b bs ih =>
    obtain ⟨n, rfl⟩ : ∃ m, n = m + 1 := ⟨n - 1, by simp at h; omega⟩
    have low : (b.toNat + 256 * leNat bs) % 256 = b.toNat := by have := b.isLt; omega
    have high : (b.toNat + 256 * leNat bs) / 256 = leNat bs := by have := b.isLt; omega
    rw [leNat, leBytes, low, high, ih (by simpa using h), BitVec.ofNat_toNat, BitVec.setWidth_eq, List.length_cons, Nat.add_sub_add_right,
      List.cons_append]

/-! ## CRC-64 (R357) -/

theorem crcBits_lt {n poly : Nat} (hp : poly < 2 ^ n) (k : Nat) {c : Nat} (hc : c < 2 ^ n) : crcBits poly k c < 2 ^ n := by
  induction k generalizing c with
  | zero => exact hc
  | succ k ih =>
    have half : c / 2 < 2 ^ n := lt_of_le_of_lt (Nat.div_le_self c 2) hc
    rw [crcBits, evalNat_eq]
    split
    · exact ih (Nat.xor_lt_two_pow half hp)
    · exact ih half

theorem crcBytes_lt {n poly : Nat} (hn : 8 ≤ n) (hp : poly < 2 ^ n) (bs : List Byte) {c : Nat} (hc : c < 2 ^ n) : crcBytes poly bs c < 2 ^ n := by
  induction bs generalizing c with
  | nil => exact hc
  | cons b bs ih =>
    have byte : b.toNat < 2 ^ n := lt_of_lt_of_le b.isLt (Nat.pow_le_pow_right (by decide) hn)
    rw [crcBytes, evalNat_eq]
    exact ih (crcBits_lt hp 8 (Nat.xor_lt_two_pow hc byte))

theorem crc64_lt (bs : List Byte) : crc64 bs < 2 ^ 64 :=
  Nat.xor_lt_two_pow (crcBytes_lt (by decide) (by decide) bs (by decide)) (by decide)

/-! ## Lists cut at fixed lengths -/

theorem upto_eq_range' (lo n : Nat) : upto lo n = List.range' lo n := by
  induction n generalizing lo with
  | zero => rfl
  | succ n ih => rw [upto, ih, List.range'_succ]

/-- What stands after a head of known length. -/
theorem take_drop_append {α : Type} {k n : Nat} {a b : List α} (c : List α) (ha : a.length = k) (hb : b.length = n) :
    ((a ++ (b ++ c)).drop k).take n = b := by
  rw [List.drop_left' ha, List.take_left' hb]

theorem flatMap_upto_succ {α : Type} (g : Nat → List α) (n : Nat) : (upto 0 (n + 1)).flatMap g = g 0 ++ (upto 0 n).flatMap fun i => g (i + 1) := by
  rw [upto, List.flatMap_cons, upto_eq_range', upto_eq_range', Nat.zero_add, ← List.map_add_range' 0 n 1, List.flatMap_map]
  simp only [Nat.add_comm 1]

theorem flatMap_upto_length {α : Type} {w : Nat} {g : Nat → List α} (hg : ∀ i, (g i).length = w) (n : Nat) :
    ((upto 0 n).flatMap g).length = n * w := by
  simp [List.length_flatMap, hg, upto_eq_range', List.map_const', Nat.mul_comm]

/-- One of the pieces of equal length that a list is made of. -/
theorem take_drop_flatMap_upto {α : Type} {w n i : Nat} {g : Nat → List α} (hg : ∀ i, (g i).length = w) (hi : i < n) (c : List α) :
    (((upto 0 n).flatMap g ++ c).drop (w * i)).take w = g i := by
  induction n generalizing g i with
  | zero => omega
  | succ n ih =>
    rw [flatMap_upto_succ, List.append_assoc]
    cases i with
    | zero => exact List.take_left' (hg 0)
    | succ i =>
      rw [Nat.mul_add_one, Nat.add_comm, ← List.drop_drop, List.drop_left' (hg 0)]
      exact ih (fun i => hg (i + 1)) (by omega)

/-! ## Fields of one width (R358) -/

theorem fields_upto_succ (w : Nat) (e : Nat → Nat) (n : Nat) :
    fields ((upto 0 (n + 1)).map fun i => (w * i, e i)) = e 0 + 2 ^ w * fields ((upto 0 n).map fun i => (w * i, e (i + 1))) := by
  have shift (n lo : Nat) : fields ((upto (lo + 1) n).map fun i => (w * i, e i)) =
      2 ^ w * fields ((upto lo n).map fun i => (w * i, e (i + 1))) := by
    induction n generalizing lo with
    | zero => rfl
    | succ n ih =>
      simp only [upto, List.map_cons, fields, ih, Nat.mul_add]
      ring
  rw [upto, List.map_cons, fields, shift, Nat.mul_zero, pow_zero, Nat.mul_one]

theorem fields_upto_lt {w : Nat} {e : Nat → Nat} (he : ∀ i, e i < 2 ^ w) (n : Nat) : fields ((upto 0 n).map fun i => (w * i, e i)) < 2 ^ (w * n) := by
  induction n generalizing e with
  | zero => exact Nat.one_pos
  | succ n ih =>
    have rest := ih fun i => he (i + 1)
    have first := he 0
    have whole := Nat.mul_le_mul_left (2 ^ w) (Nat.succ_le_of_lt rest)
    rw [fields_upto_succ, Nat.mul_add_one, Nat.add_comm (w * n), pow_add]
    rw [Nat.mul_succ] at whole
    omega

theorem nfld_fields_upto {w : Nat} {e : Nat → Nat} (he : ∀ i, e i < 2 ^ w) {n i : Nat} (hi : i < n) :
    nfld (fields ((upto 0 n).map fun i => (w * i, e i))) (w * i) w = e i := by
  induction n generalizing e i with
  | zero => omega
  | succ n ih =>
    rw [fields_upto_succ, nfld]
    cases i with
    | zero => rw [Nat.mul_zero, pow_zero, Nat.div_one, Nat.add_mul_mod_self_left, Nat.mod_eq_of_lt (he 0)]
    | succ i =>
      have drop : (e 0 + 2 ^ w * fields ((upto 0 n).map fun i => (w * i, e (i + 1)))) / 2 ^ w = fields ((upto 0 n).map fun i => (w * i, e (i + 1))) := by
        rw [Nat.add_mul_div_left _ _ (Nat.two_pow_pos w), Nat.div_eq_of_lt (he 0), Nat.zero_add]
      rw [Nat.mul_add_one, Nat.add_comm (w * i), pow_add, ← Nat.div_div_eq_div_mul, drop]
      exact ih (fun i => he (i + 1)) (by omega)

/-! ## The striping of a flit (R352) -/

theorem getElem?_upto_zero {n i : Nat} (h : i < n) : (upto 0 n)[i]? = some i := by
  rw [upto_eq_range', List.getElem?_range' h, Nat.zero_add, Nat.one_mul]

theorem map_getD_upto {α : Type} {l : List α} {n : Nat} {d : α} (h : l.length = n) : ((upto 0 n).map fun i => l.getD i d) = l := by
  refine List.ext_getElem (by simp [upto_eq_range', h]) fun i _ hi => ?_
  simp [upto_eq_range', List.getElem?_eq_getElem hi]

theorem filterMap_getElem?_upto {α : Type} (l : List α) (n : Nat) : (upto 0 n).filterMap (fun i => l[i]?) = l.take n := by
  induction n with
  | zero => rfl
  | succ n ih =>
    rw [upto_append 0 n 1, List.filterMap_append, ih, List.take_add_one, Nat.zero_add, upto, upto, List.filterMap_cons, List.filterMap_nil]
    cases l[n]? <;> rfl

/-- The byte of a flit that stands at a place of a lane. -/
theorem stripe_lane {w j : Nat} (bs : List Byte) (hj : j < w) : (stripe w bs)[j]? = some ((upto 0 (288 / w)).map fun i => bs.getD (w * i + j) 0) := by
  rw [stripe, List.getElem?_map, getElem?_upto_zero hj, Option.map_some]

theorem unstripe_stripe {w : Nat} {bs : List Byte} (hw : w ∣ 288) (hl : bs.length = 288) : unstripe (stripe w bs) = bs := by
  have pos : 0 < w := Nat.pos_of_dvd_of_pos hw (by decide)
  have width : (stripe w bs).length = w := by simp [stripe, upto_eq_range']
  have full : (stripe w bs).all (fun l => decide (l.length = 288 / w)) = true := by simp [stripe, upto_eq_range']
  have byte : ∀ i ∈ upto 0 288, ((stripe w bs)[i % w]?.bind fun l => l[i / w]?) = some (bs.getD i 0) := fun i hi => by
    have inside : i / w < 288 / w := Nat.div_lt_div_of_lt_of_dvd hw (by simpa [upto_eq_range'] using hi)
    rw [stripe_lane _ (Nat.mod_lt _ pos), Option.bind_some, List.getElem?_map, getElem?_upto_zero inside, Option.map_some, Nat.div_add_mod]
  unfold unstripe
  simp only [width, full, if_true]
  rw [List.filterMap_congr byte, List.filterMap_eq_map', map_getD_upto hl]

/-! ## The bytes of a flit (R357, R358) -/

/-- A flit's first word: its numbers, NAK and KIND. -/
def flitHead (f : Flit) : Nat := fields [(0, f.fseq.toNat), (12, f.ackSeq.toNat), (24, b01 f.nak), (25, f.kind.toNat)]

/-- The byte of the credits of a VC. -/
def credByte (c : BitVec 7 × BitVec 1) : Nat := fields [(0, c.1.toNat), (7, c.2.toNat)]

/-- The slot map entry of a place. -/
def entryAt (f : Flit) (i : Nat) : Nat := match f.slots[i]? with | some x => slotEntry x | none => emptySlot

/-- The data of a place. -/
def dataAt (f : Flit) (i : Nat) : Nat := match f.slots[i]? with | some x => x.data.toNat | none => 0

def slotMap (f : Flit) : Nat := fields ((upto 0 15).map fun i => (5 * i, entryAt f i))

/-- The six parts of a flit's bytes. -/
theorem flitBytes_eq (f : Flit) : flitBytes f = leBytes 8 (flitHead f) ++ ((upto 0 8).flatMap (fun v => leBytes 1 (credByte (f.creds.getD v (0, 0)))) ++
    (leBytes 16 (slotMap f) ++ ((upto 0 15).flatMap (fun i => leBytes 16 (dataAt f i)) ++ (leBytes 8 f.aux.toNat ++
      leBytes 8 (crc64 (flitBody f)))))) := by
  simp only [flitBytes, flitBody, List.append_assoc]
  rfl

theorem b01_lt (b : Bool) : b01 b < 2 := by cases b <;> decide

theorem nbit_eq_of (b : Bool) {v i : Nat} (h : nfld v i 1 = b01 b) : nbit v i = b := by
  rw [nbit, h]
  cases b <;> rfl

theorem slotEntry_lt (x : Slot) : slotEntry x < 32 := by
  have := x.vc.isLt
  have := x.cls.isLt
  have := b01_lt x.start
  simp only [slotEntry, fields]
  omega

theorem entryAt_lt (f : Flit) (i : Nat) : entryAt f i < 2 ^ 5 := by
  unfold entryAt
  split
  · exact slotEntry_lt _
  · decide

theorem dataAt_lt (f : Flit) (i : Nat) : dataAt f i < 256 ^ 16 := by
  unfold dataAt
  split
  · next x _ => exact x.data.isLt
  · decide

theorem entryAt_some {f : Flit} {i : Nat} {x : Slot} (h : f.slots[i]? = some x) : entryAt f i = slotEntry x := by rw [entryAt, h]

theorem entryAt_none {f : Flit} {i : Nat} (h : f.slots[i]? = none) : entryAt f i = emptySlot := by rw [entryAt, h]

theorem dataAt_some {f : Flit} {i : Nat} {x : Slot} (h : f.slots[i]? = some x) : dataAt f i = x.data.toNat := by rw [dataAt, h]

section
variable (f : Flit)

theorem flitBytes_length : (flitBytes f).length = 288 := by
  rw [flitBytes_eq]
  simp only [List.length_append, leBytes_length, flatMap_upto_length fun _ => leBytes_length _ _]

theorem flitBody_length : (flitBody f).length = 280 := by
  have whole := flitBytes_length f
  rw [flitBytes, List.length_append, leBytes_length] at whole
  omega

theorem flitBytes_head : (flitBytes f).take 8 = leBytes 8 (flitHead f) := by
  rw [flitBytes_eq, List.take_left' (leBytes_length _ _)]

theorem flitBytes_creds : ((flitBytes f).drop 8).take 8 = (upto 0 8).flatMap fun v => leBytes 1 (credByte (f.creds.getD v (0, 0))) := by
  rw [flitBytes_eq, take_drop_append _ (leBytes_length _ _) ?_]
  exact flatMap_upto_length (fun _ => leBytes_length _ _) 8

theorem flitBytes_map : ((flitBytes f).drop 16).take 16 = leBytes 16 (slotMap f) := by
  rw [flitBytes_eq, ← List.append_assoc, take_drop_append _ ?_ (leBytes_length _ _)]
  simp only [List.length_append, leBytes_length, flatMap_upto_length fun _ => leBytes_length _ _]

theorem flitBytes_data {i : Nat} (hi : i < 15) : ((flitBytes f).drop (32 + 16 * i)).take 16 = leBytes 16 (dataAt f i) := by
  rw [flitBytes_eq, ← List.append_assoc, ← List.append_assoc, ← List.drop_drop, List.drop_left' ?_,
    take_drop_flatMap_upto (fun _ => leBytes_length _ _) hi]
  simp only [List.length_append, leBytes_length, flatMap_upto_length fun _ => leBytes_length _ _]

theorem flitBytes_aux : ((flitBytes f).drop 272).take 8 = leBytes 8 f.aux.toNat := by
  rw [flitBytes_eq, ← List.append_assoc, ← List.append_assoc, ← List.append_assoc, take_drop_append _ ?_ (leBytes_length _ _)]
  simp only [List.length_append, leBytes_length, flatMap_upto_length fun _ => leBytes_length _ _]

theorem flitBytes_crc : leNat ((flitBytes f).drop 280) = crc64 ((flitBytes f).take 280) := by
  rw [flitBytes, List.drop_left' (flitBody_length f), List.take_left' (flitBody_length f), leNat_leBytes_of_lt (crc64_lt _)]

end

theorem flitHead_lt (f : Flit) : flitHead f < 256 ^ 8 := by
  have := f.fseq.isLt
  have := f.ackSeq.isLt
  have := f.kind.isLt
  have := b01_lt f.nak
  simp only [flitHead, fields]
  omega

theorem flitHead_fields (f : Flit) : nfld (flitHead f) 0 12 = f.fseq.toNat ∧ nfld (flitHead f) 12 12 = f.ackSeq.toNat ∧
    nfld (flitHead f) 24 1 = b01 f.nak ∧ nfld (flitHead f) 25 3 = f.kind.toNat := by
  have := f.fseq.isLt
  have := f.ackSeq.isLt
  have := f.kind.isLt
  have := b01_lt f.nak
  simp only [flitHead, fields, nfld]
  omega

theorem slotEntry_fields (x : Slot) : nfld (slotEntry x) 0 3 = x.vc.toNat ∧ nfld (slotEntry x) 3 1 = x.cls.toNat ∧
    nfld (slotEntry x) 4 1 = b01 x.start := by
  have := x.vc.isLt
  have := x.cls.isLt
  have := b01_lt x.start
  simp only [slotEntry, fields, nfld]
  omega

/-- The credits of a VC as their byte gives them. -/
def credOf (b : Byte) : BitVec 7 × BitVec 1 := (b.extractLsb' 0 7, b.extractLsb' 7 1)

theorem credOf_credByte (c : BitVec 7 × BitVec 1) : (leBytes 1 (credByte c)).map credOf = [c] := by
  obtain ⟨n, cls⟩ := c
  have := n.isLt
  have := cls.isLt
  have low : (BitVec.ofNat 8 (credByte (n, cls) % 256)).extractLsb' 0 7 = n := by
    apply BitVec.eq_of_toNat_eq
    simp only [credByte, fields, BitVec.extractLsb'_toNat, BitVec.toNat_ofNat, Nat.shiftRight_zero]
    omega
  have high : (BitVec.ofNat 8 (credByte (n, cls) % 256)).extractLsb' 7 1 = cls := by
    apply BitVec.eq_of_toNat_eq
    simp only [credByte, fields, BitVec.extractLsb'_toNat, BitVec.toNat_ofNat, Nat.shiftRight_eq_div_pow]
    omega
  simp only [leBytes, List.map_cons, List.map_nil, credOf, low, high]

/-- The credits that the bytes of a flit hold. -/
theorem flitBytes_credits {f : Flit} (h : f.creds.length = 8) : (((flitBytes f).drop 8).take 8).map credOf = f.creds := by
  rw [flitBytes_creds, List.map_flatMap]
  simp only [credOf_credByte]
  rw [← List.map_eq_flatMap, map_getD_upto h]

/-- The slot that the bytes of a flit hold at a place. -/
theorem flitSlot_flitBytes {f : Flit} (hs : ∀ x ∈ f.slots, slotEntry x ≠ emptySlot) {i : Nat} (hi : i < 15) :
    flitSlot (flitBytes f) i = f.slots[i]? := by
  have small : slotMap f < 256 ^ 16 := lt_trans (fields_upto_lt (entryAt_lt f) 15) (by decide)
  have entry : nfld (slotMap f) (5 * i) 5 = entryAt f i := nfld_fields_upto (entryAt_lt f) hi
  unfold flitSlot
  simp only [flitBytes_map, flitBytes_data f hi, leNat_leBytes_of_lt small, leNat_leBytes_of_lt (dataAt_lt f i), entry]
  cases hx : f.slots[i]? with
  | none => rw [entryAt_none hx, if_pos rfl]
  | some x =>
    obtain ⟨vc, cls, start⟩ := slotEntry_fields x
    rw [entryAt_some hx, if_neg (hs x (List.mem_of_getElem? hx)), dataAt_some hx, vc, cls, nbit_eq_of x.start start]
    simp only [BitVec.ofNat_toNat, BitVec.setWidth_eq]

theorem parseFlit_flitBytes {f : Flit} (hc : f.creds.length = 8) (hl : f.slots.length ≤ 15) (hs : ∀ x ∈ f.slots, slotEntry x ≠ emptySlot) :
    parseFlit (flitBytes f) = some f := by
  obtain ⟨fseq, ack, nak, kind⟩ := flitHead_fields f
  have slots : (upto 0 15).filterMap (flitSlot (flitBytes f)) = f.slots := by
    rw [List.filterMap_congr fun i hi => flitSlot_flitBytes hs (by simpa [upto_eq_range'] using hi), filterMap_getElem?_upto, List.take_of_length_le hl]
  have aux : f.aux.toNat < 256 ^ 8 := f.aux.isLt
  have creds := flitBytes_credits hc
  unfold credOf at creds
  unfold parseFlit
  rw [if_pos ⟨flitBytes_length f, flitBytes_crc f⟩]
  simp only [flitBytes_head, leNat_leBytes_of_lt (flitHead_lt f), flitBytes_aux, leNat_leBytes_of_lt aux, fseq, ack, kind,
    nbit_eq_of f.nak nak, slots, creds, BitVec.ofNat_toNat, BitVec.setWidth_eq]

/-! ## The slots of a packet (R363) -/

theorem chunks_length (fuel : Nat) {l : List Byte} (h : l.length ≤ fuel) : (chunks 16 fuel l).length = (l.length + 15) / 16 := by
  induction fuel generalizing l with
  | zero => rw [List.eq_nil_of_length_eq_zero (Nat.le_zero.mp h)]; rfl
  | succ fuel ih =>
    rw [chunks]
    split
    · next none => rw [List.isEmpty_iff.mp none]; rfl
    · next some =>
      have pos : 0 < l.length := by simpa [List.length_pos_iff] using some
      rw [List.length_cons, ih (by rw [List.length_drop]; omega), List.length_drop]
      omega

/-- The data of slots holds the bytes they were cut from, then zero bytes to the end of the last slot. -/
theorem chunks_flatMap_leBytes (fuel : Nat) {l : List Byte} (h : l.length ≤ fuel) :
    (chunks 16 fuel l).flatMap (fun b => leBytes 16 (leNat b)) = l ++ List.replicate ((16 - l.length % 16) % 16) 0 := by
  induction fuel generalizing l with
  | zero => rw [List.eq_nil_of_length_eq_zero (Nat.le_zero.mp h)]; rfl
  | succ fuel ih =>
    rw [chunks]
    split
    · next none => rw [List.isEmpty_iff.mp none]; rfl
    · next some =>
      have pos : 0 < l.length := by simpa [List.length_pos_iff] using some
      rw [List.flatMap_cons, ih (by rw [List.length_drop]; omega), leBytes_leNat (List.length_take_le 16 l), List.length_take, List.length_drop]
      rcases Nat.lt_or_ge l.length 16 with short | long
      · rw [List.take_of_length_le short.le, List.drop_eq_nil_of_le short.le]
        have zeros : 16 - min 16 l.length = (16 - l.length % 16) % 16 := by omega
        simp [zeros, Nat.sub_eq_zero_of_le short.le]
      · have zeros : 16 - min 16 l.length = 0 := by omega
        have same : (16 - (l.length - 16) % 16) % 16 = (16 - l.length % 16) % 16 := by omega
        rw [zeros, same, List.replicate_zero, List.append_nil, ← List.append_assoc, List.take_append_drop]

theorem chunk_data {fuel : Nat} {l b : List Byte} (h : b ∈ chunks 16 fuel l) : (BitVec.ofNat 128 (leNat b)).toNat = leNat b := by
  induction fuel generalizing l with
  | zero => cases h
  | succ fuel ih =>
    rw [chunks] at h
    split at h
    · cases h
    · rcases List.mem_cons.mp h with rfl | h
      · have small := lt_of_lt_of_le (leNat_lt (l.take 16)) (Nat.pow_le_pow_right (by decide) (List.length_take_le 16 l))
        rw [BitVec.toNat_ofNat]
        exact Nat.mod_eq_of_lt small
      · exact ih h

/-- The pad of a packet's last slot. -/
def padOf (pk : Packet) : Nat := (16 - pk.payload.length % 16) % 16

/-- The header words of a packet. -/
def header0 (pk : Packet) : Nat :=
  fields [(0, pk.destNode.toNat), (16, pk.srcNode.toNat), (32, pk.destUnit.toNat), (44, pk.srcUnit.toNat), (56, pk.hops.toNat),
    (60, pk.cls.toNat), (61, pk.vc.toNat)]

def header1 (pk : Packet) : Nat :=
  fields [(0, pk.ptype.toNat), (8, payloadSlots pk), (17, b01 pk.last), (18, b01 pk.cum), (19, b01 pk.bcast), (20, pk.btree.toNat),
    (22, padOf pk), (32, pk.tag.toNat), (48, pk.rxn.toNat)]

/-- A slot of a packet. -/
def slotOfPacket (pk : Packet) (start : Bool) (d : Nat) : Slot := { vc := pk.vc, cls := pk.cls, start := start, data := BitVec.ofNat 128 d }

theorem packetSlots_eq (pk : Packet) : packetSlots pk = slotOfPacket pk true (header0 pk + header1 pk * 2 ^ 64) ::
    slotOfPacket pk false (pk.addr.toNat + pk.aux.toNat * 2 ^ 64) :: (chunks 16 pk.payload.length pk.payload).map fun b => slotOfPacket pk false (leNat b) := rfl

theorem packetSlots_length (pk : Packet) : (packetSlots pk).length = 2 + payloadSlots pk := by
  rw [packetSlots_eq, List.length_cons, List.length_cons, List.length_map, chunks_length _ (Nat.le_refl _), payloadSlots]
  omega

theorem header0_lt (pk : Packet) : header0 pk < 2 ^ 64 := by
  have := pk.destNode.isLt
  have := pk.srcNode.isLt
  have := pk.destUnit.isLt
  have := pk.srcUnit.isLt
  have := pk.hops.isLt
  have := pk.cls.isLt
  have := pk.vc.isLt
  simp only [header0, fields]
  omega

theorem padOf_lt (pk : Packet) : padOf pk < 16 := Nat.mod_lt _ (by decide)

theorem payloadSlots_lt {pk : Packet} (h : pk.payload.length ≤ 4096) : payloadSlots pk < 2 ^ 9 := by
  unfold payloadSlots
  omega

theorem getLsbD_words {a b i : Nat} (ha : a < 2 ^ 64) : (BitVec.ofNat 128 (a + b * 2 ^ 64)).getLsbD i =
    (decide (i < 128) && if i < 64 then a.testBit i else b.testBit (i - 64)) := by
  rw [BitVec.getLsbD_ofNat, Nat.add_comm, Nat.mul_comm, Nat.testBit_two_pow_mul_add _ ha]

theorem getLsbD_nfld {v lo n i : Nat} (hi : i < n) : (BitVec.ofNat n (nfld v lo n)).getLsbD i = v.testBit (lo + i) := by
  rw [BitVec.getLsbD_ofNat, nfld, Nat.testBit_mod_two_pow, Nat.testBit_div_two_pow, decide_eq_true hi, Bool.true_and, Bool.true_and, Nat.add_comm]

/-- A field of the low word of a slot. -/
theorem extract_lowWord {a b lo n : Nat} (ha : a < 2 ^ 64) (hn : lo + n ≤ 64) :
    (BitVec.ofNat 128 (a + b * 2 ^ 64)).extractLsb' lo n = BitVec.ofNat n (nfld a lo n) := by
  refine BitVec.eq_of_getLsbD_eq fun i hi => ?_
  rw [BitVec.getLsbD_extractLsb', getLsbD_words ha, getLsbD_nfld hi, decide_eq_true hi, decide_eq_true (show lo + i < 128 by omega),
    if_pos (show lo + i < 64 by omega)]
  rfl

/-- A field of the high word of a slot. -/
theorem extract_highWord {a b lo n : Nat} (ha : a < 2 ^ 64) (h64 : 64 ≤ lo) (hn : lo + n ≤ 128) :
    (BitVec.ofNat 128 (a + b * 2 ^ 64)).extractLsb' lo n = BitVec.ofNat n (nfld b (lo - 64) n) := by
  refine BitVec.eq_of_getLsbD_eq fun i hi => ?_
  rw [BitVec.getLsbD_extractLsb', getLsbD_words ha, getLsbD_nfld hi, decide_eq_true hi, decide_eq_true (show lo + i < 128 by omega),
    if_neg (show ¬ lo + i < 64 by omega), show lo + i - 64 = lo - 64 + i by omega]
  rfl

/-- A bit of the high word of a slot. -/
theorem getLsbD_highWord {a b i : Nat} {v : Bool} (ha : a < 2 ^ 64) (h64 : 64 ≤ i) (hi : i < 128) (hv : nfld b (i - 64) 1 = b01 v) :
    (BitVec.ofNat 128 (a + b * 2 ^ 64)).getLsbD i = v := by
  rw [getLsbD_words ha, decide_eq_true hi, if_neg (by omega), Bool.true_and, Nat.testBit_eq_decide_div_mod_eq]
  rw [nfld, pow_one] at hv
  rw [hv]
  cases v <;> rfl

theorem header0_fields (pk : Packet) : nfld (header0 pk) 0 16 = pk.destNode.toNat ∧ nfld (header0 pk) 16 16 = pk.srcNode.toNat ∧
    nfld (header0 pk) 32 12 = pk.destUnit.toNat ∧ nfld (header0 pk) 44 12 = pk.srcUnit.toNat ∧ nfld (header0 pk) 56 4 = pk.hops.toNat ∧
    nfld (header0 pk) 60 1 = pk.cls.toNat ∧ nfld (header0 pk) 61 3 = pk.vc.toNat := by
  have := pk.destNode.isLt
  have := pk.srcNode.isLt
  have := pk.destUnit.isLt
  have := pk.srcUnit.isLt
  have := pk.hops.isLt
  have := pk.cls.isLt
  have := pk.vc.isLt
  simp only [header0, fields, nfld]
  omega

theorem header1_fields {pk : Packet} (h : pk.payload.length ≤ 4096) : nfld (header1 pk) 0 8 = pk.ptype.toNat ∧
    nfld (header1 pk) 8 9 = payloadSlots pk ∧ nfld (header1 pk) 17 1 = b01 pk.last ∧ nfld (header1 pk) 18 1 = b01 pk.cum ∧
    nfld (header1 pk) 19 1 = b01 pk.bcast ∧ nfld (header1 pk) 20 2 = pk.btree.toNat ∧ nfld (header1 pk) 22 4 = padOf pk ∧
    nfld (header1 pk) 32 16 = pk.tag.toNat ∧ nfld (header1 pk) 48 16 = pk.rxn.toNat := by
  have := pk.ptype.isLt
  have := payloadSlots_lt h
  have := b01_lt pk.last
  have := b01_lt pk.cum
  have := b01_lt pk.bcast
  have := pk.btree.isLt
  have := padOf_lt pk
  have := pk.tag.isLt
  have := pk.rxn.isLt
  simp only [header1, fields, nfld]
  omega

/-- The slots that the first slot of a packet announces. -/
theorem slotLen_header {pk : Packet} (h : pk.payload.length ≤ 4096) :
    slotLen (slotOfPacket pk true (header0 pk + header1 pk * 2 ^ 64)) = 2 + payloadSlots pk := by
  obtain ⟨-, slots, -⟩ := header1_fields h
  rw [slotLen, slotOfPacket, extract_highWord (header0_lt pk) (by decide) (by decide), slots, BitVec.toNat_ofNat,
    Nat.mod_eq_of_lt (payloadSlots_lt h)]

/-- The bytes that the slots after a packet's first two hold. -/
theorem payload_slots (pk : Packet) : ((chunks 16 pk.payload.length pk.payload).map fun b => slotOfPacket pk false (leNat b)).flatMap
    (fun x => leBytes 16 x.data.toNat) = pk.payload ++ List.replicate (padOf pk) 0 := by
  rw [List.flatMap_map]
  refine Eq.trans (List.flatMap_congr fun b hb => ?_) (chunks_flatMap_leBytes _ (Nat.le_refl _))
  exact congrArg (leBytes 16) (chunk_data hb)

theorem packetFrom_packetSlots {pk : Packet} (h : pk.payload.length ≤ 4096) : packetFrom (packetSlots pk) = pk := by
  obtain ⟨destNode, srcNode, destUnit, srcUnit, hops, cls, vc⟩ := header0_fields pk
  obtain ⟨ptype, -, last, cum, bcast, btree, pad, tag, rxn⟩ := header1_fields h
  have zero := header0_lt pk
  have addr : nfld pk.addr.toNat 0 64 = pk.addr.toNat := by
    have := pk.addr.isLt
    rw [nfld, pow_zero, Nat.div_one, Nat.mod_eq_of_lt this]
  have aux : nfld pk.aux.toNat 0 64 = pk.aux.toNat := by
    have := pk.aux.isLt
    rw [nfld, pow_zero, Nat.div_one, Nat.mod_eq_of_lt this]
  rw [packetSlots_eq, packetFrom]
  have low : pk.addr.toNat < 2 ^ 64 := pk.addr.isLt
  have payload : (pk.payload ++ List.replicate (padOf pk) 0).take ((pk.payload ++ List.replicate (padOf pk) 0).length -
      (BitVec.ofNat 4 (padOf pk)).toNat) = pk.payload := by
    rw [List.length_append, List.length_replicate, BitVec.toNat_ofNat, Nat.mod_eq_of_lt (padOf_lt pk), Nat.add_sub_cancel, List.take_left]
  simp only [List.headD_cons, List.drop_succ_cons, List.drop_zero, payload_slots]
  simp (disch := decide) only [slotOfPacket, extract_lowWord zero, extract_highWord zero, extract_lowWord low, extract_highWord low,
    Nat.sub_self, Nat.reduceSub, destNode, srcNode, destUnit, srcUnit, hops, cls, vc, ptype, btree, pad, tag, rxn, addr,
    aux, getLsbD_highWord zero (Nat.le_add_right 64 17) (by decide) last, getLsbD_highWord zero (Nat.le_add_right 64 18) (by decide) cum,
    getLsbD_highWord zero (Nat.le_add_right 64 19) (by decide) bcast, payload, BitVec.ofNat_toNat, BitVec.setWidth_eq]

end Sys2Proof.Machine
end

section
/-! PROOFS. Flits that are accepted, refused and resent (R351, R357 to R363): the statement O30. -/
namespace Sys2Proof.Machine

/-! ## The slots of a flit go into the input buffers (R358, R362) -/

/-- A port without what the slots that come to it change. -/
def besideSlots (k : Port) : Port := { k with owed := [], partials := [], orphan := [] }

/-- From s to t slots have come by port p: its input buffers, the credits it owes, the packets at the switch and one count change. -/
structure SlotsTaken (s t : State) (p : Nat) : Prop where
  frame : t = { s with fab := { s.fab with ports := t.fab.ports, sw := t.fab.sw }, regs := t.regs }
  port  : besideSlots (portOf t p) = besideSlots (portOf s p)
  other : ∀ q, q ≠ p → portOf t q = portOf s q
  regs  : RegsBut s t [.fabDrop 3]

theorem SlotsTaken.refl (s : State) (p : Nat) : SlotsTaken s s p := ⟨rfl, rfl, fun _ _ => rfl, .refl s _⟩

theorem SlotsTaken.after {s t u : State} {p : Nat} (h : SlotsTaken t u p) (g : SlotsTaken s t p) : SlotsTaken s u p where
  frame := by rw [h.frame, g.frame]
  port := h.port.trans g.port
  other q hq := (h.other q hq).trans (g.other q hq)
  regs := h.regs.after g.regs

theorem setPort_slotsTaken {s : State} {p : Nat} {k : Port} (h : besideSlots k = besideSlots (portOf s p)) : SlotsTaken s (setPort s p k) p where
  frame := rfl
  port := by rw [portOf_setPort_same, h]
  other _ hq := portOf_setPort_other _ _ hq
  regs := .refl _ _

theorem rbump_slotsTaken (s : State) (p : Nat) : SlotsTaken s (rbump s (.fabDrop 3) 1) p :=
  ⟨rfl, rfl, fun _ _ => rfl, rbump_regs s 1 (by simp)⟩

/-- The packets at the switch once one more is there. -/
def toSwitch (s : State) (x : InPkt) : State := { s with fab := { s.fab with sw := s.fab.sw ++ [x] } }

theorem toSwitch_slotsTaken (s : State) (x : InPkt) (p : Nat) : SlotsTaken s (toSwitch s x) p := ⟨rfl, rfl, fun _ _ => rfl, .refl s _⟩

/-- The slots that a port holds of the packet of a VC and class. -/
def partialOf (k : Port) (x : Slot) : List Slot := tget (fun _ => []) k.partials (keyOf x.vc x.cls)

/-- The slots of the packet that slot x starts or goes on. -/
def partWith (k : Port) (x : Slot) : List Slot := if x.start then [x] else partialOf k x ++ [x]

/-- A port that owes n more credits of the VC and class of x. -/
def owing (k : Port) (x : Slot) (n : Nat) : Port :=
  { k with owed := tset (fun _ => 0) k.owed (keyOf x.vc x.cls) (tget (fun _ => 0) k.owed (keyOf x.vc x.cls) + n) }

/-- A port that has let go slot x, which no packet has. -/
def orphanPort (k : Port) (x : Slot) : Port := { owing k x 1 with orphan := tset (fun _ => 0) k.orphan (keyOf x.vc x.cls) 1 }

/-- A port that holds the slots l of the packet of x. -/
def holdingPort (k : Port) (x : Slot) (l : List Slot) : Port :=
  { k with orphan := tset (fun _ => 0) k.orphan (keyOf x.vc x.cls) 0, owed := (if x.start then (owing k x (partialOf k x).length).owed else k.owed)
           partials := tset (fun _ => []) k.partials (keyOf x.vc x.cls) l }

section
variable {s : State} {p : Nat} {x : Slot}

/-- A slot of no packet goes, and the first one is counted (R358). -/
theorem takeSlot_orphan (hp : (!x.start) = true ∧ (partialOf (portOf s p) x).isEmpty = true) :
    takeSlot s p x = if tget (fun _ => 0) (portOf s p).orphan (keyOf x.vc x.cls) = 0
      then rbump (setPort s p (orphanPort (portOf s p) x)) (.fabDrop 3) 1 else setPort s p (orphanPort (portOf s p) x) := if_pos hp

/-- A packet whose slots are all there goes to the switch (R363). -/
theorem takeSlot_whole (hp : ¬ ((!x.start) = true ∧ (partialOf (portOf s p) x).isEmpty = true))
    (hl : slotLen ((partWith (portOf s p) x).headD x) ≤ (partWith (portOf s p) x).length) :
    takeSlot s p x = toSwitch (setPort s p (holdingPort (portOf s p) x [])) { pkt := packetFrom (partWith (portOf s p) x), port := some p } :=
  (if_neg hp).trans (if_pos hl)

/-- A packet whose slots are not all there waits for them. -/
theorem takeSlot_part (hp : ¬ ((!x.start) = true ∧ (partialOf (portOf s p) x).isEmpty = true))
    (hl : ¬ slotLen ((partWith (portOf s p) x).headD x) ≤ (partWith (portOf s p) x).length) :
    takeSlot s p x = setPort s p (holdingPort (portOf s p) x (partWith (portOf s p) x)) :=
  (if_neg hp).trans (if_neg hl)

end

theorem takeSlot_slotsTaken (s : State) (p : Nat) (x : Slot) : SlotsTaken s (takeSlot s p x) p := by
  by_cases hp : (!x.start) = true ∧ (partialOf (portOf s p) x).isEmpty = true
  · rw [takeSlot_orphan hp]
    split
    · exact (rbump_slotsTaken _ p).after (setPort_slotsTaken rfl)
    · exact setPort_slotsTaken rfl
  · by_cases hl : slotLen ((partWith (portOf s p) x).headD x) ≤ (partWith (portOf s p) x).length
    · rw [takeSlot_whole hp hl]
      exact (toSwitch_slotsTaken _ _ p).after (setPort_slotsTaken rfl)
    · rw [takeSlot_part hp hl]
      exact setPort_slotsTaken rfl

/-- The slots of a flit go into the input buffers of port p. -/
def takeSlots (s : State) (p : Nat) (l : List Slot) : State := l.foldl (fun s x => takeSlot s p x) s

theorem takeSlots_cons (s : State) (p : Nat) (x : Slot) (l : List Slot) : takeSlots s p (x :: l) = takeSlots (takeSlot s p x) p l := rfl

theorem takeSlots_slotsTaken (p : Nat) (l : List Slot) (s : State) : SlotsTaken s (takeSlots s p l) p := by
  induction l generalizing s with
  | nil => exact .refl s p
  | cons x l ih => exact (ih _).after (takeSlot_slotsTaken s p x)

/-! ## A packet whose slots have all come (R363) -/

theorem partialOf_holdingPort (k : Port) (x y : Slot) (l : List Slot) (h : keyOf y.vc y.cls = keyOf x.vc x.cls) :
    partialOf (holdingPort k x l) y = l := by
  rw [partialOf, h, holdingPort, tget_tset, if_pos rfl]

/-- The rest of a packet's slots completes it: it goes to the switch. -/
theorem takeSlots_completes {p : Nat} {x0 : Slot} (l : List Slot) {s : State} {held : List Slot} (hh : partialOf (portOf s p) x0 = x0 :: held)
    (hx : ∀ x ∈ l, x.start = false ∧ x.vc = x0.vc ∧ x.cls = x0.cls) (hl : l ≠ []) (hn : slotLen x0 = (x0 :: held).length + l.length) :
    (takeSlots s p l).fab.sw = s.fab.sw ++ [{ pkt := packetFrom (x0 :: held ++ l), port := some p }] := by
  induction l generalizing s held with
  | nil => exact absurd rfl hl
  | cons x l ih =>
    obtain ⟨start, vc, cls⟩ := hx x (by simp)
    have key : keyOf x.vc x.cls = keyOf x0.vc x0.cls := by rw [vc, cls]
    have had : partialOf (portOf s p) x = x0 :: held := by rw [← hh, partialOf, key, ← partialOf]
    have parts : partWith (portOf s p) x = x0 :: (held ++ [x]) := by rw [partWith, start, had]; rfl
    have goesOn : ¬ ((!x.start) = true ∧ (partialOf (portOf s p) x).isEmpty = true) := by rw [had]; simp
    rw [takeSlots_cons]
    by_cases more : l = []
    · subst more
      rw [takeSlot_whole goesOn (by rw [parts, List.headD_cons, hn]; simp), parts]
      rfl
    · rw [takeSlot_part goesOn (by
        have pos := List.length_pos_iff.mpr more
        rw [parts, List.headD_cons, hn]
        simp
        omega)]
      have rest := ih (s := setPort s p (holdingPort (portOf s p) x (partWith (portOf s p) x))) (held := held ++ [x])
        (by rw [portOf_setPort_same, partialOf_holdingPort _ _ _ _ key.symm, parts]) (fun y hy => hx y (by simp [hy])) more (by simp [hn]; omega)
      rw [rest, show x0 :: (held ++ [x]) ++ l = x0 :: held ++ x :: l by simp]
      rfl

/-- The first slot of a packet starts it anew, whatever was held of another. -/
theorem takeSlot_starts {s : State} {p : Nat} {x : Slot} (hx : x.start = true) (hl : 1 < slotLen x) :
    takeSlot s p x = setPort s p (holdingPort (portOf s p) x [x]) := by
  have parts : partWith (portOf s p) x = [x] := if_pos hx
  have part := takeSlot_part (s := s) (p := p) (x := x) (by simp [hx]) (by rw [parts]; simpa using hl)
  rwa [parts] at part

/-- What every slot of a packet says of it. -/
theorem slotOfPacket_key (pk : Packet) (start : Bool) (d : Nat) :
    (slotOfPacket pk start d).start = start ∧ (slotOfPacket pk start d).vc = pk.vc ∧ (slotOfPacket pk start d).cls = pk.cls := ⟨rfl, rfl, rfl⟩

/-- The slots of a whole packet bring it to the switch. -/
theorem takeSlots_whole {s : State} {p : Nat} {x0 : Slot} {l : List Slot} (h0 : x0.start = true) (hl : l ≠ [])
    (hx : ∀ x ∈ l, x.start = false ∧ x.vc = x0.vc ∧ x.cls = x0.cls) (hn : slotLen x0 = (x0 :: l).length) :
    (takeSlots s p (x0 :: l)).fab.sw = s.fab.sw ++ [{ pkt := packetFrom (x0 :: l), port := some p }] := by
  have pos := List.length_pos_iff.mpr hl
  rw [List.length_cons] at hn
  rw [takeSlots_cons, takeSlot_starts h0 (by omega)]
  refine (takeSlots_completes l (held := []) ?_ hx hl (by rw [hn]; exact Nat.add_comm _ _)).trans rfl
  rw [portOf_setPort_same, partialOf_holdingPort _ _ _ _ rfl]

theorem takeSlots_packetSlots (s : State) (p : Nat) {pk : Packet} (h : pk.payload.length ≤ 4096) :
    (takeSlots s p (packetSlots pk)).fab.sw = s.fab.sw ++ [{ pkt := pk, port := some p }] := by
  have whole := packetFrom_packetSlots h
  have count := packetSlots_length pk
  rw [← slotLen_header h] at count
  rw [packetSlots_eq] at whole count ⊢
  obtain ⟨start, vc, cls⟩ := slotOfPacket_key pk true (header0 pk + header1 pk * 2 ^ 64)
  rw [takeSlots_whole start (List.cons_ne_nil _ _) (fun x hx => ?_) count.symm, whole]
  rw [vc, cls]
  rcases List.mem_cons.mp hx with rfl | hx
  · exact slotOfPacket_key _ _ _
  · obtain ⟨b, -, rfl⟩ := List.mem_map.mp hx
    exact slotOfPacket_key _ _ _

/-! ## A flit is accepted (R357 to R361) -/

theorem freeAcked_keeps (k : Port) (ack : BitVec 12) (now : Nat) : (freeAcked k ack now).st = k.st ∧ (freeAcked k ack now).rxNext = k.rxNext := by
  unfold freeAcked
  split
  · exact ⟨rfl, rfl⟩
  · dsimp only
    split <;> exact ⟨rfl, rfl⟩

/-- A port that has taken the acknowledgement, the NAK and the lane status of a flit. -/
def ackedPort (k : Port) (f : Flit) (now : Nat) : Port :=
  { takeAux (freeAcked k f.ackSeq now) f.aux with nakSeen := (takeAux (freeAcked k f.ackSeq now) f.aux).nakSeen || f.nak }

theorem ackedPort_keeps (k : Port) (f : Flit) (now : Nat) : (ackedPort k f now).st = k.st ∧ (ackedPort k f now).rxNext = k.rxNext :=
  freeAcked_keeps k f.ackSeq now

/-- A port that has accepted a data flit. -/
def acceptedPort (k : Port) (f : Flit) (now : Nat) : Port :=
  { ackedPort k f now with used := takeCreds (ackedPort k f now).used f.creds, rxNext := (ackedPort k f now).rxNext + 1, nakSent := false }

/-- The state once the slots of an accepted data flit are in the input buffers. -/
def flitTaken (s : State) (p : Nat) (f : Flit) : State :=
  takeSlots (rbump (setPort s p (acceptedPort (portOf s p) f s.localNs)) (.fabPortCtr p 1) 1) p f.slots

/-- A data flit that is the next is taken, then the output drains, and an idle flit acknowledges where nothing else does (R359, R361). -/
theorem flitGood_next {s : State} {p : Nat} {f : Flit} (hk : f.kind = 0) (hn : f.fseq = (portOf s p).rxNext) :
    flitGood s p f = if (drainPort (flitTaken s p f) p).fab.wire.length = (flitTaken s p f).fab.wire.length
      then sendIdle (drainPort (flitTaken s p f) p) p false none else drainPort (flitTaken s p f) p := by
  have next : ¬ f.fseq ≠ (ackedPort (portOf s p) f s.localNs).rxNext := by rw [(ackedPort_keeps _ _ _).2]; exact fun h => h hn
  exact (if_neg (by rw [hk]; decide)).trans ((if_neg (by rw [hk]; decide)).trans (if_neg next))

/-- What accepting the next data flit does. -/
structure FlitAccepted (s t : State) (p : Nat) (f : Flit) : Prop where
  next  : (portOf t p).rxNext = (portOf s p).rxNext + 1
  st    : (portOf t p).st = (portOf s p).st
  count : rget t (.fabPortCtr p 1) = rget s (.fabPortCtr p 1) + 1
  regs  : RegsBut s t [.fabPortCtr p 0, .fabPortCtr p 1, .fabDrop 3]
  other : ∀ q, q ≠ p → portOf t q = { portOf s q with owed := (portOf t q).owed }
  frame : t = { s with fab := t.fab, regs := t.regs }
  sw    : t.fab.sw = (flitTaken s p f).fab.sw

theorem fabDrop_ne_fabPortCtr (i p j : Nat) (hi : i < 7) : regOffset (.fabPortCtr p j) ≠ regOffset (.fabDrop i) := by
  simp only [regOffset]; omega

/-- Taking a flit, beside the packets it completes. -/
theorem flitTaken_accepted (s : State) (p : Nat) (f : Flit) : FlitAccepted s (flitTaken s p f) p f := by
  have taken := takeSlots_slotsTaken p f.slots (rbump (setPort s p (acceptedPort (portOf s p) f s.localNs)) (.fabPortCtr p 1) 1)
  rw [← flitTaken] at taken
  obtain ⟨st, rx⟩ := ackedPort_keeps (portOf s p) f s.localNs
  have port := taken.port
  rw [portOf_rbump, portOf_setPort_same] at port
  refine ⟨?_, (congrArg Port.st port).trans st, ?_, ?_, fun q hq => ?_, ?_, rfl⟩
  · rw [← rx]; exact congrArg Port.rxNext port
  · rw [taken.regs _ fun x hx => by rw [List.mem_singleton.mp hx]; exact fabDrop_ne_fabPortCtr 3 p 1 (by decide), rget_rbump_same]; rfl
  · exact (taken.regs.mono (by simp)).after ((rbump_regs _ 1 (by simp)).after (.refl _ _))
  · rw [taken.other q hq, portOf_rbump, portOf_setPort_other _ _ hq]
  · rw [taken.frame]; rfl

/-- Sending afterwards keeps what accepting a flit has done. -/
theorem FlitAccepted.sent {s t u : State} {p : Nat} {f : Flit} (h : FlitAccepted s t p f) (g : PortSent t u p) : FlitAccepted s u p f where
  next := (g.keeps Port.rxNext fun _ => rfl).trans h.next
  st := (g.keeps Port.st fun _ => rfl).trans h.st
  count := (g.regs _ fun x hx => by rw [List.mem_singleton.mp hx]; exact fabPortCtr_ne (by decide)).trans h.count
  regs := (g.regs.mono (by simp)).after h.regs
  other q hq := by rw [g.other q hq, h.other q hq]
  frame := by rw [g.frame, h.frame]
  sw := by rw [g.frame, ← h.sw]

theorem flitGood_accepted {s : State} {p : Nat} {f : Flit} (hk : f.kind = 0) (hn : f.fseq = (portOf s p).rxNext) :
    FlitAccepted s (flitGood s p f) p f := by
  have drained := (flitTaken_accepted s p f).sent (drainPort_portSent _ _)
  rw [flitGood_next hk hn]
  split
  · exact drained.sent ((sendIdle_creditsOnly _ p false none).portSent p)
  · exact drained

/-! ## Flits that come (R351, R358, R361) -/

section
variable {s : State} {port : Fin 24} {on : List (BitVec 4)} {data : List (List Byte)}

theorem exec_flitReceive_good {f : Flit} (ha : (portOf s port.val).st = .active) (hf : flitIn (portOf s port.val) (on.zip data) [] = some f) :
    exec (.flitReceive port on data [] []) s = .next (flitGood s port.val f) := by
  show execFlitReceive port on data [] [] s = _
  unfold execFlitReceive
  rw [if_neg fun h => h ha]
  simp only [List.append_nil, hf, List.foldl_nil]

/-- A flit that is refused is answered by one NAK, after its codewords are counted. -/
theorem exec_flitReceive_bad {first again : List (BitVec 4 × BitVec 10)} (ha : (portOf s port.val).st = .active)
    (hf : flitIn (portOf s port.val) (on.zip data) (first ++ again) = none) :
    exec (.flitReceive port on data first again) s = .next (nakOnce (first.foldl (fun s x => noteCodeword s port.val x) s) port.val) := by
  show execFlitReceive port on data first again s = _
  unfold execFlitReceive
  rw [if_neg fun h => h ha]
  simp only [hf]

end

theorem nakOnce_seen {s : State} {p : Nat} (h : (portOf s p).nakSent = true) : nakOnce s p = s := if_pos h

/-- The state before a NAK goes out. -/
def nakNoted (s : State) (p : Nat) : State := rbump (setPort s p { portOf s p with nakSent := true }) (.fabPortCtr p 2) 1

theorem nakOnce_first {s : State} {p : Nat} (h : (portOf s p).nakSent = false) : nakOnce s p = sendIdle (nakNoted s p) p true none :=
  if_neg (by rw [h]; decide)

/-- What the first NAK for the flits it refuses does. -/
theorem nakOnce_effect {s : State} {p : Nat} (h : (portOf s p).nakSent = false) :
    ∃ t, nakOnce s p = t ∧ t.fab.wire = s.fab.wire ++ [(p, laneBytes (portOf s p) (idleFlit { portOf s p with nakSent := true } true none))] ∧
      (portOf t p).nakSent = true ∧ (portOf t p).rxNext = (portOf s p).rxNext ∧ t.fab.sw = s.fab.sw ∧
      rget t (.fabPortCtr p 2) = rget s (.fabPortCtr p 2) + 1 ∧ RegsBut s t [.fabPortCtr p 2] := by
  have idle := sendIdle_creditsOnly (nakNoted s p) p true none
  have wire := sendIdle_wire (nakNoted s p) p true none
  have noted : portOf (nakNoted s p) p = { portOf s p with nakSent := true } := portOf_setPort_same _ _ _
  have port := idle.port
  have regs : RegsBut s (nakNoted s p) [.fabPortCtr p 2] := (rbump_regs _ 1 (by simp)).after (.refl _ _)
  rw [noted] at wire port
  refine ⟨_, nakOnce_first h, wire, congrArg Port.nakSent port, (congrArg Port.rxNext port :), by rw [idle.frame]; rfl, ?_, ?_⟩
  · rw [idle.rget, nakNoted, rget_rbump_same]; rfl
  · exact (regsBut_of_regs (by rw [idle.frame]) _).after regs

/-- A codeword with more than 15 bad symbols makes every flit it touches bad (R351). -/
theorem flitIn_badCodeword {k : Port} {lanes : List (BitVec 4 × List Byte)} {x : BitVec 4 × BitVec 10} (hx : 15 < x.2.toNat) :
    flitIn k lanes [x] = none := if_neg (by simp [codewordGood, hx])

theorem noteCodeword_bad {s : State} {p : Nat} {x : BitVec 4 × BitVec 10} (hx : 15 < x.2.toNat) : noteCodeword s p x = rbump s (.fabPortCtr p 5) 1 :=
  if_neg (by simp [codewordGood, hx])

/-! ## Flits that are resent (R361) -/

section
variable {s : State} {port : Fin 24}

/-- A port that resends once more. -/
def resendingPort (k : Port) (now : Nat) : Port := { k with nakSeen := false, resends := k.resends + 1, ackNs := now }

theorem flitReplay_due (ha : (portOf s port.val).st = .active) (hr : (portOf s port.val).replay ≠ [])
    (hn : (portOf s port.val).nakSeen = true ∨ (portOf s port.val).ackNs + 2000 ≤ s.localNs) :
    (portOf s port.val).st = .active ∧ (!(portOf s port.val).replay.isEmpty) = true ∧
      ((portOf s port.val).nakSeen = true ∨ (portOf s port.val).ackNs + 2000 ≤ s.localNs) :=
  ⟨ha, by simpa using hr, hn⟩

theorem exec_flitReplay_resends (ha : (portOf s port.val).st = .active) (hr : (portOf s port.val).replay ≠ [])
    (hn : (portOf s port.val).nakSeen = true ∨ (portOf s port.val).ackNs + 2000 ≤ s.localNs)
    (hl : (portOf s port.val).resends < max 1 (rfld s (.fabPortCtrl port.val) 8 8)) :
    exec (.flitReplay port) s = .next (resendAll (setPort s port.val (resendingPort (portOf s port.val) s.localNs)) port.val) :=
  (if_pos (flitReplay_due ha hr hn)).trans (if_neg (Nat.not_le_of_lt hl))

theorem exec_flitReplay_recovers (ha : (portOf s port.val).st = .active) (hr : (portOf s port.val).replay ≠ [])
    (hn : (portOf s port.val).nakSeen = true ∨ (portOf s port.val).ackNs + 2000 ≤ s.localNs)
    (hl : max 1 (rfld s (.fabPortCtrl port.val) 8 8) ≤ (portOf s port.val).resends) :
    exec (.flitReplay port) s = .next (enterRecovery s port.val) :=
  (if_pos (flitReplay_due ha hr hn)).trans (if_pos hl)

end

/-- Settles O30: a flit that comes and a resend are the equations of their cases, and the bytes of flits, packets and lanes are read back
as they were written. -/
theorem flitRetry : Obligations.FlitRetry := by
  unfold Obligations.FlitRetry
  refine ⟨?_, fun f hc hl hs => parseFlit_flitBytes hc hl hs, fun w bs hw hl => ?_, fun pk h => packetFrom_packetSlots h⟩
  · intro s port on data f x pk p k limit lanes ha
    refine ⟨fun hf hk hn => ?_, fun hf hn => ?_, fun hf hn => ?_, fun hx hn => ⟨?_, ?_⟩, fun hr hn => ⟨fun hl => ?_, fun hl => ?_⟩⟩
    · obtain ⟨next, st, count, regs, other, frame, sw⟩ := flitGood_accepted hk hn
      refine ⟨_, exec_flitReceive_good ha hf, next, st.trans ha, count, regs, other, frame, fun hslots hp => ?_⟩
      rw [sw, flitTaken, hslots, takeSlots_packetSlots _ _ hp]
      rfl
    · obtain ⟨t, sent, wire, seen, next, sw, count, regs⟩ := nakOnce_effect hn
      refine ⟨t, _, ?_, wire, rfl, rfl, rfl, seen, next, sw, count, regs⟩
      rw [exec_flitReceive_bad ha hf, List.foldl_nil, ← sent]
    · rw [exec_flitReceive_bad ha hf, List.foldl_nil, nakOnce_seen hn]
    · rw [exec_flitReceive_bad ha (flitIn_badCodeword hx), List.foldl_nil, nakOnce_seen hn]
    · refine ⟨rbump s (.fabPortCtr p 5) 1, ?_, rfl, rget_rbump_same _ _ 1, rbump_regs s 1 (by simp)⟩
      rw [exec_flitReceive_bad ha (flitIn_badCodeword hx), List.foldl_cons, List.foldl_nil, noteCodeword_bad hx]
      exact congrArg _ (nakOnce_seen hn)
    · have again := resendAll_resent (setPort s p (resendingPort k s.localNs)) p
      have ports := again.ports p
      have wire := again.wire
      have count := again.count
      rw [portOf_setPort_same] at ports wire count
      exact ⟨_, exec_flitReplay_resends ha hr hn hl, wire, ports, count, again.regs.after (.refl _ _)⟩
    · have entered := portOf_enterRecovery s p
      refine ⟨_, exec_flitReplay_recovers ha hr hn hl, ?_, rget_enterRecovery s p, (enterRecovery_portOnly s p).2.1, rfl⟩
      rw [entered]
  · rcases hw with rfl | rfl | rfl <;> exact unstripe_stripe (by decide) hl

end Sys2Proof.Machine
end

section
/-! PROOFS. The switch delivers, forwards, copies or drops a packet (R360, R373 to R377, R401): the statement O31. -/
namespace Sys2Proof.Machine

/-! ## Packets that leave the switch -/

/-- The state once the n-th packet is no longer at the switch. -/
def pastSwitch (s : State) (n : Nat) : State := { s with fab := { s.fab with sw := dropNth n s.fab.sw } }

theorem leaveInput_none (s : State) {x : InPkt} (h : x.port = none) : leaveInput s x = s := by rw [leaveInput, h]

theorem leaveInput_some (s : State) {x : InPkt} {q : Nat} (h : x.port = some q) :
    leaveInput s x = oweSlots s q (keyOf x.pkt.vc x.pkt.cls) (2 + payloadSlots x.pkt) := by rw [leaveInput, h]

theorem leaveInput_creditsOnly (s : State) {x : InPkt} {q : Nat} (h : x.port = some q) : CreditsOnly s (leaveInput s x) q := by
  rw [leaveInput_some s h]
  exact oweSlots_creditsOnly _ _ _ _

/-- A port that is not ACTIVE keeps the credits it owes (R360). -/
theorem oweSlots_inactive {s : State} {p : Nat} (h : (portOf s p).st ≠ .active) (key n : Nat) :
    oweSlots s p key n = setPort s p { portOf s p with owed := tset (fun _ => 0) (portOf s p).owed key (tget (fun _ => 0) (portOf s p).owed key + n) } :=
  returnCredits_inactive (by rw [portOf_setPort_same]; exact h) 128

/-! ## Waits for credits (R375) -/

/-- The waits of the keys l noted at a time: those that begin and those that are over. -/
def noteKeys (k : Port) (now : Nat) (l : List Nat) (t : Table Nat) : Table Nat :=
  l.foldl (fun t key => tset (fun _ => 0) t key
    (if !waitsCredit k key then 0 else if tget (fun _ => 0) t key = 0 then now + 1 else tget (fun _ => 0) t key)) t

theorem noteWaits_eq_noteKeys (s : State) (p : Nat) :
    noteWaits s p = setPort s p { portOf s p with curNs := noteKeys (portOf s p) s.localNs (upto 0 16) (portOf s p).curNs } := rfl

theorem noteKeys_none {k : Port} (hk : ∀ key, waitsCredit k key = false) (now : Nat) (l : List Nat) (t : Table Nat) (key : Nat) :
    tget (fun _ => 0) (noteKeys k now l t) key = if key ∈ l then 0 else tget (fun _ => 0) t key := by
  unfold noteKeys
  induction l generalizing t with
  | nil => rfl
  | cons a l ih =>
    rw [List.foldl_cons, ih, hk a, tget_tset]
    by_cases h : key = a <;> simp [h]

/-- No key of a port waits for a credit. -/
def NoWaits (t : Table Nat) : Prop := ∀ key, key < 16 → tget (fun _ => 0) t key = 0

theorem noteWaits_none {s : State} {p : Nat} (h : ∀ key, waitsCredit (portOf s p) key = false) :
    ∃ w, NoWaits w ∧ noteWaits s p = setPort s p { portOf s p with curNs := w } :=
  ⟨_, fun key hk => by rw [noteKeys_none h, if_pos (mem_upto.mpr ⟨Nat.zero_le _, by omega⟩)], noteWaits_eq_noteKeys s p⟩

theorem waitsCredit_inactive {k : Port} (h : k.st ≠ .active) (key : Nat) : waitsCredit k key = false := by simp [waitsCredit, h]

theorem sendFlits_inactive {s : State} {p : Nat} (h : (portOf s p).st ≠ .active) (fuel : Nat) : sendFlits p fuel s = s := by
  cases fuel with
  | zero => rfl
  | succ fuel => rw [sendFlits]; exact if_pos (Or.inl h)

/-- A port that is not ACTIVE holds what its output is given. -/
theorem drainPort_inactive {s : State} {p : Nat} (h : (portOf s p).st ≠ .active) :
    ∃ w, NoWaits w ∧ drainPort s p = setPort s p { portOf s p with curNs := w } := by
  rw [drainPort, sendFlits_inactive h, returnCredits_inactive h]
  exact noteWaits_none (waitsCredit_inactive h)

/-- A packet as the output of port p holds it (R374, R375). -/
def outputOf (s : State) (x : InPkt) (dateline held : Bool) : OutPkt :=
  { pkt := { x.pkt with hops := x.pkt.hops - 1, cls := if dateline then 1 else x.pkt.cls }, sinceNs := s.localNs, inp := inputOf x
    inCls := x.pkt.cls, held := held && x.port.isSome }

/-- A broadcast that the package starts is held in no input buffer. -/
theorem outputOf_starts (s : State) {x : InPkt} (hp : x.port = none) (held : Bool) :
    outputOf s x false held = { pkt := { x.pkt with hops := x.pkt.hops - 1 }, sinceNs := s.localNs, inp := inputOf x, inCls := x.pkt.cls } := by
  simp [outputOf, hp]

/-- A port whose output holds one more packet. -/
def queuedPort (k : Port) (o : OutPkt) : Port := { k with outq := k.outq ++ [o] }

theorem toOutput_eq (s : State) (x : InPkt) (p : Nat) (dateline held : Bool) :
    toOutput s x p dateline held = drainPort (setPort s p (queuedPort (portOf s p) (outputOf s x dateline held))) p := rfl

theorem toOutput_inactive {s : State} {p : Nat} (h : (portOf s p).st ≠ .active) (x : InPkt) (dateline held : Bool) :
    ∃ w, NoWaits w ∧
      toOutput s x p dateline held = setPort s p { queuedPort (portOf s p) (outputOf s x dateline held) with curNs := w } := by
  have queued := portOf_setPort_same s p (queuedPort (portOf s p) (outputOf s x dateline held))
  obtain ⟨w, none, drained⟩ := drainPort_inactive (s := setPort s p (queuedPort (portOf s p) (outputOf s x dateline held))) (p := p)
    (by rw [queued]; exact h)
  refine ⟨w, none, ?_⟩
  rw [toOutput_eq, drained, setPort_setPort, queued]

/-! ## One packet for one output (R373 to R376) -/

section
variable {s : State} {n : Nat} {x : InPkt} (hx : s.fab.sw[n]? = some x) (hb : x.pkt.bcast = false)
  (ho : overtakes (routeStrict s x) s.fab.sw n x = false) (hf : fabHeld s x = false)
include hx hb ho hf

theorem exec_packetForward_unknown (hk : knownType x.pkt.ptype = false) :
    exec (.packetForward n) s = .next (dropCount (leaveInput (pastSwitch s n) x) 6) := by
  show execPacketForward n s = _
  unfold execPacketForward
  simp only [hx, hb, ho, hf, hk]
  rfl

theorem exec_packetForward_delivers (hk : knownType x.pkt.ptype = true) (hd : x.pkt.destNode = ownNode s ∨ toCumulus s x = true)
    (hs : toCumulus s x = true ∨ x.pkt.destUnit = 0xFFF ∨ dieServes s (dieOfUnit x.pkt.destUnit) = true) :
    exec (.packetForward n) s = .next (toArrived (pastSwitch s n) x) := by
  have served : (decide (x.pkt.destUnit ≠ 0xFFF) && !(x.pkt.cum && decide (x.pkt.ptype = ptChunk) && (claimOf s x.pkt.tag).isSome) &&
      !dieServes s (dieOfUnit x.pkt.destUnit)) = false := by
    rcases hs with h | h | h
    · unfold toCumulus at h
      simp only [Bool.and_eq_true] at h
      obtain ⟨⟨⟨-, cum⟩, chunk⟩, claim⟩ := h
      rw [cum, chunk, claim]
      simp
    · simp [h]
    · simp [h]
  show execPacketForward n s = _
  unfold execPacketForward
  simp only [hx]
  rw [if_neg (by rw [hb, ho, hf]; decide), if_neg (by rw [hk]; decide)]
  exact (if_pos hd).trans (if_neg (by rw [← Bool.not_eq_true] at served; exact served))

theorem exec_packetForward_elsewhere (hk : knownType x.pkt.ptype = true) (hd : x.pkt.destNode ≠ ownNode s) (hc : toCumulus s x = false) :
    exec (.packetForward n) s = if x.port.isSome ∧ x.pkt.hops = 0 then .next (dropCount (leaveInput (pastSwitch s n) x) 1)
      else match routeOf s x.pkt with
        | some p => .next (toOutput (pastSwitch s n) x p (rbit s (.fabRoute x.pkt.destNode.toNat) (24 + p)) true)
        | none =>
          let t := dropCount (leaveInput (pastSwitch s n) x) 0
          let back := decide (x.pkt.srcNode = ownNode t) || !(routePorts t x.pkt.srcNode).isEmpty
          .next (if isRequest x.pkt.ptype && back then respond t x.pkt .fabNoRoute 0 else t) := by
  show execPacketForward n s = _
  unfold execPacketForward
  simp only [hx]
  rw [if_neg (by rw [hb, ho, hf]; decide), if_neg (by rw [hk]; decide)]
  have elsewhere : ¬ (x.pkt.destNode = ownNode (pastSwitch s n) ∨ toCumulus (pastSwitch s n) x = true) := by
    rintro (h | h)
    · exact hd h
    · have known : toCumulus s x = true := h
      rw [hc] at known
      cases known
  exact if_neg elsewhere

theorem exec_packetForward_noHop (hk : knownType x.pkt.ptype = true) (hd : x.pkt.destNode ≠ ownNode s) (hc : toCumulus s x = false)
    (hp : x.port.isSome = true) (hh : x.pkt.hops = 0) : exec (.packetForward n) s = .next (dropCount (leaveInput (pastSwitch s n) x) 1) := by
  rw [exec_packetForward_elsewhere hx hb ho hf hk hd hc, if_pos ⟨hp, hh⟩]

theorem exec_packetForward_noRoute (hk : knownType x.pkt.ptype = true) (hd : x.pkt.destNode ≠ ownNode s) (hc : toCumulus s x = false)
    (hp : x.port = none ∨ x.pkt.hops ≠ 0) (hr : routeOf s x.pkt = none) (hq : isRequest x.pkt.ptype = false) :
    exec (.packetForward n) s = .next (dropCount (leaveInput (pastSwitch s n) x) 0) := by
  rw [exec_packetForward_elsewhere hx hb ho hf hk hd hc, if_neg (by rintro ⟨a, b⟩; rcases hp with h | h <;> simp_all), hr]
  simp only [hq, Bool.false_and]
  rfl

theorem exec_packetForward_routes {p : Nat} (hk : knownType x.pkt.ptype = true) (hd : x.pkt.destNode ≠ ownNode s) (hc : toCumulus s x = false)
    (hp : x.port = none ∨ x.pkt.hops ≠ 0) (hr : routeOf s x.pkt = some p) :
    exec (.packetForward n) s = .next (toOutput (pastSwitch s n) x p (rbit s (.fabRoute x.pkt.destNode.toNat) (24 + p)) true) := by
  rw [exec_packetForward_elsewhere hx hb ho hf hk hd hc, if_neg (by rintro ⟨a, b⟩; rcases hp with h | h <;> simp_all), hr]

end

/-! ## A broadcast (R377) -/

/-- The outputs of a broadcast: those of its tree but the one it came by. -/
def copiesOf (s : State) (x : InPkt) : List Nat :=
  (upto 0 24).filter fun p => rbit s (.fabBcast x.pkt.btree.toNat) (32 + p) && decide (x.port ≠ some p)

section
variable {s : State} {n : Nat} {x : InPkt} (hx : s.fab.sw[n]? = some x) (hb : x.pkt.bcast = true) (hk : knownType x.pkt.ptype = true)
  (ho : overtakes true s.fab.sw n x = false)
include hx hb hk ho

theorem exec_broadcastForward_known : exec (.broadcastForward n) s =
    let inside := match x.port with | some p => rbit s (.fabBcast x.pkt.btree.toNat) p | none => true
    if !inside then .next (dropCount (leaveInput (pastSwitch s n) x) 4)
    else
      let here := x.port.isSome && rbit s (.fabBcast x.pkt.btree.toNat) 56
      let sends := (copiesOf s x).filter fun p => portUsable (portOf s p)
      let ends := decide (x.port.isSome ∧ x.pkt.hops = 0)
      let t := if here then toArrived (pastSwitch s n) x
        else if ends || sends.isEmpty then leaveInput (pastSwitch s n) x else pastSwitch s n
      if ends then .next (if (copiesOf s x).isEmpty then t else dropCount t 1)
      else .next ((copiesOf s x).foldl (fun s p => toOutput s x p false (!here && decide (sends.getLast? = some p))) t) := by
  show execBroadcastForward n s = _
  unfold execBroadcastForward
  simp only [hx]
  rw [if_neg (by rw [hb, ho]; decide), if_neg (by rw [hk]; decide)]
  rfl

/-- A broadcast that the package starts goes to the outputs of its tree. -/
theorem exec_broadcastForward_starts {p : Nat} (hp : x.port = none) (hc : copiesOf s x = [p]) :
    ∃ held, exec (.broadcastForward n) s = .next (toOutput (pastSwitch s n) x p false held) := by
  refine ⟨decide (([p].filter fun p => portUsable (portOf s p)).getLast? = some p), ?_⟩
  rw [exec_broadcastForward_known hx hb hk ho, hc, hp]
  simp [leaveInput_none _ hp]

theorem exec_broadcastForward_outside {q : Nat} (hp : x.port = some q) (hi : rbit s (.fabBcast x.pkt.btree.toNat) q = false) :
    exec (.broadcastForward n) s = .next (dropCount (leaveInput (pastSwitch s n) x) 4) := by
  rw [exec_broadcastForward_known hx hb hk ho, hp]
  exact if_pos (congrArg (!·) hi)

theorem exec_broadcastForward_leaf {q : Nat} (hp : x.port = some q) (hi : rbit s (.fabBcast x.pkt.btree.toNat) q = true)
    (hl : rbit s (.fabBcast x.pkt.btree.toNat) 56 = true) (hc : copiesOf s x = []) :
    exec (.broadcastForward n) s = .next (toArrived (pastSwitch s n) x) := by
  rw [exec_broadcastForward_known hx hb hk ho, hc, hp]
  simp [hi, hl]

end

/-! ## A packet that waits too long for credits (R375) -/

theorem keyOf_lt (vc : BitVec 3) (cls : BitVec 1) : keyOf vc cls < 16 := by
  have := vc.isLt
  have := cls.isLt
  unfold keyOf
  omega

/-- The one packet of an output is the next of its VC and class. -/
theorem nextPacket_one {k : Port} {o : OutPkt} (h : k.outq = [o]) (key : Nat) :
    nextPacket k key = if keyOf o.pkt.vc o.pkt.cls = key then some o else none := by
  unfold nextPacket
  rw [h]
  by_cases hk : keyOf o.pkt.vc o.pkt.cls = key <;> simp [hk, lowest]

theorem nextPacket_none {k : Port} (h : k.outq = []) (key : Nat) : nextPacket k key = none := by
  unfold nextPacket
  rw [h]
  rfl

/-- A port with nothing to send waits for no credit. -/
theorem waitsCredit_empty {k : Port} (hc : k.cur = []) (ho : k.outq = []) (key : Nat) : waitsCredit k key = false := by
  rw [waitsCredit, nextPacket_none ho, hc]
  simp [tget]

/-- A search finds what the one element that passes a test gives. -/
theorem findSome?_filter_one {α β : Type} {l : List α} {p : α → Bool} {f : α → Option β} {a : α} {b : β} (ha : a ∈ l) (hp : p a = true)
    (ho : ∀ x ∈ l, p x = true → x = a) (hf : f a = some b) : (l.filter p).findSome? f = some b := by
  have mem : a ∈ l.filter p := List.mem_filter.mpr ⟨ha, hp⟩
  cases hl : l.filter p with
  | nil => rw [hl] at mem; cases mem
  | cons x t =>
    have first : x ∈ l.filter p := by rw [hl]; simp
    obtain ⟨hx, px⟩ := List.mem_filter.mp first
    rw [ho x hx px, List.findSome?_cons, hf]

/-- The one packet of an output that has waited for its credits is the one that stalls. -/
theorem stalled_one {k : Port} {o : OutPkt} {now ns : Nat} (ha : k.st = .active) (hc : k.cur = []) (ho : k.outq = [o])
    (hz : creditOf k (keyOf o.pkt.vc o.pkt.cls) = 0) (hw : 0 < tget (fun _ => 0) k.curNs (keyOf o.pkt.vc o.pkt.cls))
    (hn : tget (fun _ => 0) k.curNs (keyOf o.pkt.vc o.pkt.cls) - 1 + ns ≤ now) : stalled k now ns = some (.queued o) := by
  have idle : ∀ key, tget (fun _ => []) k.cur key = [] := fun key => by rw [hc]; rfl
  refine findSome?_filter_one (a := keyOf o.pkt.vc o.pkt.cls) (mem_upto.mpr ⟨Nat.zero_le _, by have := keyOf_lt o.pkt.vc o.pkt.cls; omega⟩) ?_ ?_ ?_
  · simp [waitsCredit, ha, hz, idle, nextPacket_one ho, hw, hn]
  · intro key _ waits
    by_contra other
    simp [waitsCredit, idle, nextPacket_one ho, Ne.symm other] at waits
  · simp [idle, nextPacket_one ho]

/-- A port whose output has let its packets go. -/
def emptiedPort (k : Port) : Port := { k with outq := [] }

/-- A packet that is held leaves its input buffer, and one that is not leaves none. -/
theorem leaveHeld_effect (s : State) (o : OutPkt) : (o.held = false → leaveHeld s o = s) ∧ ∃ q, CreditsOnly s (leaveHeld s o) q := by
  refine ⟨fun h => if_neg (by rw [h]; simp), ?_⟩
  unfold leaveHeld
  split
  · exact ⟨_, oweSlots_creditsOnly _ _ _ _⟩
  · exact ⟨0, .refl s 0⟩

/-- Dropping the one packet of an output: the output is empty, and what held the packet may owe credits. -/
theorem dropWaiter_one {s : State} {p : Nat} {o : OutPkt} (hc : (portOf s p).cur = []) (ho : (portOf s p).outq = [o]) :
    ∃ w, NoWaits w ∧ dropWaiter s p (.queued o) = leaveHeld (setPort s p { emptiedPort (portOf s p) with curNs := w }) o := by
  have gone : dropFirst (fun y => decide (y = o)) (portOf s p).outq = [] := by rw [ho]; simp [dropFirst]
  have start (t : Table Nat) : ∃ w, NoWaits w ∧
      noteWaits (setPort s p { emptiedPort (portOf s p) with curNs := t }) p = setPort s p { emptiedPort (portOf s p) with curNs := w } := by
    obtain ⟨w, none, noted⟩ := noteWaits_none (s := setPort s p { emptiedPort (portOf s p) with curNs := t }) (p := p) fun key => by
      rw [portOf_setPort_same]
      exact waitsCredit_empty (k := { emptiedPort (portOf s p) with curNs := t }) hc rfl key
    exact ⟨w, none, by rw [noted, setPort_setPort, portOf_setPort_same]⟩
  obtain ⟨w, none, noted⟩ := start (tset (fun _ => 0) (portOf s p).curNs (keyOf o.pkt.vc o.pkt.cls) 0)
  refine ⟨w, none, ?_⟩
  rw [← noted]
  unfold dropWaiter
  simp only [gone]
  rfl

theorem Recorded.of_fabricRegs {s u t : State} {st : Status} {res : Word32} {d : Word64} (h : u = { s with fab := u.fab, regs := u.regs })
    (g : Recorded u t st res d) : Recorded s t st res d := by
  rw [h] at g
  exact g

theorem resourceDie_port (p : Fin 24) : resourceDie (resource 0x07 p.val) = 4 := by
  have kind : (resource 0x07 p.val).toNat / 2 ^ 24 = 7 := by
    unfold resource
    rw [BitVec.toNat_ofNat]
    omega
  unfold resourceDie
  simp only [kind]

theorem CreditsOnly.fabOnly {s t : State} {q : Nat} (h : CreditsOnly s t q) :
    t = { s with fab := t.fab } ∧ t.fab.sw = s.fab.sw ∧ t.fab.arrived = s.fab.arrived :=
  ⟨by rw [h.frame], by rw [h.frame], by rw [h.frame]⟩

/-- Credits that go back change at most what ports owe. -/
theorem CreditsOnly.owedOnly {s t : State} {q : Nat} (h : CreditsOnly s t q) (r : Nat) : portOf t r = { portOf s r with owed := (portOf t r).owed } := by
  by_cases hr : r = q
  · rw [hr]; exact h.port
  · rw [h.other r hr]

/-- What a stall does (R375): the packet is dropped and counted, and the port is recorded. -/
theorem exec_fabStall_drops {s : State} {port : Fin 24} {o : OutPkt} (ha : (portOf s port.val).st = .active) (hc : (portOf s port.val).cur = [])
    (ho : (portOf s port.val).outq = [o]) (hz : creditOf (portOf s port.val) (keyOf o.pkt.vc o.pkt.cls) = 0) (hl : rfld s .fabReqCtrl 32 32 ≠ 0)
    (hw : 0 < tget (fun _ => 0) (portOf s port.val).curNs (keyOf o.pkt.vc o.pkt.cls))
    (hn : tget (fun _ => 0) (portOf s port.val).curNs (keyOf o.pkt.vc o.pkt.cls) - 1 + 1000 * rfld s .fabReqCtrl 32 32 ≤ s.localNs) :
    exec (.fabStall port) s =
      .next (report (dropCount (dropWaiter s port.val (.queued o)) 5) .fabStall (resource 0x07 port.val) 0 0 false) := by
  show execFabStall port s = _
  unfold execFabStall
  simp only [stalled_one ha hc ho hz hw hn]
  exact if_neg (by rintro (h | h); exacts [h ha, hl h])

/-- The port, the wire and the registers after a stall, and its record. -/
theorem stall_effect {s : State} {p : Fin 24} {o : OutPkt} (hc : (portOf s p.val).cur = []) (ho : (portOf s p.val).outq = [o]) :
    ∃ t w, report (dropCount (dropWaiter s p.val (.queued o)) 5) .fabStall (resource 0x07 p.val) 0 0 false = t ∧ NoWaits w ∧
      portOf t p.val = { emptiedPort (portOf s p.val) with curNs := w, owed := (portOf t p.val).owed } ∧
      (o.held = false → portOf t p.val = { emptiedPort (portOf s p.val) with curNs := w } ∧ t.fab.wire = s.fab.wire) ∧
      rget t (.fabDrop 5) = rget s (.fabDrop 5) + 1 ∧ RegsBut s t ([.fabDrop 5] ++ recordRegs 4) ∧
      Recorded s t .fabStall (resource 0x07 p.val) 0 := by
  obtain ⟨w, none, dropped⟩ := dropWaiter_one hc ho
  have emptied := portOf_setPort_same s p.val { emptiedPort (portOf s p.val) with curNs := w }
  obtain ⟨unheld, q, left⟩ := leaveHeld_effect (setPort s p.val { emptiedPort (portOf s p.val) with curNs := w }) o
  rw [← dropped] at unheld left
  generalize dropWaiter s p.val (.queued o) = u at unheld left
  have fab : (report (dropCount u 5) .fabStall (resource 0x07 p.val) 0 0 false).fab = u.fab := by rw [report_frame]; rfl
  have regs := report_regs (dropCount u 5) .fabStall (resource 0x07 p.val) 0 0 false
  have record := report_recorded (dropCount u 5) .fabStall (resource 0x07 p.val) 0 0 false rfl
  have counted : rget (report (dropCount u 5) .fabStall (resource 0x07 p.val) 0 0 false) (.fabDrop 5) = rget (dropCount u 5) (.fabDrop 5) :=
    rget_report_fabric (resourceDie_port p) _ _ _ _ (by simp only [regOffset]; omega)
  rw [resourceDie_port] at regs
  generalize report (dropCount u 5) .fabStall (resource 0x07 p.val) 0 0 false = t at fab regs record counted
  have port : portOf t p.val = portOf u p.val := by unfold portOf; rw [fab]
  refine ⟨t, w, rfl, none, ?_, fun h => ⟨?_, ?_⟩, ?_, ?_, ?_⟩
  · have owed := left.owedOnly p.val
    rwa [emptied, ← port] at owed
  · rw [port, unheld h, emptied]
  · rw [fab, unheld h]; rfl
  · rw [counted, dropCount, rget_rbump_same, left.rget]; rfl
  · exact (regs.mono (by simp)).after ((rbump_regs u 1 (by simp)).after ((regsBut_of_regs (congrArg State.regs left.frame) _).after (.refl _ _)))
  · have recorded := (record.of_fabricRegs (u := dropCount u 5) (s := u) rfl).of_portOnly (left.portOnly [])
    exact recorded

/-- Settles O31: the switch is the equations of its cases, and a packet that leaves its buffer changes what its port owes. -/
theorem switching : Obligations.Switching := by
  unfold Obligations.Switching
  intro s n x p port o s1 delivered left dropped k noWaits
  refine ⟨⟨fun hp => leaveInput_none s1 hp, fun q hq => ?_⟩, fun hx hb ho hf => ?_, fun hx hb hk ho => ?_, fun ha hc ho hz hl hw hn => ?_⟩
  · have owes := leaveInput_creditsOnly s1 hq
    obtain ⟨frame, sw, arrived⟩ := owes.fabOnly
    refine ⟨frame, sw, arrived, owes.port, owes.other, fun hs => ?_⟩
    have inactive : (portOf s1 q).st ≠ .active := hs
    have owed := (leaveInput_some s1 hq).trans (oweSlots_inactive inactive _ _)
    rw [show portOf s1 q = portOf s q from rfl, ← Nat.add_assoc] at owed
    exact owed
  · refine ⟨fun hk hc => ?_, fun hk hd hu => ?_, fun hk => ?_, fun hk hd hc hp hh => ?_, fun hk hd hc hp hr hq => ?_, fun hk hd hc hp hr hs => ?_⟩
    · exact exec_packetForward_delivers hx hb ho hf hk (Or.inr hc) (Or.inl hc)
    · exact exec_packetForward_delivers hx hb ho hf hk (Or.inl hd) (Or.inr hu)
    · exact exec_packetForward_unknown hx hb ho hf hk
    · exact exec_packetForward_noHop hx hb ho hf hk hd hc hp hh
    · exact exec_packetForward_noRoute hx hb ho hf hk hd hc hp hr hq
    · obtain ⟨w, none, queued⟩ := toOutput_inactive (s := pastSwitch s n) (p := p) (by rw [show portOf (pastSwitch s n) p = portOf s p from rfl, hs]; decide) x
        (rbit s (.fabRoute x.pkt.destNode.toNat) (24 + p)) true
      exact ⟨w, none, (exec_packetForward_routes hx hb ho hf hk hd hc hp hr).trans (congrArg _ queued)⟩
  · intro tree outs
    refine ⟨fun hp hc hs => ?_, fun q hp hi => ?_, fun q hp hi hl hc => ?_⟩
    · obtain ⟨held, starts⟩ := exec_broadcastForward_starts hx hb hk ho hp hc
      obtain ⟨w, none, queued⟩ := toOutput_inactive (s := pastSwitch s n) (p := p) hs x false held
      refine ⟨w, none, starts.trans (congrArg _ (queued.trans ?_))⟩
      rw [outputOf_starts _ hp]
      rfl
    · exact exec_broadcastForward_outside hx hb hk ho hp hi
    · exact exec_broadcastForward_leaf hx hb hk ho hp hi hl hc
  · obtain ⟨t, w, stalls, none, port, unheld, count, regs, record⟩ := stall_effect hc ho
    refine ⟨t, (exec_fabStall_drops ha hc ho hz hl hw hn).trans (congrArg _ stalls), ?_, ?_, fun h => ?_, count, regs, record⟩
    · rw [port]; rfl
    · rw [port]; exact none
    · obtain ⟨port, wire⟩ := unheld h
      exact ⟨by rw [port]; rfl, wire⟩

end Sys2Proof.Machine
end

section
/-! PROOFS. Remote reads, writes and accumulating writes (R364, R369): the statement O32. -/
namespace Sys2Proof.Machine

/-! ## A packet is taken (R360) -/

theorem takeArrived_sw (s : State) (n : Nat) : (takeArrived s n).fab.sw = s.fab.sw := by
  unfold takeArrived
  dsimp only
  split
  · next x _ =>
    cases hp : x.port with
    | none => rw [leaveInput_none _ hp]
    | some q =>
      obtain ⟨-, sw, -⟩ := (leaveInput_creditsOnly { s with fab := { s.fab with arrived := dropNth n s.fab.arrived } } hp).fabOnly
      rw [sw]
  · rfl

/-- Taking a packet leaves every register alone. -/
theorem takeArrived_rget (s : State) (n : Nat) (r : Reg) : rget (takeArrived s n) r = rget s r := by
  rw [takeArrived_fabricOnly s n]
  rfl

theorem windowAdmits_takeArrived (s : State) (n : Nat) (pk : Packet) (bytes bit : Nat) :
    windowAdmits (takeArrived s n) pk bytes bit = windowAdmits s pk bytes bit := by
  rw [takeArrived_fabricOnly s n]
  rfl

theorem hop_takeArrived (s : State) (n x y kind : Nat) (relay : Option Nat) : hop (takeArrived s n) x y kind relay = hop s x y kind relay := by
  rw [takeArrived_fabricOnly s n]
  rfl

theorem passOpen_takeArrived (s : State) (n : Nat) (w : List Nat) : passOpen (takeArrived s n) w = passOpen s w := by
  induction w with
  | nil => rfl
  | cons a w ih =>
    cases w with
    | nil => rfl
    | cons b t => rw [passOpen, passOpen, ih, hop_takeArrived]

theorem requestReaches_takeArrived (s : State) (n : Nat) (pk : Packet) (bytes : Nat) :
    requestReaches (takeArrived s n) pk bytes = requestReaches s pk bytes := by
  have pass : passOpen (takeArrived s n) = passOpen s := funext (passOpen_takeArrived s n)
  have way (x y kind : Nat) : wayOpen (takeArrived s n) x y kind = wayOpen s x y kind := by simp only [wayOpen, pathOf, hop_takeArrived, pass]
  have die (y : Nat) : dieServes (takeArrived s n) y = dieServes s y := by rw [takeArrived_fabricOnly s n]; rfl
  unfold requestReaches reaches
  simp only [way, die]

theorem devSettle_noBitErrors {s : State} (h : NoBitErrors s) (a n : Nat) : devSettle s a n = s :=
  if_pos (by rw [show s.devErrs = [] from h]; rfl)

/-! ## Answers (R364) -/

/-- The answer to a request, from a package of a node number. -/
def answerOf (node : Half) (pk : Packet) (st : Status) (sat : Nat) : InPkt :=
  { port := none
    pkt := { destNode := pk.srcNode, srcNode := node, destUnit := pk.srcUnit, srcUnit := pk.destUnit, vc := pk.vc, ptype := 0x05
             last := true, tag := pk.tag, aux := BitVec.ofNat 64 ((statusCode st).toNat + min sat 0xFFFFFFFF * 2 ^ 16) } }

/-- The packet that carries the data of a read. -/
def readOf (node : Half) (pk : Packet) (bs : List Byte) : InPkt :=
  { port := none
    pkt := { destNode := pk.srcNode, srcNode := node, destUnit := pk.srcUnit, srcUnit := pk.destUnit, vc := pk.vc, ptype := 0x02
             last := true, tag := pk.tag, payload := bs } }

theorem respond_eq (s : State) (pk : Packet) (st : Status) (sat : Nat) : respond s pk st sat = toSwitch s (answerOf (ownNode s) pk st sat) := by
  have aux : fields [(0, (statusCode st).toNat), (16, min sat 0xFFFFFFFF)] = (statusCode st).toNat + min sat 0xFFFFFFFF * 2 ^ 16 := by
    rw [fields, fields, fields, pow_zero, Nat.mul_one, Nat.add_zero]
  unfold respond
  rw [aux]
  rfl

theorem ownNode_of_rget {s t : State} (h : rget t .fabNodeId = rget s .fabNodeId) : ownNode t = ownNode s := by
  unfold ownNode rfld
  rw [h]

theorem ownNode_dropCount (s : State) {i : Nat} (hi : i < 16) : ownNode (dropCount s i) = ownNode s :=
  ownNode_of_rget (rget_rbump_other s 1 (by simp only [regOffset]; omega))

/-- A request that no window admits is counted and answered (R369). -/
theorem denied_effect {s t : State} {n : Nat} {pk : Packet} (ht : respond (dropCount (takeArrived s n) 2) pk .fabAccessDenied 0 = t) :
    t.fab = { (takeArrived s n).fab with sw := s.fab.sw ++ [answerOf (ownNode s) pk .fabAccessDenied 0] } ∧
      rget t (.fabDrop 2) = rget s (.fabDrop 2) + 1 ∧ RegsBut s t [.fabDrop 2] ∧ t = { s with fab := t.fab, regs := t.regs } := by
  have node : ownNode (dropCount (takeArrived s n) 2) = ownNode s :=
    (ownNode_dropCount _ (by decide)).trans (ownNode_of_rget (takeArrived_rget s n _))
  have taken := takeArrived_fabricOnly s n
  have sw := takeArrived_sw s n
  have rest : ∀ r, rget (takeArrived s n) r = rget s r := takeArrived_rget s n
  rw [respond_eq, node] at ht
  generalize takeArrived s n = u at *
  rw [← ht]
  refine ⟨?_, ?_, fun r hr => ?_, ?_⟩
  · rw [← sw]; rfl
  · exact (rget_rbump_same u _ 1).trans (by rw [rest]; rfl)
  · exact (rget_rbump_other u 1 (hr _ (by simp))).trans (rest r)
  · rw [taken]; rfl

section
variable {s : State} {n : Nat} {x : InPkt}

/-! ## Reads (R369) -/

theorem exec_readReq_denied (hx : arrivedAt s n 0x01 = some x) (hw : windowAdmits s x.pkt (x.pkt.aux.toNat % 8192) 63 = false) :
    exec (.readReq n) s = .next (respond (dropCount (takeArrived s n) 2) x.pkt .fabAccessDenied 0) := by
  show execReadReq n s = _
  unfold execReadReq
  rw [show arrivedAt s n ptReadReq = some x from hx]
  exact if_pos (by rw [windowAdmits_takeArrived, hw]; rfl)

theorem exec_readReq_served {bs : List Byte} (hx : arrivedAt s n 0x01 = some x) (hw : windowAdmits s x.pkt (x.pkt.aux.toNat % 8192) 63 = true)
    (hr : requestReaches s x.pkt (x.pkt.aux.toNat % 8192) = true) (he : NoBitErrors s)
    (hd : devRead (takeArrived s n) x.pkt.addr.toNat (x.pkt.aux.toNat % 8192) = .ok bs) :
    exec (.readReq n) s = .next (toSwitch (toSwitch (takeArrived s n) (readOf (ownNode s) x.pkt bs)) (answerOf (ownNode s) x.pkt .success 0)) := by
  have clean : NoBitErrors (takeArrived s n) := by
    unfold NoBitErrors
    rw [takeArrived_fabricOnly s n]
    exact he
  have node : ownNode (takeArrived s n) = ownNode s := ownNode_of_rget (takeArrived_rget s n _)
  show execReadReq n s = _
  unfold execReadReq
  rw [show arrivedAt s n ptReadReq = some x from hx]
  dsimp only
  rw [if_neg (by rw [windowAdmits_takeArrived, hw]; decide), if_neg (by rw [requestReaches_takeArrived, hr]; decide),
    devSettle_noBitErrors clean, hd]
  dsimp only
  rw [respond_eq, ← node]
  rfl

/-! ## Writes (R369) -/

theorem exec_write_denied (hx : arrivedAt s n 0x03 = some x) (hw : windowAdmits s x.pkt x.pkt.payload.length 62 = false) :
    exec (.write n) s = .next (respond (dropCount (takeArrived s n) 2) x.pkt .fabAccessDenied 0) := by
  show execWrite n s = _
  unfold execWrite
  rw [show arrivedAt s n ptWrite = some x from hx]
  exact if_pos (by rw [hw]; rfl)

theorem exec_write_served (hx : arrivedAt s n 0x03 = some x) (hw : windowAdmits s x.pkt x.pkt.payload.length 62 = true)
    (hr : requestReaches s x.pkt x.pkt.payload.length = true) (hd : (devWrite (takeArrived s n) x.pkt.addr.toNat x.pkt.payload).2 = none) :
    exec (.write n) s = .next (respond (packetServed (devWrite (takeArrived s n) x.pkt.addr.toNat x.pkt.payload).1 x) x.pkt .success 0) := by
  show execWrite n s = _
  unfold execWrite
  rw [show arrivedAt s n ptWrite = some x from hx]
  dsimp only
  rw [if_neg (by rw [hw]; decide), if_neg (by rw [hr]; decide), hd]

/-- What the answer to a request that has been served changes: it waits for no slot (R279). -/
theorem packetServed_frame (s : State) (x : InPkt) : packetServed s x = { s with stks := (packetServed s x).stks } ∧ ParkGone s (packetServed s x) :=
  ⟨parkForget_frame _ _, parkForget_gone _ _⟩

/-- What one packet more at the switch changes, after a request has been served. -/
theorem served_effect {s t : State} {x y : InPkt} (ht : toSwitch (packetServed s x) y = t) :
    t.fab.sw = s.fab.sw ++ [y] ∧ t = { s with fab := t.fab, stks := t.stks } ∧ ParkGone s t := by
  obtain ⟨frame, gone⟩ := packetServed_frame s x
  generalize packetServed s x = u at *
  rw [← ht]
  exact ⟨by rw [frame]; rfl, by rw [frame]; rfl, gone⟩

theorem ownNode_packetServed (s : State) (x : InPkt) : ownNode (packetServed s x) = ownNode s := by
  rw [(packetServed_frame s x).1]
  rfl

/-! ## Accumulating writes (R270, R369) -/

theorem exec_accWrite_denied (hx : arrivedAt s n 0x04 = some x) (hw : windowAdmits s x.pkt x.pkt.payload.length 61 = false) :
    exec (.accWrite n) s = .next (respond (dropCount (takeArrived s n) 2) x.pkt .fabAccessDenied 0) := by
  show execAccWrite n s = _
  unfold execAccWrite
  rw [show arrivedAt s n ptAccWrite = some x from hx]
  exact if_pos (by rw [hw]; rfl)

theorem exec_accWrite_badFormat (hx : arrivedAt s n 0x04 = some x) (hw : windowAdmits s x.pkt x.pkt.payload.length 61 = true)
    (hr : requestReaches s x.pkt x.pkt.payload.length = true) (h16 : fmtOfCode (x.pkt.aux.extractLsb' 0 4) ≠ some .g16)
    (h32 : fmtOfCode (x.pkt.aux.extractLsb' 0 4) ≠ some .f32) :
    exec (.accWrite n) s = .next (respond (takeArrived s n) x.pkt .formatBad 0) := by
  show execAccWrite n s = _
  unfold execAccWrite
  rw [show arrivedAt s n ptAccWrite = some x from hx]
  dsimp only
  rw [if_neg (by rw [hw]; decide), if_neg (by rw [hr]; decide)]
  split
  · next h => exact absurd h h16
  · next h => exact absurd h h32
  · rfl

/-- What the elements of an accumulating write give. -/
def accApplied (s : State) (n : Nat) (x : InPkt) (f : Fmt) : AccResult :=
  accAll (accModeOf x.pkt.aux) f (accRequests f x.pkt.addr.toNat x.pkt.payload) (takeArrived s n)

theorem exec_accWrite_served {f : Fmt} (hx : arrivedAt s n 0x04 = some x) (hw : windowAdmits s x.pkt x.pkt.payload.length 61 = true)
    (hr : requestReaches s x.pkt x.pkt.payload.length = true) (hf : f = .g16 ∨ f = .f32) (hc : fmtOfCode (x.pkt.aux.extractLsb' 0 4) = some f)
    (he : (accApplied s n x f).err = none) :
    exec (.accWrite n) s = .next (respondAcc (packetServed (accApplied s n x f).st x) x.pkt .success (accApplied s n x f).outs) := by
  unfold accApplied at he
  show execAccWrite n s = _
  unfold execAccWrite
  rw [show arrivedAt s n ptAccWrite = some x from hx]
  dsimp only
  rw [if_neg (by rw [hw]; decide), if_neg (by rw [hr]; decide)]
  rcases hf with rfl | rfl <;> · simp only [hc, Option.getD_some, he]; rfl

end

/-- AUX of the answer to an accumulating write: its low 48 bits are those of any answer; two flags say what the first non-finite result is. -/
def accAux (st : Status) (outs : List (Nat × Val × Bool)) : Word64 :=
  BitVec.ofNat 64 (fields [(0, (statusCode st).toNat), (16, min (accSat outs) 0xFFFFFFFF), (48, b01 (outs.any fun x => vIsNan x.2.1)),
    (49, b01 (outs.any fun x => vIsInf x.2.1))])

theorem extract_low48 (c m a b : Nat) : (BitVec.ofNat 64 (fields [(0, c), (16, m), (48, a), (49, b)])).extractLsb' 0 48 =
    (BitVec.ofNat 64 (c + m * 2 ^ 16)).extractLsb' 0 48 := by
  have flags : fields [(0, c), (16, m), (48, a), (49, b)] = c + m * 2 ^ 16 + 2 ^ 48 * (a + 2 * b) := by
    simp only [fields]
    ring
  have part : 2 ^ 48 ∣ 2 ^ 64 := pow_dvd_pow 2 (by decide)
  apply BitVec.eq_of_toNat_eq
  rw [flags, BitVec.extractLsb'_toNat, BitVec.extractLsb'_toNat, BitVec.toNat_ofNat, BitVec.toNat_ofNat, Nat.shiftRight_zero, Nat.shiftRight_zero,
    Nat.mod_mod_of_dvd _ part, Nat.mod_mod_of_dvd _ part, Nat.add_mul_mod_self_left]

theorem accAux_low (node : Half) (pk : Packet) (st : Status) (outs : List (Nat × Val × Bool)) :
    (accAux st outs).extractLsb' 0 48 = (answerOf node pk st (accSat outs)).pkt.aux.extractLsb' 0 48 := extract_low48 _ _ _ _

/-- The answer to an accumulating write (R273, log entry 44). -/
theorem respondAcc_eq (s : State) (pk : Packet) (st : Status) (outs : List (Nat × Val × Bool)) :
    ∃ addr, respondAcc s pk st outs = toSwitch s { answerOf (ownNode s) pk st (accSat outs) with
        pkt := { (answerOf (ownNode s) pk st (accSat outs)).pkt with addr := addr, aux := accAux st outs } } :=
  ⟨_, rfl⟩

/-- Settles O32: each request is the equation of its case, and its answer goes to the switch. -/
theorem remoteRequests : Obligations.RemoteRequests := by
  unfold Obligations.RemoteRequests
  intro s n x bs f u pk answer denied
  refine ⟨fun hx => ⟨fun hw hr he hd => ?_, fun hw => ?_⟩, fun hx => ⟨fun hw hr hd => ?_, fun hw => ?_⟩, fun hx => ⟨?_, fun hw hr h16 h32 => ?_, fun hw => ?_⟩⟩
  · have read := exec_readReq_served hx hw hr he hd
    have sw := takeArrived_sw s n
    have taken := takeArrived_fabricOnly s n
    refine ⟨_, readOf (ownNode s) pk bs, read, ?_, rfl, rfl, rfl, rfl, rfl, ?_⟩
    · rw [← sw]
      exact congrArg (fun l => { u.fab with sw := l }) (List.append_assoc _ _ _)
    · generalize takeArrived s n = v at taken
      rw [taken]
      rfl
  · exact ⟨_, exec_readReq_denied hx hw, denied_effect rfl⟩
  · have write := exec_write_served hx hw hr hd
    rw [respond_eq, ownNode_packetServed] at write
    exact ⟨_, write, served_effect rfl⟩
  · exact ⟨_, exec_write_denied hx hw, denied_effect rfl⟩
  · intro a hw hr hf hc he
    obtain ⟨addr, answers⟩ := respondAcc_eq (packetServed a.st x) x.pkt .success a.outs
    rw [ownNode_packetServed] at answers
    obtain ⟨sw, frame, gone⟩ := served_effect answers.symm
    exact ⟨_, _, exec_accWrite_served hx hw hr hf hc he, sw, frame, gone, rfl, accAux_low _ _ _ _⟩
  · have bad := exec_accWrite_badFormat hx hw hr h16 h32
    have sw := takeArrived_sw s n
    rw [respond_eq, ownNode_of_rget (takeArrived_rget s n _)] at bad
    refine ⟨_, bad, rfl, ?_⟩
    rw [← sw]
    rfl
  · exact ⟨_, exec_accWrite_denied hx hw, denied_effect rfl⟩

end Sys2Proof.Machine
end

section
/-! PROOFS. What packets addressed to cores, counters and mailboxes do there (R366 to R371): the statement O33. -/
namespace Sys2Proof.Machine

/-! ## A write of any space takes no time -/

/-- From s to t the local time stays. -/
def SameNs (s t : State) : Prop := t.localNs = s.localNs

theorem SameNs.refl (s : State) : SameNs s s := rfl

theorem SameNs.after {s t u : State} (h : SameNs t u) (g : SameNs s t) : SameNs s u := Eq.trans h g

theorem SameNs.fold {α : Type} {f : State → α → State} (h : ∀ s x, SameNs s (f s x)) (l : List α) (s : State) : SameNs s (l.foldl f s) := by
  induction l generalizing s with
  | nil => exact .refl s
  | cons x l ih => exact (ih _).after (h s x)

theorem report_sameNs (s : State) (st : Status) (res : Word32) (a d : Word64) (f : Bool) : SameNs s (report s st res a d f) := by
  unfold SameNs
  rw [report_frame]

theorem channelDue_sameNs (s : State) (n ch : Nat) (f : Bool) : SameNs s (channelDue s n ch f) := by
  unfold channelDue
  dsimp only
  split
  · exact (report_sameNs _ _ _ _ _ _).after rfl
  · rfl

theorem setSlots_sameNs (s : State) (n : Nat) (l : List HoldSlot) : SameNs s (setSlots s n l) := by
  unfold setSlots
  dsimp only
  split <;> rfl

theorem putRaw_sameNs (s : State) (a : Nat) (bs : List Byte) : SameNs s (putRaw s a bs) := by
  unfold putRaw
  split
  · exact setSlots_sameNs _ _ _
  · rfl

theorem devCorrected_sameNs (s : State) (h : Nat) : SameNs s (devCorrected s h) := by
  unfold devCorrected
  dsimp only
  split
  · exact (channelDue_sameNs _ _ _ _).after rfl
  · rfl

theorem devFix_sameNs (s : State) (h : Nat) : SameNs s (devFix s h) := by
  have stored (r : BitVec 288) (bs : List Byte) (b : Bool) : SameNs s (if r = 0 then s else setDevPoison (putRaw s (32 * h) bs) h b) := by
    split
    · rfl
    · exact putRaw_sameNs s (32 * h) bs
  unfold devFix
  dsimp only
  split
  · rfl
  · split
    · rfl
    · split
      · exact (devCorrected_sameNs _ _).after (stored _ _ _)
      · exact stored _ _ _

theorem fillSlot_sameNs (s : State) (n tag : Nat) : SameNs s (fillSlot s n tag) := by
  unfold fillSlot
  refine (SameNs.fold (fun s h => ?_) _ _).after (setSlots_sameNs (tickFree s) _ _)
  dsimp only
  split <;> split <;> rfl

theorem parkReady_sameNs {s t : State} {w : Nat} (h : parkReady s w = some t) : SameNs s t := by
  unfold parkReady at h
  dsimp only at h
  split at h
  · cases h; exact .refl s
  · split at h
    · split at h
      · cases h
      · cases h; exact .refl s
    · split at h
      · cases h
      · rw [← Option.some.inj h]
        exact fillSlot_sameNs _ _ _

theorem putHome_sameNs (s : State) (h o : Nat) (bs : List Byte) : SameNs s (putHome s h o bs).1 := by
  unfold putHome
  split
  · rfl
  · split
    · exact putRaw_sameNs s (32 * h) bs
    · split
      · rfl
      · exact (putRaw_sameNs _ _ _).after (devFix_sameNs s h)

theorem putDev_sameNs (l : List (Nat × Nat × List Byte)) (s : State) : SameNs s (putDev l s).1 := by
  induction l generalizing s with
  | nil => rfl
  | cons x l ih =>
    obtain ⟨w, o, bs⟩ := x
    rw [putDev]
    split
    · rfl
    · next hp => exact (ih _).after ((putHome_sameNs _ _ _ _).after (parkReady_sameNs hp))

theorem memWrite_sameNs (s : State) (space unit off : Nat) (bs : List Byte) : SameNs s (memWrite s space unit off bs).1 := by
  unfold memWrite
  split
  · split
    · rfl
    · next p _ =>
      obtain e | ⟨m, poison, bad, e, -⟩ := spadWrite_frame s p off bs
      · rw [e]; rfl
      · rw [e]; rfl
  · obtain e | ⟨m, poison, bad, e, -⟩ := cmemWrite_frame s unit off bs
    · rw [e]; rfl
    · rw [e]; rfl
  · unfold devWrite
    split
    · rfl
    · exact putDev_sameNs _ s
  · unfold SameNs
    rw [(hostWrite_frame s off bs).1]

theorem memPuts_sameNs (space unit : Nat) (l : Writes) (s : State) : SameNs s (memPuts space unit l s).1 := by
  induction l generalizing s with
  | nil => rfl
  | cons x l ih => exact (ih _).after (memWrite_sameNs s space unit x.1 x.2)

theorem writeStream_sameNs (s : State) (t : Tensor) (off : Nat) (bs : List Byte) : SameNs s (writeStream s t off bs).1 := by
  have ordered (gs : List Writes) : SameNs s (orderWrites s gs).1 := by
    unfold orderWrites
    split <;> rfl
  unfold writeStream tensorWrites tensorPut memWrites
  dsimp only
  split
  · exact ordered _
  · exact (memPuts_sameNs _ _ _ _).after (ordered _)

theorem writeStream_workOnly (s : State) (t : Tensor) (off : Nat) (bs : List Byte) : WorkOnly s (writeStream s t off bs).1 :=
  tensorWrites_workOnly none t _ s

/-! ## Requests that are sent once others are answered (R370) -/

/-- From s to t core p has sent requests: they are outstanding after those that were, of now and without an answer. -/
structure Pumped (s t : State) (p : Nat) : Prop where
  frame : t = { s with cores := t.cores, fab := t.fab }
  other : ∀ q, q ≠ p → coreOf t q = coreOf s q
  spad  : (coreOf t p).spad = (coreOf s p).spad
  outst : ∃ more, (coreOf t p).outst = (coreOf s p).outst ++ more ∧ ∀ y ∈ more, y.resp = false ∧ y.got = false ∧ y.sentNs = s.localNs

theorem Pumped.refl (s : State) (p : Nat) : Pumped s s p := ⟨rfl, fun _ _ => rfl, rfl, [], by simp, by simp⟩

theorem Pumped.localNs {s t : State} {p : Nat} (h : Pumped s t p) : t.localNs = s.localNs := by rw [h.frame]

theorem Pumped.after {s t u : State} {p : Nat} (h : Pumped t u p) (g : Pumped s t p) : Pumped s u p := by
  obtain ⟨later, hl, hn⟩ := h.outst
  obtain ⟨more, gl, gn⟩ := g.outst
  refine ⟨by rw [h.frame, g.frame], fun q hq => (h.other q hq).trans (g.other q hq), h.spad.trans g.spad, more ++ later, ?_, fun y hy => ?_⟩
  · rw [hl, gl, List.append_assoc]
  · rcases List.mem_append.mp hy with hy | hy
    · exact gn y hy
    · rw [← g.localNs]
      exact hn y hy

theorem setCore_pumped {s : State} {p : Nat} {c : Core} (hs : c.spad = (coreOf s p).spad)
    (ho : ∃ more, c.outst = (coreOf s p).outst ++ more ∧ ∀ y ∈ more, y.resp = false ∧ y.got = false ∧ y.sentNs = s.localNs) :
    Pumped s (setCore s p c) p :=
  ⟨rfl, fun _ hq => coreOf_setCore_other _ _ _ _ hq, by rw [coreOf_setCore_same, hs], by rw [coreOf_setCore_same]; exact ho⟩

theorem sendPacket_pumped (s : State) (pk : Packet) (p : Nat) : Pumped s (sendPacket s pk) p := ⟨rfl, fun _ _ => rfl, rfl, [], by simp [sendPacket, coreOf], by simp⟩

/-- Core c sends one more request. -/
def asking (c : Core) (x : Outst) : Core := { c with txn := c.txn + 1, outst := c.outst ++ [x] }

theorem asking_pumped {s : State} {p : Nat} {c : Core} {x : Outst} (hs : c.spad = (coreOf s p).spad) (ho : c.outst = (coreOf s p).outst)
    (hx : x.resp = false ∧ x.got = false ∧ x.sentNs = s.localNs) : Pumped s (setCore s p (asking c x)) p :=
  setCore_pumped hs ⟨[x], by rw [← ho]; rfl, fun y hy => by rw [List.mem_singleton.mp hy]; exact hx⟩

/-- Flags of a source leave the scratchpad and the requests of a core alone. -/
theorem flagged_keeps (c : Core) (u : CUnit) (b : NumBlock) (bad : Bool) :
    (if bad then addNum c u b else c).spad = c.spad ∧ (if bad then addNum c u b else c).outst = c.outst := by
  cases bad <;> exact ⟨rfl, rfl⟩

theorem pumpJob_pumped (fuel : Nat) (s : State) (core p : Nat) (j : Job) (bs : List Byte) (size : Nat) :
    Pumped s (pumpJob fuel s core p j bs size).1 p := by
  induction fuel generalizing s j with
  | zero => exact .refl s p
  | succ fuel ih =>
    rw [pumpJob]
    dsimp only
    split
    · exact .refl s p
    · obtain ⟨spad, outst⟩ := flagged_keeps (coreOf s p) .fs { nonfiniteIn := true } (decide (jobOp j = some .acc) &&
        (chunks (fmtBits (descFmt (jobDesc j 0)) / 8) (min 4096 (size - j.pos)) ((bs.drop j.pos).take (min 4096 (size - j.pos)))).any
          fun b => !vIsFinite (decodeScalar (scalarFmt (descFmt (jobDesc j 0))) (leNat b)))
      exact (ih _ _).after ((sendPacket_pumped _ _ p).after (asking_pumped spad outst ⟨rfl, rfl, rfl⟩))

theorem setUnitJobs_keeps (c : Core) (u : CUnit) (l : List Job) : (setUnitJobs c u l).spad = c.spad ∧ (setUnitJobs c u l).outst = c.outst := by
  cases u <;> exact ⟨rfl, rfl⟩

theorem putJobs_pumped (s : State) (p : Nat) (u : CUnit) (l : List Job) : Pumped s (setCore s p (setUnitJobs (coreOf s p) u l)) p := by
  obtain ⟨spad, outst⟩ := setUnitJobs_keeps (coreOf s p) u l
  exact setCore_pumped spad ⟨[], by rw [outst, List.append_nil], by simp⟩

theorem pumpHead_pumped (s : State) (core p : Nat) (u : CUnit) : Pumped s (pumpHead s core p u) p := by
  unfold pumpHead
  split
  · exact .refl s p
  · dsimp only
    split
    · exact (putJobs_pumped _ _ _ _).after (pumpJob_pumped _ _ _ _ _ _ _)
    · split
      · exact .refl s p
      · exact (putJobs_pumped _ _ _ _).after (pumpJob_pumped _ _ _ _ _ _ _)
    · split
      · exact .refl s p
      · exact (putJobs_pumped _ _ _ _).after (pumpJob_pumped _ _ _ _ _ _ _)
    · exact .refl s p

theorem pumpWaiting_pumped (s : State) (core p : Nat) : Pumped s (pumpWaiting s core p) p :=
  (pumpHead_pumped _ _ _ _).after (pumpHead_pumped _ _ _ _)

/-! ## What is taken leaves the rest alone -/

section
variable (s : State) (n : Nat)

theorem takeArrived_coreOf (p : Nat) : coreOf (takeArrived s n) p = coreOf s p := by
  rw [takeArrived_fabricOnly s n]
  rfl

theorem takeArrived_clusterOf (c : Nat) : clusterOf (takeArrived s n) c = clusterOf s c := by
  rw [takeArrived_fabricOnly s n]
  rfl

theorem takeArrived_evtOf (k : Nat) : evtOf (takeArrived s n) k = evtOf s k := by
  rw [takeArrived_fabricOnly s n]
  rfl

theorem takeArrived_localNs : (takeArrived s n).localNs = s.localNs := by rw [takeArrived_fabricOnly s n]

theorem takeArrived_coll : (takeArrived s n).coll = s.coll := by rw [takeArrived_fabricOnly s n]

theorem memberOfCore_takeArrived (core : Nat) : memberOfCore (takeArrived s n) core = memberOfCore s core := by
  rw [takeArrived_fabricOnly s n]
  rfl

theorem takeArrived_mgmt : (takeArrived s n).fab.mgmt = s.fab.mgmt := by
  unfold takeArrived
  dsimp only
  split
  · next x _ =>
    cases hp : x.port with
    | none => rw [leaveInput_none _ hp]
    | some q => rw [(leaveInput_creditsOnly { s with fab := { s.fab with arrived := dropNth n s.fab.arrived } } hp).frame]
  · rfl

/-- A packet that matches nothing is counted (R366, R370). -/
theorem dropCount_effect (k : Nat) : ∃ t, dropCount (takeArrived s n) k = t ∧ t = { takeArrived s n with regs := t.regs } ∧
    rget t (.fabDrop k) = rget s (.fabDrop k) + 1 ∧ RegsBut s t [.fabDrop k] := by
  refine ⟨_, rfl, rfl, ?_, fun r hr => ?_⟩
  · exact (rget_rbump_same (takeArrived s n) _ 1).trans (by rw [takeArrived_rget]; rfl)
  · exact (rget_rbump_other (takeArrived s n) 1 (hr _ (by simp))).trans (takeArrived_rget s n r)

end

end Sys2Proof.Machine
end

section
/-! PROOFS. The rows of the packets addressed to cores, counters and mailboxes (R366 to R371), and the statement O33. -/
namespace Sys2Proof.Machine

section
variable {s : State} {n : Nat} {x : InPkt} {p : Nat} {j : Job} {o : Outst} {post : Posted}

/-! ## Answers of remote requests (R370) -/

/-- Core c after an answer to the request of number txn: f notes it, and what is answered leaves. -/
def answered (f : Outst → Outst) (txn : Half) (c : Core) : Core :=
  settleOutst { c with outst := c.outst.map fun y => if y.txn = txn then f y else y } (isGetJob c)

theorem answered_outst {f : Outst → Outst} {txn : Half} {c d : Core} (ho : d.outst = c.outst) (hq : d.frq = c.frq) :
    (answered f txn d).outst = (answered f txn c).outst := by
  unfold answered settleOutst isGetJob
  rw [ho, hq]

/-- The state once an answer is noted and requests that waited are sent. -/
def answeredState (s : State) (core p : Nat) (f : Outst → Outst) (txn : Half) : State := pumpWaiting (modCore s p (answered f txn)) core p

/-- What an answer changes: the core and its requests, and the packets at the switch. -/
theorem answeredState_effect (s : State) (core p : Nat) (f : Outst → Outst) (txn : Half) :
    let t := answeredState s core p f txn
    t = { s with cores := t.cores, fab := t.fab } ∧ (∀ q, q ≠ p → coreOf t q = coreOf s q) ∧ (∀ q, (coreOf t q).spad = (coreOf s q).spad) ∧
      ∃ more, (coreOf t p).outst = (answered f txn (coreOf s p)).outst ++ more ∧ ∀ y ∈ more, y.resp = false ∧ y.got = false ∧ y.sentNs = s.localNs := by
  intro t
  have pumped : Pumped (modCore s p (answered f txn)) t p := pumpWaiting_pumped _ _ _
  have core : coreOf (modCore s p (answered f txn)) p = answered f txn (coreOf s p) := coreOf_setCore_same _ _ _
  have others : ∀ q, q ≠ p → coreOf t q = coreOf s q := fun q hq => (pumped.other q hq).trans (coreOf_setCore_other _ _ _ _ hq)
  have requests := pumped.outst
  rw [core] at requests
  refine ⟨by rw [pumped.frame]; rfl, others, fun q => ?_, requests⟩
  by_cases hq : q = p
  · rw [hq, pumped.spad, core]; rfl
  · rw [others q hq]

theorem exec_readResp_unknown (hx : arrivedAt s n 0x02 = some x) (ho : outstOf s x.pkt = none) :
    exec (.readResp n) s = .next (dropCount (takeArrived s n) 8) := by
  show execReadResp n s = _
  unfold execReadResp
  rw [show arrivedAt s n ptReadResp = some x from hx]
  simp only [ho]

theorem exec_readResp_lands (hx : arrivedAt s n 0x02 = some x) (ho : outstOf s x.pkt = some (p, o))
    (hj : ((coreOf s p).frq.find? fun j => decide (j.order = o.order)) = some j)
    (hw : (writeStream (takeArrived s n) (jobTensor x.pkt.destUnit.toNat j 0) o.pos x.pkt.payload).2 = none) :
    exec (.readResp n) s = .next (answeredState (writeStream (takeArrived s n) (jobTensor x.pkt.destUnit.toNat j 0) o.pos x.pkt.payload).1
      x.pkt.destUnit.toNat p (fun y => { y with got := true }) o.txn) := by
  show execReadResp n s = _
  unfold execReadResp
  rw [show arrivedAt s n ptReadResp = some x from hx]
  simp only [ho, hj, hw]
  rfl

theorem exec_resp_unknown (hx : arrivedAt s n 0x05 = some x) (ho : outstOf s x.pkt = none) :
    exec (.resp n) s = .next (dropCount (takeArrived s n) 8) := by
  show execResp n s = _
  unfold execResp
  rw [show arrivedAt s n ptResp = some x from hx]
  simp only [ho]

/-- The state once the counts that a response brings back for an accumulating job are noted (R273). -/
def respNoted (s : State) (n p : Nat) (j : Job) (pk : Packet) : State :=
  if jobOp j = some .acc then setCore (takeArrived s n) p (addRemote (coreOf s p) .fs (ackBlock (descFmt (jobDesc j 0)) (jobArg j 1) pk))
  else takeArrived s n

theorem exec_resp_known (hx : arrivedAt s n 0x05 = some x) (ho : outstOf s x.pkt = some (p, o))
    (hj : (((coreOf s p).fsq ++ (coreOf s p).frq).find? fun j => decide (j.order = o.order)) = some j) :
    exec (.resp n) s = if x.pkt.aux.extractLsb' 0 16 = 0
      then .next (answeredState (respNoted s n p j x.pkt) x.pkt.destUnit.toNat p (fun y => { y with resp := true }) o.txn)
      else .next (programFault (respNoted s n p j x.pkt) x.pkt.destUnit.toNat p (statusOfCode (x.pkt.aux.extractLsb' 0 16)) j.pc) := by
  show execResp n s = _
  unfold execResp
  rw [show arrivedAt s n ptResp = some x from hx]
  simp only [ho, hj, modCore, takeArrived_coreOf]
  rfl

/-- Noting counts leaves the requests and the queues of the core alone, and other cores. -/
theorem respNoted_effect (s : State) (n p : Nat) (j : Job) (pk : Packet) :
    respNoted s n p j pk = { takeArrived s n with cores := (respNoted s n p j pk).cores } ∧ (∀ q, q ≠ p → coreOf (respNoted s n p j pk) q = coreOf s q) ∧
      (coreOf (respNoted s n p j pk) p).outst = (coreOf s p).outst ∧ (coreOf (respNoted s n p j pk) p).frq = (coreOf s p).frq := by
  unfold respNoted
  split
  · refine ⟨rfl, fun q hq => ?_, ?_⟩
    · rw [coreOf_setCore_other _ _ _ _ hq, takeArrived_coreOf]
    · rw [coreOf_setCore_same]; exact ⟨rfl, rfl⟩
  · refine ⟨rfl, fun q _ => takeArrived_coreOf _ _ _, ?_⟩
    rw [takeArrived_coreOf]; exact ⟨rfl, rfl⟩

/-! ## Transfers (R366 to R368) -/

theorem exec_cts_held (hx : arrivedAt s n 0x06 = some x) (hp : physOf s x.pkt.destUnit.toNat = some p) (hl : (coreOf s p).cts.length < 64)
    (hm : memberOfCore s x.pkt.destUnit.toNat = none) :
    exec (.cts n) s = .next (setCore (takeArrived s n) p { coreOf s p with cts := (coreOf s p).cts ++
      [{ node := x.pkt.srcNode, unit := x.pkt.srcUnit, tag := x.pkt.tag, rxn := x.pkt.rxn, size := x.pkt.aux.toNat % 2 ^ 40 }] }) := by
  have none : ∀ c, memberOfCore (setCore (takeArrived s n) p c) x.pkt.destUnit.toNat = none := fun c => by
    rw [← hm, ← memberOfCore_takeArrived s n]
    rfl
  show execCts n s = _
  unfold execCts
  rw [show arrivedAt s n ptCts = some x from hx]
  simp only [destCore, hp, none]
  exact if_neg (Nat.not_le_of_lt hl)

theorem exec_sendData_unknown (hx : arrivedAt s n 0x07 = some x) (hp : postedOf s x.pkt = none) :
    exec (.sendData n) s = .next (dropCount (takeArrived s n) 3) := by
  show execSendData n s = _
  unfold execSendData
  rw [show arrivedAt s n ptSend = some x from hx]
  simp only [hp]

theorem exec_sendData_stores {w : Acc}
    (hw : writeStream (takeArrived s n) (jobTensor x.pkt.destUnit.toNat j 0) x.pkt.addr.toNat (x.pkt.payload.take (post.size - x.pkt.addr.toNat)) = w)
    (hx : arrivedAt s n 0x07 = some x) (hp : postedOf s x.pkt = some (p, post))
    (hj : ((coreOf s p).frq.find? fun j => decide (j.order = post.order)) = some j) (hm : jobMode j ≠ 1) (he : w.2 = none) :
    exec (.sendData n) s = .next (postedGot w.1 p post.rxn x.pkt post.chunk.isSome) := by
  show execSendData n s = _
  unfold execSendData
  rw [show arrivedAt s n ptSend = some x from hx]
  simp only [hp, receiveData, hj, if_neg hm, hw, he]

/-- What a posted receive that got data is: it and no other has counted the bytes (R366). -/
theorem postedGot_effect (s : State) (p : Nat) (rxn : Half) (pk : Packet) (keep : Bool) :
    let t := postedGot s p rxn pk keep
    t = { s with cores := t.cores } ∧ (∀ q, (coreOf t q).spad = (coreOf s q).spad) ∧
      ∀ y ∈ (coreOf t p).posted, y.rxn = rxn → ∃ z ∈ (coreOf s p).posted, z.rxn = rxn ∧ y.got = z.got + pk.payload.length := by
  refine ⟨rfl, fun q => ?_, fun y hy hr => ?_⟩
  · unfold postedGot modCore
    rw [coreOf_setCore]
    split
    · next e => rw [e]
    · rfl
  · unfold postedGot modCore at hy
    rw [coreOf_setCore_same] at hy
    obtain ⟨z, hz, rfl⟩ := List.mem_map.mp hy
    by_cases same : z.rxn = rxn
    · exact ⟨z, hz, same, by rw [if_pos same]⟩
    · rw [if_neg same] at hr
      exact absurd hr same

/-- A WITHDRAW that names a posted receive ends it (R367). -/
theorem exec_withdraw_receive (hx : arrivedAt s n 0x09 = some x) (hp : postedOf s x.pkt = some (p, post)) (ht : post.tag = x.pkt.tag)
    (hc : (coreOf s p).inColl = false) (hj : ((coreOf s p).frq.find? fun j => decide (j.order = post.order)) = some j) :
    exec (.withdraw n) s = .next (programFault (takeArrived s n) x.pkt.destUnit.toNat p (statusOfCode (x.pkt.aux.extractLsb' 0 16)) j.pc) := by
  have named : (postedOf s x.pkt).filter (fun r => decide (r.2.tag = x.pkt.tag)) = some (p, post) := by
    rw [hp]
    exact if_pos (decide_eq_true ht)
  show execWithdraw n s = _
  unfold execWithdraw
  rw [show arrivedAt s n ptWithdraw = some x from hx]
  simp only [named, hc, hj]
  rfl

/-- The CTS of a core that a WITHDRAW names. -/
def namedCts (c : Core) (pk : Packet) : Option HeldCts :=
  c.cts.find? fun y => decide (y.rxn = pk.rxn) && decide (y.tag = pk.tag) && decide (y.node = pk.srcNode) && decide (y.unit = pk.srcUnit)

/-- A join of a collective, without a CTS that a WITHDRAW names (R401). -/
def ctsDiscarded (pk : Packet) (j : Join) : Join :=
  if (match j.cts with
    | some y => decide (y.rxn = pk.rxn) && decide (y.tag = pk.tag) && decide (y.node = pk.srcNode) && decide (y.unit = pk.srcUnit)
    | none => false) then { j with cts := none } else j

theorem posted_notNamed (hp : ∀ r, postedOf s x.pkt = some r → r.2.tag ≠ x.pkt.tag) :
    (postedOf s x.pkt).filter (fun r => decide (r.2.tag = x.pkt.tag)) = none := by
  cases h : postedOf s x.pkt with
  | none => rfl
  | some r => simp [Option.filter, hp r h]

section
variable (hx : arrivedAt s n 0x09 = some x) (hp : ∀ r, postedOf s x.pkt = some r → r.2.tag ≠ x.pkt.tag) (hd : physOf s x.pkt.destUnit.toNat = some p)
include hx hp hd

/-- One that names no receive and no CTS changes the joins of collectives at most. -/
theorem exec_withdraw_none (hn : namedCts (coreOf s p) x.pkt = none) :
    ∃ t, exec (.withdraw n) s = .next t ∧ t = { takeArrived s n with coll := { s.coll with colls := t.coll.colls } } := by
  unfold namedCts at hn
  rw [← takeArrived_coreOf s n] at hn
  refine ⟨{ takeArrived s n with coll := { (takeArrived s n).coll with colls := (takeArrived s n).coll.colls.map fun cl =>
    { cl with joins := cl.joins.map (ctsDiscarded x.pkt) } } }, ?_, by rw [← takeArrived_coll s n]⟩
  show execWithdraw n s = _
  unfold execWithdraw
  rw [show arrivedAt s n ptWithdraw = some x from hx]
  simp only [posted_notNamed hp, destCore, hd, hn]
  rfl

theorem exec_withdraw_cts {y : HeldCts} (hn : namedCts (coreOf s p) x.pkt = some y) :
    exec (.withdraw n) s = .next (ctsWithdrawn (takeArrived s n) x.pkt.destUnit.toNat p y) := by
  unfold namedCts at hn
  rw [← takeArrived_coreOf s n] at hn
  show execWithdraw n s = _
  unfold execWithdraw
  rw [show arrivedAt s n ptWithdraw = some x from hx]
  simp only [posted_notNamed hp, destCore, hd, hn]

end

/-! ## Messages and management packets (R364, R371) -/

theorem exec_mgmt (hx : arrivedAt s n 0x0D = some x) :
    exec (.mgmt n) s = .next { takeArrived s n with fab := { (takeArrived s n).fab with mgmt := s.fab.mgmt ++ [x.pkt] } } := by
  show execMgmt n s = _
  unfold execMgmt
  rw [show arrivedAt s n ptMgmt = some x from hx, ← takeArrived_mgmt s n]

end

/-! ## A CTS that is taken back (R368) -/

/-- The state once a core holds a CTS no more. -/
def ctsGone (s : State) (n p : Nat) (y : HeldCts) : State :=
  setCore (takeArrived s n) p { coreOf s p with cts := dropFirst (fun z => decide (z = y)) (coreOf s p).cts }

/-- Whether a job is the send that a CTS has begun. -/
def sendingFor (s : State) (core p : Nat) (y : HeldCts) (j : Job) : Bool :=
  decide (jobOp j = some .send) && decide (j.st = .started) && decide (matchCts s (coreOf s p) j = some y) && decide (y.size = jobSize core j)
    && !(coreOf s p).inColl

section
variable {s : State} {n p core : Nat} {y : HeldCts} {j : Job}

/-- The CTS that a send matches does not depend on what is taken. -/
theorem matchCts_ctsGone (c : Core) (j : Job) : matchCts (ctsGone s n p y) c j = matchCts s c j := by
  have node : ∀ w, endpointNode (ctsGone s n p y) w = endpointNode s w := fun w => by
    have own : ownNode (ctsGone s n p y) = ownNode s := ownNode_of_rget (takeArrived_rget s n _)
    unfold endpointNode
    rw [own]
  unfold matchCts
  simp only [node]

theorem ctsWithdrawn_eq (s : State) (n core p : Nat) (y : HeldCts) : ctsWithdrawn (takeArrived s n) core p y =
    match (coreOf s p).fsq.head?.filter (sendingFor s core p y) with
    | none => ctsGone s n p y
    | some j => match readStream (ctsGone s n p y) (jobTensor core j 0) with
      | .error _ => ctsGone s n p y
      | .ok bs =>
        let k := freeNat (ctsGone s n p y) % max 1 ((bs.length + 4095) / 4096)
        if k = 0 then tickFree (ctsGone s n p y)
        else programFault (sendData (tickFree (ctsGone s n p y)) core j y.rxn none (decide (jobMode j = 2)) bs (some k)) core p .fabPeerWithdrawn j.pc := by
  have sending : sendingFor s core p y = fun j => decide (jobOp j = some .send) && decide (j.st = .started) &&
      decide (matchCts (ctsGone s n p y) (coreOf s p) j = some y) && decide (y.size = jobSize core j) && !(coreOf s p).inColl := by
    funext j
    rw [matchCts_ctsGone]
    rfl
  rw [sending]
  unfold ctsWithdrawn
  rw [takeArrived_coreOf]
  rfl

theorem ctsWithdrawn_idle (h : (coreOf s p).fsq.head?.filter (sendingFor s core p y) = none) :
    ctsWithdrawn (takeArrived s n) core p y = ctsGone s n p y := by rw [ctsWithdrawn_eq, h]

/-- A send that has begun ends after a free number of its packets (log entry 46). -/
theorem ctsWithdrawn_sending {bs : List Byte} (h : (coreOf s p).fsq.head?.filter (sendingFor s core p y) = some j)
    (hr : readStream (ctsGone s n p y) (jobTensor core j 0) = .ok bs) :
    ∃ k, k < max 1 ((bs.length + 4095) / 4096) ∧ ctsWithdrawn (takeArrived s n) core p y = if k = 0 then tickFree (ctsGone s n p y)
      else programFault (sendData (tickFree (ctsGone s n p y)) core j y.rxn none (decide (jobMode j = 2)) bs (some k)) core p .fabPeerWithdrawn j.pc :=
  ⟨freeNat (ctsGone s n p y) % max 1 ((bs.length + 4095) / 4096), Nat.mod_lt _ (by omega), by rw [ctsWithdrawn_eq, h]; simp only [hr]⟩

end

/-! ## Messages (R371) -/

/-- The counter that an event message names. -/
def msgCounter (pk : Packet) : Nat := (pk.aux.extractLsb' 0 16).toNat

/-- Whether REVT admits an event message. -/
def msgAdmitted (s : State) (pk : Packet) : Bool := rbit s (.fabRevt (msgCounter pk / 256 / 64)) (msgCounter pk / 256 % 64)

theorem msgAdmitted_takeArrived (s : State) (n : Nat) (pk : Packet) : msgAdmitted (takeArrived s n) pk = msgAdmitted s pk := by
  unfold msgAdmitted rbit
  rw [takeArrived_rget]

section
variable {s : State} {n : Nat} {x : InPkt} (hx : arrivedAt s n 0x0A = some x)
include hx

theorem exec_msg_event (hd : x.pkt.destUnit = 0xFFF) (hr : msgAdmitted s x.pkt = true) :
    exec (.msg n) s = .next (if x.pkt.aux.getLsbD 16 then evtRaise (takeArrived s n) (msgCounter x.pkt) ((x.pkt.aux.extractLsb' 32 32).setWidth 64)
      else evtAdd (takeArrived s n) (msgCounter x.pkt) ((x.pkt.aux.extractLsb' 32 32).setWidth 64)) := by
  rw [← msgAdmitted_takeArrived s n] at hr
  show execMsg n s = _
  unfold execMsg
  rw [show arrivedAt s n ptMsg = some x from hx]
  exact (if_pos hd).trans (if_neg (by rw [Bool.not_eq_true', Bool.not_eq_false]; exact hr))

theorem exec_msg_refused (hd : x.pkt.destUnit = 0xFFF) (hr : msgAdmitted s x.pkt = false) :
    exec (.msg n) s = .next (dropCount (takeArrived s n) 2) := by
  rw [← msgAdmitted_takeArrived s n] at hr
  show execMsg n s = _
  unfold execMsg
  rw [show arrivedAt s n ptMsg = some x from hx]
  exact (if_pos hd).trans (if_pos (by rw [Bool.not_eq_true']; exact hr))

theorem exec_msg_steward (hd : x.pkt.destUnit ≠ 0xFFF) (hl : (clusterOf s (x.pkt.destUnit.toNat / 64)).mailbox.length < 64) :
    exec (.msg n) s = .next (setCluster (takeArrived s n) (x.pkt.destUnit.toNat / 64) { clusterOf s (x.pkt.destUnit.toNat / 64) with
      stewardIrq := true
      mailbox := (clusterOf s (x.pkt.destUnit.toNat / 64)).mailbox ++ [{ value := x.pkt.aux, node := x.pkt.srcNode, unit := x.pkt.srcUnit }] }) := by
  rw [← takeArrived_clusterOf s n] at hl ⊢
  show execMsg n s = _
  unfold execMsg
  rw [show arrivedAt s n ptMsg = some x from hx]
  exact (if_neg hd).trans (if_neg (Nat.not_le_of_lt hl))

theorem exec_msg_full (hd : x.pkt.destUnit ≠ 0xFFF) (hl : 64 ≤ (clusterOf s (x.pkt.destUnit.toNat / 64)).mailbox.length) :
    exec (.msg n) s = .next (dropCount (takeArrived s n) 7) := by
  rw [← takeArrived_clusterOf s n] at hl
  show execMsg n s = _
  unfold execMsg
  rw [show arrivedAt s n ptMsg = some x from hx]
  exact (if_neg hd).trans (if_pos hl)

end

/-- An event message advances its counter: it raises it to the value, or adds the value. -/
theorem msg_counters (s : State) (n : Nat) (pk : Packet) :
    ∃ t, (if pk.aux.getLsbD 16 then evtRaise (takeArrived s n) (msgCounter pk) ((pk.aux.extractLsb' 32 32).setWidth 64)
        else evtAdd (takeArrived s n) (msgCounter pk) ((pk.aux.extractLsb' 32 32).setWidth 64)) = t ∧ t = { takeArrived s n with evt := t.evt } ∧
      ∀ k, (evtOf t k).toNat = if k ≠ msgCounter pk then (evtOf s k).toNat
        else if pk.aux.getLsbD 16 then max (evtOf s k).toNat (pk.aux.extractLsb' 32 32).toNat
        else min (2 ^ 64 - 1) ((evtOf s k).toNat + (pk.aux.extractLsb' 32 32).toNat) := by
  have value : ((pk.aux.extractLsb' 32 32).setWidth 64).toNat = (pk.aux.extractLsb' 32 32).toNat := by
    rw [BitVec.toNat_setWidth]
    exact Nat.mod_eq_of_lt (by have := (pk.aux.extractLsb' 32 32).isLt; omega)
  refine ⟨_, rfl, ?_, fun k => ?_⟩
  · split <;> rfl
  · split
    · rw [evtOf_evtRaise, value, takeArrived_evtOf]
      by_cases hk : k = msgCounter pk <;> simp [hk]
    · rw [evtOf_evtAdd, value, takeArrived_evtOf]
      by_cases hk : k = msgCounter pk <;> simp [hk]

/-! ## A request without an answer (R370) -/

theorem exec_fabTimeout_fails {s : State} {core : Fin 4096} {p : Nat} {o : Outst} {j : Job} (hp : liveCore s core = some p)
    (ho : (coreOf s p).outst = [o]) (hl : rfld s .fabReqCtrl 0 32 ≠ 0) (ht : o.sentNs + 1000 * rfld s .fabReqCtrl 0 32 ≤ s.localNs)
    (hj : (((coreOf s p).fsq ++ (coreOf s p).frq).find? fun j => decide (j.order = o.order)) = some j) :
    exec (.fabTimeout core) s = .next (programFault s core.val p .fabTimeout j.pc) := by
  have due : ((coreOf s p).outst.find? fun o => decide (o.sentNs + 1000 * rfld s .fabReqCtrl 0 32 ≤ s.localNs)) = some o := by
    rw [ho]
    exact List.find?_cons_of_pos (decide_eq_true ht)
  show execFabTimeout core s = _
  unfold execFabTimeout
  simp only [hp, due, hj]
  exact if_neg hl

theorem WorkOnly.outst {s t : State} (h : WorkOnly s t) (p : Nat) : (coreOf t p).outst = (coreOf s p).outst := (congrArg Core.outst (h p) :)

theorem WorkOnly.frq {s t : State} (h : WorkOnly s t) (p : Nat) : (coreOf t p).frq = (coreOf s p).frq := (congrArg Core.frq (h p) :)

theorem coresFab_after {s t u : State} (h : u = { t with cores := u.cores, fab := u.fab }) (g : t = { s with cores := t.cores }) :
    u = { s with cores := u.cores, fab := u.fab } := by rw [h, g]

/-- Settles O33: each packet is the equation of its case, and what answers, writes and requests change is said once for each. -/
theorem packetsAtUnits : Obligations.PacketsAtUnits := by
  unfold Obligations.PacketsAtUnits
  intro s n x p j o post u pk core c counts settled
  have drops {i : Instr} {k : Nat} (h : exec i s = .next (dropCount (takeArrived s n) k)) : counts i k := by
    obtain ⟨t, e, rest⟩ := dropCount_effect s n k
    exact ⟨t, h.trans (congrArg _ e), rest⟩
  refine ⟨fun hx => ⟨fun ho hj hw => ?_, fun ho => drops (exec_readResp_unknown hx ho)⟩,
    fun hx => ⟨fun ho hj => ⟨fun hc => ?_, fun hc => ?_⟩, fun ho => drops (exec_resp_unknown hx ho)⟩,
    fun hx hp hl hm => exec_cts_held hx hp hl hm,
    fun hx => ⟨?_, fun hp => drops (exec_sendData_unknown hx hp)⟩,
    fun hx hp hd => ?_, fun hx hp ht hc hj => exec_withdraw_receive hx hp ht hc hj,
    fun hx => ⟨fun hd hr => ?_, fun hd hr => drops (exec_msg_refused hx hd hr), fun hd hl => exec_msg_steward hx hd hl,
      fun hd hl => drops (exec_msg_full hx hd hl)⟩,
    fun hx => exec_mgmt hx, fun core hp ho hl ht hj => exec_fabTimeout_fails hp ho hl ht hj⟩
  · obtain ⟨frame, -, spad, more, requests, fresh⟩ := answeredState_effect (writeStream u (jobTensor core j 0) o.pos pk.payload).1 core p
      (fun y => { y with got := true }) o.txn
    have kept := writeStream_workOnly u (jobTensor core j 0) o.pos pk.payload
    rw [answered_outst (kept.outst p) (kept.frq p), takeArrived_coreOf] at requests
    have now := (writeStream_sameNs u (jobTensor core j 0) o.pos pk.payload).trans (takeArrived_localNs s n)
    rw [now] at fresh
    exact ⟨_, exec_readResp_lands hx ho hj hw, frame, spad, more, requests, fresh⟩
  · exact (exec_resp_known hx ho hj).trans (if_neg hc)
  · obtain ⟨noted, others, outst, frq⟩ := respNoted_effect s n p j pk
    obtain ⟨frame, same, -, more, requests, fresh⟩ := answeredState_effect (respNoted s n p j pk) core p (fun y => { y with resp := true }) o.txn
    rw [answered_outst outst frq] at requests
    have now : (respNoted s n p j pk).localNs = s.localNs := (congrArg State.localNs noted).trans (takeArrived_localNs s n)
    rw [now] at fresh
    exact ⟨_, (exec_resp_known hx ho hj).trans (if_pos hc), coresFab_after frame noted, fun q hq => (same q hq).trans (others q hq), more, requests, fresh⟩
  · intro w hp hj hm he
    exact ⟨_, exec_sendData_stores rfl hx hp hj hm he, postedGot_effect w.1 p post.rxn pk post.chunk.isSome⟩
  · intro named sending
    refine ⟨fun hn => exec_withdraw_none hx hp hd hn, fun y hy => ?_⟩
    intro v
    refine ⟨fun hs => (exec_withdraw_cts hx hp hd hy).trans (congrArg _ (ctsWithdrawn_idle hs)), fun bs hs hr => ?_⟩
    obtain ⟨k, few, ends⟩ := ctsWithdrawn_sending hs hr
    exact ⟨k, few, (exec_withdraw_cts hx hp hd hy).trans (congrArg _ ends)⟩
  · obtain ⟨t, e, rest⟩ := msg_counters s n pk
    exact ⟨t, (exec_msg_event hx hd hr).trans (congrArg _ e), rest⟩

end Sys2Proof.Machine
end

section
/-! PROOFS. The homes of the collective unit: the collectives, the seal table and the records of their commands after an update, and a package
that is sealed (R400, R406, R408, R409). -/
namespace Sys2Proof.Machine

/-! ## Accessors after an update -/

/-- An update that a search does not notice changes what it finds. -/
theorem find?_map_kept {α : Type} {l : List α} {p : α → Bool} {f : α → α} {a : α} (h : l.find? p = some a) (hf : ∀ x, p (f x) = p x) :
    (l.map f).find? p = some (f a) := by
  rw [List.find?_map, show p ∘ f = p from funext hf, h]
  rfl

theorem collOf_key {s : State} {q : Nat} {seq : Word32} {cl : Coll} (h : collOf s q seq = some cl) : cl.q = q ∧ cl.seq = seq := by
  simpa using List.find?_some h

theorem entryOf_ref {s : State} {ref : Word64} {e : SealEntry} (h : entryOf s ref = some e) : e.ref = ref := by
  simpa using List.find?_some h

theorem flightOf_seq {s : State} {q : Nat} {seq : Word32} {f : Flight} (h : flightOf s q seq = some f) : f.cmd.seq = seq := by
  simpa using List.find?_some h

/-- A collective that is put in its place is found there. -/
theorem collOf_putColl {s : State} {cl old : Coll} (h : collOf s cl.q cl.seq = some old) : collOf (putColl s cl) cl.q cl.seq = some cl := by
  have placed := find?_map_kept (f := fun c => if c.q = cl.q ∧ c.seq = cl.seq then cl else c) h fun c => by
    split
    · next same => simp [same]
    · rfl
  rwa [if_pos (collOf_key h)] at placed

/-- Of two collectives that are put in one place the second stays. -/
theorem putColl_putColl (s : State) {a b : Coll} (hq : a.q = b.q) (hs : a.seq = b.seq) : putColl (putColl s a) b = putColl s b := by
  have both (c : Coll) : (if (if c.q = a.q ∧ c.seq = a.seq then a else c).q = b.q ∧ (if c.q = a.q ∧ c.seq = a.seq then a else c).seq = b.seq
      then b else if c.q = a.q ∧ c.seq = a.seq then a else c) = if c.q = b.q ∧ c.seq = b.seq then b else c := by
    by_cases h : c.q = b.q ∧ c.seq = b.seq <;> simp [hq, hs, h]
  simp [putColl, both]

/-- An entry of the seal table after a change that keeps its reference. -/
theorem entryOf_modEntry {s : State} {ref : Word64} {e : SealEntry} {f : SealEntry → SealEntry} (h : entryOf s ref = some e)
    (hf : ∀ x, x.ref = ref → (f x).ref = ref) : entryOf (modEntry s ref f) ref = some (f e) := by
  have changed := find?_map_kept (f := fun x => if x.ref = ref then f x else x) h fun x => by
    split
    · next same => simp [same, hf x same]
    · rfl
  rwa [if_pos (entryOf_ref h)] at changed

/-- The record of a command in flight after a change that keeps the command. -/
theorem FlightIs.flightOf {s t : State} {q : Nat} {seq : Word32} {g : Flight → Flight} (h : FlightIs s t q seq g) (hg : ∀ x, (g x).cmd = x.cmd)
    {f : Flight} (hf : flightOf s q seq = some f) : flightOf t q seq = some (g f) := by
  obtain ⟨here, -⟩ := h
  have changed := find?_map_kept (f := fun x => if x.cmd.seq = seq then g x else x) hf fun x => by
    split
    · rw [hg]
    · rfl
  rw [if_pos (flightOf_seq hf)] at changed
  rw [Machine.flightOf, here]
  exact changed

theorem flightOf_modFlight {s : State} {q : Nat} {seq : Word32} {f : Flight} (h : flightOf s q seq = some f) {g : Flight → Flight}
    (hg : ∀ x, (g x).cmd = x.cmd) : flightOf (modFlight s q seq g) q seq = some (g f) :=
  (modFlight_is s q seq g).1.flightOf hg h

theorem ownNode_congr {s t : State} (h : t.regs = s.regs) : ownNode t = ownNode s := by
  unfold ownNode rfld rget
  rw [h]

/-! ## The seal (R406, R409) -/

/-- From s to t the package of a collective is sealed, and its command is done (R406, R409). -/
structure Sealed (s t : State) (cl : Coll) : Prop where
  entry  : ∃ e, entryOf t cl.ref = some e ∧ e.st = .sealedOk ∧ e.attempt = cl.attempt
  count  : rget t (.cumCtr 7) = rget s (.cumCtr 7) + 1
  flight : ∀ g, flightOf s cl.q cl.seq = some g → ∃ h, flightOf t cl.q cl.seq = some h ∧ h.done = true ∧
    h.status = if cl.fallback then .cumFallback else g.status

theorem sealPackage_frame (s : State) (cl : Coll) :
    sealPackage s cl = { s with regs := (sealPackage s cl).regs, queues := (sealPackage s cl).queues
                                coll := { s.coll with entries := (sealPackage s cl).coll.entries } } := by
  unfold sealPackage
  split
  · rfl
  · split <;> rfl

/-- A package whose entry is open is sealed (R406). -/
theorem sealPackage_seals {s : State} {cl : Coll} {e : SealEntry} (he : entryOf s cl.ref = some e) (ho : e.st = .opened)
    (ha : e.attempt = cl.attempt) : Sealed s (sealPackage s cl) cl ∧ RegsBut s (sealPackage s cl) [.cumCtr 7] := by
  have guard : ¬ (e.st ≠ .opened ∨ e.attempt ≠ cl.attempt) := not_or.mpr ⟨not_not_intro ho, not_not_intro ha⟩
  have seals : sealPackage s cl = modFlight (rbump (modEntry s cl.ref fun e => { e with st := .sealedOk, endNs := s.localNs }) (.cumCtr 7) 1)
      cl.q cl.seq fun f => { f with done := true, status := if cl.fallback then .cumFallback else f.status } := by
    simp only [sealPackage, he, if_neg guard]
  rw [seals]
  refine ⟨⟨⟨_, entryOf_modEntry he fun x hx => hx, rfl, ha⟩, ?_, fun g hg => ⟨_, flightOf_modFlight hg fun _ => rfl, rfl, rfl⟩⟩, ?_⟩
  · exact rget_rbump_same _ _ _
  · exact fun r hr => rget_rbump_other _ 1 (hr _ (by simp))

end Sys2Proof.Machine
end

section
/-! PROOFS. Confirm and seal tokens (R406, R407): the statement O36. -/
namespace Sys2Proof.Machine

/-! ## A token goes on -/

/-- The word that tells the two tokens apart (R406). -/
def tokenWord (isSeal : Bool) : Word64 := if isSeal then 0xFFFFFFFF00000000 else 0xFFFFFFFE00000000

/-- From s to t one packet more stands at the switch, the token of a collective that the package sends on. -/
def TokenSent (s t : State) (cl : Coll) (isSeal : Bool) : Prop :=
  ∃ y, t.fab.sw = s.fab.sw ++ [y] ∧ y.pkt.ptype = 0x08 ∧ y.pkt.payload = [] ∧ y.pkt.aux = tokenWord isSeal ∧ y.pkt.addr = cl.ref ∧
    y.pkt.destUnit = 0xFFF ∧ y.pkt.srcNode = ownNode s

theorem sendToken_sends {s t : State} (cl : Coll) (isSeal : Bool) (hsw : t.fab.sw = s.fab.sw) (hn : ownNode t = ownNode s) :
    TokenSent s (sendToken t cl isSeal) cl isSeal :=
  ⟨_, congrArg (· ++ _) hsw, rfl, rfl, rfl, rfl, rfl, hn⟩

/-! ## A token arrives -/

theorem tokenColl_spec {s : State} {pk : Packet} {cl : Coll} {e : SealEntry} (h : tokenColl s pk = some (cl, e)) :
    entryOf s cl.ref = some e ∧ e.attempt = cl.attempt := by
  unfold tokenColl at h
  split at h
  · next entry coll he hc =>
    have ref : coll.ref = pk.addr := by
      have found := List.find?_some hc
      simp only [Bool.and_eq_true, decide_eq_true_eq] at found
      exact found.1
    split at h
    · next attempt =>
      cases h
      exact ⟨by rw [ref]; exact he, attempt⟩
    · cases h
  · cases h

/-- What a package that is not the first knows of a collective while it holds its confirm token (R406). -/
def holdingToken (s : State) (cl : Coll) : Coll := { progress cl s with confirmAt := true, confirmSent := false }

/-- What a package knows of a collective once it has sent its token on (R407). -/
def tokenPassed (s : State) (cl : Coll) : Coll := { cl with confirmSent := true, tokenNs := s.localNs }

section
variable {s : State} {cl : Coll}

theorem confirmStep_waits (hc : allConfirmed s cl = false) : confirmStep s cl = s := by
  simp [confirmStep, hc]

theorem confirmStep_passes (hc : allConfirmed s cl = true) (hs : cl.confirmSent = false) (ha : cl.confirmAt = true) (hp : 1 < (packagesOf cl).length) :
    confirmStep s cl = sendToken (putColl s (tokenPassed s cl)) cl false := by
  have several : ¬ (packagesOf cl).length ≤ 1 := by omega
  simp [confirmStep, hc, hs, ha, several, tokenPassed]

end

section
variable {s u : State} {n : Nat} {x : InPkt} {cl : Coll} {e : SealEntry}
  (hu : takeArrived s n = u) (hx : arrivedAt s n 0x08 = some x) (hk : isToken x.pkt = true) (hc : tokenColl u x.pkt = some (cl, e))
include hu hx hk hc

/-- A confirm token at a package that is not the first: it is held, and goes on once everything is confirmed. -/
theorem exec_confirmToken_held (ha : x.pkt.aux = tokenWord false) (hf : isFirst u cl = false) (ho : e.st = .opened) :
    exec (.confirmToken n) s = .next (confirmStep (putColl u (holdingToken u cl)) (holdingToken u cl)) := by
  have first : isFirst (putColl u (progress cl u)) (progress cl u) = false := hf
  have guard : ¬ ((!isToken x.pkt) = true ∨ x.pkt.aux ≠ 0xFFFFFFFE00000000) := by simp [hk, ha, tokenWord]
  show execConfirmToken n s = _
  unfold execConfirmToken
  rw [show arrivedAt s n ptChunk = some x from hx]
  simp only [if_neg guard, hu, hc, first, ho, true_or, if_true, Bool.false_eq_true, if_false]
  exact congrArg (fun t => Host.Outcome.next (confirmStep t (holdingToken u cl))) (putColl_putColl u rfl rfl)

/-- A confirm token that comes back to the first package seals it, and a seal token goes out. -/
theorem exec_confirmToken_seals (ha : x.pkt.aux = tokenWord false) (hf : isFirst u cl = true) (ho : e.st = .opened) (hs : cl.confirmSent = true) :
    exec (.confirmToken n) s =
      .next (sendToken (sealPackage (putColl u { progress cl u with tokenNs := u.localNs }) (progress cl u)) (progress cl u) true) := by
  have first : isFirst (putColl u (progress cl u)) (progress cl u) = true := hf
  have sent : e.st = .opened ∧ (progress cl u).confirmSent = true := ⟨ho, hs⟩
  have guard : ¬ ((!isToken x.pkt) = true ∨ x.pkt.aux ≠ 0xFFFFFFFE00000000) := by simp [hk, ha, tokenWord]
  show execConfirmToken n s = _
  unfold execConfirmToken
  rw [show arrivedAt s n ptChunk = some x from hx]
  simp only [if_neg guard, hu, hc, first, if_pos sent, if_true]
  exact congrArg (fun t => Host.Outcome.next (sendToken (sealPackage t (progress cl u)) (progress cl u) true)) (putColl_putColl u rfl rfl)

/-- A seal token at a package that is not the first seals it and goes on. -/
theorem exec_sealToken_seals (ha : x.pkt.aux = tokenWord true) (hf : isFirst u cl = false) (ho : e.st = .opened) :
    exec (.sealToken n) s = .next (sendToken (sealPackage (putColl u (progress cl u)) cl) cl true) := by
  have first : isFirst (putColl u (progress cl u)) cl = false := hf
  have guard : ¬ ((!isToken x.pkt) = true ∨ x.pkt.aux ≠ 0xFFFFFFFF00000000) := by simp [hk, ha, tokenWord]
  show execSealToken n s = _
  unfold execSealToken
  rw [show arrivedAt s n ptChunk = some x from hx]
  simp only [if_neg guard, hu, hc, first, ho, if_true, Bool.false_eq_true, if_false]

/-- A seal token at the first package ends the pass (R407). -/
theorem exec_sealToken_ends (ha : x.pkt.aux = tokenWord true) (hf : isFirst u cl = true) :
    exec (.sealToken n) s = .next (putColl u { progress cl u with passEnded := true }) := by
  have first : isFirst (putColl u (progress cl u)) cl = true := hf
  have guard : ¬ ((!isToken x.pkt) = true ∨ x.pkt.aux ≠ 0xFFFFFFFF00000000) := by simp [hk, ha, tokenWord]
  show execSealToken n s = _
  unfold execSealToken
  rw [show arrivedAt s n ptChunk = some x from hx]
  simp only [if_neg guard, hu, hc, first, if_true]
  exact congrArg Host.Outcome.next (putColl_putColl u rfl rfl)

end

/-- The latest token of a pass is sent again (R407). -/
theorem exec_tokenResend {s : State} {q : Fin 4096} {seq : Word32} {cl : Coll} {e : SealEntry} (hc : collOf s q.val seq = some cl)
    (he : entryOf s cl.ref = some e) (hf : isFirst s cl = true) (hs : cl.confirmSent = true) (hp : cl.passEnded = false)
    (ha : e.attempt = cl.attempt) (ho : e.st = .opened ∨ e.st = .sealedOk) (ht : cl.tokenNs + 100000 ≤ s.localNs) :
    exec (.tokenResend q seq) s = .next (sendToken (putColl s { cl with tokenNs := s.localNs }) cl (decide (e.st = .sealedOk))) := by
  have guard : (isFirst s cl && cl.confirmSent && !cl.passEnded && decide (e.attempt = cl.attempt)
      && (decide (e.st = .opened) || decide (e.st = .sealedOk)) && decide (cl.tokenNs + 100000 ≤ s.localNs)) = true := by
    simp [hf, hs, hp, ha, ho, ht]
  show execTokenResend q seq s = _
  simp only [execTokenResend, hc, he, if_pos guard]

/-! ## The statement -/

/-- A package that is sealed from a state with the entries, the records of commands and the count of s is sealed from s. -/
theorem Sealed.of_same {s u t : State} {cl : Coll} (h : Sealed u t cl) (hq : u.queues = s.queues) (hr : u.regs = s.regs) : Sealed s t cl where
  entry := h.entry
  count := by rw [h.count]; unfold rget; rw [hr]
  flight := fun g hg => h.flight g (by unfold flightOf queueOf; rw [hq]; exact hg)

/-- A package is sealed and the seal token goes on: from a state that differs from s in the fabric and in the collectives, and holds the
entries of s. -/
theorem seal_and_send {s u : State} {cl : Coll} {e : SealEntry} (he : entryOf s cl.ref = some e) (ho : e.st = .opened)
    (ha : e.attempt = cl.attempt) (hu : u = { s with fab := u.fab, coll := u.coll }) (hent : u.coll.entries = s.coll.entries)
    (hsw : u.fab.sw = s.fab.sw) :
    TokenSent s (sendToken (sealPackage u cl) cl true) cl true ∧ Sealed s (sendToken (sealPackage u cl) cl true) cl := by
  have entry : entryOf u cl.ref = some e := by rw [entryOf, hent]; exact he
  obtain ⟨done, regs⟩ := sealPackage_seals entry ho ha
  have node : ownNode (sealPackage u cl) = ownNode s := by
    unfold ownNode rfld
    rw [regs .fabNodeId (by simp [regOffset]), hu]
    rfl
  have packets : (sealPackage u cl).fab.sw = s.fab.sw := by rw [sealPackage_frame]; exact hsw
  refine ⟨sendToken_sends cl true packets node, ?_⟩
  have kept := done.of_same (s := s) (by rw [hu]) (by rw [hu])
  exact ⟨kept.entry, kept.count, kept.flight⟩

/-- Settles O36: the row of each token is the equation of its case, and what a seal and a token that goes on leave is said once. -/
theorem tokens : Obligations.Tokens := by
  unfold Obligations.Tokens
  intro s n x cl e q seq u confirm sealWord token held sealed
  have hu : takeArrived s n = u := rfl
  have packets : u.fab.sw = s.fab.sw := takeArrived_sw s n
  have frame : u = { s with fab := u.fab } := takeArrived_fabricOnly s n
  clear_value u
  obtain ⟨fab, rfl⟩ : ∃ fab, u = { s with fab := fab } := ⟨_, frame⟩
  refine ⟨fun hx hk hc _ => ⟨fun ha hf ho hp => ⟨fun hall => ?_, fun hall => ?_⟩, fun ha hf ho hs => ?_, fun ha hf ho => ?_, fun ha hf => ?_⟩,
    fun hc he hf hs hp ha ho ht => ?_⟩
  · refine ⟨_, (exec_confirmToken_held hu hx hk hc ha hf ho).trans (congrArg _ (confirmStep_passes hall rfl rfl hp)),
      sendToken_sends _ false packets rfl, ?_, rfl, rfl⟩
    exact congrArg (fun t : State => t.coll.colls) (putColl_putColl { s with fab := fab } (a := holdingToken { s with fab := fab } cl)
      (b := tokenPassed s (holdingToken { s with fab := fab } cl)) rfl rfl)
  · exact ⟨_, (exec_confirmToken_held hu hx hk hc ha hf ho).trans (congrArg _ (confirmStep_waits hall)), rfl, rfl, rfl⟩
  · obtain ⟨entry, attempt⟩ := tokenColl_spec hc
    obtain ⟨sent, done⟩ := seal_and_send (s := s) (u := putColl { s with fab := fab } { progress cl s with tokenNs := s.localNs })
      (cl := progress cl s) entry ho attempt rfl rfl packets
    exact ⟨_, exec_confirmToken_seals hu hx hk hc ha hf ho hs, sent, done.entry, done.count, done.flight⟩
  · obtain ⟨entry, attempt⟩ := tokenColl_spec hc
    obtain ⟨sent, done⟩ := seal_and_send (s := s) (u := putColl { s with fab := fab } (progress cl s)) (cl := cl) entry ho attempt rfl rfl packets
    exact ⟨_, exec_sealToken_seals hu hx hk hc ha hf ho, sent, done.entry, done.count, done.flight⟩
  · exact ⟨_, exec_sealToken_ends hu hx hk hc ha hf, rfl, rfl, rfl⟩
  · refine ⟨_, exec_tokenResend hc he hf hs hp ha ho ht, ?_, rfl, rfl⟩
    have word : tokenWord (decide (e.st = .sealedOk)) = if e.st = .sealedOk then sealWord else confirm := by
      by_cases h : e.st = .sealedOk <;> simp [h, tokenWord, sealWord, confirm]
    obtain ⟨y, sw, ptype, payload, aux, rest⟩ := sendToken_sends (s := s) (t := putColl s { cl with tokenNs := s.localNs }) cl
      (decide (e.st = .sealedOk)) rfl rfl
    exact ⟨y, sw, ptype, payload, aux.trans word, rest⟩

end Sys2Proof.Machine
end

section
/-! PROOFS. How the members of a collective end that fails, and what its command is told (R409, R411 to R413, R603). -/
namespace Sys2Proof.Machine

/-! ## The members' programs end (R413) -/

/-- From s to t programs of members end: cores, requests in the park queues and packets that the package sends change at most, and no packet
leaves the switch. -/
structure ProgramsEnd (s t : State) : Prop where
  frame : t = { s with cores := t.cores, stks := t.stks, fab := t.fab }
  sent  : ∀ y ∈ s.fab.sw, y ∈ t.fab.sw

theorem ProgramsEnd.refl (s : State) : ProgramsEnd s s := ⟨rfl, fun _ h => h⟩

theorem ProgramsEnd.after {s t u : State} (h : ProgramsEnd t u) (g : ProgramsEnd s t) : ProgramsEnd s u :=
  ⟨by rw [h.frame, g.frame], fun y hy => h.sent y (g.sent y hy)⟩

theorem ProgramsEnd.fold {α : Type} {f : State → α → State} (h : ∀ s x, ProgramsEnd s (f s x)) (l : List α) (s : State) :
    ProgramsEnd s (l.foldl f s) := by
  induction l generalizing s with
  | nil => exact .refl s
  | cons x l ih => exact (ih _).after (h s x)

theorem parkForget_programsEnd (s : State) (t : Nat × Nat → Bool) : ProgramsEnd s (parkForget s t) := by
  rw [parkForget_frame]
  exact ⟨rfl, fun _ h => h⟩

theorem sendWithdraw_programsEnd (s : State) (core : Nat) (node : Half) (unit : BitVec 12) (vc : BitVec 3) (tag rxn : Half) (st : Status) :
    ProgramsEnd s (sendWithdraw s core node unit vc tag rxn st) :=
  ⟨rfl, fun _ hy => List.mem_append_left _ hy⟩

theorem freeMemberCore_programsEnd (s : State) (m : Member) (st : Status) : ProgramsEnd s (freeMemberCore s m st) := by
  unfold freeMemberCore
  split
  · exact .refl s
  · dsimp only
    split
    · exact ⟨rfl, fun _ h => h⟩
    · exact .refl s

/-- A local member's program ends: nothing of it waits, what it posted is withdrawn, and its core is idle. -/
def endMember (cl : Coll) (st : Status) (s : State) (i : Nat) : State :=
  let m := memberAt cl i
  let s := parkForget s fun o => decide (o.1 = collOrigin + cl.q) && decide (o.2 / 4 = memberOrder cl i 0 / 4)
  let s := match physOf s m.unit.toNat with
    | none => s
    | some p => if (coreOf s p).inColl then (coreOf s p).posted.foldl (fun s (x : Posted) =>
        sendWithdraw s m.unit.toNat x.node x.unit x.vc x.tag x.rxn .fabPeerWithdrawn) s else s
  freeMemberCore s m st

theorem endMember_programsEnd (cl : Coll) (st : Status) (s : State) (i : Nat) : ProgramsEnd s (endMember cl st s i) := by
  unfold endMember
  dsimp only
  refine (freeMemberCore_programsEnd _ _ _).after (ProgramsEnd.after ?_
    (parkForget_programsEnd s fun o => decide (o.1 = collOrigin + cl.q) && decide (o.2 / 4 = memberOrder cl i 0 / 4)))
  split
  · exact .refl _
  · split
    · exact .fold (fun _ _ => sendWithdraw_programsEnd _ _ _ _ _ _ _ _) _ _
    · exact .refl _

/-- The local members whose programs can end now: those whose cluster runs or whose die is lost (R603). -/
def endsNow (s : State) (cl : Coll) : List Nat :=
  (ownMembers s cl).filter fun i =>
    !(memberAt cl i).ended && (clusterRuns s ((memberAt cl i).unit.toNat / 64) || !dieServes s ((memberAt cl i).unit.toNat / 1024))

/-- What the package keeps of a collective once the programs have ended that can. -/
def membersEnded (s : State) (cl : Coll) : Coll :=
  { cl with joins := [], waitNs := (endsNow s cl).foldl (fun w i => max w (s.localNs - (memberAt cl i).sinceNs)) cl.waitNs
            members := cl.members.mapIdx fun i m => if (endsNow s cl).contains i then { m with ended := true } else m }

/-- The programs end that can, and then the package keeps that of the collective. -/
theorem stopMembers_ends (s : State) (cl : Coll) (st : Status) :
    ∃ u, ProgramsEnd s u ∧ stopMembers s cl st = putColl u (membersEnded s cl) := by
  have ends : ProgramsEnd s ((endsNow s cl).foldl (endMember cl st) s) := .fold (endMember_programsEnd cl st) _ s
  have now : ((endsNow s cl).foldl (endMember cl st) s).localNs = s.localNs := by rw [ends.frame]
  refine ⟨_, ends, ?_⟩
  unfold membersEnded
  rw [← now]
  rfl

/-! ## What a collective that fails leaves alone -/

/-- From s to t collectives fail: beside what ends with their programs, records of commands and what the package keeps of collectives change
at most. -/
structure CollsFail (s t : State) : Prop where
  frame : t = { s with cores := t.cores, stks := t.stks, fab := t.fab, queues := t.queues, coll := { s.coll with colls := t.coll.colls } }
  sent  : ∀ y ∈ s.fab.sw, y ∈ t.fab.sw

theorem CollsFail.after {s t u : State} (h : CollsFail t u) (g : CollsFail s t) : CollsFail s u :=
  ⟨by rw [h.frame, g.frame], fun y hy => h.sent y (g.sent y hy)⟩

theorem CollsFail.fold {α : Type} {f : State → α → State} (h : ∀ s x, CollsFail s (f s x)) (l : List α) (s : State) :
    CollsFail s (l.foldl f s) := by
  induction l generalizing s with
  | nil => exact ⟨rfl, fun _ h => h⟩
  | cons x l ih => exact (ih _).after (h s x)

theorem CollsFail.entryOf {s t : State} (h : CollsFail s t) (ref : Word64) : entryOf t ref = entryOf s ref := by
  unfold Machine.entryOf
  rw [h.frame]

theorem stopMembers_collsFail (s : State) (cl : Coll) (st : Status) : CollsFail s (stopMembers s cl st) := by
  obtain ⟨u, ends, e⟩ := stopMembers_ends s cl st
  rw [e]
  exact ⟨by rw [putColl, ends.frame], ends.sent⟩

/-- The record of a command whose collective failed with a status (R409). -/
def failedWith (st : Status) (f : Flight) : Flight :=
  { f with done := true, status := if f.status = .success ∨ f.status = .shardNewer then st else f.status }

theorem collFailed_collsFail (s : State) (cl : Coll) (st : Status) : CollsFail s (collFailed s cl st) := by
  unfold collFailed
  dsimp only
  have stopped := stopMembers_collsFail s { cl with failing := some (cl.failing.getD st) } (cl.failing.getD st)
  split
  · exact stopped
  · split
    · exact .after (t := stopMembers s { cl with failing := some (cl.failing.getD st) } (cl.failing.getD st)) ⟨rfl, fun _ h => h⟩ stopped
    · exact stopped

/-! ## The command of a collective that fails (R409) -/

/-- Every local member whose program still runs can end it now: its cluster runs, or its die is lost (R603). -/
def CanEnd (s : State) (cl : Coll) : Prop :=
  ∀ i ∈ ownMembers s cl, (memberAt cl i).ended = false →
    clusterRuns s ((memberAt cl i).unit.toNat / 64) = true ∨ dieServes s ((memberAt cl i).unit.toNat / 1024) = false

theorem memberAt_mapIdx (cl : Coll) (f : Nat → Member → Member) {i : Nat} (hi : i < cl.size) :
    memberAt { cl with members := cl.members.mapIdx f } i = f i (memberAt cl i) := by
  have here : cl.members[i]? = some cl.members[i] := List.getElem?_eq_getElem hi
  simp [memberAt, List.getD_eq_getElem?_getD, here]

theorem lt_size_of_mem_ownMembers {s : State} {cl : Coll} {i : Nat} (h : i ∈ ownMembers s cl) : i < cl.size := by
  have range := (List.mem_filter.mp h).1
  rw [mem_upto] at range
  omega

theorem membersEnded_ended {s t : State} {cl : Coll} (h : CanEnd s cl) (ht : ownNode t = ownNode s) :
    (ownMembers t (membersEnded s cl)).all (fun i => (memberAt (membersEnded s cl) i).ended) = true := by
  rw [List.all_eq_true]
  intro i hi
  have small : i < cl.size := by
    have := lt_size_of_mem_ownMembers hi
    rwa [Coll.size, membersEnded, List.length_mapIdx] at this
  have member : memberAt (membersEnded s cl) i =
      if (endsNow s cl).contains i then { memberAt cl i with ended := true } else memberAt cl i := memberAt_mapIdx cl _ small
  have own : i ∈ ownMembers s cl := by
    have here := (List.mem_filter.mp hi).2
    refine List.mem_filter.mpr ⟨mem_upto.mpr ⟨Nat.zero_le _, by omega⟩, ?_⟩
    rw [isLocal, ht, member] at here
    rw [isLocal]
    split at here <;> exact here
  rw [member]
  split
  · rfl
  · next stays =>
    cases he : (memberAt cl i).ended with
    | true => rfl
    | false =>
      refine absurd ?_ stays
      rw [List.contains_iff_mem]
      refine List.mem_filter.mpr ⟨own, ?_⟩
      rcases h i own he with runs | lost
      · simp [he, runs]
      · simp [he, lost]

/-- The command of a collective that fails with its first status is done with it, where every program can end. -/
theorem collFailed_done {s : State} {cl : Coll} {st : Status} (hc : (collOf s cl.q cl.seq).isSome = true) (hf : cl.failing = none)
    (hr : CanEnd s cl) : ∃ u, u.queues = s.queues ∧ (collOf u cl.q cl.seq).isSome = true ∧ collFailed s cl st = modFlight u cl.q cl.seq (failedWith st) := by
  let failing : Coll := { cl with failing := some st }
  obtain ⟨old, hc⟩ := Option.isSome_iff_exists.mp hc
  have stopped := stopMembers_collsFail s failing st
  obtain ⟨u, ends, e⟩ := stopMembers_ends s failing st
  have found : collOf (stopMembers s failing st) cl.q cl.seq = some (membersEnded s failing) := by
    rw [e]
    exact collOf_putColl (cl := membersEnded s failing) (old := old) (by rw [ends.frame]; exact hc)
  have all := membersEnded_ended (s := s) (t := stopMembers s failing st) (cl := failing) hr (ownNode_congr (by rw [stopped.frame]))
  refine ⟨stopMembers s failing st, by rw [e, ends.frame]; rfl, by rw [found]; rfl, ?_⟩
  unfold collFailed
  simp only [hf, Option.getD_none]
  rw [found]
  exact if_pos all

/-- However often a collective fails with one status, its command is done with that status. -/
theorem foldl_collFailed_done {cl : Coll} {st : Status} (hf : cl.failing = none) (l : List Coll) (hl : ∀ c ∈ l, c = cl) {s : State} {f : Flight}
    (hc : (collOf s cl.q cl.seq).isSome = true) (hr : CanEnd s cl) (hg : flightOf s cl.q cl.seq = some f)
    (hs : l ≠ [] ∧ f.status = .success ∨ f.done = true ∧ f.status = st) :
    ∃ g, flightOf (l.foldl (fun s c => collFailed s c st) s) cl.q cl.seq = some g ∧ g.done = true ∧ g.status = st := by
  induction l generalizing s f with
  | nil =>
    rcases hs with ⟨some, -⟩ | done
    · exact absurd rfl some
    · exact ⟨f, hg, done⟩
  | cons c l ih =>
    obtain rfl : c = cl := hl c (by simp)
    obtain ⟨u, queues, known, e⟩ := collFailed_done (st := st) hc hf hr
    have before : flightOf u c.q c.seq = some f := by rw [flightOf, queueOf, queues]; exact hg
    have frame := (collFailed_collsFail s c st).frame
    rw [List.foldl_cons]
    refine ih (fun x hx => hl x (by simp [hx])) (f := failedWith st f) (by rw [e]; exact known) ?_ ?_ (.inr ⟨rfl, ?_⟩)
    · rw [frame]; exact hr
    · rw [e]; exact flightOf_modFlight before fun _ => rfl
    · rcases hs with ⟨-, success⟩ | ⟨-, same⟩
      · exact if_pos (.inl success)
      · show (if f.status = .success ∨ f.status = .shardNewer then st else f.status) = st
        rw [same, ite_self]

end Sys2Proof.Machine
end

section
/-! PROOFS. Taint (R405, R411 to R415, R420): the entry that a taint leaves, the packet that carries it, and the statement O35. -/
namespace Sys2Proof.Machine

/-! ## The entry (R411, R413, R420) -/

/-- The first taint is kept (R420). -/
def taintNoted (s : State) (ref : Word64) (attempt : Byte) (chunk : Word32) (reason : Half) : State :=
  if rbit s .cumTaint1 63 then s else
    rset (rset s .cumTaint0 ref) .cumTaint1
      (BitVec.ofNat 64 (fields [(63, 1), (48, attempt.toNat), (32, reason.toNat), (0, chunk.toNat)]))

theorem taintNoted_frame (s : State) (ref : Word64) (attempt : Byte) (chunk : Word32) (reason : Half) :
    taintNoted s ref attempt chunk reason = { s with regs := (taintNoted s ref attempt chunk reason).regs } ∧
      RegsBut s (taintNoted s ref attempt chunk reason) [.cumTaint0, .cumTaint1] := by
  unfold taintNoted
  split
  · exact ⟨rfl, .refl s _⟩
  · exact ⟨rfl, fun r hr => (rget_rset_other _ _ _ _ (hr _ (by simp))).trans (rget_rset_other _ _ _ _ (hr _ (by simp)))⟩

/-- Where none is kept yet, CUM_TAINT0 names the collective. -/
theorem rget_taintNoted {s : State} (h : rbit s .cumTaint1 63 = false) (ref : Word64) (attempt : Byte) (chunk : Word32) (reason : Half) :
    rget (taintNoted s ref attempt chunk reason) .cumTaint0 = ref := by
  rw [taintNoted, if_neg (by rw [h]; exact Bool.false_ne_true), rget_rset_other _ _ _ _ (by decide), rget_rset_same]

/-- The entry that a taint gives a reference. -/
def taintedEntry (s : State) (ref : Word64) (attempt : Byte) (reason : Half) (own : Bool) : SealEntry :=
  { ref := ref, attempt := attempt, st := (taintEffect reason own).1, reason := reason, status := (taintEffect reason own).2, openNs := s.localNs, endNs := s.localNs }

/-- A taint is put on the seal table; a new entry takes the place of an old one (R408, R413). -/
def entryTainted (s : State) (ref : Word64) (attempt : Byte) (reason : Half) (own : Bool) : State :=
  match entryOf s ref with
  | none =>
    if sealUsed (sealEvict s ref) < 1024 ∨ (sealDue (sealEvict s ref)).contains ref then { sealEvict s ref with
      coll := { (sealEvict s ref).coll with entries := (sealEvict s ref).coll.entries ++ [taintedEntry s ref attempt reason own] } }
    else sealEvict s ref
  | some e =>
    if e.st = .opened ∨ e.attempt.toNat < attempt.toNat then
      modEntry s ref fun e => { taintedEntry s ref attempt reason own with openNs := e.openNs }
    else s

/-- The collectives of a reference that a taint of an attempt ends. -/
def taintEnds (s : State) (ref : Word64) (attempt : Byte) : List Coll :=
  s.coll.colls.filter fun c => decide (c.ref = ref) && decide (c.attempt.toNat ≤ attempt.toNat) && collOpen s c

/-- A taint is noted and put on the table, and then the collectives of its reference fail. -/
theorem applyTaint_eq (s : State) (ref : Word64) (attempt : Byte) (chunk : Word32) (reason : Half) (own : Bool) :
    applyTaint s ref attempt chunk reason own =
      (taintEnds (entryTainted (taintNoted s ref attempt chunk reason) ref attempt reason own) ref attempt).foldl
        (fun s c => collFailed s c (taintEffect reason own).2) (entryTainted (taintNoted s ref attempt chunk reason) ref attempt reason own) := rfl

section
variable {s : State} {ref : Word64} (attempt : Byte) (reason : Half) (own : Bool)

/-- An open entry takes the taint. -/
theorem entryTainted_open {e : SealEntry} (he : entryOf s ref = some e) (ho : e.st = .opened) :
    entryTainted s ref attempt reason own = modEntry s ref fun e => { taintedEntry s ref attempt reason own with openNs := e.openNs } := by
  rw [entryTainted, he]
  exact if_pos (.inl ho)

/-- A reference that the table does not know gets an entry while there is room. -/
theorem entryTainted_unknown (he : entryOf s ref = none) (hr : sealUsed s < 1024) :
    entryTainted s ref attempt reason own =
      { s with coll := { s.coll with entries := s.coll.entries ++ [taintedEntry s ref attempt reason own] } } := by
  have kept : sealEvict s ref = s := if_pos (.inl hr)
  rw [entryTainted, he, kept]
  exact if_pos (.inl hr)

end

/-! ## A cause on the package (R411) -/

/-- From s to t one reference's taint goes out along broadcast tree 1 (R411). -/
def TaintSent (s t : State) : Prop :=
  ∃ y ∈ t.fab.sw, y.pkt.ptype = 0x0C ∧ y.pkt.bcast = true ∧ y.pkt.btree = 1 ∧ y.pkt.vc = 7 ∧ y.pkt.srcNode = ownNode s

/-- What sending a taint leaves alone: the seal table and the collectives among the rest. -/
theorem sendTaint_frame (s : State) (ref : Word64) (attempt : Byte) (chunk : Word32) (reason : Half) :
    let t := sendTaint s ref attempt chunk reason
    t = { s with regs := t.regs, fab := t.fab, coll := { s.coll with tainted := t.coll.tainted, further := t.coll.further } } ∧
      RegsBut s t [.cumCtr 4] := by
  unfold sendTaint
  dsimp only
  split
  · exact ⟨rfl, .refl s _⟩
  · exact ⟨rfl, fun r hr => rget_rbump_other _ 1 (hr _ (by simp))⟩

theorem sendTaint_sends {s : State} {ref : Word64} {attempt : Byte} (h : s.coll.tainted.contains (ref, attempt) = false) (chunk : Word32)
    (reason : Half) : TaintSent s (sendTaint s ref attempt chunk reason) := by
  have fresh : ¬ s.coll.tainted.contains (ref, attempt) = true := by rw [h]; exact Bool.false_ne_true
  have node : ownNode (rbump { s with coll := { s.coll with tainted := s.coll.tainted ++ [(ref, attempt)] } } (.cumCtr 4) 1) = ownNode s := by
    unfold ownNode rfld
    rw [rget_rbump_other _ 1 (by decide)]
    rfl
  rw [sendTaint, if_neg fresh]
  exact ⟨_, List.mem_append_right _ (List.mem_singleton_self _), rfl, rfl, rfl, rfl, node⟩

/-- A cause that is the first of an open entry. -/
theorem raiseTaint_open {s : State} {cl : Coll} {e : SealEntry} (he : entryOf s cl.ref = some e) (ho : e.st = .opened) (ha : e.attempt = cl.attempt)
    (chunk : Word32) (reason : Status) : raiseTaint s cl chunk reason =
      applyTaint (sendTaint s cl.ref cl.attempt chunk (statusCode reason)) cl.ref cl.attempt chunk (statusCode reason) true := by
  have attempt : ¬ e.attempt ≠ cl.attempt := not_not_intro ha
  have opened : ¬ e.st ≠ .opened := not_not_intro ho
  simp only [raiseTaint, he, if_neg attempt, if_neg opened]

/-- The state in which a cause is sent, noted and put on the table, before its collective ends. -/
def causeTaken (s : State) (cl : Coll) (chunk : Word32) (reason : Status) : State :=
  entryTainted (taintNoted (sendTaint s cl.ref cl.attempt chunk (statusCode reason)) cl.ref cl.attempt chunk (statusCode reason)) cl.ref cl.attempt
    (statusCode reason) true

section
variable {s : State} {cl : Coll} {e : SealEntry} (he : entryOf s cl.ref = some e) (ho : e.st = .opened) (chunk : Word32) (reason : Status)
include he ho

theorem causeTaken_eq : ∃ v : State, v = { s with regs := v.regs, fab := v.fab, coll := { s.coll with tainted := v.coll.tainted, further := v.coll.further } } ∧
    RegsBut s v [.cumCtr 4, .cumTaint0, .cumTaint1] ∧ (s.coll.tainted.contains (cl.ref, cl.attempt) = false → TaintSent s v) ∧
    causeTaken s cl chunk reason =
      modEntry v cl.ref fun e => { taintedEntry v cl.ref cl.attempt (statusCode reason) true with openNs := e.openNs } := by
  obtain ⟨frame, regs⟩ := sendTaint_frame s cl.ref cl.attempt chunk (statusCode reason)
  obtain ⟨noted, notedRegs⟩ := taintNoted_frame (sendTaint s cl.ref cl.attempt chunk (statusCode reason)) cl.ref cl.attempt chunk (statusCode reason)
  refine ⟨taintNoted (sendTaint s cl.ref cl.attempt chunk (statusCode reason)) cl.ref cl.attempt chunk (statusCode reason), ?_, ?_, fun h => ?_, ?_⟩
  · rw [noted, frame]
  · exact (notedRegs.mono (by simp)).after (regs.mono (by simp))
  · have sent := sendTaint_sends h chunk (statusCode reason)
    unfold TaintSent at sent ⊢
    rw [noted]
    exact sent
  · refine entryTainted_open _ _ _ (e := e) ?_ ho
    rw [noted, frame]
    exact he

/-- The collective's end begins where its entry holds the cause. -/
theorem causeTaken_frame : let u := causeTaken s cl chunk reason
    u = { s with regs := u.regs, fab := u.fab, coll := u.coll } ∧ u.coll.colls = s.coll.colls ∧
      RegsBut s u [.cumCtr 4, .cumTaint0, .cumTaint1] ∧ (s.coll.tainted.contains (cl.ref, cl.attempt) = false → TaintSent s u) ∧
      ∃ e', entryOf u cl.ref = some e' ∧ e'.st = (taintEffect (statusCode reason) true).1 ∧ e'.attempt = cl.attempt ∧ e'.reason = statusCode reason := by
  obtain ⟨v, frame, regs, sent, e⟩ := causeTaken_eq he ho chunk reason
  intro u
  rw [show u = _ from e]
  refine ⟨by rw [modEntry, frame], by rw [modEntry, frame], regs, sent, _, entryOf_modEntry (e := _) (by rw [frame]; exact he) fun _ _ => rfl, rfl, rfl, rfl⟩

theorem raiseTaint_ends (ha : e.attempt = cl.attempt) : raiseTaint s cl chunk reason =
    (taintEnds (causeTaken s cl chunk reason) cl.ref cl.attempt).foldl (fun s c => collFailed s c (taintEffect (statusCode reason) true).2)
      (causeTaken s cl chunk reason) :=
  (raiseTaint_open he ho ha chunk reason).trans (applyTaint_eq _ _ _ _ _ _)

theorem raiseTaint_collsFail (ha : e.attempt = cl.attempt) : CollsFail (causeTaken s cl chunk reason) (raiseTaint s cl chunk reason) := by
  rw [raiseTaint_ends he ho chunk reason ha]
  exact .fold (fun _ _ => collFailed_collsFail _ _ _) _ _

/-- The first cause of an open entry leaves its state and its reason there (R411, R413). -/
theorem raiseTaint_entry (ha : e.attempt = cl.attempt) : ∃ e', entryOf (raiseTaint s cl chunk reason) cl.ref = some e' ∧
    e'.st = (taintEffect (statusCode reason) true).1 ∧ e'.attempt = cl.attempt ∧ e'.reason = statusCode reason := by
  obtain ⟨-, -, -, -, entry⟩ := causeTaken_frame he ho chunk reason
  rw [(raiseTaint_collsFail he ho chunk reason ha).entryOf]
  exact entry

end

/-- A collective that is the only one of its reference, fails for the first time, and can end. -/
structure FailsFirst (s : State) (cl : Coll) : Prop where
  known : cl ∈ s.coll.colls
  only  : ∀ c ∈ s.coll.colls, c.ref = cl.ref → c = cl
  fresh : cl.failing = none
  ends  : CanEnd s cl

theorem CanEnd.of_same {s t : State} {cl : Coll} (h : CanEnd s cl) (hn : ownNode t = ownNode s) (hd : ∀ n, dieServes t n = dieServes s n)
    (hg : t.gov = s.gov) : CanEnd t cl := by
  have own : ownMembers t cl = ownMembers s cl := by simp only [ownMembers, isLocal, hn]
  have runs (c : Nat) : clusterRuns t c = clusterRuns s c := by simp only [clusterRuns, cluOff, cluGovOf, hd, hg]
  intro i hi he
  rw [own] at hi
  rw [runs, hd]
  exact h i hi he

/-- From s to t a collective fails by a cause on the package: its entry is FAILED with the reason, its command ends with st, and one TAINT goes
out; beside the registers of taint those of l change at most (R411, R413). -/
structure Failed (s t : State) (cl : Coll) (reason st : Status) (l : List Reg) : Prop where
  entry  : ∃ e, entryOf t cl.ref = some e ∧ e.st = .failed ∧ e.attempt = cl.attempt ∧ e.reason = statusCode reason
  flight : ∀ f, flightOf s cl.q cl.seq = some f → f.done = false → f.status = .success →
    ∃ g, flightOf t cl.q cl.seq = some g ∧ g.done = true ∧ g.status = st
  sent   : s.coll.tainted.contains (cl.ref, cl.attempt) = false → TaintSent s t
  regs   : RegsBut s t ([.cumCtr 4, .cumTaint0, .cumTaint1] ++ l)
  dev    : t.dev = s.dev
  evt    : t.evt = s.evt

theorem raiseTaint_fails {s : State} {cl : Coll} {e : SealEntry} (h : FailsFirst s cl) (he : entryOf s cl.ref = some e) (ho : e.st = .opened)
    (ha : e.attempt = cl.attempt) (chunk : Word32) {reason st : Status} (hr : taintEffect (statusCode reason) true = (.failed, st)) :
    Failed s (raiseTaint s cl chunk reason) cl reason st [] := by
  obtain ⟨entry, found, state, attempt, cause⟩ := raiseTaint_entry he ho chunk reason ha
  obtain ⟨frame, colls, regs, sent, -⟩ := causeTaken_frame he ho chunk reason
  have fail := raiseTaint_collsFail he ho chunk reason ha
  have ends := raiseTaint_ends he ho chunk reason ha
  rw [hr] at state ends
  refine ⟨⟨entry, found, state, attempt, cause⟩, fun f hf hd hs => ?_, fun hn => ?_, ?_, ?_, ?_⟩
  · rw [ends]
    have before : flightOf (causeTaken s cl chunk reason) cl.q cl.seq = some f := by rw [frame]; exact hf
    refine foldl_collFailed_done h.fresh _ (fun c hc => ?_) ?_ ?_ before (.inl ⟨?_, hs⟩)
    · obtain ⟨mem, test⟩ := List.mem_filter.mp hc
      rw [colls] at mem
      simp only [Bool.and_eq_true, decide_eq_true_eq] at test
      exact h.only c mem test.1.1
    · rw [collOf, colls, List.find?_isSome]
      exact ⟨cl, h.known, by simp⟩
    · exact h.ends.of_same (ownNode_of_rget (regs _ (by simp [regOffset]))) (fun n => by rw [frame]; rfl) (by rw [frame])
    · have runs : collOpen (causeTaken s cl chunk reason) cl = true := by
        rw [collOpen, List.any_eq_true]
        exact ⟨f, List.mem_of_find?_eq_some before, by simp [flightOf_seq before, hd]⟩
      exact List.ne_nil_of_mem (List.mem_filter.mpr ⟨by rw [colls]; exact h.known, by simp [runs]⟩)
  · obtain ⟨y, hy, rest⟩ := sent hn
    exact ⟨y, fail.sent y hy, rest⟩
  · exact (regsBut_of_regs (by rw [fail.frame]) _).after regs
  · rw [fail.frame, frame]
  · rw [fail.frame, frame]

/-! ## A word of a slot that cannot be corrected (R405) -/

theorem addDue_dieCalled (s : State) {d : Due} (hd : ∀ n c, d ≠ .dieFatal n c) (n : Nat) : dieCalled (addDue s d) n = dieCalled s n := by
  unfold addDue
  split
  · rfl
  · unfold dieCalled
    rw [List.any_append]
    cases d <;> simp at hd ⊢

theorem rbump_dieCalled (s : State) (r : Reg) (k n : Nat) : dieCalled (rbump s r k) n = dieCalled s n := rfl

/-- A record about a resource of the welkin die makes no other die fatal (R571, R572). -/
theorem putRecord_dieCalled (s : State) {r : ErrRec} (hr : r.source = 4) (n : Nat) : dieCalled (putRecord s r) n = dieCalled s n := by
  unfold putRecord
  dsimp only
  split
  · exact addDue_dieCalled _ (by simp) n
  · split <;> rfl

/-- A slot is an element of the welkin die (R567). -/
theorem resource_slot (slot : Nat) : (resource 0x09 slot).toNat / 2 ^ 24 = 9 ∧ resourceDie (resource 0x09 slot) = 4 := by
  have kind : (resource 0x09 slot).toNat / 2 ^ 24 = 9 := by
    rw [resource, BitVec.toNat_ofNat]
    omega
  exact ⟨kind, by unfold resourceDie; simp only [kind]⟩

/-- The record of a slot calls no compute die out of service. -/
theorem slotReport_dieCalled (s : State) (slot : Nat) (n : Nat) :
    dieCalled (report s .cumUncorrectable (resource 0x09 slot) 0 0 false) n = dieCalled s n := by
  obtain ⟨kind, source⟩ := resource_slot slot
  have raised (u : State) (r : ErrRec) (hr : r.source = 4) (hres : r.resource = resource 0x09 slot) :
      dieCalled (raisedAction u r) n = dieCalled u n := by
    unfold raisedAction
    split
    · rfl
    · split
      · split
        · unfold markRetire
          simp only [hres, kind]
          exact addDue_dieCalled _ (by simp) n
        · rfl
      · exact addDue_dieCalled _ (by simp) n
      · exact addDue_dieCalled _ (by simp) n
      · rfl
  unfold report raiseRecord
  dsimp only
  split
  · split
    · exact putRecord_dieCalled s source n
    · rw [raised _ _ source rfl, putRecord_dieCalled _ source]
  · rfl

section
variable {s : State} {q : Fin 4096} {seq : Word32} {cl : Coll} {chunk : Word32} {slot : BitVec 13} (hc : collOf s q.val seq = some cl)
include hc

theorem exec_collTimeout (ht : cl.timeoutUs ≠ 0) (hn : cl.progressNs + 1000 * max 500 cl.timeoutUs ≤ s.localNs) :
    exec (.collTimeout q seq) s = .next (raiseTaint s cl noChunk .collTimeout) := by
  show execCollTimeout q seq s = _
  simp only [execCollTimeout, hc, if_pos (And.intro ht hn)]

/-- A physical slot that serves a claim and is not yet due for retirement (R405, R596). -/
def SlotGood (s : State) (slot : Nat) : Prop := slot < 4160 ∧ slot ∉ s.coll.retired ∧ ∀ c ∈ s.coll.colls, slot ∉ c.retire

/-- A collective with one slot more that is due for retirement at the end of its claim (R405). -/
def withSlotDue (cl : Coll) (slot : Nat) : Coll := { cl with retire := setAdd slot cl.retire }

theorem exec_cumUncorrectable_good (hj : ∃ j ∈ cl.joins, j.chunk = chunk.toNat) (hg : SlotGood s slot.toNat) :
    exec (.cumUncorrectable q seq chunk slot) s =
      .next (raiseTaint (report (putColl s (withSlotDue cl slot.toNat)) .cumUncorrectable (resource 0x09 slot.toNat) 0 0 false) (withSlotDue cl slot.toNat)
        chunk .cumUncorrectable) := by
  obtain ⟨j, mem, number⟩ := hj
  have join : (cl.joins.find? fun j => decide (j.chunk = chunk.toNat)).isSome = true := by
    rw [List.find?_isSome]
    exact ⟨j, mem, by simp [number]⟩
  obtain ⟨k, found⟩ := Option.isSome_iff_exists.mp join
  have guard : ¬ (slot.toNat ≥ 4160 ∨ s.coll.retired.contains slot.toNat = true ∨ (s.coll.colls.any fun c => c.retire.contains slot.toNat) = true) := by
    obtain ⟨small, good, fresh⟩ := hg
    simpa [good, small] using fresh
  show execCumUncorrectable q seq chunk slot s = _
  simp only [execCumUncorrectable, hc, found, if_neg guard]
  rfl

theorem exec_cumUncorrectable_ignored (hg : ¬ SlotGood s slot.toNat) : exec (.cumUncorrectable q seq chunk slot) s = .next s := by
  have guard : slot.toNat ≥ 4160 ∨ s.coll.retired.contains slot.toNat = true ∨ (s.coll.colls.any fun c => c.retire.contains slot.toNat) = true := by
    by_contra none
    refine hg ?_
    simpa [SlotGood, not_or] using none
  show execCumUncorrectable q seq chunk slot s = _
  simp only [execCumUncorrectable, hc]
  split
  · rfl
  · exact if_pos guard

end

/-! ## A TAINT that arrives (R413, R414) -/

theorem leNat_append (a b : List Byte) : leNat (a ++ b) = leNat a + 256 ^ a.length * leNat b := by
  induction a with
  | nil => simp [leNat]
  | cons x a ih => simp only [List.cons_append, leNat, ih, List.length_cons, pow_succ]; ring

theorem leNat_taintPayload (ref : Word64) (chunk : Word32) (reason : Half) (attempt : Byte) :
    leNat (taintPayload ref chunk reason attempt) =
      ref.toNat + 2 ^ 64 * (chunk.toNat + 2 ^ 32 * (reason.toNat + 2 ^ 16 * attempt.toNat)) := by
  have hr : leNat (leBytes 8 ref.toNat) = ref.toNat := leNat_leBytes_of_lt (by have := ref.isLt; omega)
  have hc : leNat (leBytes 4 chunk.toNat) = chunk.toNat := leNat_leBytes_of_lt (by have := chunk.isLt; omega)
  have hs : leNat (leBytes 2 reason.toNat) = reason.toNat := leNat_leBytes_of_lt (by have := reason.isLt; omega)
  have ha : leNat [attempt, 0] = attempt.toNat := by simp [leNat]
  simp only [taintPayload, leNat_append, List.length_append, leBytes_length, hr, hc, hs, ha]
  omega

/-- The fields that a package reads from the payload of a TAINT are those that were put there (R412). -/
theorem taintPayload_fields (ref : Word64) (chunk : Word32) (reason : Half) (attempt : Byte) :
    let v := leNat (taintPayload ref chunk reason attempt)
    BitVec.ofNat 64 v = ref ∧ BitVec.ofNat 32 (nfld v 64 32) = chunk ∧ BitVec.ofNat 16 (nfld v 96 16) = reason ∧
      BitVec.ofNat 8 (nfld v 112 8) = attempt := by
  have hr := ref.isLt
  have hc := chunk.isLt
  have hs := reason.isLt
  have ha := attempt.isLt
  intro v
  have hv : v = _ := leNat_taintPayload ref chunk reason attempt
  refine ⟨BitVec.eq_of_toNat_eq ?_, BitVec.eq_of_toNat_eq ?_, BitVec.eq_of_toNat_eq ?_, BitVec.eq_of_toNat_eq ?_⟩
  · rw [hv, BitVec.toNat_ofNat]
    omega
  all_goals
    rw [hv, BitVec.toNat_ofNat, nfld]
    omega

section
variable {s : State} {ref : Word64} {attempt : Byte} (chunk : Word32) (reason : Half)

/-- A TAINT of a reference that the table does not know is put there. -/
theorem receiveTaint_unknown (he : entryOf s ref = none) :
    receiveTaint s (taintPayload ref chunk reason attempt) = applyTaint (rbump s (.cumCtr 5) 1) ref attempt chunk reason false := by
  have known : entryOf (rbump s (.cumCtr 5) 1) ref = none := he
  obtain ⟨r, c, k, a⟩ := taintPayload_fields ref chunk reason attempt
  unfold receiveTaint
  simp only [r, c, k, a, known]

/-- A TAINT of an older attempt, or of a sealed one, only counts (R414). -/
theorem receiveTaint_stale {e : SealEntry} (he : entryOf s ref = some e)
    (hs : attempt.toNat < e.attempt.toNat ∨ (attempt = e.attempt ∧ e.st = .sealedOk)) :
    receiveTaint s (taintPayload ref chunk reason attempt) = rbump (rbump s (.cumCtr 5) 1) (.cumCtr 6) 1 := by
  have known : entryOf (rbump s (.cumCtr 5) 1) ref = some e := he
  obtain ⟨r, c, k, a⟩ := taintPayload_fields ref chunk reason attempt
  unfold receiveTaint
  simp only [r, c, k, a, known, if_pos hs]

/-- A taint from elsewhere makes an entry for a reference that the package does not know, while there is room (R408, R413). -/
theorem applyTaint_unknown (he : entryOf s ref = none) (hc : ∀ c ∈ s.coll.colls, c.ref ≠ ref) (hr : sealUsed s < 1024) :
    applyTaint s ref attempt chunk reason false = { taintNoted s ref attempt chunk reason with
      coll := { s.coll with entries := s.coll.entries ++ [taintedEntry s ref attempt reason false] } } := by
  obtain ⟨noted, -⟩ := taintNoted_frame s ref attempt chunk reason
  have entry := entryTainted_unknown (s := taintNoted s ref attempt chunk reason) attempt reason false (by rw [noted]; exact he) (by rw [noted]; exact hr)
  have none : taintEnds (entryTainted (taintNoted s ref attempt chunk reason) ref attempt reason false) ref attempt = [] := by
    rw [entry, noted]
    refine List.filter_eq_nil_iff.mpr fun c mem => ?_
    simp [hc c mem]
  rw [applyTaint_eq, none, List.foldl_nil, entry, noted]
  rfl

end

theorem exec_taint {s : State} {n : Nat} {x : InPkt} (hx : arrivedAt s n 0x0C = some x) :
    exec (.taint n) s = .next (receiveTaint (takeArrived s n) x.pkt.payload) := by
  show execTaint n s = _
  unfold execTaint
  rw [show arrivedAt s n ptTaint = some x from hx]

/-! ## The statement -/

/-- The state in which a slot is due for retirement and its record is written (R405). -/
def slotReported (s : State) (cl : Coll) (slot : Nat) : State :=
  report (putColl s (withSlotDue cl slot)) .cumUncorrectable (resource 0x09 slot) 0 0 false

theorem slotReported_frame (s : State) (cl : Coll) (slot : Nat) : let u := slotReported s cl slot
    u = { s with cores := u.cores, clusters := u.clusters, stks := u.stks, err := u.err, regs := u.regs, coll := (putColl s (withSlotDue cl slot)).coll } ∧
      RegsBut s u (recordRegs 4) := by
  intro u
  have regs := report_regs (putColl s (withSlotDue cl slot)) .cumUncorrectable (resource 0x09 slot) 0 0 false
  rw [(resource_slot slot).2] at regs
  exact ⟨(report_frame (putColl s (withSlotDue cl slot)) .cumUncorrectable (resource 0x09 slot) 0 0 false).trans rfl, regs⟩

theorem ownNode_slotReported (s : State) (cl : Coll) (slot : Nat) : ownNode (slotReported s cl slot) = ownNode s :=
  ownNode_of_rget ((slotReported_frame s cl slot).2 _ (by simp [recordRegs, regOffset]))

/-- The collective of the slot is still the only one of its reference, and can end. -/
theorem FailsFirst.slotReported {s : State} {cl : Coll} (h : FailsFirst s cl) (slot : Nat) :
    FailsFirst (slotReported s cl slot) (withSlotDue cl slot) := by
  obtain ⟨frame, regs⟩ := slotReported_frame s cl slot
  have colls : (Machine.slotReported s cl slot).coll.colls =
      s.coll.colls.map fun c => if c.q = cl.q ∧ c.seq = cl.seq then withSlotDue cl slot else c := by rw [frame]; rfl
  have dies (n : Nat) : dieServes (Machine.slotReported s cl slot) n = dieServes s n := by
    have called : dieCalled (Machine.slotReported s cl slot) n = dieCalled s n := slotReport_dieCalled (putColl s (withSlotDue cl slot)) slot n
    have die : dieOf (Machine.slotReported s cl slot) n = dieOf s n := by rw [frame]; rfl
    rw [dieServes, dieState, called, die, dieServes, dieState]
  refine ⟨?_, fun c mem ref => ?_, h.fresh, CanEnd.of_same (cl := withSlotDue cl slot) h.ends (ownNode_slotReported s cl slot) dies (by rw [frame])⟩
  · rw [colls]
    exact List.mem_map.mpr ⟨cl, h.known, by simp⟩
  · rw [colls] at mem
    obtain ⟨d, known, rfl⟩ := List.mem_map.mp mem
    by_cases same : d.q = cl.q ∧ d.seq = cl.seq
    · exact if_pos same
    · rw [if_neg same] at ref
      obtain rfl := h.only d known ref
      exact absurd ⟨rfl, rfl⟩ same

/-- A collective that fails after its slot was reported fails from the state before. -/
theorem Failed.of_slotReported {s t : State} {cl : Coll} {slot : Nat} {reason st : Status}
    (h : Failed (slotReported s cl slot) t (withSlotDue cl slot) reason st []) : Failed s t cl reason st (recordRegs 4) := by
  obtain ⟨frame, regs⟩ := slotReported_frame s cl slot
  refine ⟨h.entry, fun f hf => h.flight f ?_, fun hn => ?_, ?_, ?_, ?_⟩
  · rw [frame]; exact hf
  · obtain ⟨y, mem, p, b, r, v, node⟩ := h.sent (by rw [frame]; exact hn)
    exact ⟨y, mem, p, b, r, v, node.trans (ownNode_slotReported s cl slot)⟩
  · exact (h.regs.mono (by simp)).after (regs.mono (List.subset_append_right _ _))
  · rw [h.dev, frame]
  · rw [h.evt, frame]

/-- Settles O35: a cause ends the collective by `raiseTaint_fails`, and a TAINT that arrives makes an entry or only counts. -/
theorem taints : Obligations.Taints := by
  unfold Obligations.Taints
  intro s q seq cl e n x ref chunk reason attempt failed
  refine ⟨fun hc hone hf hr he ho ha => ?_, fun hx hp => ⟨fun he hc hu => ?_, fun he hs => ?_⟩⟩
  · obtain ⟨hq, hseq⟩ := collOf_key hc
    have fails {t : State} {st cmd : Status} {l : List Reg} (h : Failed s t cl st cmd l) : failed t st cmd l := by
      refine ⟨h.entry, fun f hf => ?_, h.sent, h.regs, h.dev, h.evt⟩
      rw [← hq, ← hseq] at hf ⊢
      exact h.flight f hf
    have first : FailsFirst s cl := by
      refine ⟨List.mem_of_find?_eq_some hc, fun c mem hc => ?_, hf, hr⟩
      have one : c ∈ s.coll.colls.filter fun c => decide (c.ref = cl.ref) := List.mem_filter.mpr ⟨mem, by simp [hc]⟩
      rw [hone] at one
      exact List.mem_singleton.mp one
    refine ⟨fun ht hn => ⟨_, exec_collTimeout hc ht hn, fails (raiseTaint_fails first he ho ha _ rfl)⟩, fun slot hj => ⟨fun hg => ?_, fun hg => ?_⟩⟩
    · have entry : entryOf (slotReported s cl slot.toNat) (withSlotDue cl slot.toNat).ref = some e := by
        rw [(slotReported_frame s cl slot.toNat).1]; exact he
      exact ⟨_, exec_cumUncorrectable_good hc hj hg,
        fails (raiseTaint_fails (first.slotReported slot.toNat) entry ho ha chunk rfl).of_slotReported⟩
    · exact exec_cumUncorrectable_ignored hc hg
  all_goals
    have rest : ∀ r, rget (takeArrived s n) r = rget s r := takeArrived_rget s n
    have entry : entryOf (takeArrived s n) ref = entryOf s ref := by rw [entryOf, takeArrived_coll]; rfl
  · obtain ⟨noted, kept⟩ := taintNoted_frame (rbump (takeArrived s n) (.cumCtr 5) 1) ref attempt chunk reason
    have put := applyTaint_unknown (s := rbump (takeArrived s n) (.cumCtr 5) 1) (attempt := attempt) chunk reason (entry.trans he)
      (by rw [rbump_coll, takeArrived_coll]; exact hc) (by rw [takeArrived_fabricOnly s n]; exact hu)
    rw [rbump_coll, takeArrived_coll, taintedEntry, rbump_localNs, takeArrived_localNs] at put
    refine ⟨_, by rw [exec_taint hx, hp, receiveTaint_unknown chunk reason (entry.trans he), put], ?_, ?_, fun none => ?_, ?_⟩
    · rw [noted]
      rfl
    · exact (kept _ (by decide)).trans ((rget_rbump_same _ _ _).trans (congrArg (· + _) (rest _)))
    · have clear : rbit (rbump (takeArrived s n) (.cumCtr 5) 1) .cumTaint1 63 = false := by
        rw [rbit, rget_rbump_other _ _ (by decide), rest]
        exact none
      exact rget_taintNoted clear ref attempt chunk reason
    · exact (kept.mono (by simp)).after ((rbump_regs _ 1 (by simp)).after fun r _ => rest r)
  · refine ⟨_, by rw [exec_taint hx, hp, receiveTaint_stale chunk reason (entry.trans he) hs], rfl, ?_, ?_, ?_⟩
    · rw [rget_rbump_other _ _ (by decide), rget_rbump_same, rest]
      rfl
    · rw [rget_rbump_same, rget_rbump_other _ _ (by decide), rest]
      rfl
    · exact (rbump_regs _ 1 (by simp)).after ((rbump_regs _ 1 (by simp)).after fun r _ => rest r)

end Sys2Proof.Machine
end

section
/-! PROOFS. Chunks and joins (R398 to R401, R405): packets that feed a join or a receive, the check of an input, the sum that is sent on, and the
statement O37. -/
namespace Sys2Proof.Machine

/-! ## Chunk data (R366, R398, R401) -/

section
variable {s : State} {n : Nat} {x : InPkt} (hx : arrivedAt s n 0x08 = some x) (ht : isToken x.pkt = false)
include hx ht

/-- Data of a chunk that a join waits for is put there. -/
theorem exec_chunkData_join {cl : Coll} {t : State} (hc : claimOf s x.pkt.tag = some cl) (hf : joinFeed (takeArrived s n) cl x.pkt = some t) :
    exec (.chunkData n) s = .next t := by
  show execChunkData n s = _
  unfold execChunkData
  rw [show arrivedAt s n ptChunk = some x from hx]
  simp [ht, hc, hf]

/-- A packet that no collective and no receive waits for is dropped. -/
theorem exec_chunkData_unknown (hc : claimOf s x.pkt.tag = none) (hp : postedOf s x.pkt = none) :
    exec (.chunkData n) s = .next (dropCount (takeArrived s n) 3) := by
  show execChunkData n s = _
  unfold execChunkData
  rw [show arrivedAt s n ptChunk = some x from hx]
  simp [ht, hc, hp]

/-- Data for the receive of a member is kept for its check. -/
theorem exec_chunkData_member {p : Nat} {post : Posted} (hc : claimOf s x.pkt.tag = none) (hp : postedOf s x.pkt = some (p, post))
    (hi : (coreOf s p).inColl = true) : exec (.chunkData n) s = .next (postedGot (takeArrived s n) p post.rxn x.pkt true) := by
  show execChunkData n s = _
  unfold execChunkData
  rw [show arrivedAt s n ptChunk = some x from hx]
  simp [ht, hc, hp, hi]

end

/-- The receive that a packet names is one of its core. -/
theorem posted_of_postedOf {s : State} {pk : Packet} {p : Nat} {post : Posted} (h : postedOf s pk = some (p, post)) : post ∈ (coreOf s p).posted := by
  unfold postedOf at h
  split at h
  · exact absurd h nofun
  · obtain ⟨y, found, same⟩ := Option.map_eq_some_iff.mp h
    obtain ⟨rfl, rfl⟩ := Prod.mk.inj same
    exact List.mem_of_find?_eq_some found

theorem postedGot_other {s : State} {p k : Nat} {rxn : Half} {pk : Packet} {keep : Bool} (h : k ≠ p) :
    coreOf (postedGot s p rxn pk keep) k = coreOf s k :=
  coreOf_setCore_other _ _ _ _ h

/-- The receive with the number takes the packet's bytes. -/
theorem postedGot_takes {s : State} {p : Nat} {post : Posted} (h : post ∈ (coreOf s p).posted) (pk : Packet) :
    ∃ y ∈ (coreOf (postedGot s p post.rxn pk true) p).posted, y.rxn = post.rxn ∧ y.got = post.got + pk.payload.length ∧
      y.data = mwrite post.data pk.addr.toNat pk.payload := by
  rw [postedGot, modCore, coreOf_setCore_same]
  refine ⟨_, List.mem_map.mpr ⟨post, h, if_pos rfl⟩, rfl, rfl, rfl⟩

/-! ## The check of an input (R397, R399) -/

theorem exec_chunkCheck_join {s : State} {n : Nat} {cl : Coll} {j : Join} {i : JoinIn} (h : (joinChecks s)[n]? = some (cl, j, i)) :
    exec (.chunkCheck true n) s = .next (joinCheck s cl j i) := by
  show execChunkCheck true n s = _
  unfold execChunkCheck
  rw [if_pos rfl, h]

/-- An input whose check agrees is counted, and its collective has made progress. -/
theorem joinCheck_good {s : State} {cl : Coll} {j : Join} {i : JoinIn} (hk : collOf s cl.q cl.seq = some cl) :
    let bs := mread i.data 0 (hopBytes cl (joinHop j))
    let t := joinCheck s cl j i
    chunkGood i.auxSeen j.chunk bs = true →
      t = { s with regs := t.regs, queues := t.queues, coll := t.coll } ∧ rget t (.cumCtr 2) = rget s (.cumCtr 2) + BitVec.ofNat 64 bs.length ∧
      RegsBut s t [.cumCtr 2] ∧ t.coll.entries = s.coll.entries ∧
      ∃ c, collOf t cl.q cl.seq = some c ∧ c.checked = cl.checked + 1 ∧ c.progressNs = s.localNs ∧ c.joins.length = cl.joins.length := by
  intro bs t good
  have added : ∃ f outs, t = putColl (modFlight (rbump s (.cumCtr 2) bs.length) cl.q cl.seq f)
      { cl with checked := cl.checked + 1, progressNs := s.localNs, joins := cl.joins.map outs } := by
    have agrees : ¬ (!chunkGood i.auxSeen j.chunk bs) = true := by simp [good]
    exact ⟨_, _, (if_neg agrees : _)⟩
  obtain ⟨f, outs, taken⟩ := added
  rw [taken]
  exact ⟨rfl, rget_rbump_same s _ _, rbump_regs s _ (by simp), rfl, _, collOf_putColl (old := cl) hk, rfl, rfl, List.length_map _⟩

/-- An input whose check does not agree taints its chunk. -/
theorem joinCheck_bad {s : State} {cl : Coll} {j : Join} {i : JoinIn}
    (h : chunkGood i.auxSeen j.chunk (mread i.data 0 (hopBytes cl (joinHop j))) = false) :
    joinCheck s cl j i = raiseTaint s cl (BitVec.ofNat 32 j.chunk) .collCrcBad := by
  have fails : (!chunkGood i.auxSeen j.chunk (mread i.data 0 (hopBytes cl (joinHop j)))) = true := by simp [h]
  exact if_pos fails

/-! ## The sum that is sent on (R401) -/

theorem exec_joinEmit {s : State} {d : JoinDone} {cl : Coll} {j : Join} (h : (joinsReady s)[d.n]? = some (cl, j)) :
    exec (.joinEmit d) s = .next (joinEmit (rbump s (.cumCtr 8) d.corrected.toNat) cl j) := by
  show execJoinEmit d s = _
  unfold execJoinEmit
  rw [h]

/-- The packets of a chunk go to the switch. -/
theorem sendChunk_fabricOnly (join : Bool) (s : State) (cl : Coll) (core : Nat) (node : Half) (unit : BitVec 12) (rxn : Half) (chunk : Nat)
    (cum : Bool) (bs : List Byte) : FabricOnly s (sendChunk join s cl core node unit rxn chunk cum bs) := by
  unfold sendChunk
  induction packetCuts bs generalizing s with
  | nil => rfl
  | cons c cs ih =>
    refine (ih _).after ?_
    cases join <;> rfl

theorem sendChunk_localNs (join : Bool) (s : State) (cl : Coll) (core : Nat) (node : Half) (unit : BitVec 12) (rxn : Half) (chunk : Nat)
    (cum : Bool) (bs : List Byte) : (sendChunk join s cl core node unit rxn chunk cum bs).localNs = s.localNs := by
  rw [sendChunk_fabricOnly join s cl core node unit rxn chunk cum bs]

section
variable {s : State} {cl : Coll} {j : Join} {p : Nat}

/-- The state after the sum of a join is sent: it is counted, and the join leaves its collective. -/
def joinLeaves (s : State) (cl : Coll) (j : Join) (node : Half) (unit : BitVec 12) (rxn : Half) : State :=
  let last := memberAt cl (j.seg.getLastD 0)
  let sum := j.sum.flatMap fun v => leBytes (fmtBits cl.fmt / 8) (encodeScalar (scalarFmt cl.fmt) v)
  collAdvance (putColl (rbump (sendChunk true s cl last.unit.toNat node unit rxn j.chunk false sum) (.cumCtr 3) 1)
    { cl with joins := dropFirst (fun k => decide (k = j)) cl.joins, progressNs := s.localNs }) cl.q cl.seq

variable (hp : physOf s (memberAt cl (j.seg.getLastD 0)).unit.toNat = some p)
include hp

/-- The last sum goes to the receive that the owner posted. -/
theorem joinEmit_owner {y : Posted} (hs : j.succ = none)
    (hy : ((coreOf s p).posted.find? fun x => decide (x.chunk = some (BitVec.ofNat 32 j.chunk)) && decide (x.tag = cl.tag) && decide (x.got = 0)) = some y) :
    joinEmit s cl j = joinLeaves s cl j (ownNode s) (memberAt cl (j.seg.getLastD 0)).unit y.rxn := by
  unfold joinEmit joinLeaves
  simp only [hp, hs, hy, progress, sendChunk_localNs]

/-- Any other goes to the successor, under the CTS that the segment's last member holds. -/
theorem joinEmit_successor {y : HeldCts} {si : Nat} (hs : j.succ = some si) (hc : j.cts = some y) :
    joinEmit s cl j = joinLeaves s cl j (memberAt cl si).node (memberAt cl si).unit y.rxn := by
  unfold joinEmit joinLeaves
  simp only [hp, hs, hc, progress, sendChunk_localNs]

end

/-! ## The statement -/

/-- Settles O37: the rows of CHUNK_DATA, CHUNK_CHECK and JOIN_EMIT, case by case. -/
theorem chunksAndJoins : Obligations.ChunksAndJoins := by
  unfold Obligations.ChunksAndJoins
  intro s n x cl j i p post corrected h sc bs sum last gone
  refine ⟨fun hx ht => ⟨fun t hc hf => exec_chunkData_join hx ht hc hf, fun hc hp => ?_, fun hc hp hi => ?_⟩,
    fun hn => ⟨fun good hk => ⟨_, exec_chunkCheck_join hn, joinCheck_good hk good⟩, fun e bad he ho ha => ?_⟩,
    fun hn hp => ⟨fun y hs hy => ?_, fun y si hs hc => ?_⟩⟩
  · obtain ⟨t, drops, rest⟩ := dropCount_effect s n 3
    exact ⟨t, (exec_chunkData_unknown hx ht hc hp).trans (congrArg _ drops), rest⟩
  · have listed : post ∈ (coreOf (takeArrived s n) p).posted := by
      rw [takeArrived_coreOf]
      exact posted_of_postedOf hp
    obtain ⟨y, mem, rxn, got, data⟩ := postedGot_takes listed x.pkt
    exact ⟨_, exec_chunkData_member hx ht hc hp hi, rfl, fun k hk => (postedGot_other hk).trans (takeArrived_coreOf s n k), y, mem, rxn, got, data⟩
  · obtain ⟨e', entry, st, attempt, reason⟩ := raiseTaint_entry he ho (BitVec.ofNat 32 j.chunk) .collCrcBad ha
    exact ⟨_, e', (exec_chunkCheck_join hn).trans (congrArg _ (joinCheck_bad bad)), entry, st.trans (by decide), attempt, reason⟩
  · have node : ownNode sc = ownNode s := ownNode_of_rget (rget_rbump_other s _ (by decide))
    rw [← node]
    exact (exec_joinEmit hn).trans (congrArg _ (joinEmit_owner (s := sc) hp hs hy))
  · exact (exec_joinEmit hn).trans (congrArg _ (joinEmit_successor (s := sc) hp hs hc))

end Sys2Proof.Machine
end

section
/-! PROOFS. The COLLECTIVE command (R391 to R394, R403, R406, R409, R416, R417): its checks, a reduction of one member, its report, and the
statement O34. -/
namespace Sys2Proof.Machine

/-! ## The checks of a COLLECTIVE (R390 to R394, R403) -/

theorem ptrSettle_noBitErrors {s : State} (hn : NoBitErrors s) (ps : List Word64) : ptrSettle s ps = s := by
  unfold ptrSettle
  induction ps with
  | nil => rfl
  | cons p ps ih => rw [List.foldl_cons, hdSettle_noBitErrors hn, ih]

/-- The entries of a member list that name this package, with their places (R390). -/
def localEntries (s : State) (es : List (Nat × Nat × Word64 × Word64)) : List (Nat × Nat × Nat × Word64 × Word64) :=
  (es.mapIdx fun i e => (i, e)).filter fun x => decide (nfld x.2.1 48 16 = (ownNode s).toNat)

/-- The pointers of their descriptors, SRC before DST. -/
def localPointers (s : State) (es : List (Nat × Nat × Word64 × Word64)) : List Word64 :=
  (localEntries s es).flatMap fun x => [x.2.2.2.1, x.2.2.2.2]

/-- Their places with the descriptors that were read. -/
def localMembers (s : State) (es : List (Nat × Nat × Word64 × Word64)) (raws : List (BitVec 1024)) : List (Nat × BitVec 1024 × BitVec 1024) :=
  (localEntries s es).mapIdx fun j x => (x.1, raws.getD (2 * j) 0, raws.getD (2 * j + 1) 0)

/-- A command at work is in flight. -/
theorem flightOf_of_workOf {s : State} {q : Nat} {seq : Word32} {kind : Nat} {f : Flight} (h : workOf s q seq kind = some f) :
    flightOf s q seq = some f := by
  unfold workOf at h
  split at h
  · next g found =>
    split at h
    · rw [found, h]
    · exact absurd h nofun
  · exact absurd h nofun

section
variable {s : State} {q : Fin 4096} {seq : Word32} {f : Flight} (hf : workOf s q.val seq 5 = some f) (hb : f.begun = false)
include hf hb

/-- A reduction with CUM 1 waits for those that started before it (R403). -/
theorem exec_collective_waits (hd : (q.val, seq) ∈ claimsDue s) (hh : (claimsDue s).head? ≠ some (q.val, seq)) : exec (.collective q seq) s = .next s := by
  show execCollective q seq s = _
  rw [execCollective, hf]
  simp [hb, hd, hh]

variable {es : List (Nat × Nat × Word64 × Word64)} (ht : (q.val, seq) ∈ claimsDue s → (claimsDue s).head? = some (q.val, seq)) (hn : NoBitErrors s)
  (hl : memberList s f.cmd = .ok es)
include ht hn hl

theorem exec_collective_bodyFails {st : Status} (hc : collBodyFault s q.val f.cmd es = some st) :
    exec (.collective q seq) s = .next (flightDone s q.val seq st) := by
  have turn : ((claimsDue s).contains (q.val, seq) && decide ((claimsDue s).head? ≠ some (q.val, seq))) = false := by simpa using ht
  show execCollective q seq s = _
  rw [execCollective, hf]
  simp only [hb, turn, Bool.false_eq_true, if_false, hdSettle_noBitErrors hn, hl, hc]

/-- One whose checks all pass starts; only an ALL_GATHER looks at a shard version (R428). -/
theorem exec_collective_starts {raws : List (BitVec 1024)} (hc : collBodyFault s q.val f.cmd es = none)
    (hd : ptrDescs s (localPointers s es) = .ok raws)
    (hm : collMemberFault (cmdFld f.cmd 0x50 16 4) (cmdFld f.cmd 0x50 20 4) es.length (localMembers s es raws) = none)
    (ho : cmdFld f.cmd 0x50 16 4 ≠ 2) : exec (.collective q seq) s = .next (collStart s q.val f es (localMembers s es raws)) := by
  have turn : ((claimsDue s).contains (q.val, seq) && decide ((claimsDue s).head? ≠ some (q.val, seq))) = false := by simpa using ht
  have unversioned : shardCheck s (cmdFld f.cmd 0x50 16 4) (cmdWord f.cmd 0x48) f.svt = .run s false := if_pos (.inl ho)
  unfold localPointers localEntries at hd
  unfold localMembers localEntries at hm
  show execCollective q seq s = _
  rw [execCollective, hf]
  simp only [hb, turn, Bool.false_eq_true, if_false, hdSettle_noBitErrors hn, ptrSettle_noBitErrors hn, hl, hc, hd, hm, unversioned]
  rfl

end

/-! ## A reduction of one member in place (R393, R406) -/

section
variable {cl : Coll} {m : Member} (hm : cl.members = [m])
include hm

theorem size_lone : cl.size = 1 := congrArg List.length hm

theorem memberAt_lone : memberAt cl 0 = m := by rw [memberAt, hm]; rfl

theorem claims_lone : claims cl = false := by simp [claims, hm]

theorem ownMembers_lone {s : State} (hn : m.node = ownNode s) : ownMembers s cl = [0] := by
  rw [ownMembers, size_lone hm]
  simp [upto, memberAt_lone hm, isLocal, hn]

/-- A reduction of one member has no hops. -/
theorem hopsOut_lone (ho : cl.op ≤ 1) (i : Nat) : hopsOut cl i = [] := by
  have size := size_lone hm
  unfold hopsOut
  obtain op | op : cl.op = 0 ∨ cl.op = 1 := by omega
  all_goals simp [op, reduceHops, gatherHops, size, upto]

theorem recvPlan_lone (ho : cl.op ≤ 1) (i : Nat) : recvPlan cl i = [] := by
  unfold recvPlan
  simp only [claims_lone hm, Bool.false_eq_true, if_false, hopsOut_lone hm ho]

theorem sendPlan_lone (ho : cl.op ≤ 1) (i : Nat) : sendPlan cl i = [] := by
  unfold sendPlan
  simp only [claims_lone hm, Bool.false_eq_true, if_false, hopsOut_lone hm ho]

theorem packagesOf_lone : packagesOf cl = [m.node] := by simp [packagesOf, hm]

end

/-- A member with nothing to receive posts nothing. -/
theorem postAll_of_nil {s : State} {cl : Coll} (hk : collOf s cl.q cl.seq = some cl) {i : Nat} (hr : recvPlan cl i = []) (fuel : Nat) :
    postAll cl.q cl.seq i fuel s = s := by
  cases fuel with
  | zero => rfl
  | succ fuel => simp [postAll, hk, hr]

/-- A member with nothing to send sends nothing. -/
theorem sendAll_of_nil {s : State} {cl : Coll} (hk : collOf s cl.q cl.seq = some cl) {i : Nat} (hr : sendPlan cl i = []) (fuel : Nat) :
    sendAll cl.q cl.seq i fuel s = s := by
  cases fuel with
  | zero => rfl
  | succ fuel => simp [sendAll, hk, hr]

/-- Where every member has ended, none ends again. -/
theorem endMembers_ended {s : State} {cl : Coll} (h : ∀ x ∈ cl.members, x.ended = true) : endMembers s cl = putColl s cl := by
  have at_ (i : Nat) : (memberAt cl i).ended = true := by
    rw [memberAt, List.getD_eq_getElem?_getD]
    cases hx : cl.members[i]? with
    | none => rfl
    | some x => exact h x (List.mem_of_getElem? hx)
  have same : (cl.members.mapIdx fun i x => if (!x.ended && x.copied && decide (x.taken ≥ (recvPlan cl i).length) &&
      decide (x.sent ≥ (sendPlan cl i).length) && joinsDone s cl) && isLocal s x then { x with ended := true } else x) = cl.members :=
    List.ext_getElem (by simp) fun i _ hi => by simp [h _ (List.getElem_mem hi)]
  unfold endMembers
  simp only [at_, Bool.not_true, Bool.false_and, Bool.false_eq_true, if_false, List.foldl_fixed]
  exact congrArg (fun l => putColl s { cl with members := l }) same

/-- A reduction of one member, of this package, whose source is its destination, as it starts: its program has ended, and its entry is open. -/
structure LoneReduction (s : State) (cl : Coll) (m : Member) : Prop where
  known   : collOf s cl.q cl.seq = some cl
  entry   : ∃ e, entryOf s cl.ref = some e ∧ e.st = .opened ∧ e.attempt = cl.attempt
  members : cl.members = [m]
  own     : m.node = ownNode s
  inPlace : m.src = m.dst
  ended   : m.ended = true
  uncopied : m.copied = false
  op      : cl.op ≤ 1
  fresh   : cl.failing = none ∧ cl.joins = [] ∧ cl.confirmSent = false

/-- Such a reduction once what it keeps stands in its destination. -/
def loneCopied (cl : Coll) (m : Member) : Coll := { cl with members := [{ m with copied := true }] }

section
variable {s : State} {cl : Coll} {m : Member} (h : LoneReduction s cl m)
include h

theorem LoneReduction.known_copied : collOf (putColl s (loneCopied cl m)) cl.q cl.seq = some (loneCopied cl m) :=
  collOf_putColl (cl := loneCopied cl m) h.known

/-- Its source stands in its destination already. -/
theorem ownCopy_lone : ownCopy s cl 0 = putColl s (loneCopied cl m) := by
  have kept : ownPart cl 0 = none := if_pos (.inl (by rw [memberAt_lone h.members]; exact h.inPlace))
  have copied : modMember cl 0 (fun y => { y with copied := true }) = loneCopied cl m := by simp [modMember, loneCopied, h.members]
  simp only [ownCopy, kept, h.known, Option.getD_some, copied]

/-- It has nothing left to confirm, and its package is the only one. -/
theorem confirmStep_lone (u : State) (hn : ownNode u = ownNode s) : confirmStep u (loneCopied cl m) =
    sealPackage (putColl u { loneCopied cl m with confirmSent := true, passEnded := true }) (loneCopied cl m) := by
  obtain ⟨-, -, unsent⟩ := h.fresh
  have mem : (loneCopied cl m).members = [{ m with copied := true }] := rfl
  have all : allConfirmed u (loneCopied cl m) = true := by
    simp [allConfirmed, ownMembers_lone mem (s := u) (h.own.trans hn.symm), memberAt_lone mem, joinsDone, claims_lone mem, h.ended]
  have waits : ¬ (!allConfirmed u (loneCopied cl m) || (loneCopied cl m).confirmSent) = true := by simp [all, show (loneCopied cl m).confirmSent = false from unsent]
  have lone : (packagesOf (loneCopied cl m)).length ≤ 1 := by simp [packagesOf_lone mem]
  rw [confirmStep, if_neg waits, if_pos lone]

/-- The start of such a reduction leads to its seal at once (R393, R406). -/
theorem collAdvance_lone : collAdvance s cl.q cl.seq =
    sealPackage (putColl (putColl s (loneCopied cl m)) { loneCopied cl m with confirmSent := true, passEnded := true }) (loneCopied cl m) := by
  obtain ⟨live, joins, -⟩ := h.fresh
  obtain ⟨e, entry, opened, attempt⟩ := h.entry
  have mem : (loneCopied cl m).members = [{ m with copied := true }] := rfl
  have guard : ¬ (e.st ≠ .opened ∨ e.attempt ≠ cl.attempt) := not_or.mpr ⟨not_not_intro opened, not_not_intro attempt⟩
  have own (u : State) (hu : ownNode u = ownNode s) : ownMembers u cl = [0] := ownMembers_lone h.members (h.own.trans hu.symm)
  have posts : postAll cl.q cl.seq 0 16 (putColl s (loneCopied cl m)) = putColl s (loneCopied cl m) :=
    postAll_of_nil (cl := loneCopied cl m) h.known_copied (recvPlan_lone mem h.op 0) 16
  have sends : sendAll cl.q cl.seq 0 64 (putColl s (loneCopied cl m)) = putColl s (loneCopied cl m) :=
    sendAll_of_nil (cl := loneCopied cl m) h.known_copied (sendPlan_lone mem h.op 0) 64
  have ends : endMembers (putColl s (loneCopied cl m)) (loneCopied cl m) = putColl s (loneCopied cl m) := by
    rw [endMembers_ended (by simp [mem, h.ended])]
    exact putColl_putColl s rfl rfl
  have uncopied : ¬ (memberAt cl 0).copied = true := by rw [memberAt_lone h.members, h.uncopied]; exact Bool.false_ne_true
  have noJoins : (loneCopied cl m).joins = [] := joins
  have advances : collAdvance s cl.q cl.seq = confirmStep (putColl s (loneCopied cl m)) (loneCopied cl m) := by
    unfold collAdvance
    simp only [h.known, entry, live, Option.isSome_none, Bool.false_eq_true, if_false, if_neg guard, own s rfl, own (putColl s (loneCopied cl m)) rfl,
      List.foldl_cons, List.foldl_nil, if_neg uncopied, ownCopy_lone h, posts, sends, claims_lone h.members, h.known_copied, noJoins, ends]
  exact advances.trans (confirmStep_lone h _ rfl)

/-- Its package is sealed, and beside the seal only the records of the collective and of its command change. -/
theorem LoneReduction.seals : Sealed s (collAdvance s cl.q cl.seq) cl ∧ RegsBut s (collAdvance s cl.q cl.seq) [.cumCtr 7] ∧
    (collAdvance s cl.q cl.seq).dev = s.dev ∧ (collAdvance s cl.q cl.seq).cores = s.cores := by
  obtain ⟨e, entry, opened, attempt⟩ := h.entry
  rw [collAdvance_lone h]
  obtain ⟨⟨sealed, count, flight⟩, regs⟩ := sealPackage_seals (cl := loneCopied cl m)
    (s := putColl (putColl s (loneCopied cl m)) { loneCopied cl m with confirmSent := true, passEnded := true }) entry opened attempt
  exact ⟨⟨sealed, count, flight⟩, regs, by rw [sealPackage_frame]; rfl, by rw [sealPackage_frame]; rfl⟩

end

/-! ## Its start (R391, R408) -/

/-- The collective of a command with one member, whose descriptor names both its source and its destination. -/
def loneColl (s : State) (q : Nat) (c : CmdRec) (e : Nat × Nat × Word64 × Word64) (a : BitVec 1024) : Coll where
  q := q
  seq := c.seq
  ref := cmdWord c 0x48
  attempt := BitVec.ofNat 8 (cmdFld c 0x50 32 8)
  op := cmdFld c 0x50 16 4
  fmt := (fmtOfCode (BitVec.ofNat 4 (cmdFld c 0x50 20 4))).getD .f32
  width := cmdFld c 0x50 25 4 + 1
  root := cmdFld c 0x50 40 16
  num := cmdWord c 0x58
  timeoutUs := cmdFld c 0x60 0 32
  elems := collElems (cmdFld c 0x50 16 4) (parseDesc a) (parseDesc a)
  members := [{ node := BitVec.ofNat 16 (nfld e.1 48 16), unit := BitVec.ofNat 12 (nfld e.1 36 12), src := a, dst := a, sinceNs := s.localNs, copied := false }]
  progressNs := s.localNs

/-- A collective alone in the table, its entry open and its command begun. -/
def collOpened (s : State) (cl : Coll) : State :=
  modFlight { s with coll := { s.coll with
      entries := (s.coll.entries.filter fun e => decide (e.ref ≠ cl.ref)) ++ [{ ref := cl.ref, attempt := cl.attempt, openNs := s.localNs }]
      colls := [cl] } }
    cl.q cl.seq fun f => { f with begun := true, launched := [], kindBlk := BitVec.ofNat 128 (cl.slots * 2 ^ 32) }

theorem collStart_lone {s : State} {q : Nat} {f : Flight} {e : Nat × Nat × Word64 × Word64} {a : BitVec 1024} (hc : s.coll.colls = [])
    (hw : wantsClaim f.cmd = false) (hn : collElems (cmdFld f.cmd 0x50 16 4) (parseDesc a) (parseDesc a) ≠ 0) :
    collStart s q f [e] [(0, a, a)] = collAdvance (collOpened s (loneColl s q f.cmd e a)) q f.cmd.seq := by
  simp only [collStart, hc, hw, if_neg hn, decide_eq_false hn, Bool.false_and, Bool.false_eq_true, if_false, List.length_singleton, if_true,
    List.filter_nil, List.nil_append]
  rfl

/-- A collective that is opened is known, and its entry is open. -/
theorem collOpened_known (s : State) (cl : Coll) : collOf (collOpened s cl) cl.q cl.seq = some cl ∧
    ∃ e, entryOf (collOpened s cl) cl.ref = some e ∧ e.st = .opened ∧ e.attempt = cl.attempt := by
  have others : (s.coll.entries.filter fun e => decide (e.ref ≠ cl.ref)).find? (fun (e : SealEntry) => decide (e.ref = cl.ref)) = none :=
    List.find?_eq_none.mpr fun e he => by simpa using (List.mem_filter.mp he).2
  refine ⟨?_, { ref := cl.ref, attempt := cl.attempt, openNs := s.localNs }, ?_, rfl, rfl⟩
  · show [cl].find? _ = _
    simp
  · show ((s.coll.entries.filter fun (e : SealEntry) => decide (e.ref ≠ cl.ref)) ++ [_]).find? _ = _
    rw [List.find?_append, others]
    simp

theorem loneReduction_loneColl {s : State} {q : Nat} {c : CmdRec} {e : Nat × Nat × Word64 × Word64} {a : BitVec 1024}
    (hn : BitVec.ofNat 16 (nfld e.1 48 16) = ownNode s) (ho : cmdFld c 0x50 16 4 ≤ 1) :
    ∃ m, LoneReduction (collOpened s (loneColl s q c e a)) (loneColl s q c e a) m := by
  obtain ⟨known, entry⟩ := collOpened_known s (loneColl s q c e a)
  exact ⟨_, known, entry, rfl, hn, rfl, rfl, rfl, ho, rfl, rfl, rfl⟩

/-- The one entry of a list that has a local member names this package. -/
theorem node_of_localMembers {s : State} {e : Nat × Nat × Word64 × Word64} {raws : List (BitVec 1024)} {x : Nat × BitVec 1024 × BitVec 1024}
    (h : localMembers s [e] raws = [x]) : BitVec.ofNat 16 (nfld e.1 48 16) = ownNode s := by
  by_cases node : nfld e.1 48 16 = (ownNode s).toNat
  · rw [node, BitVec.ofNat_toNat, BitVec.setWidth_eq]
  · simp [localMembers, localEntries, node] at h

/-- From s to t a reduction of one member in place is sealed at once, and its command is done (R393, R406). -/
theorem collStart_seals {s : State} {q : Nat} {f : Flight} {e : Nat × Nat × Word64 × Word64} {a : BitVec 1024} (hc : s.coll.colls = [])
    (hw : wantsClaim f.cmd = false) (hz : collElems (cmdFld f.cmd 0x50 16 4) (parseDesc a) (parseDesc a) ≠ 0)
    (hn : BitVec.ofNat 16 (nfld e.1 48 16) = ownNode s) (ho : cmdFld f.cmd 0x50 16 4 ≤ 1) :
    let t := collStart s q f [e] [(0, a, a)]
    Sealed s t (loneColl s q f.cmd e a) ∧ RegsBut s t [.cumCtr 7] ∧ t.dev = s.dev ∧ t.cores = s.cores := by
  obtain ⟨m, lone⟩ := loneReduction_loneColl (q := q) (c := f.cmd) (a := a) hn ho
  obtain ⟨⟨entry, count, flight⟩, regs, dev, cores⟩ := lone.seals
  intro t
  have start : t = collAdvance (collOpened s (loneColl s q f.cmd e a)) q f.cmd.seq := collStart_lone hc hw hz
  rw [start]
  refine ⟨⟨entry, count, fun g hg => ?_⟩, regs, dev, cores⟩
  have begun : flightOf (collOpened s (loneColl s q f.cmd e a)) q f.cmd.seq = some _ := flightOf_modFlight (s := { s with coll := _ }) hg fun _ => rfl
  obtain ⟨h, found, done, status⟩ := flight _ begun
  exact ⟨h, found, done, status⟩

/-! ## The report of a COLLECTIVE (R416, R417) -/

/-- Whole µs, as far as 32 bits hold them. -/
def reportUs (ns : Nat) : Nat := min (ns / 1000) (2 ^ 32 - 1)

/-- The reason of its taint that the kind block names. -/
def reportReason (s : State) (cl : Coll) : Nat :=
  match entryOf s cl.ref with | some e => if e.attempt = cl.attempt then e.reason.toNat else 0 | none => 0

/-- The kind block of a COLLECTIVE that is done: chunks, slots, reason, WAIT_US and CAP_US. -/
def collKindBlk (s : State) (cl : Coll) (f : Flight) : BitVec 128 :=
  BitVec.ofNat 128 (fields [(0, cl.checked % 2 ^ 32), (32, nfld f.kindBlk.toNat 32 13), (48, reportReason s cl), (64, reportUs cl.waitNs), (96, reportUs cl.capNs)])

theorem reportReason_lt (s : State) (cl : Coll) : reportReason s cl < 2 ^ 16 := by
  unfold reportReason
  split
  · split
    · exact BitVec.isLt _
    · decide
  · decide

/-- What the fields of a kind block read. -/
theorem kindBlk_fields (a b r w c : Nat) (hb : b < 2 ^ 13) (hr : r < 2 ^ 16) (hw : w < 2 ^ 32) (hc : c < 2 ^ 32) :
    let k : BitVec 128 := BitVec.ofNat 128 (fields [(0, a % 2 ^ 32), (32, b), (48, r), (64, w), (96, c)])
    k.extractLsb' 0 32 = BitVec.ofNat 32 a ∧ k.extractLsb' 32 13 = BitVec.ofNat 13 b ∧ k.extractLsb' 64 32 = BitVec.ofNat 32 w ∧
      k.extractLsb' 96 32 = BitVec.ofNat 32 c := by
  intro k
  have value : k.toNat = a % 2 ^ 32 + 2 ^ 32 * b + 2 ^ 48 * r + 2 ^ 64 * w + 2 ^ 96 * c := by
    simp only [k, fields, BitVec.toNat_ofNat]
    omega
  refine ⟨?_, ?_, ?_, ?_⟩
  all_goals
    apply BitVec.eq_of_toNat_eq
    rw [BitVec.extractLsb'_toNat, value, Nat.shiftRight_eq_div_pow, BitVec.toNat_ofNat]
    omega

theorem collKindBlk_fields (s : State) (cl : Coll) (f : Flight) : let k := collKindBlk s cl f
    k.extractLsb' 0 32 = BitVec.ofNat 32 cl.checked ∧ k.extractLsb' 32 13 = f.kindBlk.extractLsb' 32 13 ∧
      k.extractLsb' 64 32 = BitVec.ofNat 32 (reportUs cl.waitNs) ∧ k.extractLsb' 96 32 = BitVec.ofNat 32 (reportUs cl.capNs) := by
  have us (ns : Nat) : reportUs ns < 2 ^ 32 := by unfold reportUs; omega
  have slots : f.kindBlk.extractLsb' 32 13 = BitVec.ofNat 13 (nfld f.kindBlk.toNat 32 13) := by
    apply BitVec.eq_of_toNat_eq
    rw [BitVec.extractLsb'_toNat, Nat.shiftRight_eq_div_pow, BitVec.toNat_ofNat, nfld, Nat.mod_mod]
  rw [slots]
  exact kindBlk_fields _ _ _ _ _ (Nat.mod_lt _ (by decide)) (reportReason_lt s cl) (us _) (us _)

theorem collReport_collective {s : State} {q : Nat} {f : Flight} {cl : Coll} (hk : collOf s q f.cmd.seq = some cl) (hb : f.begun = true)
    (hc : cmdKind f.cmd = 5) : collReport s q f = rbump (modFlight s q f.cmd.seq fun x => { x with kindBlk := collKindBlk s cl x })
      (.cumPartWait (qPart s q)) (reportUs cl.waitNs) := by
  have begun : ¬ ((!f.begun) = true ∨ cmdKind f.cmd ≠ 0x05) := by simp [hb, hc]
  simp only [collReport, hk, if_neg begun]
  rfl

theorem releaseClaim_frame (s : State) (q : Nat) (seq : Word32) :
    releaseClaim s q seq = { s with regs := (releaseClaim s q seq).regs, coll := (releaseClaim s q seq).coll } ∧
      RegsBut s (releaseClaim s q seq) [.cumCtr 9] := by
  unfold releaseClaim
  split
  · exact ⟨rfl, .refl s _⟩
  · next cl _ => exact ⟨rfl, rbump_regs (putColl s { cl with slots := 0, retire := [] }) cl.retire.length (by simp)⟩

theorem queueOf_releaseClaim (s : State) (q k : Nat) (seq : Word32) : queueOf (releaseClaim s q seq) k = queueOf s k := by
  rw [(releaseClaim_frame s q seq).1]
  rfl

/-- The signals of a command reach its counters only (R333). -/
theorem applySignals_frame (s : State) (c : CmdRec) (st : Status) :
    applySignals s c st = { s with evt := (applySignals s c st).evt, evtFault := (applySignals s c st).evtFault } := by
  unfold applySignals
  induction upto 0 (min 2 (cmdNsig c)) generalizing s with
  | nil => rfl
  | cons i l ih =>
    have one : ∃ e m, (if succeeds st then evtAdd s (sigCtr c i) (BitVec.ofNat 64 (sigInc c i)) else evtSetMark s (sigCtr c i) st) =
        { s with evt := e, evtFault := m } := by
      split
      · exact ⟨_, _, rfl⟩
      · unfold evtSetMark
        split
        · exact ⟨_, _, rfl⟩
        · exact ⟨_, _, rfl⟩
    obtain ⟨e, m, one⟩ := one
    rw [List.foldl_cons, one]
    exact ih _

/-- A queue that stops keeps its commands in flight (R328). -/
theorem flight_stopQueue (s : State) (q : Nat) (st : Status) : (queueOf (stopQueue s q st) q).flight = (queueOf s q).flight := by
  simp [stopQueue, modQueue]

theorem rget_stopQueue (s : State) (q : Nat) (st : Status) (r : Reg) : rget (stopQueue s q st) r = rget s r := rfl

/-- The state before the signals of a command are applied: what it holds is free, its report is written, and its claim is given up. -/
def claimReleased (s : State) (q : Nat) (f : Flight) : State := releaseClaim (collReport (released s q f) q f) q f.cmd.seq

/-- The state after. -/
def signalsApplied (s : State) (q : Nat) (f : Flight) : State :=
  modFlight (applySignals (claimReleased s q f) f.cmd (flightStatus f)) q f.cmd.seq signalsSent

/-- Step 2 of R324 ends with the stop of the queue where the command failed. -/
theorem finishWork_eq (s : State) (q : Nat) (f : Flight) : finishWork s q f =
    if succeeds (flightStatus f) || decide (flightStatus f = .cancelled) then signalsApplied s q f
    else stopQueue (signalsApplied s q f) q (flightStatus f) := rfl

theorem flight_finishWork (s : State) (q : Nat) (f : Flight) :
    (queueOf (finishWork s q f) q).flight = (queueOf (signalsApplied s q f) q).flight := by
  rw [finishWork_eq]
  split
  · rfl
  · exact flight_stopQueue _ _ _

theorem rget_finishWork (s : State) (q : Nat) (f : Flight) (r : Reg) : rget (finishWork s q f) r = rget (signalsApplied s q f) r := by
  rw [finishWork_eq]
  split
  · rfl
  · exact rget_stopQueue _ _ _ r

section
variable {s : State} {q : Nat} {f : Flight} {cl : Coll} (hk : collOf s q f.cmd.seq = some cl) (hb : f.begun = true) (hc : cmdKind f.cmd = 5)

/-- The record of a COLLECTIVE whose signals are applied: its kind block is its report. -/
def reported (s : State) (cl : Coll) (x : Flight) : Flight := signalsSent { x with kindBlk := collKindBlk s cl x }

include hk hb hc

/-- Before its signals are applied a COLLECTIVE's report stands in its record, and its WAIT_US in the waits of the partition. -/
theorem claimReleased_collective : let u := claimReleased s q f
    (queueOf u q).flight = ((queueOf s q).flight.map fun x => if x.cmd.seq = f.cmd.seq then { x with kindBlk := collKindBlk s cl x } else x) ∧
      rget u (.cumPartWait (qPart s q)) = rget s (.cumPartWait (qPart s q)) + BitVec.ofNat 64 (reportUs cl.waitNs) := by
  have frame := released_frame s q f
  have known : collOf (released s q f) q f.cmd.seq = some cl := by rw [frame]; exact hk
  have part : qPart (released s q f) q = qPart s q := by rw [frame]; rfl
  have block (x : Flight) : collKindBlk (released s q f) cl x = collKindBlk s cl x := by rw [frame]; rfl
  have queue : queueOf (released s q f) q = queueOf s q := by rw [frame]; rfl
  have reg : ∀ r, rget (released s q f) r = rget s r := fun r => by rw [frame]; rfl
  have report := collReport_collective known hb hc
  obtain ⟨-, kept⟩ := releaseClaim_frame (collReport (released s q f) q f) q f.cmd.seq
  have apart : regOffset (.cumPartWait (qPart s q)) ≠ regOffset (.cumCtr 9) := by simp only [regOffset]; omega
  unfold claimReleased
  refine ⟨?_, ?_⟩
  · rw [queueOf_releaseClaim, report, queueOf_rbump, (modFlight_is _ q _ _).1.1, queue]
    simp only [block]
  · rw [kept _ (by simpa using apart), report, part, rget_rbump_same]
    exact congrArg (· + _) (reg _)

/-- Step 2 writes the report of a COLLECTIVE into its record, and adds its WAIT_US to those of the partition (R324, R416, R417). -/
theorem finishWork_collective : let t := finishWork s q f
    (queueOf t q).flight = ((queueOf s q).flight.map fun x => if x.cmd.seq = f.cmd.seq then reported s cl x else x) ∧
      rget t (.cumPartWait (qPart s q)) = rget s (.cumPartWait (qPart s q)) + BitVec.ofNat 64 (reportUs cl.waitNs) := by
  obtain ⟨flight, wait⟩ := claimReleased_collective hk hb hc
  have signals := applySignals_frame (claimReleased s q f) f.cmd (flightStatus f)
  have queue : queueOf (applySignals (claimReleased s q f) f.cmd (flightStatus f)) q = queueOf (claimReleased s q f) q := by rw [signals]; rfl
  have count : ∀ r, rget (signalsApplied s q f) r = rget (claimReleased s q f) r := fun r => by rw [signalsApplied, signals]; rfl
  have list : (queueOf (signalsApplied s q f) q).flight =
      ((queueOf s q).flight.map fun x => if x.cmd.seq = f.cmd.seq then reported s cl x else x) := by
    rw [signalsApplied, (modFlight_is _ q _ _).1.1, queue, flight, List.map_map]
    refine List.map_congr_left fun x _ => ?_
    by_cases here : x.cmd.seq = f.cmd.seq <;> simp [here, reported]
  exact ⟨(flight_finishWork s q f).trans list, (rget_finishWork s q f _).trans ((count _).trans wait)⟩

end

/-- A command that is done and is not the oldest of its queue applies its signals, and its record waits (R324). -/
theorem exec_commandFinish_behind {s : State} {q : Fin 4096} {seq : Word32} {f g : Flight} {rest : List Flight}
    (hf : flightOf s q.val seq = some f) (hd : f.done = true) (hh : stewardsHalted s f.cmd = false) (hn : f.signalled = false)
    (hq : (queueOf (finishWork s q.val f) q.val).flight = g :: rest) (hg : g.cmd.seq ≠ seq) :
    exec (.commandFinish q seq) s = .next (finishWork s q.val f) := by
  show execCommandFinish q seq s = _
  rw [execCommandFinish, hf]
  simp only [hd, hh, hn, hq, hg, Bool.not_true, Bool.or_self, Bool.false_eq_true, if_false, false_and]

/-! ## The statement -/

/-- Settles O34: the turn and the checks, the start of a reduction of one member (`LoneReduction.seals`), and the report (`finishWork_collective`). -/
theorem collectiveCommand : Obligations.CollectiveCommand := by
  unfold Obligations.CollectiveCommand
  intro s q seq f es raws ref op mine ms
  refine ⟨fun hf hb hd hh => exec_collective_waits hf hb hd hh, fun hf hb ht hn hl => ⟨fun st hc => ends_only (exec_collective_bodyFails hf hb ht hn hl hc),
    fun hc hd hm ho => ?_⟩, fun cl g0 rest hf hk hd hb hs hc _ hh hq hg => ?_⟩
  · have start := exec_collective_starts hf hb ht hn hl hc hd hm ho
    refine ⟨start, fun a e hes hms hop hz _ _ hcs hst hcum => ?_⟩
    subst hes
    have lone : localMembers s [e] raws = [(0, a, a)] := hms
    have unclaimed : wantsClaim f.cmd = false := by simp [wantsClaim, hcum]
    obtain ⟨⟨⟨x, entry, st, attempt⟩, count, flight⟩, regs, dev, cores⟩ := collStart_seals (q := q.val) hcs unclaimed hz (node_of_localMembers lone) hop
    have ended (g : Flight) (hg : flightOf s q.val seq = some g) : ∃ h, flightOf (collStart s q.val f [e] [(0, a, a)]) q.val seq = some h ∧
        h.done = true ∧ h.status = .success := by
      obtain rfl : g = f := Option.some.inj (hg.symm.trans (flightOf_of_workOf hf))
      obtain rfl : g.cmd.seq = seq := workOf_seq hf
      obtain ⟨h, found, done, status⟩ := flight g hg
      exact ⟨h, found, done, status.trans hst⟩
    have tries : x.attempt.toNat = cmdFld f.cmd 0x50 32 8 := by
      rw [attempt]
      exact Nat.mod_eq_of_lt (Nat.mod_lt _ (by decide))
    exact ⟨_, x, start.trans (by rw [lone]), entry, st, tries, count, regs, dev, cores, ended⟩
  · obtain rfl : f.cmd.seq = seq := flightOf_seq hf
    obtain ⟨flight, wait⟩ := finishWork_collective hk hb hc
    have head : (queueOf (finishWork s q.val f) q.val).flight = g0 :: rest.map fun x => if x.cmd.seq = f.cmd.seq then reported s cl x else x := by
      rw [flight, hq, List.map_cons, if_neg hg]
    have record : flightOf (finishWork s q.val f) q.val f.cmd.seq = some (reported s cl f) := by
      rw [flightOf, flight]
      refine (find?_map_kept hf fun x => ?_).trans (congrArg some (if_pos rfl))
      split
      · rfl
      · rfl
    obtain ⟨chunks, slots, waitUs, capUs⟩ := collKindBlk_fields s cl f
    exact ⟨_, reported s cl f, exec_commandFinish_behind hf hd hh hs head hg, record, rfl, chunks, slots, waitUs, capUs, wait⟩

end Sys2Proof.Machine
end
